-- ==== Sys2Proof/Syntax.lean ====
section
/-! DEFINITION. The instruction set as syntax: one constructor for each row of the opcode table. The first 231
constructors are words (spec/02_encoding_and_assembler.md R32, R40), with the word's variable fields as bit vectors, named
by the letters of the opcode table; the other 93 are the indivisible steps of the part's other agents, with the data that
reaches the step from outside. -/
namespace Sys2Proof

/-- What the physics of the array does to one matrix operation while it runs (R313, R319): nothing, a residue mismatch
in one of its multipliers, an uncorrectable error of one plane column, or one of a word of the accumulator slot that it names (R307). -/
inductive EngineUpset where
  | clean
  | residue (column : Nat)
  | planeEcc (column : Nat)
  | accEcc (row column : Nat)
deriving DecidableEq, Repr

/-- The registers of a function's configuration space that R461 and R462 name: the base addresses, the MSI-X control word, and what the part
offers. -/
inductive CfgReg where
  | bar0
  | bar2
  | msixControl
  | totalVfs
  | maxPayload
  | maxReadRequest
  | tagBits
deriving DecidableEq, Repr

/-- What a register write of the host reaches of a function (R6): a control register through its BAR0, in a request with the T bit or without
(R445, R453); bytes of its slice-map block through BAR2 (R440); a register of its configuration space (R461). -/
inductive HostReg where
  | control (n : BitVec 12) (tee : Bool)
  | map (off size : Nat)
  | config (r : CfgReg)
deriving DecidableEq, Repr

/-- What a link packet asks for (R467, R470): a read, a write, or an atomic by the number of its operation (R252). -/
inductive LinkOp where
  | read
  | write
  | atomic (y : BitVec 4)
deriving DecidableEq, Repr

/-- What a link packet holds beside the request's source, place and operation (R470): the destination device, the counter of the nonce, the
issuing participant, the size and the data of the text that it is the seal of, and the cipher text with the tag. -/
structure LinkBody where
  dst : Nat
  counter : BitVec 64
  part : Nat
  size : Nat
  data : List (BitVec 8)
  sealed : List (BitVec 8)
deriving DecidableEq, Repr

/-- A link packet with a request (R467, R470): the enclave slot, the source device, the epoch, the IA and the operation, beside its body. -/
structure LinkPacket extends LinkBody where
  slot : Nat
  src : Nat
  epoch : BitVec 8
  ia : BitVec 48
  op : LinkOp
deriving DecidableEq, Repr

/-- One constructor for each row of the opcode table. -/
inductive Instr where
  /-- R37. Prefix word giving the following instruction its lane mask, merge or zero policy, rounding mode, fourth operand and byte select. -/
  | pfx (k : BitVec 3) (z : BitVec 1) (r : BitVec 3) (c : BitVec 7) (x : BitVec 3)
  /-- R39. Long-immediate prefix word that extends the immediate of the following I-, B- or S-format instruction. -/
  | limm (i : BitVec 25)
  /-- R79. 32-bit add modulo 2^32. -/
  | iadd (n : BitVec 1) (d : BitVec 7) (a : BitVec 7) (b : BitVec 7)
  /-- R79. 32-bit subtract modulo 2^32. -/
  | isub (n : BitVec 1) (d : BitVec 7) (a : BitVec 7) (b : BitVec 7)
  /-- R79. Signed saturating add. -/
  | iadds (n : BitVec 1) (d : BitVec 7) (a : BitVec 7) (b : BitVec 7)
  /-- R79. Signed saturating subtract. -/
  | isubs (n : BitVec 1) (d : BitVec 7) (a : BitVec 7) (b : BitVec 7)
  /-- R79. Unsigned saturating add. -/
  | iaddns (n : BitVec 1) (d : BitVec 7) (a : BitVec 7) (b : BitVec 7)
  /-- R79. Unsigned saturating subtract. -/
  | isubns (n : BitVec 1) (d : BitVec 7) (a : BitVec 7) (b : BitVec 7)
  /-- R79. 64-bit add of register pairs. -/
  | iadd64 (n : BitVec 1) (d : BitVec 7) (a : BitVec 7) (b : BitVec 7)
  /-- R79. 64-bit subtract of register pairs. -/
  | isub64 (n : BitVec 1) (d : BitVec 7) (a : BitVec 7) (b : BitVec 7)
  /-- R80. Low 32 bits of a product. -/
  | imul (n : BitVec 1) (d : BitVec 7) (a : BitVec 7) (b : BitVec 7)
  /-- R80. High 32 bits of a signed product. -/
  | imulh (n : BitVec 1) (d : BitVec 7) (a : BitVec 7) (b : BitVec 7)
  /-- R80. High 32 bits of an unsigned product. -/
  | imulhn (n : BitVec 1) (d : BitVec 7) (a : BitVec 7) (b : BitVec 7)
  /-- R80. Multiply-add with the fourth operand from PFX, modulo 2^32. -/
  | imad (n : BitVec 1) (d : BitVec 7) (a : BitVec 7) (b : BitVec 7)
  /-- R81. Signed division truncating toward zero; never traps. -/
  | idiv (n : BitVec 1) (d : BitVec 7) (a : BitVec 7) (b : BitVec 7)
  /-- R81. Unsigned division. -/
  | idivn (n : BitVec 1) (d : BitVec 7) (a : BitVec 7) (b : BitVec 7)
  /-- R81. Signed remainder with the sign of the dividend. -/
  | irem (n : BitVec 1) (d : BitVec 7) (a : BitVec 7) (b : BitVec 7)
  /-- R81. Unsigned remainder. -/
  | iremn (n : BitVec 1) (d : BitVec 7) (a : BitVec 7) (b : BitVec 7)
  /-- R82. Signed minimum. -/
  | imin (n : BitVec 1) (d : BitVec 7) (a : BitVec 7) (b : BitVec 7)
  /-- R82. Signed maximum. -/
  | imax (n : BitVec 1) (d : BitVec 7) (a : BitVec 7) (b : BitVec 7)
  /-- R82. Unsigned minimum. -/
  | iminn (n : BitVec 1) (d : BitVec 7) (a : BitVec 7) (b : BitVec 7)
  /-- R82. Unsigned maximum. -/
  | imaxn (n : BitVec 1) (d : BitVec 7) (a : BitVec 7) (b : BitVec 7)
  /-- R82. Absolute value modulo 2^32. -/
  | iabs (n : BitVec 1) (d : BitVec 7) (a : BitVec 7)
  /-- R82. Negation modulo 2^32. -/
  | ineg (n : BitVec 1) (d : BitVec 7) (a : BitVec 7)
  /-- R83. Bitwise and. -/
  | andW (n : BitVec 1) (d : BitVec 7) (a : BitVec 7) (b : BitVec 7)
  /-- R83. Bitwise or. -/
  | orW (n : BitVec 1) (d : BitVec 7) (a : BitVec 7) (b : BitVec 7)
  /-- R83. Bitwise exclusive or. -/
  | xorW (n : BitVec 1) (d : BitVec 7) (a : BitVec 7) (b : BitVec 7)
  /-- R83. a and not b. -/
  | andn (n : BitVec 1) (d : BitVec 7) (a : BitVec 7) (b : BitVec 7)
  /-- R83. a or not b. -/
  | orn (n : BitVec 1) (d : BitVec 7) (a : BitVec 7) (b : BitVec 7)
  /-- R83. Bitwise exclusive nor. -/
  | xnor (n : BitVec 1) (d : BitVec 7) (a : BitVec 7) (b : BitVec 7)
  /-- R83. Copies a value together with its poison bit. -/
  | mov (n : BitVec 1) (d : BitVec 7) (a : BitVec 7)
  /-- R84. Logical shift left by b[4:0]. -/
  | shl (n : BitVec 1) (d : BitVec 7) (a : BitVec 7) (b : BitVec 7)
  /-- R84. Logical shift right. -/
  | shr (n : BitVec 1) (d : BitVec 7) (a : BitVec 7) (b : BitVec 7)
  /-- R84. Arithmetic shift right. -/
  | sar (n : BitVec 1) (d : BitVec 7) (a : BitVec 7) (b : BitVec 7)
  /-- R84. Rotate left. -/
  | rol (n : BitVec 1) (d : BitVec 7) (a : BitVec 7) (b : BitVec 7)
  /-- R84. Rotate right. -/
  | ror (n : BitVec 1) (d : BitVec 7) (a : BitVec 7) (b : BitVec 7)
  /-- R84. Funnel shift left of a:c. -/
  | fshl (n : BitVec 1) (d : BitVec 7) (a : BitVec 7) (b : BitVec 7)
  /-- R84. Funnel shift right of c:a. -/
  | fshr (n : BitVec 1) (d : BitVec 7) (a : BitVec 7) (b : BitVec 7)
  /-- R85. Population count. -/
  | popc (n : BitVec 1) (d : BitVec 7) (a : BitVec 7)
  /-- R85. Count leading zeros. -/
  | clz (n : BitVec 1) (d : BitVec 7) (a : BitVec 7)
  /-- R85. Count trailing zeros. -/
  | ctz (n : BitVec 1) (d : BitVec 7) (a : BitVec 7)
  /-- R85. Bit reversal. -/
  | brev (n : BitVec 1) (d : BitVec 7) (a : BitVec 7)
  /-- R86. 64-bit address formation with a signed register index shifted by fn. -/
  | lea64 (n : BitVec 1) (s : BitVec 3) (d : BitVec 7) (a : BitVec 7) (b : BitVec 7)
  /-- R87. Add immediate. -/
  | addi (d : BitVec 7) (a : BitVec 7) (i : BitVec 11)
  /-- R87. And immediate. -/
  | andi (d : BitVec 7) (a : BitVec 7) (i : BitVec 11)
  /-- R87. Or immediate. -/
  | ori (d : BitVec 7) (a : BitVec 7) (i : BitVec 11)
  /-- R87. Exclusive-or immediate. -/
  | xori (d : BitVec 7) (a : BitVec 7) (i : BitVec 11)
  /-- R88. Shift left by an immediate count. -/
  | shli (d : BitVec 7) (a : BitVec 7) (c : BitVec 5)
  /-- R88. Logical shift right by an immediate count. -/
  | shri (d : BitVec 7) (a : BitVec 7) (c : BitVec 5)
  /-- R88. Arithmetic shift right by an immediate count. -/
  | sari (d : BitVec 7) (a : BitVec 7) (c : BitVec 5)
  /-- R87. Move immediate. -/
  | movi (d : BitVec 7) (i : BitVec 11)
  /-- R87. 64-bit add immediate to a pair. -/
  | addi64 (d : BitVec 7) (a : BitVec 7) (i : BitVec 11)
  /-- R89. 64-bit address formation with an immediate index and shift. -/
  | lea64i (d : BitVec 7) (a : BitVec 7) (x : BitVec 8) (s : BitVec 3)
  /-- R90. Signed or equality integer compare into a mask. -/
  | icmp (f : BitVec 3) (k : BitVec 3) (a : BitVec 7) (b : BitVec 7)
  /-- R90. Unsigned integer compare into a mask. -/
  | icmpN (f : BitVec 3) (k : BitVec 3) (a : BitVec 7) (b : BitVec 7)
  /-- R90. Signed or equality integer compare into a register. -/
  | icmpv (n : BitVec 1) (f : BitVec 3) (d : BitVec 7) (a : BitVec 7) (b : BitVec 7)
  /-- R90. Unsigned integer compare into a register. -/
  | icmpvN (n : BitVec 1) (f : BitVec 3) (d : BitVec 7) (a : BitVec 7) (b : BitVec 7)
  /-- R91. FP32 compare into a mask. -/
  | fcmp (f : BitVec 3) (k : BitVec 3) (a : BitVec 7) (b : BitVec 7)
  /-- R91. FP32 compare into a register. -/
  | fcmpv (n : BitVec 1) (f : BitVec 3) (d : BitVec 7) (a : BitVec 7) (b : BitVec 7)
  /-- R93. Per-lane select by the PFX mask, carrying the chosen poison. -/
  | sel (n : BitVec 1) (d : BitVec 7) (a : BitVec 7) (b : BitVec 7)
  /-- R94. Byte permute with optional sign fill. -/
  | prmb (n : BitVec 1) (d : BitVec 7) (a : BitVec 7) (b : BitVec 7)
  /-- R92. Classifies an FP32 value into one bit. -/
  | fclass (n : BitVec 1) (d : BitVec 7) (a : BitVec 7)
  /-- R95. Unsigned bit-field extract. -/
  | bfx (n : BitVec 1) (d : BitVec 7) (a : BitVec 7) (b : BitVec 7)
  /-- R95. Signed bit-field extract. -/
  | bfxs (n : BitVec 1) (d : BitVec 7) (a : BitVec 7) (b : BitVec 7)
  /-- R95. Bit-field insert into c. -/
  | bfi (n : BitVec 1) (d : BitVec 7) (a : BitVec 7) (b : BitVec 7)
  /-- R109. FP32 add. -/
  | fadd (n : BitVec 1) (d : BitVec 7) (a : BitVec 7) (b : BitVec 7)
  /-- R109. FP32 subtract. -/
  | fsub (n : BitVec 1) (d : BitVec 7) (a : BitVec 7) (b : BitVec 7)
  /-- R109. FP32 multiply. -/
  | fmul (n : BitVec 1) (d : BitVec 7) (a : BitVec 7) (b : BitVec 7)
  /-- R109. FP32 fused multiply-add with c from PFX. -/
  | ffma (n : BitVec 1) (d : BitVec 7) (a : BitVec 7) (b : BitVec 7)
  /-- R109. FP32 fused multiply-accumulate into d. -/
  | fmac (n : BitVec 1) (d : BitVec 7) (a : BitVec 7) (b : BitVec 7)
  /-- R109. FP32 minimumNumber. -/
  | fmin (n : BitVec 1) (d : BitVec 7) (a : BitVec 7) (b : BitVec 7)
  /-- R109. FP32 maximumNumber. -/
  | fmax (n : BitVec 1) (d : BitVec 7) (a : BitVec 7) (b : BitVec 7)
  /-- R109. Copies the sign of b onto a. -/
  | fcpysgn (n : BitVec 1) (d : BitVec 7) (a : BitVec 7) (b : BitVec 7)
  /-- R110. Clears the sign bit. -/
  | fabs (n : BitVec 1) (d : BitVec 7) (a : BitVec 7)
  /-- R110. Flips the sign bit. -/
  | fneg (n : BitVec 1) (d : BitVec 7) (a : BitVec 7)
  /-- R110. Rounds to an integral FP32 value by the mode. -/
  | frnd (n : BitVec 1) (d : BitVec 7) (a : BitVec 7)
  /-- R110. Correctly rounded FP32 divide. -/
  | fdiv (n : BitVec 1) (d : BitVec 7) (a : BitVec 7) (b : BitVec 7)
  /-- R110. Correctly rounded FP32 square root. -/
  | fsqrt (n : BitVec 1) (d : BitVec 7) (a : BitVec 7)
  /-- R111. Approximate reciprocal. -/
  | frcp (n : BitVec 1) (d : BitVec 7) (a : BitVec 7)
  /-- R111. Approximate reciprocal square root. -/
  | frsq (n : BitVec 1) (d : BitVec 7) (a : BitVec 7)
  /-- R111. Approximate 2^x. -/
  | fexp2 (n : BitVec 1) (d : BitVec 7) (a : BitVec 7)
  /-- R111. Approximate log2 x. -/
  | flog2 (n : BitVec 1) (d : BitVec 7) (a : BitVec 7)
  /-- R111. Approximate sine. -/
  | fsin (n : BitVec 1) (d : BitVec 7) (a : BitVec 7)
  /-- R111. Approximate cosine. -/
  | fcos (n : BitVec 1) (d : BitVec 7) (a : BitVec 7)
  /-- R111. Approximate hyperbolic tangent. -/
  | ftanh (n : BitVec 1) (d : BitVec 7) (a : BitVec 7)
  /-- R112. Packed FP16 add. -/
  | hadd2 (n : BitVec 1) (d : BitVec 7) (a : BitVec 7) (b : BitVec 7)
  /-- R112. Packed FP16 multiply. -/
  | hmul2 (n : BitVec 1) (d : BitVec 7) (a : BitVec 7) (b : BitVec 7)
  /-- R112. Packed FP16 fused multiply-add. -/
  | hfma2 (n : BitVec 1) (d : BitVec 7) (a : BitVec 7) (b : BitVec 7)
  /-- R112. Packed BF16 add. -/
  | badd2 (n : BitVec 1) (d : BitVec 7) (a : BitVec 7) (b : BitVec 7)
  /-- R112. Packed BF16 multiply. -/
  | bmul2 (n : BitVec 1) (d : BitVec 7) (a : BitVec 7) (b : BitVec 7)
  /-- R112. Packed BF16 fused multiply-add. -/
  | bfma2 (n : BitVec 1) (d : BitVec 7) (a : BitVec 7) (b : BitVec 7)
  /-- R113. FP32 to signed or unsigned INT32 by the mode. -/
  | f2i (n : BitVec 1) (u : BitVec 1) (d : BitVec 7) (a : BitVec 7)
  /-- R113. Signed or unsigned INT32 to FP32 by the mode. -/
  | i2f (n : BitVec 1) (u : BitVec 1) (d : BitVec 7) (a : BitVec 7)
  /-- R114. Two FP32 values to a packed FP16 pair. -/
  | fcvtF16F32 (n : BitVec 1) (d : BitVec 7) (a : BitVec 7) (b : BitVec 7)
  /-- R114. Packed FP16 pair to two FP32 values. -/
  | fcvtF32F16 (n : BitVec 1) (d : BitVec 7) (a : BitVec 7)
  /-- R114. Two FP32 values to a packed BF16 pair. -/
  | fcvtBf16F32 (n : BitVec 1) (d : BitVec 7) (a : BitVec 7) (b : BitVec 7)
  /-- R114. Packed BF16 pair to two FP32 values. -/
  | fcvtF32Bf16 (n : BitVec 1) (d : BitVec 7) (a : BitVec 7)
  /-- R114. Run of four FP32 values to packed E4M3. -/
  | fcvtE4m3F32 (n : BitVec 1) (d : BitVec 7) (a : BitVec 7)
  /-- R114. Packed E4M3 to a run of four FP32 values. -/
  | fcvtF32E4m3 (n : BitVec 1) (d : BitVec 7) (a : BitVec 7)
  /-- R114. Run of four FP32 values to packed E5M2. -/
  | fcvtE5m2F32 (n : BitVec 1) (d : BitVec 7) (a : BitVec 7)
  /-- R114. Packed E5M2 to a run of four FP32 values. -/
  | fcvtF32E5m2 (n : BitVec 1) (d : BitVec 7) (a : BitVec 7)
  /-- R114. Run of four FP32 values to packed E2M1 nibbles. -/
  | fcvtE2m1F32 (n : BitVec 1) (d : BitVec 7) (a : BitVec 7)
  /-- R114. Packed E2M1 nibbles to a run of four FP32 values. -/
  | fcvtF32E2m1 (n : BitVec 1) (d : BitVec 7) (a : BitVec 7)
  /-- R114. Packed FP16 pair to packed BF16. -/
  | fcvtBf16F16 (n : BitVec 1) (d : BitVec 7) (a : BitVec 7)
  /-- R114. Packed BF16 pair to packed FP16. -/
  | fcvtF16Bf16 (n : BitVec 1) (d : BitVec 7) (a : BitVec 7)
  /-- R115. Decodes a selected DL8 byte to FP32. -/
  | cvtdlF32 (n : BitVec 1) (d : BitVec 7) (a : BitVec 7)
  /-- R115. Encodes FP32 to DL8 into a selected byte of b. -/
  | cvtdlDl8 (n : BitVec 1) (d : BitVec 7) (a : BitVec 7) (b : BitVec 7)
  /-- R118. Quantises blocks of eight lanes into MX elements and a shared scale. -/
  | mxq (n : BitVec 1) (f : BitVec 2) (d : BitVec 7) (a : BitVec 7)
  /-- R119. Dequantises four MX elements with a scale into FP32. -/
  | mxdq (n : BitVec 1) (f : BitVec 2) (d : BitVec 7) (a : BitVec 7) (b : BitVec 7)
  /-- R116. Four-element E4M3 or E5M2 dot product accumulated in FP32. -/
  | dot4e (n : BitVec 1) (e : BitVec 1) (d : BitVec 7) (a : BitVec 7) (b : BitVec 7)
  /-- R116. Four-element INT8 dot product accumulated in INT32. -/
  | dot4i (n : BitVec 1) (d : BitVec 7) (a : BitVec 7) (b : BitVec 7)
  /-- R116. Eight-element INT4 dot product accumulated in INT32. -/
  | dot8q (n : BitVec 1) (d : BitVec 7) (a : BitVec 7) (b : BitVec 7)
  /-- R116. Two-element BF16 dot product accumulated in FP32. -/
  | dot2b (n : BitVec 1) (d : BitVec 7) (a : BitVec 7) (b : BitVec 7)
  /-- R117. MXFP8 dot product with block scales read from scale lanes. -/
  | mxdot (n : BitVec 1) (e : BitVec 1) (d : BitVec 7) (a : BitVec 7) (b : BitVec 7)
  /-- R117. MXINT8 dot product with block scales read from scale lanes. -/
  | mxi8dot (n : BitVec 1) (d : BitVec 7) (a : BitVec 7) (b : BitVec 7)
  /-- R98. Unconditional PC-relative branch. -/
  | bra (o : BitVec 14)
  /-- R99. Conditional branch on a mask, pushing a pending entry when a quad splits. -/
  | brc (c : BitVec 1) (k : BitVec 3) (o : BitVec 14)
  /-- R100. Pushes a join entry naming the matching join. -/
  | pjn (o : BitVec 14)
  /-- R102. PC-relative call writing a link pair. -/
  | call (a : BitVec 7) (o : BitVec 14)
  /-- R102. Per-lane indirect branch through a register pair. -/
  | brx (a : BitVec 7)
  /-- R102. Per-lane indirect call writing a link pair. -/
  | callx (d : BitVec 7) (a : BitVec 7)
  /-- R102. Return through a link pair, acting as brx. -/
  | ret (a : BitVec 7)
  /-- R101. Pops the divergence stack with resume_pop. -/
  | join
  /-- R103. Ends the issuing lanes' threads and resumes deferred lanes. -/
  | exitThread
  /-- R104. Resets the group's age and earned priority. -/
  | yield
  /-- R105. Uses its issue slot and advances pc. -/
  | nop
  /-- R150. Files each issuing thread into a reform bin by its next pc. -/
  | reform (a : BitVec 7)
  /-- R106. Software trap with a 14-bit code. -/
  | trap (c : BitVec 14)
  /-- R106. Breakpoint trap with a 14-bit code. -/
  | brk (c : BitVec 14)
  /-- R156. Group vote all, any or ballot into a mask. -/
  | vote (f : BitVec 3) (k : BitVec 3) (a : BitVec 7)
  /-- R157. Finds lanes with equal values and their class leaders. -/
  | matchLanes (w : BitVec 1) (d : BitVec 7) (a : BitVec 7) (k : BitVec 3)
  /-- R158. Cross-lane shuffle by index, up, down or xor. -/
  | shfl (f : BitVec 2) (d : BitVec 7) (a : BitVec 7) (b : BitVec 7)
  /-- R158. Broadcasts one lane's value selected by the lowest run lane. -/
  | bcast (d : BitVec 7) (a : BitVec 7) (b : BitVec 7)
  /-- R159. Exact integer reduction over the run lanes. -/
  | red (f : BitVec 3) (d : BitVec 7) (a : BitVec 7)
  /-- R160. FP32 reduction over a fixed pairwise tree. -/
  | fred (f : BitVec 2) (d : BitVec 7) (a : BitVec 7)
  /-- R160. FP32 inclusive scan built from the reduction tree. -/
  | fscan (f : BitVec 2) (d : BitVec 7) (a : BitVec 7)
  /-- R159. Exact integer inclusive scan. -/
  | scan (f : BitVec 3) (d : BitVec 7) (a : BitVec 7)
  /-- R161. Transposes tiles of elements across lanes of an eight-register block. -/
  | rgt (f : BitVec 3) (d : BitVec 7)
  /-- R162. Two-operand mask logic. -/
  | kop (f : BitVec 2) (d : BitVec 3) (a : BitVec 3) (b : BitVec 3)
  /-- R162. Mask complement. -/
  | kopNot (d : BitVec 3) (a : BitVec 3)
  /-- R162. Copies a whole mask into a register pair. -/
  | kmovTor (d : BitVec 7) (a : BitVec 3)
  /-- R162. Sets mask bits from each lane's register pair. -/
  | kmovTok (d : BitVec 3) (a : BitVec 7)
  /-- R165. Arrives at a barrier slot and waits for the phase to complete. -/
  | bar (c : BitVec 10) (i : BitVec 4)
  /-- R165. Arrives at a barrier slot without waiting. -/
  | bara (c : BitVec 10) (i : BitVec 4)
  /-- R165. Waits for a barrier phase named by a ticket without arriving. -/
  | barw (a : BitVec 7) (i : BitVec 4)
  /-- R168. Sets the mask bit of the lowest run lane only. -/
  | elect (k : BitVec 3)
  /-- R169. Sets the group's register window base. -/
  | winb (b : BitVec 5)
  /-- R137. Early trigger: pkg release, marks the team triggered, ends rollback eligibility. -/
  | trig
  /-- R171. Queues a blocking claim to grow every thread's register allocation. -/
  | rclaim (n : BitVec 5)
  /-- R172. Releases the top registers of every thread back to the pool. -/
  | rrel (n : BitVec 5)
  /-- R177. Enqueues one channel entry or discards it if full. -/
  | send (c : BitVec 6) (d : BitVec 7) (a : BitVec 7) (r : BitVec 3)
  /-- R177. Enqueues one channel entry, waiting for a free slot. -/
  | sendw (c : BitVec 6) (a : BitVec 7) (r : BitVec 3)
  /-- R178. Takes the head entry of a team channel, waiting if empty. -/
  | recv (c : BitVec 6) (d : BitVec 7)
  /-- R179. Reads a channel's filled or free count. -/
  | chq (c : BitVec 6) (d : BitVec 7) (q : BitVec 1)
  /-- R247. Zero-extending byte load. -/
  | ldB (s : BitVec 2) (p : BitVec 2) (d : BitVec 7) (a : BitVec 7) (o : BitVec 5)
  /-- R247. Zero-extending halfword load. -/
  | ldH (s : BitVec 2) (p : BitVec 2) (d : BitVec 7) (a : BitVec 7) (o : BitVec 5)
  /-- R247. Sign-extending byte load. -/
  | ldsB (s : BitVec 2) (p : BitVec 2) (d : BitVec 7) (a : BitVec 7) (o : BitVec 5)
  /-- R247. Sign-extending halfword load. -/
  | ldsH (s : BitVec 2) (p : BitVec 2) (d : BitVec 7) (a : BitVec 7) (o : BitVec 5)
  /-- R247. Word load. -/
  | ldW (s : BitVec 2) (p : BitVec 2) (d : BitVec 7) (a : BitVec 7) (o : BitVec 7)
  /-- R247. Doubleword load into a pair. -/
  | ldD (s : BitVec 2) (p : BitVec 2) (d : BitVec 7) (a : BitVec 7) (o : BitVec 7)
  /-- R247. 16-byte load into a run. -/
  | ldQ (s : BitVec 2) (p : BitVec 2) (d : BitVec 7) (a : BitVec 7) (o : BitVec 7)
  /-- R248. Byte store. -/
  | stB (s : BitVec 2) (p : BitVec 2) (d : BitVec 7) (a : BitVec 7) (o : BitVec 6)
  /-- R248. Halfword store. -/
  | stH (s : BitVec 2) (p : BitVec 2) (d : BitVec 7) (a : BitVec 7) (o : BitVec 6)
  /-- R248. Word store. -/
  | stW (s : BitVec 2) (p : BitVec 2) (d : BitVec 7) (a : BitVec 7) (o : BitVec 7)
  /-- R248. Doubleword store from a pair. -/
  | stD (s : BitVec 2) (p : BitVec 2) (d : BitVec 7) (a : BitVec 7) (o : BitVec 7)
  /-- R248. 16-byte store from a run. -/
  | stQ (s : BitVec 2) (p : BitVec 2) (d : BitVec 7) (a : BitVec 7) (o : BitVec 7)
  /-- R252. 32-bit atomic returning the old value. -/
  | atom (s : BitVec 2) (r : BitVec 2) (d : BitVec 7) (a : BitVec 7) (x : BitVec 3) (y : BitVec 4)
  /-- R252. 64-bit atomic on even pairs returning the old value. -/
  | atom64 (s : BitVec 2) (r : BitVec 2) (d : BitVec 7) (a : BitVec 7) (x : BitVec 3) (y : BitVec 4)
  /-- R252. 32-bit atomic reduction returning nothing. -/
  | atr (s : BitVec 2) (r : BitVec 2) (d : BitVec 7) (a : BitVec 7) (x : BitVec 3) (y : BitVec 4)
  /-- R255. Acquire and release fence at a scope, with translation drain at pkg and sys. -/
  | fence (s : BitVec 3)
  /-- R256. Drops the team's record-cache entries before later engine issues. -/
  | fenceTl
  /-- R234. Waits for the team's scratch stores before later engine issues. -/
  | fenceOr
  /-- R257. Drops a range of lines from the core's L1. -/
  | cinv (a : BitVec 7) (l : BitVec 14)
  /-- R257. Writes dirty home-L2 lines of a range back to the stack. -/
  | cwb (a : BitVec 7) (l : BitVec 14)
  /-- R257. Invalidates a range in every instruction cache of the slice. -/
  | icinv (a : BitVec 7) (l : BitVec 14)
  /-- R250. Prefetches a line into L1 and L2 without faulting. -/
  | pref (s : BitVec 2) (p : BitVec 2) (a : BitVec 7) (o : BitVec 7)
  /-- R249. Loads one word into a uniform register. -/
  | ldg (s : BitVec 2) (p : BitVec 2) (d : BitVec 7) (a : BitVec 7) (o : BitVec 7)
  /-- R261. Checks and writes a tile-layout record from scratch. -/
  | tlw (d : BitVec 7) (a : BitVec 7) (b : BitVec 7)
  /-- R262. Reads a tile-layout record through the record cache into scratch. -/
  | tlrd (d : BitVec 7) (a : BitVec 7) (b : BitVec 7)
  /-- R262. Drops one record from the core's record cache. -/
  | tli (a : BitVec 7)
  /-- R263. Marks translation entries of a kind for invalidation. -/
  | invt (a : BitVec 7) (b : BitVec 7)
  /-- R264. Translates a VA as an access would and reports the result. -/
  | vprobe (d : BitVec 7) (a : BitVec 7) (b : BitVec 7)
  /-- R272. Bank-op: opens a row of the instance's page into a slot. -/
  | bact (s : BitVec 2) (r : BitVec 1) (e : BitVec 1) (p : BitVec 4) (i : BitVec 10)
  /-- R272. Bank-op: closes a slot, writing back a written row. -/
  | bpre (s : BitVec 2)
  /-- R272. Bank-op: moves a slot's contents to a neighbouring slot. -/
  | browsh (s : BitVec 2) (t : BitVec 2)
  /-- R272. Bank-op: copies a slot's contents to another slot. -/
  | brcpy (s : BitVec 2) (t : BitVec 2)
  /-- R273. Bank-op: reads a column into an accumulator octet. -/
  | brdc (s : BitVec 2) (c : BitVec 7) (o : BitVec 4)
  /-- R273. Bank-op: writes an accumulator octet into a column. -/
  | bwrc (s : BitVec 2) (c : BitVec 7) (o : BitVec 4)
  /-- R274. Bank-op: places a column in a TABLE slot. -/
  | bldt (t : BitVec 2) (x : BitVec 7) (s : BitVec 2) (y : BitVec 7)
  /-- R274. Bank-op: looks up 64 weight nibbles in a BF16 table and accumulates. -/
  | blut (s : BitVec 2) (x : BitVec 7) (t : BitVec 2) (y : BitVec 7)
  /-- R275. Bank-op: elementwise add, subtract, max or min of columns. -/
  | beadd (d : BitVec 2) (a : BitVec 2) (b : BitVec 2) (c : BitVec 7) (v : BitVec 2)
  /-- R275. Bank-op: elementwise fused multiply-add of columns. -/
  | befma (d : BitVec 2) (a : BitVec 2) (b : BitVec 2) (c : BitVec 7) (v : BitVec 2) (p : BitVec 4)
  /-- R275. Bank-op: elementwise scale, square, rsqrt or reciprocal by a parameter. -/
  | bescl (d : BitVec 2) (a : BitVec 2) (c : BitVec 7) (v : BitVec 2) (p : BitVec 4)
  /-- R276. Bank-op: writes an accumulator octet to the instance's output area. -/
  | bacc (n : BitVec 3) (o : BitVec 1) (i : BitVec 10) (r : BitVec 1) (z : BitVec 1)
  /-- R277. Bank-op: starts a counted loop. -/
  | bloop (e : BitVec 1) (p : BitVec 4) (c : BitVec 10) (l : BitVec 6)
  /-- R287. Bank-op: yield point at which held accesses are served. -/
  | byld
  /-- R277. Bank-op: precharges all slots and ends the instance. -/
  | bend
  /-- R331. Requests matrix-engine ownership and records the save area. -/
  | macq (a : BitVec 7)
  /-- R332. Releases accumulator slots and optionally the engine. -/
  | mrel (e : BitVec 1) (s : BitVec 8)
  /-- R333. Matrix operation exchanging the active and shadow planes. -/
  | mswap
  /-- R334. Reads engine ownership state, sequences or first error status. -/
  | mstat (d : BitVec 7) (s : BitVec 3)
  /-- R335. Matrix operation loading a weight tile from scratch into the shadow plane. -/
  | mlds (a : BitVec 7) (o : BitVec 14)
  /-- R336. Matrix operation loading the shadow plane's MX scales. -/
  | mscl (a : BitVec 7)
  /-- R337. Matrix operation streaming activations past the active plane into a slot. -/
  | mexec (f : BitVec 3) (a : BitVec 7)
  /-- R340. Matrix operation zeroing an accumulator slot. -/
  | macz (s : BitVec 3)
  /-- R341. Lane read of accumulator slot words. -/
  | macrd (a : BitVec 7) (k : BitVec 4) (s : BitVec 3)
  /-- R341. Lane write of accumulator slot words. -/
  | macwr (a : BitVec 7) (k : BitVec 4) (s : BitVec 3)
  /-- R342. Issues a tile copy from global memory into scratch. -/
  | tcopy (a : BitVec 7) (o : BitVec 14)
  /-- R342. Issues a tile copy from scratch back to global memory. -/
  | tcopyr (a : BitVec 7) (o : BitVec 14)
  /-- R343. Issues a bank run described by a run block. -/
  | bkrun (a : BitVec 7) (p : BitVec 1) (s : BitVec 3)
  /-- R344. Publishes a new chain tail to the selected engine with pkg release. -/
  | chtail (a : BitVec 7)
  /-- R344. Reads the selected engine's completion sequence. -/
  | chseq (a : BitVec 7)
  /-- R347. Removes the oldest completion record, or returns zeros. -/
  | evpop (a : BitVec 7)
  /-- R347. Removes the oldest completion record, waiting for one. -/
  | evwait (a : BitVec 7)
  /-- R348. Waits until a completion sequence reaches a target, then acquires. -/
  | cbar (a : BitVec 7) (c : BitVec 3)
  /-- R290. Migrates the group to a spar core of the stack holding an address. -/
  | mig (a : BitVec 7)
  /-- R294. Returns a migrated group home once all its quads arrive. -/
  | mret
  /-- R22. Reads a control register. -/
  | crd (a : BitVec 7) (n : BitVec 12)
  /-- R22. Writes a control register field by field. -/
  | cwr (a : BitVec 7) (n : BitVec 12)
  /-- R365. Ends a trap frame by resume, team kill or grid kill. -/
  | eret (a : BitVec 7) (x : BitVec 14)
  /-- R382. Loads the group timer with an immediate count. -/
  | tsetImm (c : BitVec 14)
  /-- R382. Loads the group timer with a register count. -/
  | tsetReg (a : BitVec 7)
  /-- R403. Records a class 0x09 mark event in the share's mark area. -/
  | evmark (a : BitVec 7) (k : BitVec 6)
  /-- R420. Reads the next or following reef slot into four uniform registers. -/
  | mslot (d : BitVec 7) (w : BitVec 1)
  /-- R378. Requests a swap of the live and shadow contexts. -/
  | ctxsw
  /-- R367. Removes the bottom divergence-stack entry of a trapped quad. -/
  | dsrd (a : BitVec 7)
  /-- R367. Inserts an entry below the bottom of a trapped quad's stack. -/
  | dswr (a : BitVec 7)
  /-- R120. Reads the union of the team's committed and pending flags. -/
  | flgrd (a : BitVec 7)
  /-- R121. Clears flag bits in both flag sets. -/
  | flgclr (m : BitVec 5)
  /-- R414. Monitor forces a slice- or device-fatal freeze. -/
  | capsFreeze (a : BitVec 7)
  /-- R414. Monitor appends a class 0x0B event to the core's ring. -/
  | capsEvent (a : BitVec 7)
  /-- R369. A replay-queue entry is re-executed and compared in an idle issue cycle. -/
  | replayCheck (mismatch : Bool)
  /-- R373. Restores a team to its last barrier after in-flight engine operations complete. -/
  | teamRollback (team : Nat)
  /-- R171. Grants queued register claims in order when blocks are free. -/
  | claimGrant
  /-- R173. After 65,536 blocked cycles every pending claim of the team traps. -/
  | claimDeadlock (team : Nat)
  /-- R151. Draws a bin whose oldest thread has waited AGE live cycles. -/
  | binDrawAge (bin : Nat)
  /-- R382. Group timer reaches zero and a timer trap becomes pending. -/
  | timerTrap (gctx : Nat)
  /-- R364. Posts a deferred trap frame once a handle index frees. -/
  | framePost (share : Nat)
  /-- R364. Starts the idle handler group for the oldest unstarted frame. -/
  | handlerGroupStart (share : Nat)
  /-- R180. Serves a waiting recv or sendw when an entry or slot is available. -/
  | channelWaitServed (team : Nat) (ch : Nat)
  /-- R133. Dispatcher reads and checks the entry at gd.qhead. -/
  | readLaunchEntry (f : Nat)
  /-- R135. Once dependences are reached, places the grid's clusters as resources allow. -/
  | placement (f : Nat)
  /-- R129. Publishes launch entries with pkg release. -/
  | gdQpostWrite (f : Nat) (count : BitVec 16)
  /-- R446. Host MMIO write to gd.qpost, a sys-scope release. -/
  | hostQpostWrite (f : Nat) (count : BitVec 16)
  /-- R134. Re-reads and re-checks the refused head entry. -/
  | retryHead (f : Nat)
  /-- R134. Consumes the refused entry without launching or triggering. -/
  | skipHead (f : Nat)
  /-- R134. Consumes the refused entry and writes its trigger counter. -/
  | skipHeadTrigger (f : Nat)
  /-- R153. Sets the bin age limit, drawing threads already past it. -/
  | tsReformWrite (value : BitVec 32)
  /-- R6. Write to a register with no behaviour of its own, per field access codes. -/
  | registerWrite (f : Nat) (reg : HostReg) (value : BitVec 64)
  /-- R445. MMIO write to an S-level register through a BAR0 control range. -/
  | mmioWrite (f : Nat) (off : Nat) (size : Nat) (value : BitVec 64) (tee : Bool)
  /-- R379. Exchanges live and shadow contexts at a unit boundary. -/
  | contextSwap
  /-- R378. Nimzil requests a swap without the ctxsw checks. -/
  | preemptionRequest
  /-- R379. Background spill of the shadow context to cx.sva. -/
  | contextSpill
  /-- R381. Checks and loads an image at cx.rva into the shadow bank. -/
  | contextLoad
  /-- R290. A migrating group reaches a spar core with room and starts there. -/
  | migrationArrival (gctx : Nat)
  /-- R309. Engine begins SWAP once the owner's accepted operations complete after lease expiry. -/
  | leaseHandoff
  /-- R310. Scan chains finish and the engine becomes owned or free. -/
  | scanComplete
  /-- R310. Planes zeroed after release; engine free or granted to the head. -/
  | clearComplete
  /-- R338. Engine starts an accepted matrix operation and applies its checks. -/
  | matrixOpStart (upset : EngineUpset)
  /-- R320. A matrix operation completes, advancing the MX sequence. -/
  | matrixOpComplete
  /-- R318. A waiting tile copy starts and checks its record and ranges. -/
  | tileCopyStart (op : Nat)
  /-- R317. A tile copy completes with a status. -/
  | tileCopyComplete (op : Nat)
  /-- R321. A held completion record is posted when its partition has room. -/
  | completionRecordPost (pos : Nat)
  /-- R281. Pre-checks a bank run's block, image, translations and window. -/
  | runPrecheck (run : Nat)
  /-- R283. The instance at a bank FIFO head starts if its bound ends by the drain point. -/
  | bankAdmission (stack : Nat) (bank : Nat)
  /-- R287. An ordinary access to an open row is served at the next micro-op boundary. -/
  | bankAccessServed (stack : Nat) (bank : Nat) (row : Nat) (write : Bool)
  /-- R284. STATUS is written and the bank run completes. -/
  | runComplete (run : Nat)
  /-- R322. Chain entry copying n bytes. -/
  | copyEntry (engine : Nat)
  /-- R322. Chain entry copying rows with strides. -/
  | copy2dEntry (engine : Nat)
  /-- R322. Chain entry filling bytes with a pattern. -/
  | fillEntry (engine : Nat)
  /-- R322. Chain entry that only completes. -/
  | nopEntry (engine : Nat)
  /-- R326. Migration entry compressing a block into the capacity tier. -/
  | tierDown (engine : Nat)
  /-- R326. Migration entry restoring a tier block. -/
  | tierUp (engine : Nat)
  /-- R326. Migration entry writing zero rows with fresh tags. -/
  | zeroRows (engine : Nat)
  /-- R326. Migration entry copying whole rows re-encrypted and re-tagged. -/
  | rowCopy (engine : Nat)
  /-- R324. An engine moves one chunk if its bound ends by the drain point. -/
  | engineChunk (engine : Nat)
  /-- R323. ce.stat RETRY refetches the halting entry. -/
  | engineRetry (engine : Nat)
  /-- R323. ce.stat SKIP posts the halting entry as SKIPPED. -/
  | engineSkip (engine : Nat)
  /-- R419. IO0 sends the next slot's beacon and every die resets its countdown. -/
  | beacon
  /-- R419. A die misses a beacon and projects the calendar forward. -/
  | beaconMissed (die : Nat)
  /-- R422. A die's countdown reaches the drain point of the next slot. -/
  | drainPoint (die : Nat)
  /-- R422. A reef slot starts: DRAM requests are held and housekeeping runs. -/
  | slotStart
  /-- R423. A reef slot ends and held DRAM requests are served. -/
  | slotEnd
  /-- R404. A detecting unit signals the freeze controller, which broadcasts a freeze. -/
  | fatalSignal (unit : Nat) (device : Bool) (f : Nat) (code : BitVec 8)
  /-- R405. With all marks written the rings are copied to retention SRAM. -/
  | ringCopy
  /-- R405. The capsule is encrypted and signed. -/
  | capsuleBuild
  /-- R405. The capsule is written to flash. -/
  | capsuleFlush
  /-- R415. Capsule request listing stored capsules. -/
  | listCapsules (f : Nat)
  /-- R415. Capsule request reading bytes of a capsule. -/
  | readCapsule (f : Nat) (seq : BitVec 32) (off : Nat) (len : Nat)
  /-- R443. Writing the request length sends the secure mailbox request. -/
  | doorbell (f : Nat) (len : Nat)
  /-- R442. Slice-map write setting VALID, accepted only if the map passes its checks. -/
  | validSet (f : Nat) (ctl : BitVec 64)
  /-- R459. Slice-map write clearing VALID, releasing the slice. -/
  | validClear (f : Nat)
  /-- R447. Programs the slice key and owner key, re-keying if needed. -/
  | keyprog (f : Nat) (key : BitVec 128) (owner : BitVec 512)
  /-- R450. Locks the interface and takes its digests. -/
  | lockInterfaceRequest (f : Nat)
  /-- R449. Moves a locked interface to RUN with the nonce. -/
  | startInterfaceRequest (f : Nat) (nonce : BitVec 256)
  /-- R452. Writing 1 to tr.ctl BOOT ends supervisor boot. -/
  | bootEnd (f : Nat)
  /-- R449. Releases the slice and returns it to CONFIG_UNLOCKED. -/
  | stopInterfaceRequest (f : Nat)
  /-- R449. Returns the TDISP state. -/
  | getDeviceInterfaceState (f : Nat)
  /-- R453. Returns the interface report. -/
  | getDeviceInterfaceReport (f : Nat)
  /-- R456. Adds an owner-signed offer to a running slice. -/
  | growSlice (f : Nat) (digest : BitVec 256) (sig : BitVec 512)
  /-- R457. Nimzil moves a granule to another physical granule bank by bank. -/
  | liveGranuleMove (f : Nat) (ordinal : Nat) (granule : Nat)
  /-- R475. SPDM version request. -/
  | getVersion (f : Nat)
  /-- R475. SPDM capabilities request. -/
  | getCapabilities (f : Nat)
  /-- R455. SPDM measurements request. -/
  | getMeasurements (f : Nat)
  /-- R464. Programs IDE stream keys in the SPDM session. -/
  | ideKm (f : Nat) (key : BitVec 256)
  /-- R464. A TLP fails IDE integrity and the stream goes insecure. -/
  | ideIntegrityFailure (f : Nat)
  /-- R463. A host-leaf read with no completion in 50 ms loads poison. -/
  | hostReadTimeout (addr : Nat)
  /-- R465. A Vorif flit is received and checked, triggering replay on failure. -/
  | flitReceived (port : Nat) (seq : BitVec 12) (kind : BitVec 4) (ack : BitVec 16) (rest : List (BitVec 8))
  /-- R467. A remote request is translated and served for its enclave participant. -/
  | remoteAccess (slot : Nat) (src : Nat) (epoch : BitVec 8) (ia : BitVec 48) (op : LinkOp) (body : LinkBody)
  /-- R468. A remote access unanswered in 1 ms poisons or kills. -/
  | remoteTimeout (gctx : Nat) (lanes : BitVec 64) (write : Bool)
  /-- R469. Joins the function to an enclave. -/
  | encjoin (f : Nat) (part : Nat) (n : Nat) (q : Nat) (enclave : BitVec 64) (secret : BitVec 128) (digests : List (BitVec 256))
  /-- R471. Applies a revocation certificate and moves to the next epoch. -/
  | revoke (f : Nat) (enclave : BitVec 64) (part : Nat × BitVec 8) (sigs : List (Nat × BitVec 512))
  /-- R470. Epoch change before a message counter passes 2^63. -/
  | enclaveRekey (slot : Nat)
  /-- R472. Packets of the old epoch stop being accepted after 10 ms. -/
  | epochGraceEnd (slot : Nat)
  /-- R474. Cold boot through ROM and first stage. -/
  | coldReset (heat : List Nat)
  /-- R475. Vendor-signed flash update accepted in recovery. -/
  | flashUpdate (image : List (BitVec 8)) (sig : BitVec 512)
  /-- R413. Warm reset, keeping retention SRAM and rebuilding an interrupted capsule. -/
  | warmReset
  /-- R461. PCIe hot reset. -/
  | hotReset
  /-- R461. Function-level reset. -/
  | functionReset (f : Nat)
  /-- R477. Above the power cap or gating temperature, issue slots are left empty. -/
  | powerGating (gated : Bool)
  /-- R450. A host configuration write to the SR-IOV VF BAR registers, NumVFs, VF Enable or VF MSE, which sends every locked interface to ERROR when those fields are frozen. -/
  | srIovCapabilityWrite (off : Nat) (value : BitVec 64)
  /-- R455. An SPDM key-exchange request that sets up the secure session to which KEYPROG, LOCK, ENCJOIN and IDE_KM must be bound. -/
  | keyEx (f : Nat)
  /-- R455. SPDM algorithm negotiation, which fails unless the requester offers SM3_256, SM2_P256 and SM4_GCM. -/
  | negotiation (f : Nat) (sm3 : Bool) (sm2 : Bool) (sm4 : Bool)
  /-- R461. The PCIe host link trains, or trains down to 64 or 32 GT/s or to x8, after the link partner or a reset changes it. -/
  | linkTraining (speed : Nat) (width : Nat)
deriving DecidableEq, Repr

end Sys2Proof
end

