-- ==== Sys2Proof/Word.lean ====
section
/-! DEFINITION. The word types of the machine (spec/00_scope.md R3, spec/01_sequential_machine.md R9). -/
namespace Sys2Proof

/-- A 32-bit register word. -/
abbrev Word := BitVec 32
/-- A byte of memory. -/
abbrev Byte := BitVec 8
/-- A 64-bit register pair or control register. -/
abbrev DWord := BitVec 64

end Sys2Proof
end

