-- ==== Sys2Proof/WellFormed.lean ====
section
/-! DEFINITION. Which instructions are well formed: the register codes that each role admits (R11, R12, R34, R108), the
sub-field values that are assigned (R35, R40) and the channel numbers (R41). A word whose fields break one of these is
illegal before any effect (R41), and the decoder refuses it. -/
namespace Sys2Proof

/-- A source word: every code but 0x7F (R12). -/
def ws (c : BitVec 7) : Bool := c ≠ 127#7
/-- A destination word: main, operand, uniform, or 0x7C, which discards (R12). -/
def wd (c : BitVec 7) : Bool := decide (c.toNat < 104) || (decide (108 ≤ c.toNat) && decide (c.toNat ≤ 124))
/-- A pair: an even main, operand or uniform register, or 0x7C (R11, R34). -/
def pairCode (c : BitVec 7) : Bool := wd c && c.toNat % 2 == 0
/-- A source pair. -/
def ps (c : BitVec 7) : Bool := pairCode c
/-- A destination pair. -/
def pd (c : BitVec 7) : Bool := pairCode c
/-- A run of four registers: a main register with a code that is a multiple of 4, w0, w4, or 0x7C (R108). -/
def runCode (c : BitVec 7) : Bool := (decide (c.toNat < 104) && c.toNat % 4 == 0) || c = 124#7
/-- A source run. -/
def rs (c : BitVec 7) : Bool := runCode c
/-- A destination run. -/
def rd (c : BitVec 7) : Bool := runCode c
/-- A uniform register. -/
def uni (c : BitVec 7) : Bool := decide (108 ≤ c.toNat) && decide (c.toNat ≤ 123)
/-- A thread's register, or 0x7C: the operand of an atomic that returns the old value (R251). -/
def thr (c : BitVec 7) : Bool := decide (c.toNat < 104) || c = 124#7
/-- A block of eight registers: a main register with a code that is a multiple of 8, or w0 (R161). -/
def block (c : BitVec 7) : Bool := decide (c.toNat ≤ 96) && c.toNat % 8 == 0
/-- nw may be 1 only where d names a main or operand register (R33). -/
def nwOk (n : BitVec 1) (d : BitVec 7) : Bool := n = 0#1 || decide (d.toNat < 104)
/-- The address register and the cache policy of an M-format access (R35, R211): a pair for generic and global space; one
register and policy 0 for scratch and constant space. -/
def addr (s p : BitVec 2) (a : BitVec 7) : Bool := if s = 0#2 ∨ s = 1#2 then ps a else ws a && p = 0#2

/-- The instruction is one that the spec admits (R12, R33 to R35, R40, R41). The steps of other agents carry no encoding,
and every one is well formed. DESIGN CHOICE (log entry 46): a `bact` or a `bloop` whose e is 0 is admitted whatever its p field holds, and
p is not read (R42, R272, R277, R282). -/
def wellFormed : Instr → Bool
  | .pfx _ _ _ c _ => c ≠ 127#7
  | .limm _ => true
  | .iadd n d a b => nwOk n d && wd d && ws a && ws b
  | .isub n d a b => nwOk n d && wd d && ws a && ws b
  | .iadds n d a b => nwOk n d && wd d && ws a && ws b
  | .isubs n d a b => nwOk n d && wd d && ws a && ws b
  | .iaddns n d a b => nwOk n d && wd d && ws a && ws b
  | .isubns n d a b => nwOk n d && wd d && ws a && ws b
  | .iadd64 n d a b => nwOk n d && pd d && ps a && ps b
  | .isub64 n d a b => nwOk n d && pd d && ps a && ps b
  | .imul n d a b => nwOk n d && wd d && ws a && ws b
  | .imulh n d a b => nwOk n d && wd d && ws a && ws b
  | .imulhn n d a b => nwOk n d && wd d && ws a && ws b
  | .imad n d a b => nwOk n d && wd d && ws a && ws b
  | .idiv n d a b => nwOk n d && wd d && ws a && ws b
  | .idivn n d a b => nwOk n d && wd d && ws a && ws b
  | .irem n d a b => nwOk n d && wd d && ws a && ws b
  | .iremn n d a b => nwOk n d && wd d && ws a && ws b
  | .imin n d a b => nwOk n d && wd d && ws a && ws b
  | .imax n d a b => nwOk n d && wd d && ws a && ws b
  | .iminn n d a b => nwOk n d && wd d && ws a && ws b
  | .imaxn n d a b => nwOk n d && wd d && ws a && ws b
  | .iabs n d a => nwOk n d && wd d && ws a
  | .ineg n d a => nwOk n d && wd d && ws a
  | .andW n d a b => nwOk n d && wd d && ws a && ws b
  | .orW n d a b => nwOk n d && wd d && ws a && ws b
  | .xorW n d a b => nwOk n d && wd d && ws a && ws b
  | .andn n d a b => nwOk n d && wd d && ws a && ws b
  | .orn n d a b => nwOk n d && wd d && ws a && ws b
  | .xnor n d a b => nwOk n d && wd d && ws a && ws b
  | .mov n d a => nwOk n d && wd d && ws a
  | .shl n d a b => nwOk n d && wd d && ws a && ws b
  | .shr n d a b => nwOk n d && wd d && ws a && ws b
  | .sar n d a b => nwOk n d && wd d && ws a && ws b
  | .rol n d a b => nwOk n d && wd d && ws a && ws b
  | .ror n d a b => nwOk n d && wd d && ws a && ws b
  | .fshl n d a b => nwOk n d && wd d && ws a && ws b
  | .fshr n d a b => nwOk n d && wd d && ws a && ws b
  | .popc n d a => nwOk n d && wd d && ws a
  | .clz n d a => nwOk n d && wd d && ws a
  | .ctz n d a => nwOk n d && wd d && ws a
  | .brev n d a => nwOk n d && wd d && ws a
  | .lea64 n _ d a b => nwOk n d && pd d && ps a && ws b
  | .addi d a _ => wd d && ws a
  | .andi d a _ => wd d && ws a
  | .ori d a _ => wd d && ws a
  | .xori d a _ => wd d && ws a
  | .shli d a _ => wd d && ws a
  | .shri d a _ => wd d && ws a
  | .sari d a _ => wd d && ws a
  | .movi d _ => wd d
  | .addi64 d a _ => pd d && ps a
  | .lea64i d a _ _ => pd d && ps a
  | .icmp f k a b => decide (f.toNat ≤ 5) && k ≠ 0#3 && ws a && ws b
  | .icmpN f k a b => decide (2 ≤ f.toNat ∧ f.toNat ≤ 5) && k ≠ 0#3 && ws a && ws b
  | .icmpv n f d a b => decide (f.toNat ≤ 5) && nwOk n d && wd d && ws a && ws b
  | .icmpvN n f d a b => decide (2 ≤ f.toNat ∧ f.toNat ≤ 5) && nwOk n d && wd d && ws a && ws b
  | .fcmp _ k a b => k ≠ 0#3 && ws a && ws b
  | .fcmpv n _ d a b => nwOk n d && wd d && ws a && ws b
  | .sel n d a b => nwOk n d && wd d && ws a && ws b
  | .prmb n d a b => nwOk n d && wd d && ws a && ws b
  | .fclass n d a => nwOk n d && wd d && ws a
  | .bfx n d a b => nwOk n d && wd d && ws a && ws b
  | .bfxs n d a b => nwOk n d && wd d && ws a && ws b
  | .bfi n d a b => nwOk n d && wd d && ws a && ws b
  | .fadd n d a b => nwOk n d && wd d && ws a && ws b
  | .fsub n d a b => nwOk n d && wd d && ws a && ws b
  | .fmul n d a b => nwOk n d && wd d && ws a && ws b
  | .ffma n d a b => nwOk n d && wd d && ws a && ws b
  | .fmac n d a b => nwOk n d && wd d && ws a && ws b
  | .fmin n d a b => nwOk n d && wd d && ws a && ws b
  | .fmax n d a b => nwOk n d && wd d && ws a && ws b
  | .fcpysgn n d a b => nwOk n d && wd d && ws a && ws b
  | .fabs n d a => nwOk n d && wd d && ws a
  | .fneg n d a => nwOk n d && wd d && ws a
  | .frnd n d a => nwOk n d && wd d && ws a
  | .fdiv n d a b => nwOk n d && wd d && ws a && ws b
  | .fsqrt n d a => nwOk n d && wd d && ws a
  | .frcp n d a => nwOk n d && wd d && ws a
  | .frsq n d a => nwOk n d && wd d && ws a
  | .fexp2 n d a => nwOk n d && wd d && ws a
  | .flog2 n d a => nwOk n d && wd d && ws a
  | .fsin n d a => nwOk n d && wd d && ws a
  | .fcos n d a => nwOk n d && wd d && ws a
  | .ftanh n d a => nwOk n d && wd d && ws a
  | .hadd2 n d a b => nwOk n d && wd d && ws a && ws b
  | .hmul2 n d a b => nwOk n d && wd d && ws a && ws b
  | .hfma2 n d a b => nwOk n d && wd d && ws a && ws b
  | .badd2 n d a b => nwOk n d && wd d && ws a && ws b
  | .bmul2 n d a b => nwOk n d && wd d && ws a && ws b
  | .bfma2 n d a b => nwOk n d && wd d && ws a && ws b
  | .f2i n _ d a => nwOk n d && wd d && ws a
  | .i2f n _ d a => nwOk n d && wd d && ws a
  | .fcvtF16F32 n d a b => nwOk n d && wd d && ws a && ws b
  | .fcvtF32F16 n d a => nwOk n d && pd d && ws a
  | .fcvtBf16F32 n d a b => nwOk n d && wd d && ws a && ws b
  | .fcvtF32Bf16 n d a => nwOk n d && pd d && ws a
  | .fcvtE4m3F32 n d a => nwOk n d && wd d && rs a
  | .fcvtF32E4m3 n d a => nwOk n d && rs d && ws a
  | .fcvtE5m2F32 n d a => nwOk n d && wd d && rs a
  | .fcvtF32E5m2 n d a => nwOk n d && rs d && ws a
  | .fcvtE2m1F32 n d a => nwOk n d && wd d && rs a
  | .fcvtF32E2m1 n d a => nwOk n d && rs d && ws a
  | .fcvtBf16F16 n d a => nwOk n d && wd d && ws a
  | .fcvtF16Bf16 n d a => nwOk n d && wd d && ws a
  | .cvtdlF32 n d a => nwOk n d && wd d && ws a
  | .cvtdlDl8 n d a b => nwOk n d && wd d && ws a && ws b
  | .mxq n _ d a => nwOk n d && pd d && rs a
  | .mxdq n _ d a b => nwOk n d && rs d && ws a && ws b
  | .dot4e n _ d a b => nwOk n d && wd d && ws a && ws b
  | .dot4i n d a b => nwOk n d && wd d && ws a && ws b
  | .dot8q n d a b => nwOk n d && wd d && ws a && ws b
  | .dot2b n d a b => nwOk n d && wd d && ws a && ws b
  | .mxdot n _ d a b => nwOk n d && wd d && ws a && ws b
  | .mxi8dot n d a b => nwOk n d && wd d && ws a && ws b
  | .bra _ => true
  | .brc _ _ _ => true
  | .pjn _ => true
  | .call a _ => ps a
  | .brx a => ps a
  | .callx d a => pd d && ps a
  | .ret a => ps a
  | .join => true
  | .exitThread => true
  | .yield => true
  | .nop => true
  | .reform a => ps a
  | .trap _ => true
  | .brk _ => true
  | .vote f k a => decide (f.toNat ≤ 2) && k ≠ 0#3 && ws a
  | .matchLanes w d a k => pd d && (if w = 0#1 then ws a else ps a) && k ≠ 0#3
  | .shfl _ d a b => wd d && ws a && ws b
  | .bcast d a b => wd d && ws a && ws b
  | .red _ d a => wd d && ws a
  | .fred f d a => decide (f.toNat ≤ 2) && wd d && ws a
  | .fscan f d a => decide (f.toNat ≤ 2) && wd d && ws a
  | .scan _ d a => wd d && ws a
  | .rgt f d => decide (f.toNat ≤ 2) && block d
  | .kop _ d _ _ => d ≠ 0#3
  | .kopNot d _ => d ≠ 0#3
  | .kmovTor d _ => pd d
  | .kmovTok d a => d ≠ 0#3 && ps a
  | .bar _ _ => true
  | .bara _ _ => true
  | .barw a _ => ws a
  | .elect k => k ≠ 0#3
  | .winb _ => true
  | .trig => true
  | .rclaim n => n ≠ 0#5
  | .rrel n => n ≠ 0#5
  | .send c d a r => decide (c.toNat ≤ 55) && wd d && ws a && (r = 0#3 || decide (48 ≤ c.toNat))
  | .sendw c a r => decide (c.toNat ≤ 55) && ws a && (r = 0#3 || decide (48 ≤ c.toNat))
  | .recv c d => decide (c.toNat < 48) && wd d
  | .chq c d _ => decide (c.toNat < 48) && wd d
  | .ldB s p d a _ => wd d && addr s p a
  | .ldH s p d a _ => wd d && addr s p a
  | .ldsB s p d a _ => wd d && addr s p a
  | .ldsH s p d a _ => wd d && addr s p a
  | .ldW s p d a _ => wd d && addr s p a
  | .ldD s p d a _ => pd d && addr s p a
  | .ldQ s p d a _ => rd d && addr s p a
  | .stB s p d a _ => s ≠ 3#2 && ws d && addr s p a
  | .stH s p d a _ => s ≠ 3#2 && ws d && addr s p a
  | .stW s p d a _ => s ≠ 3#2 && ws d && addr s p a
  | .stD s p d a _ => s ≠ 3#2 && ps d && addr s p a
  | .stQ s p d a _ => s ≠ 3#2 && rs d && addr s p a
  | .atom s _ d a x y => thr d && decide (y.toNat ≤ 12) && s ≠ 3#2 && decide (x.toNat ≤ 5) && (if s = 2#2 then ws a else ps a)
  | .atom64 s _ d a x y => thr d && pd d && decide (y.toNat ≤ 9) && s ≠ 3#2 && decide (x.toNat ≤ 5) && (if s = 2#2 then ws a else ps a)
  | .atr s _ d a x y => ws d && decide (y.toNat ≤ 12) && y ≠ 8#4 && y ≠ 9#4 && s ≠ 3#2 && decide (x.toNat ≤ 5) && (if s = 2#2 then ws a else ps a)
  | .fence s => decide (s.toNat ≤ 5)
  | .fenceTl => true
  | .fenceOr => true
  | .cinv a _ => ps a
  | .cwb a _ => ps a
  | .icinv a _ => ps a
  | .pref s _ a _ => decide (s.toNat ≤ 1) && ps a
  | .ldg s p d a _ => uni d && addr s p a
  | .tlw d a b => wd d && ps a && ws b
  | .tlrd d a b => wd d && ps a && ws b
  | .tli a => ps a
  | .invt a b => ps a && ws b
  | .vprobe d a b => rd d && ps a && ws b
  | .bact _ _ _ _ _ => true
  | .bpre _ => true
  | .browsh s t => (s.toNat + 1 == t.toNat || t.toNat + 1 == s.toNat)
  | .brcpy s t => s ≠ t
  | .brdc _ _ _ => true
  | .bwrc _ _ _ => true
  | .bldt _ _ _ _ => true
  | .blut _ _ _ _ => true
  | .beadd _ _ _ _ _ => true
  | .befma _ _ _ _ v p => decide (v.toNat ≤ 1) && (v = 1#2 || p = 0#4)
  | .bescl _ _ _ _ _ => true
  | .bacc _ _ _ _ _ => true
  | .bloop e _ c _ => (e = 0#1 || c = 0#10)
  | .byld => true
  | .bend => true
  | .macq a => ps a
  | .mrel _ _ => true
  | .mswap => true
  | .mstat d s => decide (s.toNat ≤ 4) && wd d
  | .mlds a _ => ps a
  | .mscl a => ws a
  | .mexec _ a => ws a
  | .macz _ => true
  | .macrd a _ _ => rd a
  | .macwr a _ _ => rs a
  | .tcopy a _ => rs a
  | .tcopyr a _ => rs a
  | .bkrun a _ s => decide (s.toNat ≤ 5) && ps a
  | .chtail a => ps a
  | .chseq a => wd a
  | .evpop a => rd a
  | .evwait a => rd a
  | .cbar a c => decide (c.toNat ≤ 3) && ws a
  | .mig a => ps a
  | .mret => true
  | .crd a _ => wd a
  | .cwr a _ => decide (a.toNat ≤ 124)
  | .eret a x => decide (x.toNat ≤ 2) && ws a
  | .tsetImm _ => true
  | .tsetReg a => ws a && a ≠ 124#7
  | .evmark a k => k ≠ 0#6 && ws a
  | .mslot d _ => (d = 108#7 || d = 112#7 || d = 116#7 || d = 120#7)
  | .ctxsw => true
  | .dsrd a => rd a
  | .dswr a => rd a
  | .flgrd a => wd a
  | .flgclr _ => true
  | .capsFreeze a => ws a
  | .capsEvent a => rs a
  | .replayCheck .. => true
  | .teamRollback .. => true
  | .claimGrant => true
  | .claimDeadlock .. => true
  | .binDrawAge .. => true
  | .timerTrap .. => true
  | .framePost .. => true
  | .handlerGroupStart .. => true
  | .channelWaitServed .. => true
  | .readLaunchEntry .. => true
  | .placement .. => true
  | .gdQpostWrite .. => true
  | .hostQpostWrite .. => true
  | .retryHead .. => true
  | .skipHead .. => true
  | .skipHeadTrigger .. => true
  | .tsReformWrite .. => true
  | .registerWrite .. => true
  | .mmioWrite .. => true
  | .contextSwap => true
  | .preemptionRequest => true
  | .contextSpill => true
  | .contextLoad => true
  | .migrationArrival .. => true
  | .leaseHandoff => true
  | .scanComplete => true
  | .clearComplete => true
  | .matrixOpStart .. => true
  | .matrixOpComplete => true
  | .tileCopyStart .. => true
  | .tileCopyComplete .. => true
  | .completionRecordPost .. => true
  | .runPrecheck .. => true
  | .bankAdmission .. => true
  | .bankAccessServed .. => true
  | .runComplete .. => true
  | .copyEntry .. => true
  | .copy2dEntry .. => true
  | .fillEntry .. => true
  | .nopEntry .. => true
  | .tierDown .. => true
  | .tierUp .. => true
  | .zeroRows .. => true
  | .rowCopy .. => true
  | .engineChunk .. => true
  | .engineRetry .. => true
  | .engineSkip .. => true
  | .beacon => true
  | .beaconMissed .. => true
  | .drainPoint .. => true
  | .slotStart => true
  | .slotEnd => true
  | .fatalSignal .. => true
  | .ringCopy => true
  | .capsuleBuild => true
  | .capsuleFlush => true
  | .listCapsules .. => true
  | .readCapsule .. => true
  | .doorbell .. => true
  | .validSet .. => true
  | .validClear .. => true
  | .keyprog .. => true
  | .lockInterfaceRequest .. => true
  | .startInterfaceRequest .. => true
  | .bootEnd .. => true
  | .stopInterfaceRequest .. => true
  | .getDeviceInterfaceState .. => true
  | .getDeviceInterfaceReport .. => true
  | .growSlice .. => true
  | .liveGranuleMove .. => true
  | .getVersion .. => true
  | .getCapabilities .. => true
  | .getMeasurements .. => true
  | .ideKm .. => true
  | .ideIntegrityFailure .. => true
  | .hostReadTimeout .. => true
  | .flitReceived .. => true
  | .remoteAccess .. => true
  | .remoteTimeout .. => true
  | .encjoin .. => true
  | .revoke .. => true
  | .enclaveRekey .. => true
  | .epochGraceEnd .. => true
  | .coldReset .. => true
  | .flashUpdate .. => true
  | .warmReset => true
  | .hotReset => true
  | .functionReset .. => true
  | .powerGating .. => true
  | .srIovCapabilityWrite .. => true
  | .keyEx .. => true
  | .negotiation .. => true
  | .linkTraining .. => true

end Sys2Proof
end

