-- ==== Sys2Proof/Decode.lean ====
section
/-! DEFINITION. The decoder, total on every word, and after it the encoder of the same tables (R31, R32, R40). The decoder
picks the constructor by the major opcode and the fields that select within it, reads the operand fields, and accepts the
word exactly when the instruction is well formed and encodes as that very word, so that no field of any word is ignored
(R33, R41). -/
namespace Sys2Proof

/-! ## Fields and formats (R32) -/

/-- The field of n bits whose lowest bit is bit lo. -/
def fld (w : Word) (lo n : Nat) : BitVec n := w.extractLsb' lo n

/-- R format: three registers. -/
def encR (op : BitVec 7) (nw : BitVec 1) (fn : BitVec 3) (d a b : BitVec 7) : Word := op ++ nw ++ fn ++ d ++ a ++ b
/-- I format: register and 11-bit immediate. -/
def encI (op d a : BitVec 7) (imm : BitVec 11) : Word := op ++ d ++ a ++ imm
/-- B format: branch. -/
def encB (op : BitVec 7) (cc : BitVec 4) (a : BitVec 7) (off : BitVec 14) : Word := op ++ cc ++ a ++ off
/-- M format: memory. -/
def encM (op : BitVec 7) (sp cp : BitVec 2) (d a off : BitVec 7) : Word := op ++ sp ++ cp ++ d ++ a ++ off
/-- C format: channel. -/
def encC (op : BitVec 7) (ch : BitVec 6) (d a : BitVec 7) (f : BitVec 5) : Word := op ++ ch ++ d ++ a ++ f
/-- S format: system and engine. -/
def encS (op : BitVec 7) (fn : BitVec 4) (a : BitVec 7) (imm : BitVec 14) : Word := op ++ fn ++ a ++ imm
/-- BK format: bank-op. -/
def encK (op : BitVec 7) (fn : BitVec 4) (opnd : BitVec 21) : Word := op ++ fn ++ opnd
/-- The prefix word of R37. -/
def encPfx (km : BitVec 3) (zm : BitVec 1) (rm : BitVec 3) (c : BitVec 7) (xsel : BitVec 3) : Word :=
  126#7 ++ km ++ zm ++ rm ++ c ++ xsel ++ 0#8
/-- The long-immediate word of R39. -/
def encLimm (imm : BitVec 25) : Word := 127#7 ++ imm

/-- Major 0x00: bits 23 to 21 select (R40). -/
def decode00 (w : Word) : Option Instr :=
  match (fld w 21 3).toNat with
  | 0 => some (.iadd (fld w 24 1) (fld w 14 7) (fld w 7 7) (fld w 0 7))
  | 1 => some (.isub (fld w 24 1) (fld w 14 7) (fld w 7 7) (fld w 0 7))
  | 2 => some (.iadds (fld w 24 1) (fld w 14 7) (fld w 7 7) (fld w 0 7))
  | 3 => some (.isubs (fld w 24 1) (fld w 14 7) (fld w 7 7) (fld w 0 7))
  | 4 => some (.iaddns (fld w 24 1) (fld w 14 7) (fld w 7 7) (fld w 0 7))
  | 5 => some (.isubns (fld w 24 1) (fld w 14 7) (fld w 7 7) (fld w 0 7))
  | 6 => some (.iadd64 (fld w 24 1) (fld w 14 7) (fld w 7 7) (fld w 0 7))
  | 7 => some (.isub64 (fld w 24 1) (fld w 14 7) (fld w 7 7) (fld w 0 7))
  | _ => none

/-- Major 0x01: bits 22 to 21 select (R40). -/
def decode01 (w : Word) : Option Instr :=
  match (fld w 21 2).toNat with
  | 0 => some (.imul (fld w 24 1) (fld w 14 7) (fld w 7 7) (fld w 0 7))
  | 1 => some (.imulh (fld w 24 1) (fld w 14 7) (fld w 7 7) (fld w 0 7))
  | 2 => some (.imulhn (fld w 24 1) (fld w 14 7) (fld w 7 7) (fld w 0 7))
  | 3 => some (.imad (fld w 24 1) (fld w 14 7) (fld w 7 7) (fld w 0 7))
  | _ => none

/-- Major 0x02: bits 22 to 21 select (R40). -/
def decode02 (w : Word) : Option Instr :=
  match (fld w 21 2).toNat with
  | 0 => some (.idiv (fld w 24 1) (fld w 14 7) (fld w 7 7) (fld w 0 7))
  | 1 => some (.idivn (fld w 24 1) (fld w 14 7) (fld w 7 7) (fld w 0 7))
  | 2 => some (.irem (fld w 24 1) (fld w 14 7) (fld w 7 7) (fld w 0 7))
  | 3 => some (.iremn (fld w 24 1) (fld w 14 7) (fld w 7 7) (fld w 0 7))
  | _ => none

/-- Major 0x03: bits 23 to 21 select (R40). -/
def decode03 (w : Word) : Option Instr :=
  match (fld w 21 3).toNat with
  | 0 => some (.imin (fld w 24 1) (fld w 14 7) (fld w 7 7) (fld w 0 7))
  | 1 => some (.imax (fld w 24 1) (fld w 14 7) (fld w 7 7) (fld w 0 7))
  | 2 => some (.iminn (fld w 24 1) (fld w 14 7) (fld w 7 7) (fld w 0 7))
  | 3 => some (.imaxn (fld w 24 1) (fld w 14 7) (fld w 7 7) (fld w 0 7))
  | 4 => some (.iabs (fld w 24 1) (fld w 14 7) (fld w 7 7))
  | 5 => some (.ineg (fld w 24 1) (fld w 14 7) (fld w 7 7))
  | _ => none

/-- Major 0x04: bits 23 to 21 select (R40). -/
def decode04 (w : Word) : Option Instr :=
  match (fld w 21 3).toNat with
  | 0 => some (.andW (fld w 24 1) (fld w 14 7) (fld w 7 7) (fld w 0 7))
  | 1 => some (.orW (fld w 24 1) (fld w 14 7) (fld w 7 7) (fld w 0 7))
  | 2 => some (.xorW (fld w 24 1) (fld w 14 7) (fld w 7 7) (fld w 0 7))
  | 3 => some (.andn (fld w 24 1) (fld w 14 7) (fld w 7 7) (fld w 0 7))
  | 4 => some (.orn (fld w 24 1) (fld w 14 7) (fld w 7 7) (fld w 0 7))
  | 5 => some (.xnor (fld w 24 1) (fld w 14 7) (fld w 7 7) (fld w 0 7))
  | 6 => some (.mov (fld w 24 1) (fld w 14 7) (fld w 7 7))
  | _ => none

/-- Major 0x05: bits 23 to 21 select (R40). -/
def decode05 (w : Word) : Option Instr :=
  match (fld w 21 3).toNat with
  | 0 => some (.shl (fld w 24 1) (fld w 14 7) (fld w 7 7) (fld w 0 7))
  | 1 => some (.shr (fld w 24 1) (fld w 14 7) (fld w 7 7) (fld w 0 7))
  | 2 => some (.sar (fld w 24 1) (fld w 14 7) (fld w 7 7) (fld w 0 7))
  | 3 => some (.rol (fld w 24 1) (fld w 14 7) (fld w 7 7) (fld w 0 7))
  | 4 => some (.ror (fld w 24 1) (fld w 14 7) (fld w 7 7) (fld w 0 7))
  | 5 => some (.fshl (fld w 24 1) (fld w 14 7) (fld w 7 7) (fld w 0 7))
  | 6 => some (.fshr (fld w 24 1) (fld w 14 7) (fld w 7 7) (fld w 0 7))
  | _ => none

/-- Major 0x06: bits 22 to 21 select (R40). -/
def decode06 (w : Word) : Option Instr :=
  match (fld w 21 2).toNat with
  | 0 => some (.popc (fld w 24 1) (fld w 14 7) (fld w 7 7))
  | 1 => some (.clz (fld w 24 1) (fld w 14 7) (fld w 7 7))
  | 2 => some (.ctz (fld w 24 1) (fld w 14 7) (fld w 7 7))
  | 3 => some (.brev (fld w 24 1) (fld w 14 7) (fld w 7 7))
  | _ => none

/-- Major 0x14: bits 6 to 5 select (R40). -/
def decode14 (w : Word) : Option Instr :=
  match (fld w 5 2).toNat with
  | 0 => some (.shli (fld w 18 7) (fld w 11 7) (fld w 0 5))
  | 1 => some (.shri (fld w 18 7) (fld w 11 7) (fld w 0 5))
  | 2 => some (.sari (fld w 18 7) (fld w 11 7) (fld w 0 5))
  | _ => none

/-- Major 0x1E: bits 22 to 21 select (R40). -/
def decode1E (w : Word) : Option Instr :=
  match (fld w 21 2).toNat with
  | 0 => some (.sel (fld w 24 1) (fld w 14 7) (fld w 7 7) (fld w 0 7))
  | 1 => some (.prmb (fld w 24 1) (fld w 14 7) (fld w 7 7) (fld w 0 7))
  | 2 => some (.fclass (fld w 24 1) (fld w 14 7) (fld w 7 7))
  | _ => none

/-- Major 0x1F: bits 22 to 21 select (R40). -/
def decode1F (w : Word) : Option Instr :=
  match (fld w 21 2).toNat with
  | 0 => some (.bfx (fld w 24 1) (fld w 14 7) (fld w 7 7) (fld w 0 7))
  | 1 => some (.bfxs (fld w 24 1) (fld w 14 7) (fld w 7 7) (fld w 0 7))
  | 2 => some (.bfi (fld w 24 1) (fld w 14 7) (fld w 7 7) (fld w 0 7))
  | _ => none

/-- Major 0x20: bits 23 to 21 select (R40). -/
def decode20 (w : Word) : Option Instr :=
  match (fld w 21 3).toNat with
  | 0 => some (.fadd (fld w 24 1) (fld w 14 7) (fld w 7 7) (fld w 0 7))
  | 1 => some (.fsub (fld w 24 1) (fld w 14 7) (fld w 7 7) (fld w 0 7))
  | 2 => some (.fmul (fld w 24 1) (fld w 14 7) (fld w 7 7) (fld w 0 7))
  | 3 => some (.ffma (fld w 24 1) (fld w 14 7) (fld w 7 7) (fld w 0 7))
  | 4 => some (.fmac (fld w 24 1) (fld w 14 7) (fld w 7 7) (fld w 0 7))
  | 5 => some (.fmin (fld w 24 1) (fld w 14 7) (fld w 7 7) (fld w 0 7))
  | 6 => some (.fmax (fld w 24 1) (fld w 14 7) (fld w 7 7) (fld w 0 7))
  | 7 => some (.fcpysgn (fld w 24 1) (fld w 14 7) (fld w 7 7) (fld w 0 7))
  | _ => none

/-- Major 0x21: bits 23 to 21 select (R40). -/
def decode21 (w : Word) : Option Instr :=
  match (fld w 21 3).toNat with
  | 0 => some (.fabs (fld w 24 1) (fld w 14 7) (fld w 7 7))
  | 1 => some (.fneg (fld w 24 1) (fld w 14 7) (fld w 7 7))
  | 2 => some (.frnd (fld w 24 1) (fld w 14 7) (fld w 7 7))
  | 3 => some (.fdiv (fld w 24 1) (fld w 14 7) (fld w 7 7) (fld w 0 7))
  | 4 => some (.fsqrt (fld w 24 1) (fld w 14 7) (fld w 7 7))
  | _ => none

/-- Major 0x22: bits 23 to 21 select (R40). -/
def decode22 (w : Word) : Option Instr :=
  match (fld w 21 3).toNat with
  | 0 => some (.frcp (fld w 24 1) (fld w 14 7) (fld w 7 7))
  | 1 => some (.frsq (fld w 24 1) (fld w 14 7) (fld w 7 7))
  | 2 => some (.fexp2 (fld w 24 1) (fld w 14 7) (fld w 7 7))
  | 3 => some (.flog2 (fld w 24 1) (fld w 14 7) (fld w 7 7))
  | 4 => some (.fsin (fld w 24 1) (fld w 14 7) (fld w 7 7))
  | 5 => some (.fcos (fld w 24 1) (fld w 14 7) (fld w 7 7))
  | 6 => some (.ftanh (fld w 24 1) (fld w 14 7) (fld w 7 7))
  | _ => none

/-- Major 0x23: bits 23 to 21 select (R40). -/
def decode23 (w : Word) : Option Instr :=
  match (fld w 21 3).toNat with
  | 0 => some (.hadd2 (fld w 24 1) (fld w 14 7) (fld w 7 7) (fld w 0 7))
  | 1 => some (.hmul2 (fld w 24 1) (fld w 14 7) (fld w 7 7) (fld w 0 7))
  | 2 => some (.hfma2 (fld w 24 1) (fld w 14 7) (fld w 7 7) (fld w 0 7))
  | 4 => some (.badd2 (fld w 24 1) (fld w 14 7) (fld w 7 7) (fld w 0 7))
  | 5 => some (.bmul2 (fld w 24 1) (fld w 14 7) (fld w 7 7) (fld w 0 7))
  | 6 => some (.bfma2 (fld w 24 1) (fld w 14 7) (fld w 7 7) (fld w 0 7))
  | _ => none

/-- Major 0x30: bits 22 to 22 select (R40). -/
def decode30 (w : Word) : Option Instr :=
  match (fld w 22 1).toNat with
  | 0 => some (.f2i (fld w 24 1) (fld w 21 1) (fld w 14 7) (fld w 7 7))
  | 1 => some (.i2f (fld w 24 1) (fld w 21 1) (fld w 14 7) (fld w 7 7))
  | _ => none

/-- Major 0x31: bits 23 to 21 select (R40). -/
def decode31 (w : Word) : Option Instr :=
  match (fld w 21 3).toNat with
  | 0 => some (.fcvtF16F32 (fld w 24 1) (fld w 14 7) (fld w 7 7) (fld w 0 7))
  | 1 => some (.fcvtF32F16 (fld w 24 1) (fld w 14 7) (fld w 7 7))
  | 2 => some (.fcvtBf16F32 (fld w 24 1) (fld w 14 7) (fld w 7 7) (fld w 0 7))
  | 3 => some (.fcvtF32Bf16 (fld w 24 1) (fld w 14 7) (fld w 7 7))
  | 4 => some (.fcvtE4m3F32 (fld w 24 1) (fld w 14 7) (fld w 7 7))
  | 5 => some (.fcvtF32E4m3 (fld w 24 1) (fld w 14 7) (fld w 7 7))
  | 6 => some (.fcvtE5m2F32 (fld w 24 1) (fld w 14 7) (fld w 7 7))
  | 7 => some (.fcvtF32E5m2 (fld w 24 1) (fld w 14 7) (fld w 7 7))
  | _ => none

/-- Major 0x32: bits 22 to 21 select (R40). -/
def decode32 (w : Word) : Option Instr :=
  match (fld w 21 2).toNat with
  | 0 => some (.fcvtE2m1F32 (fld w 24 1) (fld w 14 7) (fld w 7 7))
  | 1 => some (.fcvtF32E2m1 (fld w 24 1) (fld w 14 7) (fld w 7 7))
  | 2 => some (.fcvtBf16F16 (fld w 24 1) (fld w 14 7) (fld w 7 7))
  | 3 => some (.fcvtF16Bf16 (fld w 24 1) (fld w 14 7) (fld w 7 7))
  | _ => none

/-- Major 0x33: bits 21 to 21 select (R40). -/
def decode33 (w : Word) : Option Instr :=
  match (fld w 21 1).toNat with
  | 0 => some (.cvtdlF32 (fld w 24 1) (fld w 14 7) (fld w 7 7))
  | 1 => some (.cvtdlDl8 (fld w 24 1) (fld w 14 7) (fld w 7 7) (fld w 0 7))
  | _ => none

/-- Major 0x34: bits 23 to 23 select (R40). -/
def decode34 (w : Word) : Option Instr :=
  match (fld w 23 1).toNat with
  | 0 => some (.mxq (fld w 24 1) (fld w 21 2) (fld w 14 7) (fld w 7 7))
  | 1 => some (.mxdq (fld w 24 1) (fld w 21 2) (fld w 14 7) (fld w 7 7) (fld w 0 7))
  | _ => none

/-- Major 0x38 (R40). -/
def decode38 (w : Word) : Option Instr :=
  if w &&& 0xFEE00000#32 = 0x70400000#32 then some (.dot4i (fld w 24 1) (fld w 14 7) (fld w 7 7) (fld w 0 7))
  else if w &&& 0xFEE00000#32 = 0x70600000#32 then some (.dot8q (fld w 24 1) (fld w 14 7) (fld w 7 7) (fld w 0 7))
  else if w &&& 0xFEE00000#32 = 0x70800000#32 then some (.dot2b (fld w 24 1) (fld w 14 7) (fld w 7 7) (fld w 0 7))
  else if w &&& 0xFEC00000#32 = 0x70000000#32 then some (.dot4e (fld w 24 1) (fld w 21 1) (fld w 14 7) (fld w 7 7) (fld w 0 7))
  else none

/-- Major 0x39: bits 22 to 22 select (R40). -/
def decode39 (w : Word) : Option Instr :=
  match (fld w 22 1).toNat with
  | 0 => some (.mxdot (fld w 24 1) (fld w 21 1) (fld w 14 7) (fld w 7 7) (fld w 0 7))
  | 1 => some (.mxi8dot (fld w 24 1) (fld w 14 7) (fld w 7 7) (fld w 0 7))
  | _ => none

/-- Major 0x44: bits 23 to 21 select (R40). -/
def decode44 (w : Word) : Option Instr :=
  match (fld w 21 3).toNat with
  | 0 => some (.brx (fld w 7 7))
  | 1 => some (.callx (fld w 14 7) (fld w 7 7))
  | 2 => some (.ret (fld w 7 7))
  | 3 => some (.join)
  | 4 => some (.exitThread)
  | 5 => some (.yield)
  | 6 => some (.nop)
  | 7 => some (.reform (fld w 7 7))
  | _ => none

/-- Major 0x45: bits 21 to 21 select (R40). -/
def decode45 (w : Word) : Option Instr :=
  match (fld w 21 1).toNat with
  | 0 => some (.trap (fld w 0 14))
  | 1 => some (.brk (fld w 0 14))
  | _ => none

/-- Major 0x4A: bits 23 to 23 select (R40). -/
def decode4A (w : Word) : Option Instr :=
  match (fld w 23 1).toNat with
  | 0 => some (.shfl (fld w 21 2) (fld w 14 7) (fld w 7 7) (fld w 0 7))
  | 1 => some (.bcast (fld w 14 7) (fld w 7 7) (fld w 0 7))
  | _ => none

/-- Major 0x4C: bits 23 to 23 select (R40). -/
def decode4C (w : Word) : Option Instr :=
  match (fld w 23 1).toNat with
  | 0 => some (.fred (fld w 21 2) (fld w 14 7) (fld w 7 7))
  | 1 => some (.fscan (fld w 21 2) (fld w 14 7) (fld w 7 7))
  | _ => none

/-- Major 0x4F (R40). -/
def decode4F (w : Word) : Option Instr :=
  if w &&& 0xFFFE3C7F#32 = 0x9E80007C#32 then some (.kopNot (fld w 14 3) (fld w 7 3))
  else if w &&& 0xFFE03C7F#32 = 0x9EA0007C#32 then some (.kmovTor (fld w 14 7) (fld w 7 3))
  else if w &&& 0xFFFE007F#32 = 0x9EC0007C#32 then some (.kmovTok (fld w 14 3) (fld w 7 7))
  else if w &&& 0xFF9E3C78#32 = 0x9E000000#32 then some (.kop (fld w 21 2) (fld w 14 3) (fld w 7 3) (fld w 0 3))
  else none

/-- Major 0x50: bits 23 to 21 select (R40). -/
def decode50 (w : Word) : Option Instr :=
  match (fld w 21 3).toNat with
  | 0 => some (.bar (fld w 4 10) (fld w 0 4))
  | 1 => some (.bara (fld w 4 10) (fld w 0 4))
  | 2 => some (.barw (fld w 14 7) (fld w 0 4))
  | 3 => some (.elect (fld w 14 3))
  | 4 => some (.winb (fld w 0 5))
  | 5 => some (.trig)
  | 6 => some (.rclaim (fld w 0 5))
  | 7 => some (.rrel (fld w 0 5))
  | _ => none

/-- Major 0x58: bits 6 to 5 select (R40). -/
def decode58 (w : Word) : Option Instr :=
  match (fld w 5 2).toNat with
  | 0 => some (.ldB (fld w 23 2) (fld w 21 2) (fld w 14 7) (fld w 7 7) (fld w 0 5))
  | 1 => some (.ldH (fld w 23 2) (fld w 21 2) (fld w 14 7) (fld w 7 7) (fld w 0 5))
  | 2 => some (.ldsB (fld w 23 2) (fld w 21 2) (fld w 14 7) (fld w 7 7) (fld w 0 5))
  | 3 => some (.ldsH (fld w 23 2) (fld w 21 2) (fld w 14 7) (fld w 7 7) (fld w 0 5))
  | _ => none

/-- Major 0x5C: bits 6 to 6 select (R40). -/
def decode5C (w : Word) : Option Instr :=
  match (fld w 6 1).toNat with
  | 0 => some (.stB (fld w 23 2) (fld w 21 2) (fld w 14 7) (fld w 7 7) (fld w 0 6))
  | 1 => some (.stH (fld w 23 2) (fld w 21 2) (fld w 14 7) (fld w 7 7) (fld w 0 6))
  | _ => none

/-- Major 0x63: bits 23 to 21 select (R40). -/
def decode63 (w : Word) : Option Instr :=
  match (fld w 21 3).toNat with
  | 0 => some (.fence (fld w 0 3))
  | 1 => some (.fenceTl)
  | 2 => some (.fenceOr)
  | 3 => some (.cinv (fld w 14 7) (fld w 0 14))
  | 4 => some (.cwb (fld w 14 7) (fld w 0 14))
  | 5 => some (.icinv (fld w 14 7) (fld w 0 14))
  | _ => none

/-- Major 0x66: bits 22 to 21 select (R40). -/
def decode66 (w : Word) : Option Instr :=
  match (fld w 21 2).toNat with
  | 0 => some (.tlw (fld w 14 7) (fld w 7 7) (fld w 0 7))
  | 1 => some (.tlrd (fld w 14 7) (fld w 7 7) (fld w 0 7))
  | 2 => some (.tli (fld w 7 7))
  | _ => none

/-- Major 0x67: bits 21 to 21 select (R40). -/
def decode67 (w : Word) : Option Instr :=
  match (fld w 21 1).toNat with
  | 0 => some (.invt (fld w 7 7) (fld w 0 7))
  | 1 => some (.vprobe (fld w 14 7) (fld w 7 7) (fld w 0 7))
  | _ => none

/-- Major 0x68: bits 22 to 21 select (R40). -/
def decode68 (w : Word) : Option Instr :=
  match (fld w 21 2).toNat with
  | 0 => some (.bact (fld w 19 2) (fld w 18 1) (fld w 17 1) (fld w 13 4) (fld w 3 10))
  | 1 => some (.bpre (fld w 19 2))
  | 2 => some (.browsh (fld w 19 2) (fld w 17 2))
  | 3 => some (.brcpy (fld w 19 2) (fld w 17 2))
  | _ => none

/-- Major 0x69: bits 21 to 21 select (R40). -/
def decode69 (w : Word) : Option Instr :=
  match (fld w 21 1).toNat with
  | 0 => some (.brdc (fld w 19 2) (fld w 12 7) (fld w 8 4))
  | 1 => some (.bwrc (fld w 19 2) (fld w 12 7) (fld w 8 4))
  | _ => none

/-- Major 0x6A: bits 21 to 21 select (R40). -/
def decode6A (w : Word) : Option Instr :=
  match (fld w 21 1).toNat with
  | 0 => some (.bldt (fld w 19 2) (fld w 12 7) (fld w 10 2) (fld w 3 7))
  | 1 => some (.blut (fld w 19 2) (fld w 12 7) (fld w 10 2) (fld w 3 7))
  | _ => none

/-- Major 0x6B: bits 22 to 21 select (R40). -/
def decode6B (w : Word) : Option Instr :=
  match (fld w 21 2).toNat with
  | 0 => some (.beadd (fld w 19 2) (fld w 17 2) (fld w 15 2) (fld w 8 7) (fld w 6 2))
  | 1 => some (.befma (fld w 19 2) (fld w 17 2) (fld w 15 2) (fld w 8 7) (fld w 6 2) (fld w 2 4))
  | 2 => some (.bescl (fld w 19 2) (fld w 17 2) (fld w 8 7) (fld w 6 2) (fld w 2 4))
  | _ => none

/-- Major 0x6D: bits 22 to 21 select (R40). -/
def decode6D (w : Word) : Option Instr :=
  match (fld w 21 2).toNat with
  | 0 => some (.bloop (fld w 20 1) (fld w 16 4) (fld w 6 10) (fld w 0 6))
  | 1 => some (.byld)
  | 2 => some (.bend)
  | _ => none

/-- Major 0x70: bits 22 to 21 select (R40). -/
def decode70 (w : Word) : Option Instr :=
  match (fld w 21 2).toNat with
  | 0 => some (.macq (fld w 14 7))
  | 1 => some (.mrel (fld w 8 1) (fld w 0 8))
  | 2 => some (.mswap)
  | 3 => some (.mstat (fld w 14 7) (fld w 0 3))
  | _ => none

/-- Major 0x74: bits 22 to 21 select (R40). -/
def decode74 (w : Word) : Option Instr :=
  match (fld w 21 2).toNat with
  | 0 => some (.macz (fld w 0 3))
  | 1 => some (.macrd (fld w 14 7) (fld w 3 4) (fld w 0 3))
  | 2 => some (.macwr (fld w 14 7) (fld w 3 4) (fld w 0 3))
  | _ => none

/-- Major 0x78: bits 22 to 21 select (R40). -/
def decode78 (w : Word) : Option Instr :=
  match (fld w 21 2).toNat with
  | 0 => some (.tcopy (fld w 14 7) (fld w 0 14))
  | 1 => some (.tcopyr (fld w 14 7) (fld w 0 14))
  | 2 => some (.bkrun (fld w 14 7) (fld w 3 1) (fld w 0 3))
  | _ => none

/-- Major 0x79: bits 21 to 21 select (R40). -/
def decode79 (w : Word) : Option Instr :=
  match (fld w 21 1).toNat with
  | 0 => some (.chtail (fld w 14 7))
  | 1 => some (.chseq (fld w 14 7))
  | _ => none

/-- Major 0x7A: bits 22 to 21 select (R40). -/
def decode7A (w : Word) : Option Instr :=
  match (fld w 21 2).toNat with
  | 0 => some (.evpop (fld w 14 7))
  | 1 => some (.evwait (fld w 14 7))
  | 2 => some (.cbar (fld w 14 7) (fld w 0 3))
  | _ => none

/-- Major 0x7B: bits 21 to 21 select (R40). -/
def decode7B (w : Word) : Option Instr :=
  match (fld w 21 1).toNat with
  | 0 => some (.mig (fld w 14 7))
  | 1 => some (.mret)
  | _ => none

/-- Major 0x7C (R40). -/
def decode7C (w : Word) : Option Instr :=
  if w &&& 0xFFFFFFFF#32 = 0xF8DF0000#32 then some (.ctxsw)
  else if w &&& 0xFFFFFFE0#32 = 0xF95F0000#32 then some (.flgclr (fld w 0 5))
  else if w &&& 0xFFFFC000#32 = 0xF87F0000#32 then some (.tsetImm (fld w 0 14))
  else if w &&& 0xFFE03FFF#32 = 0xF8600000#32 then some (.tsetReg (fld w 14 7))
  else if w &&& 0xFFE03FFF#32 = 0xF8E00000#32 then some (.dsrd (fld w 14 7))
  else if w &&& 0xFFE03FFF#32 = 0xF9000000#32 then some (.dswr (fld w 14 7))
  else if w &&& 0xFFE03FFF#32 = 0xF9200000#32 then some (.flgrd (fld w 14 7))
  else if w &&& 0xFFE03FFF#32 = 0xF9600000#32 then some (.capsFreeze (fld w 14 7))
  else if w &&& 0xFFE03FFF#32 = 0xF9600001#32 then some (.capsEvent (fld w 14 7))
  else if w &&& 0xFFE03FFE#32 = 0xF8A00000#32 then some (.mslot (fld w 14 7) (fld w 0 1))
  else if w &&& 0xFFE03FC0#32 = 0xF8800000#32 then some (.evmark (fld w 14 7) (fld w 0 6))
  else if w &&& 0xFFE03000#32 = 0xF8000000#32 then some (.crd (fld w 14 7) (fld w 0 12))
  else if w &&& 0xFFE03000#32 = 0xF8200000#32 then some (.cwr (fld w 14 7) (fld w 0 12))
  else if w &&& 0xFFE00000#32 = 0xF8400000#32 then some (.eret (fld w 14 7) (fld w 0 14))
  else none

/-- The constructor and the fields of a word, by its major opcode (R31, R40); none for an unassigned major or fn. -/
def decodeRaw (w : Word) : Option Instr :=
  match (fld w 25 7).toNat with
  | 0x00 => decode00 w
  | 0x01 => decode01 w
  | 0x02 => decode02 w
  | 0x03 => decode03 w
  | 0x04 => decode04 w
  | 0x05 => decode05 w
  | 0x06 => decode06 w
  | 0x08 => some (.lea64 (fld w 24 1) (fld w 21 3) (fld w 14 7) (fld w 7 7) (fld w 0 7))
  | 0x10 => some (.addi (fld w 18 7) (fld w 11 7) (fld w 0 11))
  | 0x11 => some (.andi (fld w 18 7) (fld w 11 7) (fld w 0 11))
  | 0x12 => some (.ori (fld w 18 7) (fld w 11 7) (fld w 0 11))
  | 0x13 => some (.xori (fld w 18 7) (fld w 11 7) (fld w 0 11))
  | 0x14 => decode14 w
  | 0x15 => some (.movi (fld w 18 7) (fld w 0 11))
  | 0x16 => some (.addi64 (fld w 18 7) (fld w 11 7) (fld w 0 11))
  | 0x17 => some (.lea64i (fld w 18 7) (fld w 11 7) (fld w 3 8) (fld w 0 3))
  | 0x18 => some (.icmp (fld w 21 3) (fld w 14 3) (fld w 7 7) (fld w 0 7))
  | 0x19 => some (.icmpN (fld w 21 3) (fld w 14 3) (fld w 7 7) (fld w 0 7))
  | 0x1A => some (.icmpv (fld w 24 1) (fld w 21 3) (fld w 14 7) (fld w 7 7) (fld w 0 7))
  | 0x1B => some (.icmpvN (fld w 24 1) (fld w 21 3) (fld w 14 7) (fld w 7 7) (fld w 0 7))
  | 0x1C => some (.fcmp (fld w 21 3) (fld w 14 3) (fld w 7 7) (fld w 0 7))
  | 0x1D => some (.fcmpv (fld w 24 1) (fld w 21 3) (fld w 14 7) (fld w 7 7) (fld w 0 7))
  | 0x1E => decode1E w
  | 0x1F => decode1F w
  | 0x20 => decode20 w
  | 0x21 => decode21 w
  | 0x22 => decode22 w
  | 0x23 => decode23 w
  | 0x30 => decode30 w
  | 0x31 => decode31 w
  | 0x32 => decode32 w
  | 0x33 => decode33 w
  | 0x34 => decode34 w
  | 0x38 => decode38 w
  | 0x39 => decode39 w
  | 0x40 => some (.bra (fld w 0 14))
  | 0x41 => some (.brc (fld w 21 1) (fld w 14 3) (fld w 0 14))
  | 0x42 => some (.pjn (fld w 0 14))
  | 0x43 => some (.call (fld w 14 7) (fld w 0 14))
  | 0x44 => decode44 w
  | 0x45 => decode45 w
  | 0x48 => some (.vote (fld w 21 3) (fld w 14 3) (fld w 7 7))
  | 0x49 => some (.matchLanes (fld w 21 1) (fld w 14 7) (fld w 7 7) (fld w 0 3))
  | 0x4A => decode4A w
  | 0x4B => some (.red (fld w 21 3) (fld w 14 7) (fld w 7 7))
  | 0x4C => decode4C w
  | 0x4D => some (.scan (fld w 21 3) (fld w 14 7) (fld w 7 7))
  | 0x4E => some (.rgt (fld w 21 3) (fld w 14 7))
  | 0x4F => decode4F w
  | 0x50 => decode50 w
  | 0x52 => some (.send (fld w 19 6) (fld w 12 7) (fld w 5 7) (fld w 0 3))
  | 0x53 => some (.sendw (fld w 19 6) (fld w 5 7) (fld w 0 3))
  | 0x54 => some (.recv (fld w 19 6) (fld w 12 7))
  | 0x55 => some (.chq (fld w 19 6) (fld w 12 7) (fld w 3 1))
  | 0x58 => decode58 w
  | 0x59 => some (.ldW (fld w 23 2) (fld w 21 2) (fld w 14 7) (fld w 7 7) (fld w 0 7))
  | 0x5A => some (.ldD (fld w 23 2) (fld w 21 2) (fld w 14 7) (fld w 7 7) (fld w 0 7))
  | 0x5B => some (.ldQ (fld w 23 2) (fld w 21 2) (fld w 14 7) (fld w 7 7) (fld w 0 7))
  | 0x5C => decode5C w
  | 0x5D => some (.stW (fld w 23 2) (fld w 21 2) (fld w 14 7) (fld w 7 7) (fld w 0 7))
  | 0x5E => some (.stD (fld w 23 2) (fld w 21 2) (fld w 14 7) (fld w 7 7) (fld w 0 7))
  | 0x5F => some (.stQ (fld w 23 2) (fld w 21 2) (fld w 14 7) (fld w 7 7) (fld w 0 7))
  | 0x60 => some (.atom (fld w 23 2) (fld w 21 2) (fld w 14 7) (fld w 7 7) (fld w 4 3) (fld w 0 4))
  | 0x61 => some (.atom64 (fld w 23 2) (fld w 21 2) (fld w 14 7) (fld w 7 7) (fld w 4 3) (fld w 0 4))
  | 0x62 => some (.atr (fld w 23 2) (fld w 21 2) (fld w 14 7) (fld w 7 7) (fld w 4 3) (fld w 0 4))
  | 0x63 => decode63 w
  | 0x64 => some (.pref (fld w 23 2) (fld w 21 2) (fld w 7 7) (fld w 0 7))
  | 0x65 => some (.ldg (fld w 23 2) (fld w 21 2) (fld w 14 7) (fld w 7 7) (fld w 0 7))
  | 0x66 => decode66 w
  | 0x67 => decode67 w
  | 0x68 => decode68 w
  | 0x69 => decode69 w
  | 0x6A => decode6A w
  | 0x6B => decode6B w
  | 0x6C => some (.bacc (fld w 18 3) (fld w 17 1) (fld w 7 10) (fld w 6 1) (fld w 5 1))
  | 0x6D => decode6D w
  | 0x70 => decode70 w
  | 0x71 => some (.mlds (fld w 14 7) (fld w 0 14))
  | 0x72 => some (.mscl (fld w 14 7))
  | 0x73 => some (.mexec (fld w 21 3) (fld w 14 7))
  | 0x74 => decode74 w
  | 0x78 => decode78 w
  | 0x79 => decode79 w
  | 0x7A => decode7A w
  | 0x7B => decode7B w
  | 0x7C => decode7C w
  | 0x7E => some (.pfx (fld w 22 3) (fld w 21 1) (fld w 18 3) (fld w 11 7) (fld w 8 3))
  | 0x7F => some (.limm (fld w 0 25))
  | _ => none

/-- The word of an instruction (R32, R40); the steps of other agents have no encoding and give word 0. -/
def encode : Instr → Word
  | .pfx k z r c x => encPfx k z r c x
  | .limm i => encLimm i
  | .iadd n d a b => encR 0#7 n 0#3 d a b
  | .isub n d a b => encR 0#7 n 1#3 d a b
  | .iadds n d a b => encR 0#7 n 2#3 d a b
  | .isubs n d a b => encR 0#7 n 3#3 d a b
  | .iaddns n d a b => encR 0#7 n 4#3 d a b
  | .isubns n d a b => encR 0#7 n 5#3 d a b
  | .iadd64 n d a b => encR 0#7 n 6#3 d a b
  | .isub64 n d a b => encR 0#7 n 7#3 d a b
  | .imul n d a b => encR 1#7 n 0#3 d a b
  | .imulh n d a b => encR 1#7 n 1#3 d a b
  | .imulhn n d a b => encR 1#7 n 2#3 d a b
  | .imad n d a b => encR 1#7 n 3#3 d a b
  | .idiv n d a b => encR 2#7 n 0#3 d a b
  | .idivn n d a b => encR 2#7 n 1#3 d a b
  | .irem n d a b => encR 2#7 n 2#3 d a b
  | .iremn n d a b => encR 2#7 n 3#3 d a b
  | .imin n d a b => encR 3#7 n 0#3 d a b
  | .imax n d a b => encR 3#7 n 1#3 d a b
  | .iminn n d a b => encR 3#7 n 2#3 d a b
  | .imaxn n d a b => encR 3#7 n 3#3 d a b
  | .iabs n d a => encR 3#7 n 4#3 d a 124#7
  | .ineg n d a => encR 3#7 n 5#3 d a 124#7
  | .andW n d a b => encR 4#7 n 0#3 d a b
  | .orW n d a b => encR 4#7 n 1#3 d a b
  | .xorW n d a b => encR 4#7 n 2#3 d a b
  | .andn n d a b => encR 4#7 n 3#3 d a b
  | .orn n d a b => encR 4#7 n 4#3 d a b
  | .xnor n d a b => encR 4#7 n 5#3 d a b
  | .mov n d a => encR 4#7 n 6#3 d a 124#7
  | .shl n d a b => encR 5#7 n 0#3 d a b
  | .shr n d a b => encR 5#7 n 1#3 d a b
  | .sar n d a b => encR 5#7 n 2#3 d a b
  | .rol n d a b => encR 5#7 n 3#3 d a b
  | .ror n d a b => encR 5#7 n 4#3 d a b
  | .fshl n d a b => encR 5#7 n 5#3 d a b
  | .fshr n d a b => encR 5#7 n 6#3 d a b
  | .popc n d a => encR 6#7 n 0#3 d a 124#7
  | .clz n d a => encR 6#7 n 1#3 d a 124#7
  | .ctz n d a => encR 6#7 n 2#3 d a 124#7
  | .brev n d a => encR 6#7 n 3#3 d a 124#7
  | .lea64 n s d a b => encR 8#7 n s d a b
  | .addi d a i => encI 16#7 d a i
  | .andi d a i => encI 17#7 d a i
  | .ori d a i => encI 18#7 d a i
  | .xori d a i => encI 19#7 d a i
  | .shli d a c => encI 20#7 d a (0#6 ++ c)
  | .shri d a c => encI 20#7 d a (1#6 ++ c)
  | .sari d a c => encI 20#7 d a (2#6 ++ c)
  | .movi d i => encI 21#7 d 124#7 i
  | .addi64 d a i => encI 22#7 d a i
  | .lea64i d a x s => encI 23#7 d a (x ++ s)
  | .icmp f k a b => encR 24#7 0#1 f (0#4 ++ k) a b
  | .icmpN f k a b => encR 25#7 0#1 f (0#4 ++ k) a b
  | .icmpv n f d a b => encR 26#7 n f d a b
  | .icmpvN n f d a b => encR 27#7 n f d a b
  | .fcmp f k a b => encR 28#7 0#1 f (0#4 ++ k) a b
  | .fcmpv n f d a b => encR 29#7 n f d a b
  | .sel n d a b => encR 30#7 n 0#3 d a b
  | .prmb n d a b => encR 30#7 n 1#3 d a b
  | .fclass n d a => encR 30#7 n 2#3 d a 124#7
  | .bfx n d a b => encR 31#7 n 0#3 d a b
  | .bfxs n d a b => encR 31#7 n 1#3 d a b
  | .bfi n d a b => encR 31#7 n 2#3 d a b
  | .fadd n d a b => encR 32#7 n 0#3 d a b
  | .fsub n d a b => encR 32#7 n 1#3 d a b
  | .fmul n d a b => encR 32#7 n 2#3 d a b
  | .ffma n d a b => encR 32#7 n 3#3 d a b
  | .fmac n d a b => encR 32#7 n 4#3 d a b
  | .fmin n d a b => encR 32#7 n 5#3 d a b
  | .fmax n d a b => encR 32#7 n 6#3 d a b
  | .fcpysgn n d a b => encR 32#7 n 7#3 d a b
  | .fabs n d a => encR 33#7 n 0#3 d a 124#7
  | .fneg n d a => encR 33#7 n 1#3 d a 124#7
  | .frnd n d a => encR 33#7 n 2#3 d a 124#7
  | .fdiv n d a b => encR 33#7 n 3#3 d a b
  | .fsqrt n d a => encR 33#7 n 4#3 d a 124#7
  | .frcp n d a => encR 34#7 n 0#3 d a 124#7
  | .frsq n d a => encR 34#7 n 1#3 d a 124#7
  | .fexp2 n d a => encR 34#7 n 2#3 d a 124#7
  | .flog2 n d a => encR 34#7 n 3#3 d a 124#7
  | .fsin n d a => encR 34#7 n 4#3 d a 124#7
  | .fcos n d a => encR 34#7 n 5#3 d a 124#7
  | .ftanh n d a => encR 34#7 n 6#3 d a 124#7
  | .hadd2 n d a b => encR 35#7 n 0#3 d a b
  | .hmul2 n d a b => encR 35#7 n 1#3 d a b
  | .hfma2 n d a b => encR 35#7 n 2#3 d a b
  | .badd2 n d a b => encR 35#7 n 4#3 d a b
  | .bmul2 n d a b => encR 35#7 n 5#3 d a b
  | .bfma2 n d a b => encR 35#7 n 6#3 d a b
  | .f2i n u d a => encR 48#7 n (0#2 ++ u) d a 124#7
  | .i2f n u d a => encR 48#7 n (1#2 ++ u) d a 124#7
  | .fcvtF16F32 n d a b => encR 49#7 n 0#3 d a b
  | .fcvtF32F16 n d a => encR 49#7 n 1#3 d a 124#7
  | .fcvtBf16F32 n d a b => encR 49#7 n 2#3 d a b
  | .fcvtF32Bf16 n d a => encR 49#7 n 3#3 d a 124#7
  | .fcvtE4m3F32 n d a => encR 49#7 n 4#3 d a 124#7
  | .fcvtF32E4m3 n d a => encR 49#7 n 5#3 d a 124#7
  | .fcvtE5m2F32 n d a => encR 49#7 n 6#3 d a 124#7
  | .fcvtF32E5m2 n d a => encR 49#7 n 7#3 d a 124#7
  | .fcvtE2m1F32 n d a => encR 50#7 n 0#3 d a 124#7
  | .fcvtF32E2m1 n d a => encR 50#7 n 1#3 d a 124#7
  | .fcvtBf16F16 n d a => encR 50#7 n 2#3 d a 124#7
  | .fcvtF16Bf16 n d a => encR 50#7 n 3#3 d a 124#7
  | .cvtdlF32 n d a => encR 51#7 n 0#3 d a 124#7
  | .cvtdlDl8 n d a b => encR 51#7 n 1#3 d a b
  | .mxq n f d a => encR 52#7 n (0#1 ++ f) d a 124#7
  | .mxdq n f d a b => encR 52#7 n (1#1 ++ f) d a b
  | .dot4e n e d a b => encR 56#7 n (0#2 ++ e) d a b
  | .dot4i n d a b => encR 56#7 n 2#3 d a b
  | .dot8q n d a b => encR 56#7 n 3#3 d a b
  | .dot2b n d a b => encR 56#7 n 4#3 d a b
  | .mxdot n e d a b => encR 57#7 n (0#2 ++ e) d a b
  | .mxi8dot n d a b => encR 57#7 n 2#3 d a b
  | .bra o => encB 64#7 0#4 124#7 o
  | .brc c k o => encB 65#7 (0#3 ++ c) (0#4 ++ k) o
  | .pjn o => encB 66#7 0#4 124#7 o
  | .call a o => encB 67#7 0#4 a o
  | .brx a => encR 68#7 0#1 0#3 124#7 a 124#7
  | .callx d a => encR 68#7 0#1 1#3 d a 124#7
  | .ret a => encR 68#7 0#1 2#3 124#7 a 124#7
  | .join => encR 68#7 0#1 3#3 124#7 124#7 124#7
  | .exitThread => encR 68#7 0#1 4#3 124#7 124#7 124#7
  | .yield => encR 68#7 0#1 5#3 124#7 124#7 124#7
  | .nop => encR 68#7 0#1 6#3 124#7 124#7 124#7
  | .reform a => encR 68#7 0#1 7#3 124#7 a 124#7
  | .trap c => encS 69#7 0#4 124#7 c
  | .brk c => encS 69#7 1#4 124#7 c
  | .vote f k a => encR 72#7 0#1 f (0#4 ++ k) a 124#7
  | .matchLanes w d a k => encR 73#7 0#1 (0#2 ++ w) d a (0#4 ++ k)
  | .shfl f d a b => encR 74#7 0#1 (0#1 ++ f) d a b
  | .bcast d a b => encR 74#7 0#1 4#3 d a b
  | .red f d a => encR 75#7 0#1 f d a 124#7
  | .fred f d a => encR 76#7 0#1 (0#1 ++ f) d a 124#7
  | .fscan f d a => encR 76#7 0#1 (1#1 ++ f) d a 124#7
  | .scan f d a => encR 77#7 0#1 f d a 124#7
  | .rgt f d => encR 78#7 0#1 f d 124#7 124#7
  | .kop f d a b => encR 79#7 0#1 (0#1 ++ f) (0#4 ++ d) (0#4 ++ a) (0#4 ++ b)
  | .kopNot d a => encR 79#7 0#1 4#3 (0#4 ++ d) (0#4 ++ a) 124#7
  | .kmovTor d a => encR 79#7 0#1 5#3 d (0#4 ++ a) 124#7
  | .kmovTok d a => encR 79#7 0#1 6#3 (0#4 ++ d) a 124#7
  | .bar c i => encS 80#7 0#4 124#7 (c ++ i)
  | .bara c i => encS 80#7 1#4 124#7 (c ++ i)
  | .barw a i => encS 80#7 2#4 a (0#10 ++ i)
  | .elect k => encS 80#7 3#4 (0#4 ++ k) 0#14
  | .winb b => encS 80#7 4#4 124#7 (0#9 ++ b)
  | .trig => encS 80#7 5#4 124#7 0#14
  | .rclaim n => encS 80#7 6#4 124#7 (0#9 ++ n)
  | .rrel n => encS 80#7 7#4 124#7 (0#9 ++ n)
  | .send c d a r => encC 82#7 c d a (0#2 ++ r)
  | .sendw c a r => encC 83#7 c 124#7 a (0#2 ++ r)
  | .recv c d => encC 84#7 c d 124#7 0#5
  | .chq c d q => encC 85#7 c d 124#7 (0#1 ++ q ++ 0#3)
  | .ldB s p d a o => encM 88#7 s p d a (0#2 ++ o)
  | .ldH s p d a o => encM 88#7 s p d a (1#2 ++ o)
  | .ldsB s p d a o => encM 88#7 s p d a (2#2 ++ o)
  | .ldsH s p d a o => encM 88#7 s p d a (3#2 ++ o)
  | .ldW s p d a o => encM 89#7 s p d a o
  | .ldD s p d a o => encM 90#7 s p d a o
  | .ldQ s p d a o => encM 91#7 s p d a o
  | .stB s p d a o => encM 92#7 s p d a (0#1 ++ o)
  | .stH s p d a o => encM 92#7 s p d a (1#1 ++ o)
  | .stW s p d a o => encM 93#7 s p d a o
  | .stD s p d a o => encM 94#7 s p d a o
  | .stQ s p d a o => encM 95#7 s p d a o
  | .atom s r d a x y => encM 96#7 s r d a (x ++ y)
  | .atom64 s r d a x y => encM 97#7 s r d a (x ++ y)
  | .atr s r d a x y => encM 98#7 s r d a (x ++ y)
  | .fence s => encS 99#7 0#4 124#7 (0#11 ++ s)
  | .fenceTl => encS 99#7 1#4 124#7 0#14
  | .fenceOr => encS 99#7 2#4 124#7 0#14
  | .cinv a l => encS 99#7 3#4 a l
  | .cwb a l => encS 99#7 4#4 a l
  | .icinv a l => encS 99#7 5#4 a l
  | .pref s p a o => encM 100#7 s p 124#7 a o
  | .ldg s p d a o => encM 101#7 s p d a o
  | .tlw d a b => encR 102#7 0#1 0#3 d a b
  | .tlrd d a b => encR 102#7 0#1 1#3 d a b
  | .tli a => encR 102#7 0#1 2#3 124#7 a 124#7
  | .invt a b => encR 103#7 0#1 0#3 124#7 a b
  | .vprobe d a b => encR 103#7 0#1 1#3 d a b
  | .bact s r e p i => encK 104#7 0#4 (s ++ r ++ e ++ p ++ i ++ 0#3)
  | .bpre s => encK 104#7 1#4 (s ++ 0#19)
  | .browsh s t => encK 104#7 2#4 (s ++ t ++ 0#17)
  | .brcpy s t => encK 104#7 3#4 (s ++ t ++ 0#17)
  | .brdc s c o => encK 105#7 0#4 (s ++ c ++ o ++ 0#8)
  | .bwrc s c o => encK 105#7 1#4 (s ++ c ++ o ++ 0#8)
  | .bldt t x s y => encK 106#7 0#4 (t ++ x ++ s ++ y ++ 0#3)
  | .blut s x t y => encK 106#7 1#4 (s ++ x ++ t ++ y ++ 0#3)
  | .beadd d a b c v => encK 107#7 0#4 (d ++ a ++ b ++ c ++ v ++ 0#6)
  | .befma d a b c v p => encK 107#7 1#4 (d ++ a ++ b ++ c ++ v ++ p ++ 0#2)
  | .bescl d a c v p => encK 107#7 2#4 (d ++ a ++ 0#2 ++ c ++ v ++ p ++ 0#2)
  | .bacc n o i r z => encK 108#7 0#4 (n ++ o ++ i ++ r ++ z ++ 0#5)
  | .bloop e p c l => encK 109#7 0#4 (e ++ p ++ c ++ l)
  | .byld => encK 109#7 1#4 0#21
  | .bend => encK 109#7 2#4 0#21
  | .macq a => encS 112#7 0#4 a 0#14
  | .mrel e s => encS 112#7 1#4 124#7 (0#5 ++ e ++ s)
  | .mswap => encS 112#7 2#4 124#7 0#14
  | .mstat d s => encS 112#7 3#4 d (0#11 ++ s)
  | .mlds a o => encS 113#7 0#4 a o
  | .mscl a => encS 114#7 0#4 a 0#14
  | .mexec f a => encS 115#7 (0#1 ++ f) a 0#14
  | .macz s => encS 116#7 0#4 124#7 (0#11 ++ s)
  | .macrd a k s => encS 116#7 1#4 a (0#7 ++ k ++ s)
  | .macwr a k s => encS 116#7 2#4 a (0#7 ++ k ++ s)
  | .tcopy a o => encS 120#7 0#4 a o
  | .tcopyr a o => encS 120#7 1#4 a o
  | .bkrun a p s => encS 120#7 2#4 a (0#10 ++ p ++ s)
  | .chtail a => encS 121#7 0#4 a 0#14
  | .chseq a => encS 121#7 1#4 a 0#14
  | .evpop a => encS 122#7 0#4 a 0#14
  | .evwait a => encS 122#7 1#4 a 0#14
  | .cbar a c => encS 122#7 2#4 a (0#11 ++ c)
  | .mig a => encS 123#7 0#4 a 0#14
  | .mret => encS 123#7 1#4 124#7 0#14
  | .crd a n => encS 124#7 0#4 a (0#2 ++ n)
  | .cwr a n => encS 124#7 1#4 a (0#2 ++ n)
  | .eret a x => encS 124#7 2#4 a x
  | .tsetImm c => encS 124#7 3#4 124#7 c
  | .tsetReg a => encS 124#7 3#4 a 0#14
  | .evmark a k => encS 124#7 4#4 a (0#8 ++ k)
  | .mslot d w => encS 124#7 5#4 d (0#13 ++ w)
  | .ctxsw => encS 124#7 6#4 124#7 0#14
  | .dsrd a => encS 124#7 7#4 a 0#14
  | .dswr a => encS 124#7 8#4 a 0#14
  | .flgrd a => encS 124#7 9#4 a 0#14
  | .flgclr m => encS 124#7 10#4 124#7 (0#9 ++ m)
  | .capsFreeze a => encS 124#7 11#4 a 0#14
  | .capsEvent a => encS 124#7 11#4 a 1#14
  | .replayCheck .. => 0#32
  | .teamRollback .. => 0#32
  | .claimGrant => 0#32
  | .claimDeadlock .. => 0#32
  | .binDrawAge .. => 0#32
  | .timerTrap .. => 0#32
  | .framePost .. => 0#32
  | .handlerGroupStart .. => 0#32
  | .channelWaitServed .. => 0#32
  | .readLaunchEntry .. => 0#32
  | .placement .. => 0#32
  | .gdQpostWrite .. => 0#32
  | .hostQpostWrite .. => 0#32
  | .retryHead .. => 0#32
  | .skipHead .. => 0#32
  | .skipHeadTrigger .. => 0#32
  | .tsReformWrite .. => 0#32
  | .registerWrite .. => 0#32
  | .mmioWrite .. => 0#32
  | .contextSwap => 0#32
  | .preemptionRequest => 0#32
  | .contextSpill => 0#32
  | .contextLoad => 0#32
  | .migrationArrival .. => 0#32
  | .leaseHandoff => 0#32
  | .scanComplete => 0#32
  | .clearComplete => 0#32
  | .matrixOpStart .. => 0#32
  | .matrixOpComplete => 0#32
  | .tileCopyStart .. => 0#32
  | .tileCopyComplete .. => 0#32
  | .completionRecordPost .. => 0#32
  | .runPrecheck .. => 0#32
  | .bankAdmission .. => 0#32
  | .bankAccessServed .. => 0#32
  | .runComplete .. => 0#32
  | .copyEntry .. => 0#32
  | .copy2dEntry .. => 0#32
  | .fillEntry .. => 0#32
  | .nopEntry .. => 0#32
  | .tierDown .. => 0#32
  | .tierUp .. => 0#32
  | .zeroRows .. => 0#32
  | .rowCopy .. => 0#32
  | .engineChunk .. => 0#32
  | .engineRetry .. => 0#32
  | .engineSkip .. => 0#32
  | .beacon => 0#32
  | .beaconMissed .. => 0#32
  | .drainPoint .. => 0#32
  | .slotStart => 0#32
  | .slotEnd => 0#32
  | .fatalSignal .. => 0#32
  | .ringCopy => 0#32
  | .capsuleBuild => 0#32
  | .capsuleFlush => 0#32
  | .listCapsules .. => 0#32
  | .readCapsule .. => 0#32
  | .doorbell .. => 0#32
  | .validSet .. => 0#32
  | .validClear .. => 0#32
  | .keyprog .. => 0#32
  | .lockInterfaceRequest .. => 0#32
  | .startInterfaceRequest .. => 0#32
  | .bootEnd .. => 0#32
  | .stopInterfaceRequest .. => 0#32
  | .getDeviceInterfaceState .. => 0#32
  | .getDeviceInterfaceReport .. => 0#32
  | .growSlice .. => 0#32
  | .liveGranuleMove .. => 0#32
  | .getVersion .. => 0#32
  | .getCapabilities .. => 0#32
  | .getMeasurements .. => 0#32
  | .ideKm .. => 0#32
  | .ideIntegrityFailure .. => 0#32
  | .hostReadTimeout .. => 0#32
  | .flitReceived .. => 0#32
  | .remoteAccess .. => 0#32
  | .remoteTimeout .. => 0#32
  | .encjoin .. => 0#32
  | .revoke .. => 0#32
  | .enclaveRekey .. => 0#32
  | .epochGraceEnd .. => 0#32
  | .coldReset .. => 0#32
  | .flashUpdate .. => 0#32
  | .warmReset => 0#32
  | .hotReset => 0#32
  | .functionReset .. => 0#32
  | .powerGating .. => 0#32
  | .srIovCapabilityWrite .. => 0#32
  | .keyEx .. => 0#32
  | .negotiation .. => 0#32
  | .linkTraining .. => 0#32

/-- The instruction is a word, and not a step of another agent. -/
def isWord : Instr → Bool
  | .pfx .. => true
  | .limm .. => true
  | .iadd .. => true
  | .isub .. => true
  | .iadds .. => true
  | .isubs .. => true
  | .iaddns .. => true
  | .isubns .. => true
  | .iadd64 .. => true
  | .isub64 .. => true
  | .imul .. => true
  | .imulh .. => true
  | .imulhn .. => true
  | .imad .. => true
  | .idiv .. => true
  | .idivn .. => true
  | .irem .. => true
  | .iremn .. => true
  | .imin .. => true
  | .imax .. => true
  | .iminn .. => true
  | .imaxn .. => true
  | .iabs .. => true
  | .ineg .. => true
  | .andW .. => true
  | .orW .. => true
  | .xorW .. => true
  | .andn .. => true
  | .orn .. => true
  | .xnor .. => true
  | .mov .. => true
  | .shl .. => true
  | .shr .. => true
  | .sar .. => true
  | .rol .. => true
  | .ror .. => true
  | .fshl .. => true
  | .fshr .. => true
  | .popc .. => true
  | .clz .. => true
  | .ctz .. => true
  | .brev .. => true
  | .lea64 .. => true
  | .addi .. => true
  | .andi .. => true
  | .ori .. => true
  | .xori .. => true
  | .shli .. => true
  | .shri .. => true
  | .sari .. => true
  | .movi .. => true
  | .addi64 .. => true
  | .lea64i .. => true
  | .icmp .. => true
  | .icmpN .. => true
  | .icmpv .. => true
  | .icmpvN .. => true
  | .fcmp .. => true
  | .fcmpv .. => true
  | .sel .. => true
  | .prmb .. => true
  | .fclass .. => true
  | .bfx .. => true
  | .bfxs .. => true
  | .bfi .. => true
  | .fadd .. => true
  | .fsub .. => true
  | .fmul .. => true
  | .ffma .. => true
  | .fmac .. => true
  | .fmin .. => true
  | .fmax .. => true
  | .fcpysgn .. => true
  | .fabs .. => true
  | .fneg .. => true
  | .frnd .. => true
  | .fdiv .. => true
  | .fsqrt .. => true
  | .frcp .. => true
  | .frsq .. => true
  | .fexp2 .. => true
  | .flog2 .. => true
  | .fsin .. => true
  | .fcos .. => true
  | .ftanh .. => true
  | .hadd2 .. => true
  | .hmul2 .. => true
  | .hfma2 .. => true
  | .badd2 .. => true
  | .bmul2 .. => true
  | .bfma2 .. => true
  | .f2i .. => true
  | .i2f .. => true
  | .fcvtF16F32 .. => true
  | .fcvtF32F16 .. => true
  | .fcvtBf16F32 .. => true
  | .fcvtF32Bf16 .. => true
  | .fcvtE4m3F32 .. => true
  | .fcvtF32E4m3 .. => true
  | .fcvtE5m2F32 .. => true
  | .fcvtF32E5m2 .. => true
  | .fcvtE2m1F32 .. => true
  | .fcvtF32E2m1 .. => true
  | .fcvtBf16F16 .. => true
  | .fcvtF16Bf16 .. => true
  | .cvtdlF32 .. => true
  | .cvtdlDl8 .. => true
  | .mxq .. => true
  | .mxdq .. => true
  | .dot4e .. => true
  | .dot4i .. => true
  | .dot8q .. => true
  | .dot2b .. => true
  | .mxdot .. => true
  | .mxi8dot .. => true
  | .bra .. => true
  | .brc .. => true
  | .pjn .. => true
  | .call .. => true
  | .brx .. => true
  | .callx .. => true
  | .ret .. => true
  | .join => true
  | .exitThread => true
  | .yield => true
  | .nop => true
  | .reform .. => true
  | .trap .. => true
  | .brk .. => true
  | .vote .. => true
  | .matchLanes .. => true
  | .shfl .. => true
  | .bcast .. => true
  | .red .. => true
  | .fred .. => true
  | .fscan .. => true
  | .scan .. => true
  | .rgt .. => true
  | .kop .. => true
  | .kopNot .. => true
  | .kmovTor .. => true
  | .kmovTok .. => true
  | .bar .. => true
  | .bara .. => true
  | .barw .. => true
  | .elect .. => true
  | .winb .. => true
  | .trig => true
  | .rclaim .. => true
  | .rrel .. => true
  | .send .. => true
  | .sendw .. => true
  | .recv .. => true
  | .chq .. => true
  | .ldB .. => true
  | .ldH .. => true
  | .ldsB .. => true
  | .ldsH .. => true
  | .ldW .. => true
  | .ldD .. => true
  | .ldQ .. => true
  | .stB .. => true
  | .stH .. => true
  | .stW .. => true
  | .stD .. => true
  | .stQ .. => true
  | .atom .. => true
  | .atom64 .. => true
  | .atr .. => true
  | .fence .. => true
  | .fenceTl => true
  | .fenceOr => true
  | .cinv .. => true
  | .cwb .. => true
  | .icinv .. => true
  | .pref .. => true
  | .ldg .. => true
  | .tlw .. => true
  | .tlrd .. => true
  | .tli .. => true
  | .invt .. => true
  | .vprobe .. => true
  | .bact .. => true
  | .bpre .. => true
  | .browsh .. => true
  | .brcpy .. => true
  | .brdc .. => true
  | .bwrc .. => true
  | .bldt .. => true
  | .blut .. => true
  | .beadd .. => true
  | .befma .. => true
  | .bescl .. => true
  | .bacc .. => true
  | .bloop .. => true
  | .byld => true
  | .bend => true
  | .macq .. => true
  | .mrel .. => true
  | .mswap => true
  | .mstat .. => true
  | .mlds .. => true
  | .mscl .. => true
  | .mexec .. => true
  | .macz .. => true
  | .macrd .. => true
  | .macwr .. => true
  | .tcopy .. => true
  | .tcopyr .. => true
  | .bkrun .. => true
  | .chtail .. => true
  | .chseq .. => true
  | .evpop .. => true
  | .evwait .. => true
  | .cbar .. => true
  | .mig .. => true
  | .mret => true
  | .crd .. => true
  | .cwr .. => true
  | .eret .. => true
  | .tsetImm .. => true
  | .tsetReg .. => true
  | .evmark .. => true
  | .mslot .. => true
  | .ctxsw => true
  | .dsrd .. => true
  | .dswr .. => true
  | .flgrd .. => true
  | .flgclr .. => true
  | .capsFreeze .. => true
  | .capsEvent .. => true
  | .replayCheck .. => false
  | .teamRollback .. => false
  | .claimGrant => false
  | .claimDeadlock .. => false
  | .binDrawAge .. => false
  | .timerTrap .. => false
  | .framePost .. => false
  | .handlerGroupStart .. => false
  | .channelWaitServed .. => false
  | .readLaunchEntry .. => false
  | .placement .. => false
  | .gdQpostWrite .. => false
  | .hostQpostWrite .. => false
  | .retryHead .. => false
  | .skipHead .. => false
  | .skipHeadTrigger .. => false
  | .tsReformWrite .. => false
  | .registerWrite .. => false
  | .mmioWrite .. => false
  | .contextSwap => false
  | .preemptionRequest => false
  | .contextSpill => false
  | .contextLoad => false
  | .migrationArrival .. => false
  | .leaseHandoff => false
  | .scanComplete => false
  | .clearComplete => false
  | .matrixOpStart .. => false
  | .matrixOpComplete => false
  | .tileCopyStart .. => false
  | .tileCopyComplete .. => false
  | .completionRecordPost .. => false
  | .runPrecheck .. => false
  | .bankAdmission .. => false
  | .bankAccessServed .. => false
  | .runComplete .. => false
  | .copyEntry .. => false
  | .copy2dEntry .. => false
  | .fillEntry .. => false
  | .nopEntry .. => false
  | .tierDown .. => false
  | .tierUp .. => false
  | .zeroRows .. => false
  | .rowCopy .. => false
  | .engineChunk .. => false
  | .engineRetry .. => false
  | .engineSkip .. => false
  | .beacon => false
  | .beaconMissed .. => false
  | .drainPoint .. => false
  | .slotStart => false
  | .slotEnd => false
  | .fatalSignal .. => false
  | .ringCopy => false
  | .capsuleBuild => false
  | .capsuleFlush => false
  | .listCapsules .. => false
  | .readCapsule .. => false
  | .doorbell .. => false
  | .validSet .. => false
  | .validClear .. => false
  | .keyprog .. => false
  | .lockInterfaceRequest .. => false
  | .startInterfaceRequest .. => false
  | .bootEnd .. => false
  | .stopInterfaceRequest .. => false
  | .getDeviceInterfaceState .. => false
  | .getDeviceInterfaceReport .. => false
  | .growSlice .. => false
  | .liveGranuleMove .. => false
  | .getVersion .. => false
  | .getCapabilities .. => false
  | .getMeasurements .. => false
  | .ideKm .. => false
  | .ideIntegrityFailure .. => false
  | .hostReadTimeout .. => false
  | .flitReceived .. => false
  | .remoteAccess .. => false
  | .remoteTimeout .. => false
  | .encjoin .. => false
  | .revoke .. => false
  | .enclaveRekey .. => false
  | .epochGraceEnd .. => false
  | .coldReset .. => false
  | .flashUpdate .. => false
  | .warmReset => false
  | .hotReset => false
  | .functionReset .. => false
  | .powerGating .. => false
  | .srIovCapabilityWrite .. => false
  | .keyEx .. => false
  | .negotiation .. => false
  | .linkTraining .. => false

/-- The decoder: the instruction of a word, or none where the word raises the illegal-instruction trap by its encoding
alone (R41). -/
def decodeWord (w : Word) : Option Instr :=
  match decodeRaw w with
  | some i => if encode i = w ∧ wellFormed i = true then some i else none
  | none => none

/-- The little-endian bytes of a word at ascending addresses (R3, R31). -/
def wordBytes (w : Word) : List Byte := [w.extractLsb' 0 8, w.extractLsb' 8 8, w.extractLsb' 16 8, w.extractLsb' 24 8]

/-- The decoder over the bytes of memory: the instruction and the bytes after it. -/
def decodeBytes : List Byte → Option (Instr × List Byte)
  | b0 :: b1 :: b2 :: b3 :: rest =>
    match decodeWord (b3 ++ b2 ++ b1 ++ b0) with
    | some i => some (i, rest)
    | none => none
  | _ => none

/-- The decoder on a row of the opcode table, whose first word is bits 31 to 0. -/
def decodeTableWord (nbits w : Nat) : Option Instr :=
  if nbits = 0 then none
  else match decodeBytes (wordBytes (BitVec.ofNat 32 w)) with
    | some (i, _) => some i
    | none => none

end Sys2Proof
end

