-- ==== Sys2Proof/Config.lean ====
section
/-! DEFINITION. What an implementation fixes and what the spec leaves open. Every constant here is opaque: it has a type
and no body, so nothing can be proved of its value and every claim holds whatever it is. -/
namespace Sys2Proof

/-- The next free choice: the model applies it to the counter `free` of its state and advances the counter. It decides
every order and every value that the spec does not promise (log entry 1). -/
opaque Config.freeNat : Nat → Nat
/-- A free word, applied like `Config.freeNat` (log entry 1). -/
opaque Config.freeWord : Nat → BitVec 32
/-- A free byte: for a draw, the byte of a number (log entry 1). -/
opaque Config.freeByte : Nat → Nat → BitVec 8

/-- Whether a read sees the value that a write replaced: for a draw, the write's number and the unit of memory (spec/10 R224, R225;
log entry 14). -/
opaque Config.takesOld : Nat → Nat → Nat → Bool
/-- The byte that a place of another device, or of another core's scratchpad, gives: for a draw, the device and the address (spec/10
R221; log entry 2). -/
opaque Config.remoteByte : Nat → Nat → Nat → BitVec 8
/-- Whether it arrives poisoned. -/
opaque Config.remoteBad : Nat → Nat → Nat → Bool

/-- How far the recorder counter of another die stands ahead of the modelled core's die (R399): dies are not aligned. -/
opaque Config.dieSkew : Nat → Nat

/-- The priority of a handler group among the groups of its share, modulo 4: the spec gives the groups of grids theirs, and the
handler group belongs to no grid (spec/06_parallel_execution.md R142; log entry 31). -/
opaque Config.handlerPrio : Nat

/-- The result bits of the seven functions of major 0x22 on operands for which R111 states no exact result, by function
number 0 to 6, by the flush mode and by the operand (spec/05_lane_arithmetic_instructions.md R111; log entry 20). -/
opaque Config.approx : Nat → Bool → BitVec 32 → BitVec 32

/-- SM3 of a byte string, the hash that the spec takes by its name (spec/22_slices_and_attestation.md R455; log entry 22). -/
opaque Config.sm3 : List (BitVec 8) → BitVec 256
/-- Verification of an SM2 signature over SM3: key, message, signature (log entry 22). -/
opaque Config.sm2Verify : BitVec 512 → List (BitVec 8) → BitVec 512 → Bool
/-- Verification of an SM2 signature over SM3 under the key that comes with it and has a given SM3 digest (R471). -/
opaque Config.sm2VerifyBy : BitVec 256 → List (BitVec 8) → BitVec 512 → Bool
/-- An SM2 signature by the part's identity key on a message; the last argument is the signer's random value. -/
opaque Config.sm2Sign : List (BitVec 8) → Nat → BitVec 512
/-- A scalar times the base point of the SM2 curve, x then y. -/
opaque Config.sm2Base : Nat → BitVec 512
/-- A scalar times a point of the SM2 curve. -/
opaque Config.sm2Mul : Nat → BitVec 512 → BitVec 512
/-- The order of the SM2 curve, a number of the SM2 standard. -/
opaque Config.sm2Order : Nat
/-- The key-derivation function of the SM2 standard over SM3: the number of output bits and the input. -/
opaque Config.sm2Kdf : (n : Nat) → List (BitVec 8) → BitVec n
/-- SM4 in GCM mode: key, IV, additional data, plain text; the byte at a place of the cipher text followed by the tag. -/
opaque Config.sm4Gcm : BitVec 128 → List (BitVec 8) → List (BitVec 8) → List (BitVec 8) → Nat → BitVec 8
/-- The 16-byte CHECK of a context image, over the rest of the image (spec/17_faults_and_preemption.md R381). -/
opaque Config.imageCheck : List (BitVec 8) → BitVec 128

/-- The device serial (spec/19_event_recorder.md R409; log entry 23). -/
opaque Config.devId : BitVec 128
/-- The SM2 identity public key, derived from the part's physically unclonable function (R412). -/
opaque Config.idKey : BitVec 512
/-- The contents of the management core's ROM (spec/23_host_scale_up_and_enclaves.md R474). -/
opaque Config.rom : List (BitVec 8)
/-- The fused digest of the vendor's root key (R474). -/
opaque Config.romRootHash : BitVec 256
/-- The 16-byte check value of a slice key, which a key slot holds beside it (R447; log entry 22). -/
opaque Config.keyCheck : BitVec 128 → BitVec 128
/-- The device number that the signed configuration records give (spec/23_host_scale_up_and_enclaves.md R466; log entry 23). -/
opaque Config.recordDevice : List (BitVec 8) → Nat
/-- The routing table that they give: destination, primary and alternative port mask (R466). -/
opaque Config.recordRoutes : List (BitVec 8) → List (Nat × BitVec 18 × BitVec 18)
/-- The public key under which flash updates are signed (R475). -/
opaque Config.vendorKey : BitVec 512

end Sys2Proof
end

