-- ==== Sys2Proof/Machine/State.lean ====
section
/-! DEFINITION. The state of the machine as plain data, and the state after reset. One compute core is modelled with its
threads, teams and engines (log entry 2); what the package holds once, or per slice, is held here once or per slice. -/
namespace Sys2Proof.Machine

/-! ## Threads and groups (spec/01_sequential_machine.md R9, spec/06_parallel_execution.md R124 to R128) -/

/-- A register word with its poison bit (R9, R18). -/
structure PWord where
  val : Word
  poison : Bool
deriving DecidableEq, Repr

/-- One lane's element of a last-result latch (R15, R17): the word, its 9-bit tag, and the redirected mark. For a
redirected latch tagged "discard" the word is the saved value. -/
structure Latch where
  w : PWord
  tag : BitVec 9
  redir : Bool
deriving DecidableEq, Repr

/-- A thread: its place in the core's array (R124), its team-wide index (R126), whether it has not exited, its main
registers (one entry for each register of its allocation), its operand file and its four latches. -/
structure Thread where
  row : Nat
  col : Nat
  tix : Nat
  live : Bool
  regs : List PWord
  opf : List PWord
  lats : List Latch
deriving DecidableEq, Repr

/-- Privilege levels (R19). -/
inductive Level where
  | U | S | M
deriving DecidableEq, Repr

/-- States of a quad or fragment (R149). -/
inductive SeqSt where
  | run | cwait | jwait | trap | done
deriving DecidableEq, Repr

/-- What a quad that is in RUN but not ready waits for (R139): a barrier phase, a phase ticket, a register claim, a
channel operation of its context's list, an engine, a range that an engine has registered (R235), the other quads of its
group at an `mret` (R294), or at a `flgrd` the sequencers whose earlier units, at the addresses listed, are not over (R120). A quad that waits for an engine or a range tries its unit again. -/
inductive Wait where
  | none
  | bar (slot : Nat) (phase : BitVec 16)
  | barw (slot : Nat) (ticket : BitVec 16)
  | claim (n : Nat)
  | chan
  | engine
  | stall
  | home
  | flags (units : List (Nat × BitVec 56))
deriving DecidableEq, Repr

/-- The unit is tried again until it need not wait. -/
def Wait.retries : Wait → Bool
  | .engine => true
  | .stall => true
  | _ => false

/-- A wait at a `flgrd`. -/
def Wait.isFlags : Wait → Bool
  | .flags _ => true
  | _ => false

/-- A sequencer: a quad of a group, or a fragment of it (R9, R97, R146 to R149). `own` holds the columns whose threads it
owns, `active` the active ones, `stack` the divergence stack with its top first, `popNext` that the sequencer runs
resume_pop when it resumes (R101). -/
structure Seq where
  id : Nat
  pos : Nat
  frag : Bool
  own : BitVec 4
  active : BitVec 4
  pc : BitVec 56
  stack : List (BitVec 64)
  spill : Nat
  st : SeqSt
  wait : Wait
  ready : Nat
  popNext : Bool
deriving DecidableEq, Repr

/-- The floating-point mode register, the two flag sets and the context counters, held for a team, or for a handler group
by itself (R67, R75, R26, R27; R478). -/
structure FpCtx where
  mode : BitVec 32
  pending : BitVec 5
  committed : BitVec 5
  cycles : BitVec 64
  wall : BitVec 64
deriving DecidableEq, Repr

/-- A command outstanding in one of a group's three completion classes (R320, R329, R334): the sequence it was given and,
once complete, its status. -/
structure Pend where
  seq : BitVec 32
  done : Bool
  status : BitVec 32
deriving DecidableEq, Repr

/-- A group's completion sequence of one class: the last number issued, the commands not yet all complete, and the number
up to which every command has completed. -/
structure ClassSeq where
  issued : BitVec 32
  upTo : BitVec 32
  pend : List Pend
  bad : BitVec 32
deriving DecidableEq, Repr

/-- Where a migrated group is (spec/12_near_bank_compute.md R290): the stack and the spar core, or none while it waits in the
stack's arrival queue; the rounding mode register it carries, the flags it has raised since, and its team's flags as they
stood when it left (R67, R75, R120). -/
structure Mig where
  stack : Nat
  core : Option Nat
  mode : BitVec 32
  flags : BitVec 5
  seen : BitVec 5
deriving DecidableEq, Repr

/-- A group (R9, R124 to R128, R142), with the sequences of its completed tile copies with status 0x40 that no wait has
returned (R318, R347, R348): `team` is the resident slot of its team, none for a handler group (R364), whose own
floating-point context is `own`, its own `ce.sel` is `sel`, and `serving` names the team for whose frame it was started (R368); `threads`
are listed by virtual lane. -/
structure Group where
  gctx : Nat
  uid : Nat
  share : Nat
  team : Option Nat
  role : Nat
  index : Nat
  width : Nat
  reformed : Bool
  level : Level
  winb : Nat
  unif : List PWord
  masks : List (BitVec 64)
  threads : List Thread
  seqs : List Seq
  timer : Nat
  timerPend : Bool
  own : FpCtx
  sel : BitVec 10
  mx : ClassSeq
  tc : ClassSeq
  bk : ClassSeq
  unret : List (BitVec 32)
  mig : Option Mig
  serving : Option Nat
deriving DecidableEq, Repr

/-! ## Teams and grids -/

/-- A barrier slot (R164): EXPECT 0 stands for "team". `owed` is set while a team barrier that has all its arrivals waits
for the replay entries numbered below it (R369). -/
structure Bar where
  phase : BitVec 16
  arrived : Nat
  expect : Nat
  owed : Option Nat
deriving DecidableEq, Repr

/-- A team channel (R175): its depth, where its ring stands in the team's scratch, the head slot, the number of entries,
and the 64 poison bits of each slot; the words themselves are scratch bytes. -/
structure Chan where
  depth : Nat
  base : Nat
  head : Nat
  count : Nat
  poisons : List (BitVec 64)
deriving DecidableEq, Repr

/-- A `recv` or `sendw` that waits (R177, R178): the group and the sequencers of its issue, the channel number of its word,
the destination register and the lanes of a `recv`, and the cluster rank and the entry of a `sendw`. -/
structure ChWait where
  gctx : Nat
  team : Nat
  seqs : List Nat
  ch : Nat
  rank : Nat
  d : BitVec 7
  lanes : BitVec 64
  entry : Option (List PWord)
deriving DecidableEq, Repr

/-- An accumulator slot of a team (spec/14_asynchronous_engines.md R307): held or free, the operations that use it, and its rows
of 128 words. A row not listed reads zero. -/
structure AccSlot where
  holder : Option Nat
  users : Nat
  leaving : Bool
  rows : List (Nat × List PWord)
deriving DecidableEq, Repr

/-- An item of the barrier journal (R371), by group-context number, sequencer number, register number or channel. -/
inductive JItem where
  | reg (g q r : Nat)
  | unif (g r : Nat)
  | mask (g r : Nat)
  | seq (g q : Nat)
  | stack (g q : Nat)
  | lat (g q : Nat)
  | scr (row : Nat)
  | bar (slot : Nat)
  | chan (ch : Nat)
  | flags
  | mode
  | timer (g : Nat)
deriving DecidableEq, Repr

/-- A team resident on the core (R126, R127, R136 to R138, R372). `scrBase` and `scrSize` place its scratch. `journal`
lists the items changed since its last team barrier. `blocked` counts the live cycles for which it has stayed blocked, while
`blockedFree` was how often the pool's free count had risen (R173). `ended` marks a team that has ended while an engine operation still
uses its scratch or its accumulator slots (R136); a team that was killed (`killed`) waits for its bank runs too (R349). -/
structure Team where
  slot : Nat
  uid : Nat
  grid : Nat
  linear : Nat
  tx : Nat
  ty : Nat
  tz : Nat
  cluster : Nat
  crank : Nat
  csize : Nat
  scrBase : Nat
  scrSize : Nat
  bars : List Bar
  chans : List (Option Chan)
  accs : List AccSlot
  fp : FpCtx
  fpx : BitVec 64
  cesel : BitVec 10
  triggered : Bool
  eligible : Bool
  rollbacks : Nat
  journal : List JItem
  stopping : Option Nat
  blocked : Nat
  blockedFree : Nat
  ended : Bool
  killed : Bool
deriving DecidableEq, Repr

/-- What the journal can restore of a team (R371): the team's record, its groups and its scratch bytes as they stood at
the completion of its last team barrier, or at its placement. -/
structure TeamSnap where
  team : Team
  groups : List Group
  waits : List ChWait
  scratch : List Host.Cell
deriving DecidableEq, Repr

/-- A team that the placement has put on another core of the die (R135): its linear number, the core, and whether it has
triggered. What it computes is that core's. -/
structure RemoteTeam where
  linear : Nat
  core : Nat
  triggered : Bool
deriving DecidableEq, Repr

/-- A grid (R131 to R138): what the launch entry and the kernel descriptor gave it, and how far it has come. `const` holds
the constant bank's nonzero bytes (R197). `released` says that its dependences have been reached (R133 step 2), and `remote` lists
its teams on other cores that have not ended. -/
structure Grid where
  id : Nat
  f : Nat
  asid : BitVec 12
  entryVa : BitVec 64
  next : BitVec 64
  code : BitVec 64
  codeSize : Nat
  roles : List (Nat × Nat × Nat × Nat)
  scr : Nat
  chanBase : Nat
  chans : List Nat
  gx : Nat
  gy : Nat
  gz : Nat
  csize : Nat
  prio : Nat
  deps : List (BitVec 64)
  trigt : BitVec 64
  const : List Host.Cell
  nextCluster : Nat
  placing : Bool
  triggeredTeams : Nat
  triggerWritten : Bool
  endedTeams : Nat
  killed : Bool
  released : Bool := false
  remote : List RemoteTeam := []
deriving DecidableEq, Repr

/-! ## The engines beside the core (spec/14_asynchronous_engines.md R304 to R321) -/

/-- A weight plane with its scale store (R304): the format it was loaded with and its elements' own format, its loaded depth
and columns, its weight bytes, 512 to a column, and its scales, 32 to a column, each held XOR 0x7F; a byte not listed is
zero. -/
structure Plane where
  fmt : Option Nat
  elem : Nat
  depth : Nat
  cols : Nat
  weights : List Host.Cell
  scales : List Host.Cell
deriving DecidableEq, Repr

/-- The states of the matrix engine (R310); a group is named by its `uid`, here and in the queue. -/
inductive MxSt where
  | free
  | owned (g : Nat)
  | swap (x y : Option Nat)
  | clear
deriving DecidableEq, Repr

/-- A group's engine save area (R308, R311): the group, the area's address, the function and the address space in which it was translated
(R237), and the places of its pages (slice with physical address, 64 with a host address, 65 for another device), and the planes saved there, with the bytes that the engine wrote, by
which a later write to the area is noticed; `lost` marks an owner that has yet to be told that its planes failed their check. -/
structure SaveArea where
  uid : Nat
  va : Nat
  f : Nat
  asid : BitVec 12
  locs : List (Nat × Nat)
  image : Option (Plane × Plane)
  bytes : List (BitVec 8)
  lost : Bool
deriving DecidableEq, Repr

/-- The matrix operations (R308) with the operands they were issued with. -/
inductive MxCmd where
  | mlds (so : Nat)
  | mswap
  | mscl (so : Nat)
  | mexec (fmt : Nat) (block : List (BitVec 8))
  | macz
deriving DecidableEq, Repr

/-- Where the bytes of an access are. `peer` is the scratch of a cluster peer on another core, and `via` a place of this device's memory
that a remote leaf leads to (R467): host memory, or a slice's. -/
inductive Loc where
  | dram (f spa : Nat)
  | scratch (slot off : Nat)
  | const (grid off : Nat)
  | block (pattern : BitVec 32)
  | host (a : Nat)
  | remote (f dev ia : Nat)
  | peer (off : Nat)
  | via (host : Bool) (f a : Nat)
deriving DecidableEq, Repr

/-- An accepted matrix operation: the issuing group, its team, its MX sequence, its team slot, its layout record as read at
issue with the status of that read, and, once it has started, its status, the conditions it met, the rows that are left to do (R349), and the
column whose weights an error has hit (R319). -/
structure MxOp where
  gctx : Nat
  uid : Nat
  team : Nat
  tuid : Nat
  f : Nat
  asid : BitVec 12
  seq : BitVec 32
  cmd : MxCmd
  slot : Option Nat
  recBad : BitVec 8
  recBytes : List (BitVec 8)
  ranges : List (Nat × Nat × Bool)
  started : Bool
  status : BitVec 8
  nf : BitVec 5
  left : List Nat
  ecc : Option Nat
deriving DecidableEq, Repr

/-- A tile copy (R317): the issuing group with its level, its TC sequence, its operands, its layout record as read at issue
with the status of that read, its scratch ranges, and, once it runs, its status, the places of the pages found at its start, the rows left to
move, the scale rows after the tile's own (R349), and the rows of which some units have been moved, each with a number whose bits say
which (R317). -/
structure TcOp where
  id : Nat
  gctx : Nat
  uid : Nat
  team : Nat
  tuid : Nat
  f : Nat
  asid : BitVec 12
  user : Bool
  seq : BitVec 32
  back : Bool
  record : BitVec 64
  i0 : Nat
  j0 : Nat
  scope : Nat
  post : Bool
  recBad : BitVec 8
  recBytes : List (BitVec 8)
  so : Nat
  ranges : List (Nat × Nat × Bool)
  started : Bool
  status : BitVec 8
  pages : List (Nat × Loc)
  left : List Nat
  half : List (Nat × Nat)
deriving DecidableEq, Repr

/-- A completion record in a partition of the event queue (R321, R346), with the group it belongs to. -/
structure EvRecord where
  bits : BitVec 128
  uid : Nat
  scope : Nat
deriving DecidableEq, Repr

/-- A record that waits at its engine for room in a partition (R321): the engine, the core and the slice of the partition. -/
structure HeldRec where
  eng : Nat
  core : Nat
  f : Nat
  item : EvRecord
deriving DecidableEq, Repr

/-- A package copy engine, or the chain context of a slice on a migration engine (R322 to R326, R439): its registers, its
state's code (R323), the entry it performs with its address, the bytes done, and its status. -/
structure ChainEng where
  id : Nat
  f : Nat
  ctl : BitVec 32
  seq : BitVec 32
  head : BitVec 64
  cword : BitVec 64
  tail : BitVec 64
  st : Nat
  err : BitVec 8
  cur : BitVec 64
  entry : List (BitVec 8)
  off : Nat
  status : BitVec 8
deriving DecidableEq, Repr

/-- A block of the capacity tier (R216, R326): its nonzero bytes, its poisoned 16-byte blocks, and whether its check fails. -/
structure TierBlock where
  f : Nat
  block : Nat
  cells : List Host.Cell
  poison : List Nat
  bad : Bool
deriving DecidableEq, Repr

/-! ## Bank units and spar cores (spec/12_near_bank_compute.md R265 to R290) -/

/-- A row slot (R266). The contents of an open slot are the row's bytes in DRAM (log entry 30); `bind` names the row
whose tweak they are under, none for plain text (R267). -/
inductive BSlot where
  | closed
  | opened (row : Nat) (written : Bool) (bind : Option Nat)
  | table (cols : List (List PWord))
deriving DecidableEq, Repr

/-- An active loop of a microkernel (R277): the first and last word of its body, its index and its count. -/
structure BLoop where
  first : Nat
  last : Nat
  idx : Nat
  cnt : Nat
deriving DecidableEq, Repr

/-- A write by a bank run that waits at a bank (R287): the run, the slice, the physical address and the words. -/
structure BWrite where
  run : Nat
  f : Nat
  spa : Nat
  words : List PWord
deriving DecidableEq, Repr

/-- Who waits at a bank: the number of the group or engine, and the group's sequencers whose unit waits. -/
structure Holder where
  uid : Nat
  seqs : List Nat
deriving DecidableEq, Repr

/-- An access held at a bank (R287): who waits, the row, whether it writes, and the bytes where no unit is to be run again. -/
structure Held where
  who : Holder
  row : Nat
  write : Bool
  data : Option BWrite
deriving DecidableEq, Repr

/-- An instance of a run in its bank's FIFO (R265, R283): the run and the page number, the slice, the stack and bank, the
page's physical address, and, once started, the bank unit's state and the cycle in which it started. `held` lists the accesses that wait for
its next yield point, in order of arrival (R287); `atYield` marks such a point. An instance that has ended stays while accesses held at it are
still to be served. `pre` holds, by row and column, the words that the instance has written over in rows that are still open, and `marks`
whether those rows were poisoned when it moved content onto them (R284). `ending` is the code with which the instance ends and the slot that
the next `bpre` of its end closes (R277, R279). Loops stand innermost first. -/
structure Inst where
  run : Nat
  k : Nat
  f : Nat
  stack : Nat
  bank : Nat
  page : Nat
  started : Bool
  slots : List BSlot
  acc : List PWord
  pc : Nat
  loops : List BLoop
  flags : BitVec 5
  counter : Nat
  exceeded : Bool
  poison : Bool
  atYield : Bool
  held : List Held
  begun : Nat
  ended : Bool
  pre : List (Nat × Nat × List PWord)
  marks : List (Nat × Bool)
  ending : Option (Nat × Nat)
deriving DecidableEq, Repr

/-- How an instance of a run ended (R284, R286): its save record when it was stopped by a slot, with the slot's number. -/
structure InstEnd where
  k : Nat
  code : BitVec 8
  flags : BitVec 5
  counter : Nat
  exceeded : Bool
  poison : Bool
  save : Option (List PWord)
  slotSeq : BitVec 16
deriving DecidableEq, Repr

/-- A bank run (R280 to R284): who issued it, its block as read at the pre-check, its image, the 4 KiB pages found for it
(virtual page number, a slice or 64 for host memory or 65 for another device, and the place), what its instances left, whether its saves
and STATUS have been written, and which of its parameter words were read with poison. -/
structure Run where
  id : Nat
  gctx : Nat
  uid : Nat
  tuid : Nat
  share : Nat
  f : Nat
  asid : BitVec 12
  user : Bool
  seq : BitVec 32
  scope : Nat
  post : Bool
  va : Nat
  spar : Option (Nat × Nat)
  gridVa : Nat
  linear : Nat
  checked : Bool
  code : BitVec 8
  block : List (BitVec 8)
  image : List (BitVec 32)
  bound : Nat
  pages : List (Nat × Nat × Nat)
  ends : List InstEnd
  written : Bool
  pbad : BitVec 16
deriving DecidableEq, Repr

/-- A spar core's issue state (R140, R289): its last winner and the deficit counters of its slices. -/
structure SparCore where
  stack : Nat
  core : Nat
  last : Nat
  deficits : List (Nat × Int)
deriving DecidableEq, Repr

/-- The near-bank units: the runs, the instances in FIFO order, the instance whose word is being executed, the spar cores,
the groups that wait for a spar core in order of arrival (R290), who may reach closed rows of a bank, by stack and bank, because a yield
point serves them, and the records for fault queues, by function, whose writes banks hold (R287). -/
structure Banks where
  runs : List Run
  insts : List Inst
  cur : Option (Nat × Nat)
  nextRun : Nat
  spar : List SparCore
  arrivals : List Nat
  granted : List (Holder × Nat × Nat)
  posts : List (Nat × List (BitVec 8))
deriving DecidableEq, Repr

/-- The matrix engine of the core (R304 to R314). `plost` marks an owner whose planes failed their check; `leaving` an owner
that gives the engine up once its accepted operations are done; `lease` is the lease value in force (R312), `waiting` the groups that found the
queue full, by ready time (R308). -/
structure Matrix where
  st : MxSt
  count : Nat
  leaving : Bool
  plost : Bool
  fifo : List Nat
  ops : List MxOp
  active : Plane
  shadow : Plane
  areas : List SaveArea
  lease : Nat
  waiting : List (Nat × Nat)
  health : BitVec 64
  healthLoaded : Bool
deriving DecidableEq, Repr

/-! ## The core (spec/06, spec/07, spec/17) -/

/-- A tenant share of the core (R140, R141): the slice, its weight, its deficit counter, the coverage counters (R370), the
generations of its 64 frame handles (R364), and its lease (R312). -/
structure Share where
  f : Nat
  weight : Nat
  deficit : Int
  cover : BitVec 64
  events : BitVec 32
  gens : List (BitVec 8)
  lease : Nat
deriving DecidableEq, Repr

/-- A trap frame that is pending (R363, R364), with the sequencers it holds in TRAP. `handle` is none while the frame waits
for a free handle. `monitor` marks a frame of a trap routed to M (R361). -/
structure Frame where
  share : Nat
  handle : Option (BitVec 14)
  gctx : Nat
  team : Option Nat
  seqs : List Nat
  monitor : Bool
  started : Bool
  pc : BitVec 56
  addr : BitVec 64
  lanes : BitVec 64
  cause : BitVec 8
  info : BitVec 8
  level : Level
  frag : Bool
  word : BitVec 32
  code : BitVec 32
  tix : Nat
  ids : BitVec 32
  cycles : BitVec 64
deriving DecidableEq, Repr

/-- A register claim in the core's queue (R171). -/
structure Claim where
  gctx : Nat
  n : Nat
  need : Nat
deriving DecidableEq, Repr

/-- A thread filed in a reform bin (R150, R151), with the state of its former group that a draw needs (R152). `since` is the cycle at
which it was filed, moved on by the cycles for which its context was not live (R383), `former` the `uid` of its former group. -/
structure Filed where
  thread : Thread
  unif : List PWord
  since : Int
  former : Nat
deriving DecidableEq, Repr

/-- A reform bin that is filling (R151), with its key. -/
structure Bin where
  team : Nat
  role : Nat
  pc : BitVec 56
  winb : Nat
  level : Level
  threads : List Filed
deriving DecidableEq, Repr

/-- An entry of the replay queue (R369): the group and sequencers whose unit it re-executes. -/
structure Replay where
  serial : Nat
  gctx : Nat
  team : Option Nat
  share : Nat
deriving DecidableEq, Repr

/-- One register bank of the core: what belongs to the live or to the shadow context (R377). `spilled` holds the scratch of
its teams while the scratch stays in an image (R379), `left` the cycle at which it left the live bank (R383), `rises` how often its
pool's free count has risen (R173). -/
structure Ctx where
  groups : List Group
  teams : List Team
  snaps : List TeamSnap
  free : Nat
  claims : List Claim
  frames : List Frame
  bins : List (Option Bin)
  waits : List ChWait
  spilled : List (Nat × List Host.Cell)
  left : Nat
  rises : Nat := 0
deriving DecidableEq, Repr

/-- A translation-cache entry (R203): what the walk for a page gave, the ranges of intermediate addresses, as start and size, that the
stage-2 entries of the walk cover, and the groups whose `invt` has covered it. -/
structure TlbEntry (α : Type) where
  f : Nat
  asid : BitVec 12
  page : Nat
  res : α
  ias : List (Nat × Nat)
  marks : List Nat
deriving DecidableEq, Repr

/-- The end of a walk that did not translate (R200, R363 INFO): stage 2 or 1, the table level, malformed or not present. -/
structure WalkFail where
  stage2 : Bool
  level : Nat
  malformed : Bool
deriving DecidableEq, Repr

/-- A resolved translation of a page (R199 to R202): where its bytes are, and the attributes of the two stages. -/
structure Leaf where
  spa : Nat
  host : Bool
  remote : Option Nat
  cb : Option (BitVec 32)
  w1 : Bool
  x1 : Bool
  u1 : Bool
  nr1 : Bool
  w2 : Bool
  x2 : Bool
  u2 : Bool
  nr2 : Bool
  uncached : Bool
  br : Bool
  size1 : Nat
  size2 : Nat
  lvl1 : Nat
  lvl2 : Nat
deriving DecidableEq, Repr

/-- The result of a walk. -/
inductive Walk where
  | ok (l : Leaf)
  | fail (w : WalkFail)
deriving DecidableEq, Repr

/-- An instruction-cache word (R238): the slice, the physical address and the word as it was fetched, the groups whose
`icinv` has covered it, and the groups that may no longer use it. -/
structure IcWord where
  f : Nat
  spa : Nat
  word : BitVec 32
  poison : Bool
  marks : List Nat
  barred : List Nat
deriving DecidableEq, Repr

/-- A record held by the tile-layout cache (R218), with the numbers of the writes that it may miss (R236). -/
structure RecEntry where
  f : Nat
  asid : BitVec 12
  va : Nat
  bytes : List (BitVec 8)
  missed : List Nat := []
deriving DecidableEq, Repr

/-- A row of DRAM by its slice-relative place (R213): slice, granule ordinal, stack, bank of the granule, row. -/
structure RowKey where
  f : Nat
  ord : Nat
  stack : Nat
  bank : Nat
  row : Nat
deriving DecidableEq, Repr

/-- A scratch word as it stood before a lane store that an engine read may still miss (R234): its core-physical offset, and
the groups whose `fence.or` has covered the store. -/
structure ScrOld where
  off : Nat
  val : BitVec 32
  marks : List Nat
deriving DecidableEq, Repr

/-- Who or what writes are visible to. The agents of the consistency model (R220): a thread by its team and its index in it, a thread of a
handler group by its lane, an operation of a group by class (0 bank run, 1 matrix, 2 tile copy) and sequence, a command of a chain engine
by its sequence, the dispatcher of a die, the core that saves contexts, a slice's trap hardware, the host, another device. A group stands for what was
promised to all its threads. The others carry what a release has covered to the acquires that pair with it (R227, R228): one release, the
arrivals at a barrier slot and those of its completed phases, an entry of a channel, the published part of a chain, the launch and the
trigger of a grid, and a launch counter. -/
inductive AgentId where
  | thread (team tix : Nat)
  | handler (group lane : Nat)
  | group (uid : Nat)
  | op (cls group : Nat) (seq : BitVec 32)
  | chain (eng f : Nat) (seq : BitVec 32)
  | dispatcher (die : Nat)
  | core
  | faults (f : Nat)
  | host
  | device (dev : Nat)
  | release (n : Nat)
  | arrived (team slot : Nat)
  | passed (team slot : Nat)
  | entry (team ch slot : Nat)
  | tail (eng f : Nat)
  | launch (grid : Nat)
  | trigger (grid : Nat)
  | counter (f i : Nat)
deriving DecidableEq, Repr

/-- An agent with the instances that it lies in (R222, R223): its group, its team and its cluster where it has one, and the lowest scope
from die up whose instances hold it. -/
structure Agent where
  id : AgentId
  group : Option Nat
  team : Option Nat
  cluster : Option (Nat × Nat)
  reach : Nat
deriving DecidableEq, Repr

/-- A release (R226): what it covered is visible to `view`; who made it, and at which scope; `op` marks the completion of an engine's
operation, which a plain read of its completion word does not pair with (R233). -/
structure Release where
  view : AgentId
  who : Agent
  scope : Nat
  op : Bool
deriving DecidableEq, Repr

/-- The bytes that a write replaced, each with its poison (R224): where they stood, the write's number, and to whom the write is visible.
Any other agent may still read them. `atomic` marks the write of an atomic, `whole` a write that a read sees whole (R437), and `rels` are
the releases with which an acquire that reads the write synchronises (R227). -/
structure OldVal where
  key : Nat
  bytes : List (BitVec 8 × Bool)
  num : Nat
  seen : List AgentId
  atomic : Bool
  whole : Bool
  rels : List Release
deriving DecidableEq, Repr

/-- What the access paths remember beside memory itself: the rows whose tag failure has been counted (R215), old scratch words
(R234), host addresses whose next read comes too late (R463), the replaced values that some agents may still read (R224, R225), the newest
write first, the number of the next write, the 32-byte CRC groups whose next transfer arrives poisoned (R214), and the reads of poisoned blocks
that have reached a bank, by function and block, in their order (R376), the stripes of poisoned rows that migration engines have
rewritten (R213), the last release fence of each agent and scope, the releases whose writes an agent has read and that its next acquire
fence may pair with, the operations that engines have been given, each with the release that its completion is, the agents whose stores
and atomics to other devices wait for their acknowledgement (R468), and the number of the next release (R226 to R229). -/
structure Paths where
  rowSeen : List RowKey
  scrOld : List ScrOld
  hostLate : List Nat
  olds : List OldVal
  nextOld : Nat
  linkBad : List Nat
  reads : List (Nat × Nat)
  rowPart : List (RowKey × List Nat)
  fences : List Release := []
  pend : List (AgentId × Release) := []
  ops : List Release := []
  unacked : List AgentId := []
  nextRel : Nat := 0
deriving DecidableEq, Repr

/-- The context registers of the core and the swap machinery (R378 to R384): `swap` is set while a swap is asked for, `mon`
when Nimzil asked; `spill` and `load` while the background engine still has that to do; `f` is the function whose address space
the images are in, `late` and `since` the missed deadline and the cycles outside slots that the save has taken, `size` a free number that
gives the size of the next image (log entry 28). -/
structure CxRegs where
  f : Nat
  ctl : BitVec 32
  sva : BitVec 64
  rva : BitVec 64
  err : BitVec 8
  late : Bool
  swap : Bool
  mon : Bool
  spill : Bool
  load : Bool
  since : Nat
  size : Nat
deriving DecidableEq, Repr

/-- A context image (R381): the slice and the context that its sealed form holds, with its scratch, and every byte that the
spill engine wrote, by which a change of it is noticed; the cycle of the save and the sequencer's cold resets then (R27). `loaded` marks
one whose context has entered a bank again, of which only the bytes are left. -/
structure Image where
  f : Nat
  saved : Nat
  boots : BitVec 32
  ctx : Ctx
  shares : List (Option Share)
  bytes : List (BitVec 8)
  loaded : Bool
deriving DecidableEq, Repr

/-- The unit in progress (R28): its group, the sequencers that issue it, its address, the address of the word being read,
that word, the prefix words read so far, and the number of active lanes of the whole slot. `away` marks a unit of a migrated
group whose home context is in the shadow bank (R295). -/
structure Cur where
  away : Bool
  gctx : Nat
  seqs : List Nat
  unitPc : BitVec 56
  pc : BitVec 56
  word : BitVec 32
  pfx : Option (BitVec 32)
  limm : Option (BitVec 25)
  lanes : Nat
deriving DecidableEq, Repr

/-- One group's part in an issue slot of the current cycle (R143): its sequencers that issue, and the number of active lanes
of the whole slot (R369). -/
structure Issue where
  gctx : Nat
  seqs : List Nat
  lanes : Nat
deriving DecidableEq, Repr

/-! ## Slices (spec/22_slices_and_attestation.md R440 to R449) -/

/-- A launch queue of a slice on one die (R129): `reason` is meaningful while `halted`; `nextUnread` says that the refused
entry's NEXT could not be read, `next` and `trigt` are what the refused entry held (R134). `grid` is the grid that the dispatcher holds between its steps 2 and 3 (R133). -/
structure LaunchQ where
  qhead : BitVec 64
  qcfg : BitVec 32
  qpost : BitVec 16
  done : BitVec 16
  halted : Bool
  reason : BitVec 8
  nextUnread : Bool
  next : BitVec 64
  trigt : BitVec 64
  grid : Option Nat
deriving DecidableEq, Repr

/-- A change of a slice that goes on until the slice's operations in flight are over (R459, R460, R471): VALID cleared by a write of these
bytes, a STOP, a re-key, the revocation of a participant. -/
inductive Change where
  | clear (bytes : List (BitVec 8))
  | stop
  | rekey (key : BitVec 128) (owner : BitVec 512)
  | revoke (slot part : Nat) (epoch : BitVec 8)
deriving DecidableEq, Repr

/-- A slice's keys, session, IDE stream with its key, and TDISP interface (R443 to R464). `sess` is 0 without an SPDM session, 1 with negotiated
algorithms, 2 with a secure session; `ide` is 0 without keys, 1 keyed, 2 insecure; `move` is a granule move in progress:
the ordinal, the new granule and the banks done; `change` another change in progress. `check` and `transit` stand beside the key in the
slice's key slot (R447), `doe` is the response in the function's DOE mailbox (R461). -/
structure Trust where
  key : BitVec 128
  check : BitVec 128
  transit : BitVec 128
  owner : BitVec 512
  nonce : BitVec 256
  sess : Nat
  report : BitVec 32
  smapDig : BitVec 256
  svDig : BitVec 256
  s2Dig : BitVec 256
  ide : Nat
  ideKey : BitVec 256
  msixCtl : BitVec 16
  request : List (BitVec 8)
  response : List (BitVec 8)
  mbStat : BitVec 32
  doe : List (BitVec 8)
  move : Option (Nat × Nat × Nat)
  change : Option Change
deriving DecidableEq, Repr

/-- A slice: its map, its registers and its trusted-interface state. `granOff` holds what is written in bits 5 to 0 of the
`sm.gran` entries that are not valid, by ordinal (R440), `msixControl` is its MSI-X control word (R444). -/
structure Slice where
  valid : Bool
  band : Nat
  nocomp : Bool
  keyed : Bool
  keyEpoch : BitVec 8
  tdi : BitVec 2
  sv : BitVec 64
  svlen : BitVec 32
  tierq : BitVec 32
  err : BitVec 8
  s2root : BitVec 64
  gran : List (Option Nat)
  granOff : List (Nat × Nat)
  cores : List (Nat × Nat × Nat)
  spar : List (Nat × Nat)
  ceng : List Nat
  meng : List Nat
  offer : List Host.Cell
  trVec : BitVec 64
  trFbase : BitVec 64
  trCtl : BitVec 32
  fqBase : BitVec 64
  fqIdx : BitVec 32
  gd : List LaunchQ
  lcnt : List (BitVec 32)
  asbase : BitVec 64
  errs : BitVec 64
  msixControl : BitVec 16
  msix : List (BitVec 128)
  pba : BitVec 64
  halted : Bool
  trust : Trust
deriving DecidableEq, Repr

/-- An empty launch queue: every register 0 (R129). -/
def LaunchQ.empty : LaunchQ := ⟨0#64, 0#32, 0#16, 0#16, false, 0#8, false, 0#64, 0#64, none⟩

/-- No key, no session, no digest. -/
def Trust.empty : Trust where
  key := 0#128
  check := 0#128
  transit := 0#128
  owner := 0#512
  nonce := 0#256
  sess := 0
  report := 0#32
  smapDig := 0#256
  svDig := 0#256
  s2Dig := 0#256
  ide := 0
  ideKey := 0#256
  msixCtl := 0#16
  request := []
  response := []
  mbStat := 0#32
  doe := []
  move := none
  change := none

/-- A slice that does not exist, with every register at its reset value. -/
def Slice.empty : Slice where
  valid := false
  band := 0
  nocomp := false
  keyed := false
  keyEpoch := 0#8
  tdi := 0#2
  sv := 0#64
  svlen := 0#32
  tierq := 0#32
  err := 0#8
  s2root := 0#64
  gran := List.replicate 64 none
  granOff := []
  cores := []
  spar := []
  ceng := []
  meng := []
  offer := []
  trVec := 0#64
  trFbase := 0#64
  trCtl := 0#32
  fqBase := 0#64
  fqIdx := 0#32
  gd := List.replicate 4 LaunchQ.empty
  lcnt := List.replicate 16 0#32
  asbase := 0#64
  errs := 0#64
  msixControl := 63#16
  msix := List.replicate 64 (1#128 <<< 96)
  pba := 0#64
  halted := false
  trust := Trust.empty

/-! ## The recorder (spec/19_event_recorder.md R397 to R413) -/

/-- A unit's ring (R397): its main area and the parts of its mark area, oldest event first, the count of events produced,
and, while it is frozen, how many events it has dropped and since when (R404); `unheard` counts those dropped in every freeze. -/
structure Ring where
  main : List (BitVec 128)
  marks : List (Nat × List (BitVec 128))
  produced : Nat
  frozen : Bool
  dropped : Nat
  since : Nat
  lastSlot : BitVec 16
  unheard : Nat
deriving DecidableEq, Repr

/-- A unit's section of the ring copy in the retention SRAM (R405, R409): the unit, the events up to and including its
freeze mark, the events produced, the cycle of the mark, the last slot and the events dropped while frozen. -/
structure Section where
  unit : Nat
  events : List (BitVec 128)
  produced : Nat
  markCycle : BitVec 48
  lastSlot : BitVec 16
  unheard : Nat
deriving DecidableEq, Repr

/-- States of the freeze controller (R405). -/
inductive FcSt where
  | idle | freezing | copying | building | flushing | stopped
deriving DecidableEq, Repr

/-- The freeze controller (R404 to R407) and the retention SRAM (R413). `droppedAt` is DROPPED at the freeze, `again` the
second, device-fatal, capsule of R406 with its unit, `points` the points of the functions when the copy was made (R402, R408). -/
structure Freeze where
  st : FcSt
  seq : Nat
  dropped : Nat
  kind : Nat
  haltVf : Nat
  fault : BitVec 128
  unit : Nat
  secondary : List (BitVec 128 × Nat)
  nsec : Nat
  skip : Bool
  droppedAt : Nat
  again : Option (BitVec 128 × Nat)
  copy : Option (List Section)
  capsule : List (BitVec 8)
  points : List (Nat × BitVec 512)
deriving DecidableEq, Repr

/-- A capsule in flash or being flushed (R409, R413). -/
structure Capsule where
  seq : Nat
  kind : Nat
  haltVf : Nat
  bytes : List (BitVec 8)
deriving DecidableEq, Repr

/-! ## The calendar (spec/20_reef_slots.md R416 to R426) -/

/-- A slot that the calendar has fixed (R416, R417): its start on the modelled die's counter, its 47-bit number, and its
kind, its doubled bit and whether a data-rate change is scheduled in it. -/
structure SlotRec where
  start : Nat
  num : Nat
  major : Bool
  doubled : Bool
  rate : Bool
deriving DecidableEq, Repr

/-- The reef-slot sequencer and the dies' views of it (R417 to R421, R425): the next two slots; the slot in progress with
its end; whether the drain point and the beacon of the next slot have passed; thermal doubling and the cool sweeps counted;
beacons missed in all and in a row, for each die; the sequencer's cold resets; stack temperatures in degrees; pin rates in
hundreds of Mb/s, and the changes asked for; the dies that have received a beacon since the cold reset (R421); how far the countdown of each
other die stands from the modelled die's (R419), and the slot last begun; the requests to DRAM that slots hold, by who waits and by stack, in
order of arrival (R423); the sub-channels, by 64 times the stack and their number, that are to be retrained, those that failed in the last
major slot, and those that are disabled (R214, R426); and the banks, by stack and number, whose scrub counters showed errors that last
(R425, R426). -/
structure Calendar where
  next : SlotRec
  after : SlotRec
  inSlot : Option (SlotRec × Nat)
  drained : Bool
  sent : Bool
  doubling : Bool
  cool : Nat
  missed : List (Nat × Nat × Nat)
  resets : BitVec 32
  temps : List Nat
  rates : List Nat
  asked : List (Nat × Nat)
  heard : List Nat
  offs : List (Nat × Int)
  last : Option SlotRec
  queue : List (Holder × Nat)
  retrain : List Nat
  failed : List Nat
  disabled : List Nat
  worn : List (Nat × Nat)
deriving DecidableEq, Repr

/-! ## Host port, link, enclaves and boot (spec/23_host_scale_up_and_enclaves.md) -/

/-- A Vorif port (R465): up or down, the next number to send, the number expected, the replay buffer with the flits sent and not yet
acknowledged, oldest first, how often the oldest of them has been sent again, and whether the port is to be retrained. -/
structure Port where
  up : Bool
  tx : BitVec 12
  rx : BitVec 12
  buffer : List (List (BitVec 8))
  replays : Nat
  retrain : Bool
deriving DecidableEq, Repr

/-- The answer to a remote request (R467, R471): the enclave slot and the device it goes to, its status, and the bytes read with their
poison. -/
structure LinkReply where
  slot : Nat
  dst : Nat
  status : BitVec 8
  data : List (BitVec 8 × Bool)
deriving DecidableEq, Repr

/-- The SR-IOV fields that a lock freezes (R450, R461): the base of the virtual functions' BAR0, NumVFs, VF Enable and VF MSE. -/
structure SrIov where
  vfBar0 : BitVec 64
  numVfs : BitVec 16
  enable : Bool
  mse : Bool
deriving DecidableEq, Repr

/-- The management core (R473): whether IO1's core has taken over, its mode, program counter and registers, and its SRAM. -/
structure Manager where
  second : Bool
  user : Bool
  pc : BitVec 64
  regs : List (BitVec 64)
  sram : List Host.Cell
deriving DecidableEq, Repr

/-- An enclave joined by functions of this device (R469 to R472): its participants here as (participant, function), the
revoked ones, whether packets of the epoch before are still accepted, and the message counters of the keys, by source and destination
device. -/
structure Enclave where
  slot : Nat
  id : BitVec 64
  secret : BitVec 128
  n : Nat
  q : Nat
  digests : List (BitVec 256)
  members : List (Nat × Nat)
  revoked : List Nat
  epoch : BitVec 8
  grace : Bool
  counters : List (Nat × Nat × Nat)
deriving DecidableEq, Repr

/-- Boot (R474, R475): the measurement blocks 1 to 6, the measurement register, whether the part is in recovery, and whether
Nimzil runs. -/
structure Boot where
  meas : List (BitVec 256)
  m : BitVec 256
  recovery : Bool
  up : Bool
deriving DecidableEq, Repr

/-- What the package holds once: the physical function's error log count (R442, R445), its base addresses (R462), the SR-IOV fields (R450), the
frozen stage-2 table pages by function (R451), the retired banks by granule (R426), the host link (R461), the ports and this device's number
and routing table, as destination, primary and alternative port mask (R465, R466), the enclaves, the packets dropped (R470), the answers
sent to other devices (R467), boot, the management core and the flash that it boots from (R473, R474), the capacity tier's blocks, the
power-gated mark and the compute dies' temperatures in degrees (R476, R477), replacement requests (R401), and whether the identity key has
been derived (R474), and the management core's records of poison consumed: the place of the read in its bank's order, the function and the
address (R376). -/
structure Package where
  pfLog : Nat
  bar0 : BitVec 64
  bar2 : BitVec 64
  sriov : SrIov
  frozen : List (Nat × Nat)
  retired : List Nat
  linkSpeed : Nat
  linkWidth : Nat
  ports : List Port
  device : Nat
  routes : List (Nat × BitVec 18 × BitVec 18)
  enclaves : List Enclave
  dropped : Nat
  replies : List LinkReply
  boot : Boot
  manager : Manager
  firmware : List Host.Cell
  tier : List TierBlock
  gated : Bool
  dieTemps : List Nat
  replace : Nat
  identity : Bool
  consumers : List (Nat × Nat × Nat)
deriving DecidableEq, Repr

/-! ## The machine -/

/-- Memory: the bytes that are not zero, by address, addresses strictly rising (log entry 3). -/
abbrev Memory := List Host.Cell

/-- The state of the machine; `turns` names for each migration engine, by its number, the function whose chunk it moved last (R439). -/
structure State where
  coreNo : Nat
  live : Ctx
  shadow : Option Ctx
  shares : List (Option Share)
  lastWinner : Nat
  grids : List Grid
  nextGrid : Nat
  reformAge : BitVec 32
  replays : List Replay
  replaySerial : Nat
  cloned : List Nat
  tick : Bool
  idle : Nat
  nextUid : Nat
  mx : Matrix
  tcs : List TcOp
  evq : List (Nat × List EvRecord)
  held : List HeldRec
  engs : List ChainEng
  bank : Banks
  paths : Paths
  cx : CxRegs
  images : List Image
  cal : Calendar
  pkg : Package
  dieCycles : BitVec 64
  slices : List Slice
  dram : Memory
  scr : Memory
  host : Memory
  eccBad : List Nat
  rowBad : List RowKey
  tlb : List (TlbEntry Walk)
  icache : List IcWord
  records : List RecEntry
  rings : List (Nat × Ring)
  fc : Freeze
  flash : List Capsule
  points : List (Nat × BitVec 512)
  messages : List (Nat × Nat)
  turns : List (Nat × Nat)
  device : Bool
  inputs : List Instr
  issues : List Issue
  cur : Option Cur
  free : Nat
deriving DecidableEq, Repr

/-! ## Reset -/

/-- A plane with nothing loaded (R310). -/
def Plane.empty : Plane := ⟨none, 0, 0, 0, [], []⟩

/-- A context with no group in it: the whole register pool is free (R170), and every bin is empty (R151). -/
def Ctx.empty : Ctx := ⟨[], [], [], 8192, [], [], List.replicate 32 none, [], [], 0, 0⟩

/-- The matrix engine after reset (R310, R314). -/
def Matrix.empty : Matrix := ⟨.free, 0, false, false, [], [], Plane.empty, Plane.empty, [], 64, [], 4#64, false⟩

/-- The calendar after the sequencer's cold reset (R417, R418): slot 0 comes next, one normal free gap after the reset (log
entry 5), slot 1 after it; no stack is warm. -/
def Calendar.reset : Calendar where
  next := ⟨28435, 0, true, false, false⟩
  after := ⟨28435 + 45120 + 28435, 1, false, false, false⟩
  inSlot := none
  drained := false
  sent := false
  doubling := false
  cool := 0
  missed := []
  resets := 0#32
  temps := List.replicate 12 25
  rates := List.replicate 12 128
  asked := []
  heard := []
  offs := []
  last := none
  queue := []
  retrain := []
  failed := []
  disabled := []
  worn := []

/-- The SR-IOV fields after reset: every bit 0 but the type of a 64-bit BAR (log entry 29). -/
def SrIov.reset : SrIov := ⟨4#64, 0#16, false, false⟩

/-- The management core held in reset (log entry 4). -/
def Manager.reset : Manager := ⟨false, false, 0#64, List.replicate 32 0#64, []⟩

/-- The package after reset: no slice exists, the link is not trained, every port is up, nothing is measured (log entry 4). -/
def Package.reset : Package where
  pfLog := 0
  bar0 := 4#64
  bar2 := 4#64
  sriov := SrIov.reset
  frozen := []
  retired := []
  linkSpeed := 0
  linkWidth := 0
  ports := List.replicate 18 ⟨true, 0#12, 0#12, [], 0, false⟩
  device := 0
  routes := []
  enclaves := []
  dropped := 0
  replies := []
  boot := ⟨List.replicate 6 0#256, 0#256, false, false⟩
  manager := Manager.reset
  firmware := []
  tier := []
  gated := false
  dieTemps := List.replicate 4 25
  replace := 0
  identity := false
  consumers := []

/-- The machine right after reset: no slice, no share, no group; nothing in memory; the issue state of R140 and R153 at its
reset values. Where the spec gives no reset value the fields hold what log entries 2 to 5 say. -/
def State.reset : State where
  coreNo := 0
  live := Ctx.empty
  shadow := none
  shares := List.replicate 4 none
  lastWinner := 3
  grids := []
  nextGrid := 0
  reformAge := 512#32
  replays := []
  replaySerial := 0
  cloned := []
  tick := false
  idle := 0
  nextUid := 0
  mx := Matrix.empty
  tcs := []
  evq := []
  held := []
  engs := []
  bank := ⟨[], [], none, 0, [], [], [], []⟩
  paths := ⟨[], [], [], [], 0, [], [], [], [], [], [], [], 0⟩
  cx := ⟨0, 0#32, 0#64, 0#64, 0#8, false, false, false, false, false, 0, 0⟩
  images := []
  cal := Calendar.reset
  pkg := Package.reset
  dieCycles := 0#64
  slices := List.replicate 64 Slice.empty
  dram := []
  scr := []
  host := []
  eccBad := []
  rowBad := []
  tlb := []
  icache := []
  records := []
  rings := []
  fc := ⟨.idle, 0, 0, 0, 0, 0#128, 0, [], 0, false, 0, none, none, [], []⟩
  flash := []
  points := []
  messages := []
  turns := []
  device := false
  inputs := []
  issues := []
  cur := none
  free := 0

/-- Why the machine stops. -/
inductive Fault where
  /-- Raised by `step` once the part has stopped device-fatally (R374): safe, nothing runs afterwards. -/
  | deviceStopped
  /-- Raised by the meaning of a word in a state in which no group and no bank microkernel is executing a unit. `step` never
  calls a meaning so: safe. -/
  | noUnit
deriving DecidableEq, Repr

/-- Why an instruction is refused. -/
inductive Refusal where
  /-- Raised by `exec` for an instruction without a meaning in this model: safe. -/
  | notModelled (mnemonic : String)
deriving DecidableEq, Repr

end Sys2Proof.Machine
end

