-- ==== Sys2Proof/Machine/Mem.lean ====
section
/-! DEFINITION. Memory in its canonical form, bytes and words of it, and the physical places behind a slice-relative
physical address (spec/09_memory_hierarchy.md R205, R206, R213, R214). -/
namespace Sys2Proof.Machine

/-! ## Canonical memory (log entry 3) -/

/-- The byte at an address; an unlisted address reads 0. -/
def memGet : Memory → Nat → Byte
  | [], _ => 0#8
  | (k, v) :: m, a => if a = k then v else if a < k then 0#8 else memGet m a

/-- Memory with one byte written, in canonical form: a zero byte is not listed. -/
def memPut : Memory → Nat → Byte → Memory
  | [], a, b => if b = 0#8 then [] else [(a, b)]
  | (k, v) :: m, a, b =>
    if a < k then (if b = 0#8 then (k, v) :: m else (a, b) :: (k, v) :: m)
    else if a = k then (if b = 0#8 then m else (a, b) :: m)
    else (k, v) :: memPut m a b

/-- Every listed address lies above the bound, addresses rise strictly, and no listed byte is zero. -/
def memWfFrom : Nat → Memory → Bool
  | _, [] => true
  | lo, (k, v) :: m => decide (lo ≤ k) && (v != 0#8) && memWfFrom (k + 1) m

/-- The canonical form. -/
def Memory.wf (m : Memory) : Bool := memWfFrom 0 m

/-- Consecutive bytes, in ascending address order. -/
def memRead (m : Memory) (a : Nat) : Nat → List Byte
  | 0 => []
  | n + 1 => memGet m a :: memRead m (a + 1) n

/-- Consecutive bytes written. -/
def memWrite (m : Memory) (a : Nat) : List Byte → Memory
  | [] => m
  | b :: bs => memWrite (memPut m a b) (a + 1) bs

/-- The bytes of a memory from `lo` up to but not at `hi`. -/
def memSlice (m : Memory) (lo hi : Nat) : Memory := m.filter fun c => decide (lo ≤ c.1) && decide (c.1 < hi)

/-- Memory with the bytes from `lo` up to `hi` made zero. -/
def memClear (m : Memory) (lo hi : Nat) : Memory := m.filter fun c => !(decide (lo ≤ c.1) && decide (c.1 < hi))

/-- Several bytes written at addresses of their own, in list order. -/
def memPuts (m : Memory) : List (Nat × Byte) → Memory
  | [] => m
  | (a, b) :: r => memPuts (memPut m a b) r

/-! ## Little-endian numbers (R3) -/

/-- The number that bytes at ascending addresses hold. -/
def leNat : List Byte → Nat
  | [] => 0
  | b :: bs => b.toNat + 256 * leNat bs

/-- The low n bytes of a number. -/
def natLe : Nat → Nat → List Byte
  | 0, _ => []
  | n + 1, v => BitVec.ofNat 8 v :: natLe n (v / 256)

/-- Bits hi down to lo of a number. -/
def bits (v hi lo : Nat) : Nat := (v / 2 ^ lo) % 2 ^ (hi - lo + 1)

/-- One bit of a number. -/
def bitAt (v i : Nat) : Bool := (v / 2 ^ i) % 2 == 1

/-! ## Slices -/

/-- A slice with nothing in it; the reset value of every block of the slice map (R441). -/
def State.slice (s : State) (f : Nat) : Slice := s.slices.getD f Slice.empty

/-- The state with one slice replaced. -/
def State.setSlice (s : State) (f : Nat) (x : Slice) : State := { s with slices := s.slices.set f x }

/-- The number of granules a slice holds: its valid entries, ordinals 0 to n - 1 (R205, R442). -/
def Slice.grans (x : Slice) : Nat := (x.gran.filter (·.isSome)).length

/-- 12 GiB, the size of a granule's window (R205). -/
def granBytes : Nat := 12 * 2 ^ 30

/-- The physical address lies in the window of an ordinal below the slice's granule count (R205). -/
def spaInWindow (x : Slice) (spa : Nat) : Bool := decide (spa / 2 ^ 34 < x.grans) && decide (spa % 2 ^ 34 < granBytes)

/-- The address lies in the bank-resident part of its window (R205). -/
def spaResident (x : Slice) (spa : Nat) : Bool := decide (spa % 2 ^ 34 < 384 * x.band * 2 ^ 21)

/-- The row and the byte of a physical address (R206), by its slice-relative place. -/
def spaRow (f : Nat) (x : Slice) (spa : Nat) : RowKey × Nat :=
  let off := spa % 2 ^ 34
  let base := 384 * x.band * 2 ^ 21
  if off < base then
    let q := off / 2 ^ 21
    let k := q % 384
    (⟨f, spa / 2 ^ 34, k % 12, k / 12, (q / 384) * 1024 + (off / 2048) % 1024⟩, off % 2048)
  else
    let st := (off - base) / 256
    let t := st / 384
    let row := 1024 * x.band + t / 8
    (⟨f, spa / 2 ^ 34, st % 12, (st / 12) % 32 ^^^ row % 32, row⟩, (t % 8) * 256 + off % 256)

/-- The bank of a stack that holds the row now (R205): bank 32 j + b for the granule j bound to the ordinal. -/
def rowBank (x : Slice) (r : RowKey) : Nat := 32 * ((x.gran.getD r.ord none).getD 0) + r.bank

/-! ## DRAM of a slice -/

/-- The key of a slice's physical byte in the package's DRAM. -/
def dramKey (f spa : Nat) : Nat := f * 2 ^ 40 + spa % 2 ^ 40

/-- The byte is poisoned: its 16-byte block has an uncorrectable error, or its row's tag failed (R213, R214, R244). -/
def spaPoison (s : State) (f spa : Nat) : Bool :=
  s.eccBad.contains (dramKey f spa / 16) || s.rowBad.contains (spaRow f (s.slice f) spa).1

/-- Bytes read from a slice's DRAM. -/
def spaRead (s : State) (f spa n : Nat) : List Byte := memRead s.dram (dramKey f spa) n

/-- Some byte of the range is poisoned. The range lies within one 2 KiB stripe of blocks. -/
def spaPoisonRange (s : State) (f spa n : Nat) : Bool :=
  (List.range ((spa % 16 + n + 15) / 16)).any fun i => spaPoison s f (spa / 16 * 16 + 16 * i)

/-- The 16-byte blocks all of whose bytes are among the written ones get fresh error codes (R214). -/
def healBlocks (bad : List Nat) (keys : List Nat) : List Nat :=
  bad.filter fun b => !((List.range 16).all fun i => keys.contains (16 * b + i))

/-- One store request of a slice: bytes written at physical addresses of their own, later ones of the list winning; a
block that the request covers whole is no longer poisoned (R192, R214). -/
def spaWrites (s : State) (f : Nat) (ws : List (Nat × Byte)) : State :=
  let ks := ws.map fun p => (dramKey f p.1, p.2)
  { s with dram := memPuts s.dram ks, eccBad := healBlocks s.eccBad (ks.map (·.1)) }

/-- Consecutive bytes written as one request. -/
def spaWrite (s : State) (f spa : Nat) (bs : List Byte) : State :=
  spaWrites s f ((List.range bs.length).map fun i => (spa + i, bs.getD i 0#8))

/-- The next free choice and the state that has used it (log entry 1). -/
def State.choose (s : State) : Nat × State := (Config.freeNat s.free, { s with free := s.free + 1 })

/-- Free bytes. -/
def State.chooseBytes (s : State) (n : Nat) : List Byte × State := ((List.range n).map (Config.freeByte s.free), { s with free := s.free + 1 })

/-- The next free word. -/
def State.chooseWord (s : State) : Word × State := (Config.freeWord s.free, { s with free := s.free + 1 })

end Sys2Proof.Machine
end

