-- ==== Sys2Proof/Machine/Errors.lean ====
section
/-! DEFINITION. The event recorder's rings, and the errors that reads of memory meet, which are counted and recorded (spec/09 R213 to R215;
spec/19 R397 to R401). -/
namespace Sys2Proof.Machine

/-! ## The core's place and time -/

/-- The die of the modelled core (R363). -/
def State.die (s : State) : Nat := s.coreNo / 48

/-- The cycle number of the core's die. -/
def State.now (s : State) : Nat := s.dieCycles.toNat

/-! ## The recorder (R397 to R401) -/

/-- A ring with nothing recorded. -/
def Ring.empty : Ring := ⟨[], [], 0, false, 0, 0, 0#16, 0⟩

/-- The ring of a unit. -/
def State.ring (s : State) (u : Nat) : Ring := ((s.rings.find? fun p => p.1 == u).map (·.2)).getD Ring.empty

/-- The rings with one unit's ring replaced, in ascending unit number. -/
def putRing : List (Nat × Ring) → Nat → Ring → List (Nat × Ring)
  | [], u, r => [(u, r)]
  | (v, q) :: l, u, r => if u < v then (u, r) :: (v, q) :: l else if u = v then (u, r) :: l else (v, q) :: putRing l u r

/-- The state with a unit's ring replaced. -/
def State.setRing (s : State) (u : Nat) (r : Ring) : State := { s with rings := putRing s.rings u r }

/-- A list cut to its newest n entries. -/
def newest {α : Type} (n : Nat) (l : List α) : List α := l.drop (l.length - n)

/-- The capacity of a unit's main area in events (R397). -/
def mainCap (u : Nat) : Nat := if u < 0x100 then 3584 else if u < 0x200 then 1792 else 8192

/-- The recorder counter of a unit's die (R399): the core's own die counts `die.cycles`; the other dies' counters are not
aligned with it, by an amount that nothing promises (log entry 1). -/
def unitCycles (s : State) (u : Nat) : BitVec 48 :=
  if u / 48 = s.die ∧ u < 0x100 then s.dieCycles.setWidth 48
  else (s.dieCycles + BitVec.ofNat 64 (Config.dieSkew (if u < 0x100 then u / 48 else u))).setWidth 48

/-- An event (R400). -/
def eventOf (cls kind asid vf : Nat) (cycle : BitVec 48) (payload : Nat) : BitVec 128 :=
  BitVec.ofNat 128 (cls * 2 ^ 122 + (kind % 64) * 2 ^ 116 + (asid % 4096) * 2 ^ 104 + (vf % 64) * 2 ^ 98 + cycle.toNat * 2 ^ 50
    + payload % 2 ^ 50)

/-- An event produced while the ring is frozen is dropped and counted (R404). -/
def Ring.drop (r : Ring) : Ring := { r with produced := r.produced + 1, dropped := r.dropped + 1, unheard := r.unheard + 1 }

/-- An event appended to a unit's main area; a frozen ring drops and counts it (R397, R404). -/
def State.recRaw (s : State) (u : Nat) (ev : BitVec 128) : State :=
  let r := s.ring u
  s.setRing u (if r.frozen then r.drop
    else { r with produced := r.produced + 1, main := newest (mainCap u) (r.main ++ [ev]) })

/-- A tenant or device event recorded by a unit, with its die's counter; a device event, which an event of function 0 is, has
ASID zero (R400, R438). -/
def State.recEvent (s : State) (u cls kind asid vf payload : Nat) : State :=
  s.recRaw u (eventOf cls kind (if vf = 0 then 0 else asid) vf (unitCycles s u) payload)

/-! ## Errors found by reads (R213 to R215) -/

/-- A field of 16 bits of a 64-bit counter raised by one, saturating. -/
def satAdd64 (w : BitVec 64) (lo : Nat) : BitVec 64 := if bits w.toNat (lo + 15) lo = 0xFFFF then w else w + BitVec.ofNat 64 (2 ^ lo)

/-- The lowest physical address of the row of an address (R206). -/
def rowBase (x : Slice) (spa : Nat) : Nat :=
  let off := spa % 2 ^ 34
  let base := 384 * x.band * 2 ^ 21
  if off < base then spa / 2048 * 2048
  else spa - off + base + ((off - base) / 256 - (off - base) / 256 / 384 % 8 * 384) * 256

/-- A read of poisoned DRAM counts and records its error: a row tag failure once for the row, else an uncorrectable block
(R213 to R215, R401). -/
def State.noteBad (s : State) (asid : BitVec 12) (f spa : Nat) : State :=
  let x := s.slice f
  let r := (spaRow f x spa).1
  let u := 0x100 + r.stack
  if s.rowBad.contains r then
    if s.paths.rowSeen.contains r then s
    else
      let s1 := s.setSlice f { x with errs := satAdd64 x.errs 48 }
      { s1 with paths := { s1.paths with rowSeen := r :: s1.paths.rowSeen } }.recEvent u 0x06 0x02 asid.toNat f (rowBase x spa)
  else if s.eccBad.contains (dramKey f spa / 16) then
    (s.setSlice f { x with errs := satAdd64 x.errs 32 }).recEvent u 0x06 0x01 asid.toNat f (spa / 16 * 16)
  else s

/-- A read of a range by an agent of an address space notes the poisoned blocks that it meets. -/
def State.noteRange (s : State) (asid : BitVec 12) (f spa n : Nat) : State :=
  if s.eccBad.isEmpty && s.rowBad.isEmpty then s
  else (List.range ((spa % 16 + n + 15) / 16)).foldl (fun t i =>
    let a := spa / 16 * 16 + 16 * i
    if spaPoison t f a then t.noteBad asid f a else t) s

/-- A write that reaches a row first has the row's tag verified (R213, R215). -/
def State.noteTag (s : State) (asid : BitVec 12) (f spa : Nat) : State :=
  if s.rowBad.contains (spaRow f (s.slice f) spa).1 then s.noteBad asid f spa else s

end Sys2Proof.Machine
end

