-- ==== Sys2Proof/Machine/Translate.lean ====
section
/-! DEFINITION. The two-stage walk, the permissions and the caches of translations (spec/09_memory_hierarchy.md R198 to
R204, R217; spec/23_host_scale_up_and_enclaves.md R463, R467). -/
namespace Sys2Proof.Machine

/-! ## Table entries (R199) -/

/-- The fields of a table entry that a walk uses. -/
structure Pte where
  v : Bool
  t : Bool
  w : Bool
  x : Bool
  u : Bool
  cb : Bool
  nr : Bool
  ct : Nat
  br : Bool
  mt : Nat
  frame : Nat
  dev : Nat
  rm : Bool
  raw : Nat
deriving DecidableEq, Repr

/-- A table entry's fields; `frame` is the byte address that FRAME names. -/
def pteOf (n : Nat) : Pte where
  v := bitAt n 0
  t := bitAt n 1
  w := bitAt n 2
  x := bitAt n 3
  u := bitAt n 4
  cb := bitAt n 5
  nr := bitAt n 6
  ct := bits n 8 7
  br := bitAt n 9
  mt := bits n 11 10
  frame := bits n 47 12 * 4096
  dev := bits n 61 48
  rm := bitAt n 62
  raw := n

/-- The entry is a proper table pointer: only V, T and FRAME may be set (R200). -/
def ptrOk (e : Pte) : Bool := e.raw == e.frame + 3

/-- What is malformed in a leaf of either stage at a level (R199, R200): a reserved bit or value, a field outside its
place, a contiguous-run code outside its level, a 2 MiB frame that is not aligned. R199 does not say what a constant-block leaf is whose
bits [47:44] are not zero or that is remote as well: DESIGN CHOICE, it is malformed (log entry 46). -/
def leafBad (stage2 : Bool) (lvl : Nat) (e : Pte) : Bool :=
  bitAt e.raw 63 || decide (2 ≤ e.mt)
  || (e.ct == 1 && lvl != 0) || (decide (2 ≤ e.ct) && lvl != 1)
  || (lvl == 1 && e.frame % 2 ^ 21 != 0 && !e.cb)
  || (e.rm && stage2) || (!e.rm && e.dev != 0)
  || (e.br && !(stage2 && lvl == 1))
  || (e.cb && (stage2 || lvl != 0 || e.ct != 1 || e.rm || bits e.raw 47 44 != 0))

/-- A host leaf: FRAME bits [47:46] are 0b10 (R463). -/
def hostLeaf (e : Pte) : Bool := e.frame / 2 ^ 46 == 2

/-! ## Stage 2 (R198, R200, R205) -/

/-- A stage-2 leaf: the output of the 4 KiB page, and the attributes. -/
structure Leaf2 where
  base : Nat
  host : Bool
  w : Bool
  x : Bool
  u : Bool
  nr : Bool
  unc : Bool
  br : Bool
  size : Nat
  lvl : Nat
deriving DecidableEq, Repr

/-- The page-size code of a leaf (R202, R264). -/
def sizeCode (lvl ct : Nat) : Nat := if lvl = 0 then (if ct = 1 then 1 else 0) else if ct = 2 then 3 else if ct = 3 then 4 else 2

/-- What more is malformed in a stage-2 leaf: U must be 1, the frame must lie within its granule's window and below the
slice's granule count, and BR must agree with the band; a host leaf has no window and must not have BR (R200, R201,
R463). -/
def leaf2Bad (x : Slice) (e : Pte) : Bool :=
  !e.u || (if hostLeaf e then e.br
    else !spaInWindow x e.frame || decide (2 ^ 40 ≤ e.frame) || e.br != spaResident x e.frame)

/-- The stage-2 walk of an intermediate address from a level down (R198, R200). Tables stand at slice-0 physical
addresses (R440). The spec does not say what a walk does with a poisoned word: DESIGN CHOICE, it uses the word as it stands (log entry
46). -/
def walk2 (s : State) (x : Slice) (ia : Nat) : Nat → Nat → Except WalkFail Leaf2
  | 0, _ => .error ⟨true, 0, true⟩
  | lvl + 1, table =>
    let idx := if lvl = 4 then 0 else bits ia (20 + 9 * lvl) (12 + 9 * lvl)
    let e := pteOf (leNat (spaRead s 0 (table + 8 * idx) 8))
    if !e.v then .error ⟨true, lvl, false⟩
    else if e.t then
      if lvl = 0 ∨ ¬ ptrOk e = true ∨ granBytes ≤ e.frame % 2 ^ 34 then .error ⟨true, lvl, true⟩
      else walk2 s x ia lvl e.frame
    else if 2 ≤ lvl ∨ leafBad true lvl e = true ∨ leaf2Bad x e = true then .error ⟨true, lvl, true⟩
    else
      let off := if lvl = 1 then bits ia 20 12 * 4096 else 0
      let host := hostLeaf e
      .ok ⟨(if host then e.frame % 2 ^ 46 else e.frame) + off, host, e.w, e.x, e.u, e.nr, e.mt == 1 || host, e.br,
        sizeCode lvl e.ct, lvl⟩

/-- Stage 2 of a function (R198, R204): an IA of more than 48 bits cannot stand in a table; without a valid root every
access is a level-4 entry not present. -/
def stage2 (s : State) (f ia : Nat) : Except WalkFail Leaf2 :=
  let x := s.slice f
  if x.s2root.getLsbD 0 then walk2 s x ia 5 (bits x.s2root.toNat 39 12 * 4096) else .error ⟨true, 4, false⟩

/-- Eight bytes of a stage-1 table, read at an IA through stage 2 (R198). A page that is not resident is a failure of its
stage-2 leaf (log entry 12). The spec does not say what a walk does with a poisoned or late word: DESIGN CHOICE, it uses the word as it
stands (log entry 46). -/
def readIa (s : State) (f ia : Nat) : Except WalkFail Nat :=
  match stage2 s f ia with
  | .error e => .error e
  | .ok l =>
    if l.nr then .error ⟨true, l.lvl, false⟩
    else if l.host then .ok (leNat (memRead s.host (l.base + ia % 4096) 8))
    else .ok (leNat (spaRead s f (l.base + ia % 4096) 8))

/-! ## Stage 1 (R198, R200, R204) -/

/-- The function is joined to an enclave, so that remote leaves are allowed (R467). -/
def joined (s : State) (f : Nat) : Bool := s.pkg.enclaves.any fun e => e.members.any fun p => p.2 == f

/-- The end of a stage-1 walk at a leaf: the page's translation with the attributes of both stages (R199 to R202). In a contiguous run
whose leaves disagree an access may use its own leaf or one derived from another of the run (R202): DESIGN CHOICE, a walk uses its own,
and the caches keep what other leaves of the run gave (log entry 46). -/
def leaf1 (s : State) (f : Nat) (va lvl : Nat) (e : Pte) : Walk :=
  let off := if lvl = 1 then bits va 20 12 * 4096 else 0
  let z1 := sizeCode lvl e.ct
  if e.cb then
    .ok ⟨0, false, none, some (BitVec.ofNat 32 (bits e.raw 43 12)), e.w, e.x, e.u, e.nr, true, true, true, false,
      e.mt == 1, false, z1, z1, lvl, lvl⟩
  else if e.rm then
    .ok ⟨e.frame + off, false, some e.dev, none, e.w, e.x, e.u, e.nr, true, true, true, false, e.mt == 1, false, z1, z1, lvl, lvl⟩
  else match stage2 s f (e.frame + off) with
    | .error w => .fail w
    | .ok l =>
      .ok ⟨l.base, l.host, none, none, e.w, e.x, e.u, e.nr, l.w, l.x, l.u, l.nr, e.mt == 1 || l.unc, l.br, z1, l.size, lvl, l.lvl⟩

/-- The stage-1 walk of a virtual address from a level down. -/
def walk1 (s : State) (f va : Nat) : Nat → Nat → Walk
  | 0, _ => .fail ⟨false, 0, true⟩
  | lvl + 1, table =>
    let idx := if lvl = 4 then bits va 55 48 else bits va (20 + 9 * lvl) (12 + 9 * lvl)
    match readIa s f (table + 8 * idx) with
    | .error w => .fail w
    | .ok n =>
      let e := pteOf n
      if !e.v then .fail ⟨false, lvl, false⟩
      else if e.t then
        if lvl = 0 ∨ ¬ ptrOk e = true then .fail ⟨false, lvl, true⟩ else walk1 s f va lvl e.frame
      else if 2 ≤ lvl ∨ leafBad false lvl e = true ∨ (e.rm = true ∧ ¬ joined s f = true) then .fail ⟨false, lvl, true⟩
      else leaf1 s f va lvl e

/-- The translation of a virtual address of an address space, as the tables stand now (R198, R204). -/
def walk (s : State) (f : Nat) (asid : BitVec 12) (va : Nat) : Walk :=
  let x := s.slice f
  if !x.s2root.getLsbD 0 then .fail ⟨true, 4, false⟩
  else
    let a := bits x.asbase.toNat 47 16 * 65536 + 16 * asid.toNat
    match readIa s f a, readIa s f (a + 8) with
    | .ok n, .ok m =>
      if !bitAt n 0 then .fail ⟨false, 4, false⟩
      else if n != bits n 47 12 * 4096 + 1 || m != 0 then .fail ⟨false, 4, true⟩
      else walk1 s f (va % 2 ^ 56) 5 (bits n 47 12 * 4096)
    | .error w, _ => .fail w
    | _, .error w => .fail w

/-! ## Translation caches (R203, R237) -/

/-- The bytes that a stage-2 leaf covers (R202). -/
def Leaf2.bytes (l : Leaf2) : Nat := match l.size with
  | 0 => 4096
  | 1 => 16 * 4096
  | 2 => 2 ^ 21
  | 3 => 2 ^ 25
  | _ => 2 ^ 29

/-- The intermediate addresses that the stage-2 entry reached for an address covers, as start and size (R202, R263). -/
def stage2Range (s : State) (f ia : Nat) : Nat × Nat :=
  let n := match stage2 s f ia with
    | .ok l => l.bytes
    | .error w => 4096 * 512 ^ w.level
  (ia / n * n, n)

/-- The ranges of the stage-2 entries that the stage-1 walk from a level down reaches (R263). -/
def walkIas (s : State) (f va : Nat) : Nat → Nat → List (Nat × Nat)
  | 0, _ => []
  | lvl + 1, table =>
    let idx := if lvl = 4 then bits va 55 48 else bits va (20 + 9 * lvl) (12 + 9 * lvl)
    let here := stage2Range s f (table + 8 * idx)
    here :: match readIa s f (table + 8 * idx) with
      | .error _ => []
      | .ok n =>
        let e := pteOf n
        if !e.v then []
        else if e.t then walkIas s f va lvl e.frame
        else if e.cb || e.rm then []
        else [stage2Range s f (e.frame + if lvl = 1 then bits va 20 12 * 4096 else 0)]

/-- The reads of the stage-2 walk of an intermediate address from a level down: slice and physical address (R440). -/
def walk2Cells (s : State) (ia : Nat) : Nat → Nat → List (Nat × Nat)
  | 0, _ => []
  | lvl + 1, table =>
    let a := table + 8 * (if lvl = 4 then 0 else bits ia (20 + 9 * lvl) (12 + 9 * lvl))
    let e := pteOf (leNat (spaRead s 0 a 8))
    (0, a) :: if e.v && e.t then walk2Cells s ia lvl e.frame else []

/-- The reads of a function's stage 2. -/
def stage2Cells (s : State) (f ia : Nat) : List (Nat × Nat) :=
  if (s.slice f).s2root.getLsbD 0 then walk2Cells s ia 5 (bits (s.slice f).s2root.toNat 39 12 * 4096) else []

/-- The reads of an entry of a stage-1 table at an intermediate address. -/
def entryCells (s : State) (f ia : Nat) : List (Nat × Nat) :=
  stage2Cells s f ia ++ match stage2 s f ia with
    | .ok l => if l.nr || l.host then [] else [(f, l.base + ia % 4096)]
    | .error _ => []

/-- The reads of a stage-1 walk from a level down. -/
def walk1Cells (s : State) (f va : Nat) : Nat → Nat → List (Nat × Nat)
  | 0, _ => []
  | lvl + 1, table =>
    let a := table + 8 * (if lvl = 4 then bits va 55 48 else bits va (20 + 9 * lvl) (12 + 9 * lvl))
    entryCells s f a ++ match readIa s f a with
      | .error _ => []
      | .ok n =>
        let e := pteOf n
        if !e.v then []
        else if e.t then walk1Cells s f va lvl e.frame
        else if e.cb || e.rm then []
        else stage2Cells s f (e.frame + if lvl = 1 then bits va 20 12 * 4096 else 0)

/-- The reads of memory that the walk of a virtual address makes, in their order (R198, R287). -/
def walkCells (s : State) (f : Nat) (asid : BitVec 12) (va : Nat) : List (Nat × Nat) :=
  let a := bits (s.slice f).asbase.toNat 47 16 * 65536 + 16 * asid.toNat
  entryCells s f a ++ match readIa s f a with
    | .error _ => []
    | .ok n => walk1Cells s f (va % 2 ^ 56) 5 (bits n 47 12 * 4096)

/-- Every range of intermediate addresses whose stage-2 entries the walk of a virtual address uses. -/
def walkRanges (s : State) (f : Nat) (asid : BitVec 12) (va : Nat) : List (Nat × Nat) :=
  let a := bits (s.slice f).asbase.toNat 47 16 * 65536 + 16 * asid.toNat
  stage2Range s f a :: match readIa s f a with
    | .error _ => []
    | .ok n => walkIas s f (va % 2 ^ 56) 5 (bits n 47 12 * 4096)

/-- The pages of a leaf of a size code (R202). -/
def sizePages : Nat → Nat
  | 0 => 1
  | 1 => 16
  | 2 => 512
  | 3 => 8192
  | _ => 131072

/-- A translation-cache entry translates a page of the same leaf as a virtual address, at any page size (R263). -/
def TlbEntry.covers (e : TlbEntry Walk) (va : Nat) : Bool :=
  let n := match e.res with
    | .ok l => min (sizePages l.size1) (sizePages l.size2)
    | .fail w => 512 ^ w.level
  e.page / n == va % 2 ^ 56 / 4096 / n

/-- A translation of a page as it translates another page of the same cached entry. -/
def Walk.at (w : Walk) (page there : Nat) : Walk := match w with
  | .ok l => .ok (if l.cb.isSome then l else { l with spa := l.spa + 4096 * there - 4096 * page })
  | .fail e => .fail e

/-- The errors that the reads of a walk meet are counted and recorded (R213 to R215). -/
def State.noteWalk (s : State) (f : Nat) (asid : BitVec 12) (va : Nat) : State :=
  if s.eccBad.isEmpty && s.rowBad.isEmpty then s
  else (walkCells s f asid va).foldl (fun t p => t.noteRange asid p.1 p.2 8) s

/-- The cached entries that a translation of a virtual address may use. -/
def State.cached (s : State) (f : Nat) (asid : BitVec 12) (va : Nat) : List (TlbEntry Walk) :=
  s.tlb.filter fun e => e.f == f && e.asid == asid && e.covers va

/-- The translation that an access uses, and the state with the caches filled: the one that the tables give now, or a
cached one that differs from it, by a free choice (R203; log entry 13). A cached entry translates every page of its leaf. -/
def xlate (s : State) (f : Nat) (asid : BitVec 12) (va : Nat) : Walk × State :=
  let now := walk s f asid va
  let page := va % 2 ^ 56 / 4096
  let olds := s.cached f asid va
  let s1 := if olds.any (fun e => decide (e.res.at e.page page = now) && e.marks.isEmpty) then s
    else { s.noteWalk f asid va with tlb := ⟨f, asid, page, now, walkRanges s f asid va, []⟩ :: s.tlb }
  let diff := (olds.map fun e => e.res.at e.page page).filter fun r => decide (r ≠ now)
  if diff.isEmpty then (now, s1)
  else
    let (n, s2) := s1.choose
    ((now :: diff).getD (n % (diff.length + 1)) now, s2)

/-! ## Access checks (R201, R217) -/

/-- Kinds of access. -/
inductive Acc where
  | load | store | atomic | fetch
deriving DecidableEq, Repr

/-- A lane's fault of ranks 1 to 6 (R243, R360): cause, the INFO byte without its write and fetch bits, whether it was
found in a stage-2 entry, and the address. -/
structure Flt where
  rank : Nat
  cause : BitVec 8
  stage2 : Bool
  level : Nat
  malformed : Bool
  addr : Nat
deriving DecidableEq, Repr

/-- The address-space fault. -/
def fltSpace (a : Nat) : Flt := ⟨2, 0x04#8, false, 0, false, a⟩
/-- The alignment fault. -/
def fltAlign (a : Nat) : Flt := ⟨6, 0x08#8, false, 0, false, a⟩
/-- The migration-restricted trap of a generic address (R243). -/
def fltMig (a : Nat) : Flt := ⟨2, 0x13#8, false, 0, false, a⟩
/-- The permission fault of an address that no table translates. -/
def fltPerm (a : Nat) : Flt := ⟨4, 0x06#8, false, 0, false, a⟩

/-- The checks of ranks 4 and 5 on a resolved page (R201, R217, R463), for a group at U or above. -/
def leafCheck (l : Leaf) (user : Bool) (k : Acc) (a : Nat) : Option Flt :=
  let need1 := (user && !l.u1) || (match k with | .fetch => !l.x1 | .store | .atomic => !l.w1 | .load => false)
  let need2 := (user && !l.u2) || (match k with | .fetch => !l.x2 | .store | .atomic => !l.w2 | .load => false)
  if need1 then some ⟨4, 0x06#8, false, l.lvl1, false, a⟩
  else if need2 || (l.host && decide (k = .atomic)) then some ⟨4, 0x06#8, true, l.lvl2, false, a⟩
  else if l.nr1 then some ⟨5, 0x07#8, false, l.lvl1, false, a⟩
  else if l.nr2 then some ⟨5, 0x07#8, true, l.lvl2, false, a⟩
  else if l.cb.isSome && decide (k ≠ .load) then some ⟨5, 0x07#8, false, l.lvl1, false, a⟩
  else none

/-- The place itself, whichever way it was reached. -/
def Loc.base : Loc → Loc
  | .via true _ a => .host a
  | .via false f a => .dram f a
  | l => l

/-- A place of this device's memory, reached through a remote leaf. -/
def Loc.toVia : Loc → Loc
  | .dram f spa => .via false f spa
  | .host a => .via true 0 a
  | l => l

/-- The resolution of an access: a place, a fault, or that a cluster peer is not there yet (R196). -/
inductive Res where
  | ok (l : Loc)
  | flt (e : Flt)
  | wait
deriving DecidableEq, Repr

/-- The level field of an access to global memory by an agent of a function: in its address space, or, at S while the
supervisor boots, by slice-relative physical address (R452). -/
structure View where
  f : Nat
  asid : BitVec 12
  user : Bool
  boot : Bool
deriving DecidableEq, Repr

/-- The access is a store or atomic to a page of slice 0 that holds frozen stage-2 tables (R451). -/
def frozenFor (s : State) (k : Acc) (spa : Nat) : Bool := match k with
  | .store | .atomic => s.pkg.frozen.any fun p => p.2 == spa / 4096
  | _ => false

/-- A global access of a function at a virtual address (R198 to R201, R217, R452), without the alignment check. -/
def globalRes (s : State) (v : View) (k : Acc) (va : Nat) : Res × State :=
  if v.boot then
    if va < 2 ^ 40 ∧ spaInWindow (s.slice v.f) va = true then
      (if v.f = 0 ∧ frozenFor s k va = true then .flt (fltPerm va) else .ok (.dram v.f va), s)
    else (.flt (fltSpace va), s)
  else
    match xlate s v.f v.asid va with
    | (.fail w, s1) => (.flt ⟨3, 0x05#8, w.stage2, w.level, w.malformed, va⟩, s1)
    | (.ok l, s1) =>
      match leafCheck l v.user k va with
      | some e => (.flt e, s1)
      | none =>
        let a := l.spa + va % 4096
        if v.f = 0 ∧ l.cb = none ∧ l.remote = none ∧ l.host = false ∧ frozenFor s k a = true then
          (.flt ⟨4, 0x06#8, true, l.lvl2, false, va⟩, s1)
        else
        (.ok (match l.cb with
          | some p => .block p
          | none => match l.remote with
            | some d => .remote v.f d a
            | none => if l.host then .host a else .dram v.f a), s1)

end Sys2Proof.Machine
end

