-- ==== Sys2Proof/Machine/Base.lean ====
section
/-! DEFINITION. The named parts of the state and their updates, the event recorder, and interrupts to the host (spec/06, spec/19 R397 to
R401, spec/22 R444). -/
namespace Sys2Proof.Machine

/-! ## Groups, teams and grids -/

/-- The live and the shadow bank exchanged. -/
def State.exchange (s : State) : State := match s.shadow with
  | some x => { s with live := x, shadow := some s.live }
  | none => s

/-- The group of a group context of the live context. -/
def State.group (s : State) (g : Nat) : Option Group := s.live.groups.find? fun G => G.gctx == g

/-- The list with the group of the same context replaced. -/
def putGroup (l : List Group) (G : Group) : List Group := l.map fun H => if H.gctx = G.gctx then G else H

/-- The state with a group of the live context replaced. -/
def State.setGroup (s : State) (G : Group) : State := { s with live := { s.live with groups := putGroup s.live.groups G } }

/-- The resident team of a slot of the live context. -/
def State.team (s : State) (k : Nat) : Option Team := s.live.teams.find? fun T => T.slot == k

/-- The state with a team of the live context replaced. -/
def State.setTeam (s : State) (T : Team) : State :=
  { s with live := { s.live with teams := s.live.teams.map fun U => if U.slot = T.slot then T else U } }

/-- A grid by its number. -/
def State.grid (s : State) (i : Nat) : Option Grid := s.grids.find? fun g => g.id == i

/-- The state with a grid replaced. -/
def State.setGrid (s : State) (g : Grid) : State := { s with grids := s.grids.map fun h => if h.id = g.id then g else h }

/-- The state with one sequencer of a group replaced. -/
def Group.setSeq (G : Group) (q : Seq) : Group := { G with seqs := G.seqs.map fun r => if r.id = q.id then q else r }

/-- A sequencer of a group. -/
def Group.seq (G : Group) (i : Nat) : Option Seq := G.seqs.find? fun q => q.id == i

/-- The grid of a group's team. -/
def State.gridOf (s : State) (G : Group) : Option Grid :=
  match G.team with
  | none => none
  | some k => match s.team k with
    | none => none
    | some T => s.grid T.grid

/-- The share of an index. -/
def State.share (s : State) (i : Nat) : Option Share := s.shares.getD i none

/-- The state with a share replaced. -/
def State.setShare (s : State) (i : Nat) (x : Share) : State := { s with shares := s.shares.set i (some x) }

/-- The function of a group's share. -/
def State.fOf (s : State) (G : Group) : Nat := match s.share G.share with
  | some x => x.f
  | none => 0

/-- The address space of a group: its grid's, or that of `tr.ctl` for a handler group (R204, R362). -/
def State.asidOf (s : State) (G : Group) : BitVec 12 := match s.gridOf G with
  | some g => g.asid
  | none => (s.slice (s.fOf G)).trCtl.setWidth 12

/-- How a group sees global memory (R198, R201, R452). -/
def State.view (s : State) (G : Group) : View :=
  ⟨s.fOf G, s.asidOf G, decide (G.level = .U), decide (G.level = .S) && (s.slice (s.fOf G)).trCtl.getLsbD 12⟩

/-- How the trap hardware of a slice sees its frame buffer and fault queue (R362, R452). -/
def State.superView (s : State) (f : Nat) : View :=
  ⟨f, (s.slice f).trCtl.setWidth 12, false, (s.slice f).trCtl.getLsbD 12⟩

/-- The floating-point context of a group: its team's, or its own in a handler group (R67, R478). -/
def State.fp (s : State) (G : Group) : FpCtx := match G.team with
  | none => G.own
  | some k => match s.team k with
    | some T => T.fp
    | none => G.own

/-- The state with a group's floating-point context replaced. -/
def State.setFp (s : State) (G : Group) (c : FpCtx) : State := match G.team with
  | none => match s.group G.gctx with
    | some H => s.setGroup { H with own := c }
    | none => s
  | some k => match s.team k with
    | some T => s.setTeam { T with fp := c }
    | none => s

/-! ## The recorder (R398) -/

/-- An event of a group of the core, in the core's ring (R398). -/
def State.recGroup (s : State) (G : Group) (cls kind payload : Nat) : State :=
  s.recEvent s.coreNo cls kind (s.asidOf G).toNat (s.fOf G) payload

/-! ## The calendar as the dies see it (R416 to R423) -/

/-- The length of a slot (R416). -/
def SlotRec.length (x : SlotRec) : Nat := if x.major then 45120 else 1645

/-- The free gap before a slot (R416). -/
def freeGap (doubled : Bool) : Nat := if doubled then 13395 else 28435

/-- The slot after a fixed one, fixed now: its doubled bit is the doubling in force, `rate` is for a major slot (R416 to R418). -/
def SlotRec.then (x : SlotRec) (doubling rate : Bool) : SlotRec :=
  let n := (x.num + 1) % 2 ^ 47
  let major := n % 512 == 0
  ⟨x.start + x.length + freeGap doubling, n, major, doubling, major && rate⟩

/-- The die whose countdown a group goes by (R420, R421): its core's, or the base die of the stack to which it has migrated. -/
def State.dieOf (s : State) (G : Group) : Nat := match G.mig with
  | some m => 4 + m.stack
  | none => s.die

/-- How far a die's countdown stands from the modelled die's (R419). -/
def State.offOf (s : State) (d : Nat) : Int := ((s.cal.offs.find? fun p => p.1 == d).map (·.2)).getD 0

/-- The slots that are known, in order: the one last begun, the two that are fixed, and the one that is fixed when the next begins. -/
def Calendar.known (c : Calendar) : List SlotRec :=
  c.last.toList ++ [c.next, c.after, c.after.then c.doubling (!c.asked.isEmpty)]

/-- A slot begins after now by a die's countdown. -/
def State.begins (s : State) (d : Nat) (x : SlotRec) : Bool := decide ((s.now : Int) < x.start + s.offOf d)

/-- The slots still to begin by a die's countdown, the next first (R420). -/
def State.comingOn (s : State) (d : Nat) : List SlotRec := s.cal.known.filter (s.begins d)

/-- The cycles from now to a slot's start by a die's countdown. -/
def State.startsIn (s : State) (d : Nat) (x : SlotRec) : Nat := ((x.start : Int) + s.offOf d - s.now).toNat

/-- The slot in progress on a die, with its end (R420 to R422): on the modelled die from its start to its end, on another by that die's
countdown. -/
def State.slotOn (s : State) (d : Nat) : Option (SlotRec × Int) :=
  if d = s.die then s.cal.inSlot.map fun p => (p.1, (p.2 : Int))
  else ((s.cal.known.find? fun x => !s.begins d x && decide ((s.now : Int) < x.start + x.length + s.offOf d))).map
    fun x => (x, x.start + x.length + s.offOf d)

/-- A slot is in progress on a die. -/
def State.inSlotOn (s : State) (d : Nat) : Bool := (s.slotOn d).isSome

/-- The drain point of the next slot has passed on a die, or its slot is in progress (R422). -/
def State.drainedOn (s : State) (d : Nat) : Bool :=
  if d = s.die then s.cal.drained || s.cal.inSlot.isSome
  else s.inSlotOn d || (s.comingOn d).head?.any fun x => decide (s.startsIn d x ≤ 235)

/-! ## Messages to the host (R444) -/

/-- A vector of a function sends no message: its mask bit, the Function Mask, or MSI-X not enabled (R444, the PCIe rules, log entry 29). -/
def Slice.masked (x : Slice) (v : Nat) : Bool := (x.msix.getD v 0#128).getLsbD 96 || x.msixControl.getLsbD 14 || !x.msixControl.getLsbD 15

/-- The physical function's link carries traffic: its stream has not failed an integrity check (R464). -/
def State.pfOpen (s : State) : Bool := (s.slice 0).trust.ide != 2

/-- A vector of a function is raised: a message while the interface is in RUN (function 0 always, but while its link stream is
insecure, R464) and the vector is not masked, else its pending bit. -/
def State.raiseMsi (s : State) (f v : Nat) : State :=
  let x := s.slice f
  if (f = 0 ∧ s.pfOpen = true ∨ x.tdi = 2#2) ∧ ¬ x.masked v = true then { s with messages := s.messages ++ [(f, v)] }
  else s.setSlice f { x with pba := x.pba ||| 1#64 <<< v }

/-! ## The host's requests (R443, R453, R464, R475) -/

/-- A request of the host for an offset of a function's BAR0 is served; `tee` for an IDE request with the T bit. A locked or failed interface
serves none, one in RUN without the T bit those for the mailbox alone (R453). An insecure link stream stops function 0 (R464), and in recovery
function 0 alone is enabled (R475). -/
def State.bar0Open (s : State) (f off : Nat) (tee : Bool) : Bool :=
  let x := s.slice f
  if f = 0 then s.pfOpen
  else decide (f < 64) && !s.pkg.boot.recovery
    && (decide (x.tdi = 0#2) || (decide (x.tdi = 2#2) && (tee || (decide (0x8000 ≤ off) && decide (off < 0x9000)))))

/-- The host's memory is out of reach for a slice: function 0's link stream is insecure (R464). -/
def State.portStopped (s : State) (f : Nat) : Bool := f == 0 && !s.pfOpen

end Sys2Proof.Machine
end

