-- ==== Sys2Proof/Machine/Busy.lean ====
section
/-! DEFINITION. Banks with a running instance, as accesses from outside the instance meet them: which wait, in whose name, and which are served
from an open slot (spec/12_near_bank_compute.md R287); and the requests that reef slots hold (spec/20_reef_slots.md R422, R423). -/
namespace Sys2Proof.Machine

/-! ## Banks with a running instance (R287) -/

/-- The instance that runs at the bank of a physical address, or has ended there with accesses still to be served. -/
def State.instAt (s : State) (f spa : Nat) : Option Inst :=
  if s.bank.insts.isEmpty then none
  else
    let x := s.slice f
    let r := (spaRow f x spa).1
    s.bank.insts.find? fun i => i.started && i.f == f && i.stack == r.stack && i.bank == rowBank x r

/-- The row number, counted in the instance's page, that a physical address has. -/
def Inst.rowIn (i : Inst) (x : Slice) (spa : Nat) : Int := ((spaRow i.f x spa).1.row : Int) - ((spaRow i.f x i.page).1.row : Int)

/-- The slot in which an instance has a row open. -/
def Inst.openAt (i : Inst) (r : Int) : Option Nat := i.slots.findIdx? fun s => match s with
  | .opened q _ _ => decide ((q : Int) = r)
  | _ => false

/-- The instance with a slot marked written. -/
def Inst.markWritten (i : Inst) (n : Nat) : Inst := match i.slots.getD n .closed with
  | .opened r _ own => { i with slots := i.slots.set n (.opened r true own) }
  | _ => i

/-- The state with an instance replaced. -/
def State.setInst (s : State) (i : Inst) : State :=
  { s with bank := { s.bank with insts := s.bank.insts.map fun j => if j.run = i.run ∧ j.k = i.k then i else j } }

/-- A bank run by its number. -/
def State.run (s : State) (i : Nat) : Option Run := s.bank.runs.find? fun r => r.id == i

/-- Bank cycles added; passing BOUND sets EXCEEDED (R285). -/
def Inst.spend (i : Inst) (r : Run) (n : Nat) : Inst :=
  { i with counter := i.counter + n, exceeded := i.exceeded || decide (r.bound < i.counter + n) }

/-- What stands for one holder stands for another: the same agent, and at least its sequencers. -/
def Holder.covers (h g : Holder) : Bool := h.uid == g.uid && g.seqs.all h.seqs.contains

/-- A group's unit in progress as one that may wait at a bank. -/
def State.holder (s : State) (G : Group) : Holder := ⟨G.uid, match s.cur with
  | some c => c.seqs
  | none => []⟩

/-- The stack of a physical address (R206). -/
def State.stackOf (s : State) (f spa : Nat) : Nat := (spaRow f (s.slice f) spa).1.stack

/-- A request to DRAM waits at its base die (R423): it stands in the queue of the stack, or a slot is in progress there. Which requests of a slot
reach a bank at all, and which had reached it before the slot, nothing promises: a free choice. -/
def State.slotHolds (s : State) (who : Holder) (f spa : Nat) : Bool :=
  (s.cal.queue.any fun q => q.1.covers who && q.2 == s.stackOf f spa)
    || (s.inSlotOn (4 + s.stackOf f spa) && Config.freeNat s.free % 2 == 0)

/-- Some bank may hold an access: an instance stands at one, or a slot is in progress on a stack, or its queue is not empty. -/
def State.busyBanks (s : State) : Bool :=
  !s.bank.insts.isEmpty || !s.cal.queue.isEmpty || (List.range 12).any fun i => s.inSlotOn (4 + i)

/-- An access of a holder to a row stands in the instance's list. -/
def Inst.stands (i : Inst) (who : Holder) (row : Nat) : Bool := i.held.any fun h => h.who.covers who && h.row == row

/-- An access that reaches the bank must wait for the yield point of the bank's instance: it stands in its list, or its row is not open; but
not while a yield point serves it (R287). -/
def State.instBusy (s : State) (who : Holder) (f spa : Nat) : Bool := match s.instAt f spa with
  | none => false
  | some i =>
    ((i.openAt (i.rowIn (s.slice f) spa)).isNone || i.stands who (spaRow f (s.slice f) spa).1.row)
      && !(s.bank.granted.any fun g => g.1.covers who && g.2.1 == i.stack && g.2.2 == i.bank)

/-- An access must wait for the yield point of the bank's instance. One that a cache may serve reaches no bank (R209, R287), a free choice; it
is none to a bank-resident line, which the home L2 never holds (R288), and none that has come to the bank already (log entry 46). -/
def State.instHolds (s : State) (who : Holder) (f spa : Nat) (cacheable : Bool) : Bool :=
  s.instBusy who f spa && (!cacheable || spaResident (s.slice f) spa
    || (s.instAt f spa).any (fun i => i.stands who (spaRow f (s.slice f) spa).1.row) || Config.freeNat s.free % 2 == 0)

/-- An access that a cache may serve or not waits at a bank or at its base die (R287, R423). -/
def State.accessHolds (s : State) (who : Holder) (f spa : Nat) (cacheable : Bool) : Bool :=
  s.slotHolds who f spa || s.instHolds who f spa cacheable

/-- A read waits at a bank or at its base die (R287, R423). -/
def State.bankHolds (s : State) (who : Holder) (f spa : Nat) : Bool := s.accessHolds who f spa true

/-- An access enters the list of those held at its bank. -/
def State.bankHold (s : State) (who : Holder) (f spa : Nat) (write : Bool) (data : Option BWrite) : State := match s.instAt f spa with
  | none => s
  | some i => s.setInst { i with held := i.held ++ [⟨who, (spaRow f (s.slice f) spa).1.row, write, data⟩] }

/-- A request enters the queue of its base die, once for a stack (R423). -/
def State.slotHold (s : State) (who : Holder) (f spa : Nat) : State :=
  let q := (who, s.stackOf f spa)
  if s.cal.queue.contains q then s else { s with cal := { s.cal with queue := s.cal.queue ++ [q] } }

/-- The requests of an agent enter the queues of the base dies, and the lists of the banks, that hold them, each once. -/
def State.holdReqs (s : State) (who : Holder) (reqs : List (Nat × Nat × Bool)) : State :=
  if (s.bank.insts.any fun i => i.held.any fun h => h.who.covers who) || s.cal.queue.any fun q => q.1.covers who then s
  else reqs.foldl (fun t p =>
    if t.inSlotOn (4 + t.stackOf p.1 p.2.1) then t.slotHold who p.1 p.2.1
    else if t.instHolds who p.1 p.2.1 !p.2.2 then t.bankHold who p.1 p.2.1 p.2.2 none else t) s

/-- What an agent had held has been served. -/
def State.unhold (s : State) (who : Holder) : State :=
  if s.bank.insts.isEmpty && s.bank.granted.isEmpty && s.cal.queue.isEmpty then s
  else { s with
   cal := { s.cal with queue := s.cal.queue.filter fun q => !who.covers q.1 }
   bank := { s.bank with
    insts := s.bank.insts.map fun i => { i with held := i.held.filter fun h => !(who.covers h.who && h.data.isNone) }
    granted := s.bank.granted.filter fun g => !who.covers g.1 } }

/-- The number under which an operation of a group waits at banks, by its class (0 bank run, 1 matrix, 2 tile copy) and sequence. -/
def opUid (cls : Nat) (seq : BitVec 32) (uid : Nat) : Nat := 2 ^ 40 * (3 * seq.toNat + cls + 1) + uid

/-- The number under which a chain engine's accesses are held at banks. -/
def ChainEng.holder (e : ChainEng) : Holder := ⟨2 ^ 32 + e.id, []⟩

/-- The reads of the table walk of a global access that banks hold (R287): a translation that the caches have needs no walk. -/
def State.walkReqs (s : State) (who : Holder) (v : View) (va : Nat) : List (Nat × Nat × Bool) :=
  if !s.busyBanks || v.boot || !(s.cached v.f v.asid va).isEmpty then []
  else (walkCells s v.f v.asid va).filterMap fun p => if s.bankHolds who p.1 p.2 then some (p.1, p.2, false) else none

/-- An access to a row that is open in a slot is served from it: one bank cycle, and a write marks the slot (R285, R287). -/
def State.bankServe (s : State) (f spa : Nat) (write : Bool) : State := match s.instAt f spa with
  | none => s
  | some i => match i.openAt (i.rowIn (s.slice f) spa), s.run i.run with
    | some n, some r => s.setInst (if write then (i.spend r 1).markWritten n else i.spend r 1)
    | _, _ => s

end Sys2Proof.Machine
end

