-- ==== Sys2Proof/Machine/Order.lean ====
section
/-! DEFINITION. What a read may return (spec/10_consistency_model.md R220 to R233): agents and their scopes, the values that later writes
have replaced and that some agents may still read, how releases and acquires pass on what is visible, and the fault queue (spec/17 R375). Memory itself holds the newest
value of every location, the last in its coherence order (log entry 14). -/
namespace Sys2Proof.Machine

/-! ## Agents and scopes (R220, R222, R223) -/

/-- Two agents lie in each other's instances of a scope (R222). -/
def Agent.meets (sc : Nat) (X Y : Agent) : Bool :=
  X.id == Y.id || (X.group.isSome && X.group == Y.group) || (decide (1 ≤ sc) && X.team.isSome && X.team == Y.team)
    || (decide (2 ≤ sc) && X.cluster.isSome && X.cluster == Y.cluster) || (decide (3 ≤ sc) && decide (X.reach ≤ sc) && decide (Y.reach ≤ sc))

/-- An agent of a group, with the instances that the group's team gives it (R222). -/
def agentIn (id : AgentId) (uid : Nat) (T : Option Team) : Agent := match T with
  | some T => ⟨id, some uid, some T.uid, some (T.grid, T.cluster), 3⟩
  | none => ⟨id, some uid, none, none, 3⟩

/-- The agent that the thread of a lane is. -/
def State.laneAgent (s : State) (G : Group) (l : Nat) : Agent :=
  let T := G.team.bind s.team
  agentIn (match T, G.threads[l]? with
    | some T, some t => .thread T.uid t.tix
    | _, _ => .handler G.uid l) G.uid T

/-- The agents of some lanes of a group. -/
def State.laneAgents (s : State) (G : Group) (m : BitVec 64) : List Agent :=
  ((List.range G.threads.length).filter fun l => m.getLsbD l).map (s.laneAgent G)

/-- The names of some lanes of a group. -/
def State.laneIds (s : State) (G : Group) (m : BitVec 64) : List AgentId := (s.laneAgents G m).map (·.id)

/-- The names of all the threads of a group. -/
def State.allIds (s : State) (G : Group) : List AgentId := (List.range G.threads.length).map fun l => (s.laneAgent G l).id

/-- The threads of a team. -/
def AgentId.inTeam (uid : Nat) : AgentId → Bool
  | .thread u _ => u == uid
  | _ => false

/-- A group as one agent. -/
def State.groupAgent (s : State) (G : Group) : Agent := agentIn (.group G.uid) G.uid (G.team.bind s.team)

/-- The dispatcher of a die as the modelled core's die meets it (R223). -/
def State.dispatcher (s : State) (die : Nat) : Agent := ⟨.dispatcher die, none, none, none, if die = s.die then 3 else 4⟩

/-! ## Replaced values (R224, R225) -/

/-- The core-physical offset of a byte of a team's scratch (R191). -/
def State.scrAddr (s : State) (slot off : Nat) : Nat := match s.team slot with
  | some T => T.scrBase + off
  | none => off

/-- The number under which the first byte of a place is known: memory of the slices, scratch and host memory stand apart. -/
def State.keyOf (s : State) (l : Loc) : Option Nat := match l.base with
  | .dram f spa => some (dramKey f spa)
  | .scratch k off => some (2 ^ 60 + s.scrAddr k off)
  | .host a => some (2 ^ 61 + a)
  | _ => none

/-- The newest byte of a number, with its poison. -/
def State.keyByte (s : State) (k : Nat) : Byte × Bool :=
  if k < 2 ^ 60 then (memGet s.dram k, spaPoison s (k / 2 ^ 40) (k % 2 ^ 40))
  else if k < 2 ^ 61 then (memGet s.scr (k - 2 ^ 60), false) else (memGet s.host (k - 2 ^ 61), false)

/-- The replaced bytes between two numbers. -/
def OldVal.part (e : OldVal) (lo hi : Nat) : List OldVal :=
  let a := max e.key lo
  let b := min (e.key + e.bytes.length) hi
  if a < b then [{ e with key := a, bytes := (e.bytes.drop (a - e.key)).take (b - a) }] else []

/-- The replaced bytes overlap a range. -/
def OldVal.meets (e : OldVal) (k n : Nat) : Bool := decide (e.key < k + n) && decide (k < e.key + e.bytes.length)

/-- The write is visible to an agent. -/
def OldVal.seenBy (e : OldVal) (x : AgentId) : Bool := e.seen.contains x

/-- The write becomes visible to an agent. -/
def OldVal.show (e : OldVal) (x : AgentId) : OldVal := if e.seenBy x then e else { e with seen := x :: e.seen }

/-- The start of the unit of single-copy atomicity in which a byte of a read lies (R221, R218): the aligned 8 bytes, or for a 64-byte
record the aligned 16, as far as the read reaches. -/
def unitStart (k n i : Nat) : Nat :=
  let g := if n = 64 then 16 else 8
  max k ((k + i) / g * g)

/-- A read of a unit that agents make together passes a write by: it returns what the write replaced, by a free choice, unless the write is
visible to one of them. No agent stands for a read of the newest values. -/
def State.passes (s : State) (Xs : List AgentId) (u : Nat) (e : OldVal) : Bool :=
  !Xs.isEmpty && Xs.all (fun x => !e.seenBy x) && Config.takesOld s.free e.num (if e.whole then 0 else u)

/-- The byte that a read returns, with its poison, and the releases of the write that it reads: it goes back in coherence order past the
writes that it passes by. -/
def oldByte (pass : OldVal → Bool) (k : Nat) : List OldVal → Byte × Bool → (Byte × Bool) × List Release
  | [], now => (now, [])
  | e :: es, now =>
    if e.key ≤ k ∧ k < e.key + e.bytes.length then
      (if pass e then oldByte pass k es (e.bytes.getD (k - e.key) (0#8, false)) else (now, e.rels))
    else oldByte pass k es now

/-- What a read of n bytes by agents sees of each. -/
def State.sees (s : State) (Xs : List AgentId) (k n : Nat) : List ((Byte × Bool) × List Release) :=
  (List.range n).map fun i => oldByte (s.passes Xs (unitStart k n i)) (k + i) s.paths.olds (s.keyByte (k + i))

/-- What a read returns whose newest bytes and their poison are given. -/
def State.visible (s : State) (Xs : List AgentId) (k : Nat) (now : List Byte) (bad : Bool) : List Byte × Bool :=
  if Xs.isEmpty || s.paths.olds.isEmpty then (now, bad)
  else
    let bs := s.sees Xs k now.length
    (bs.map (·.1.1), bs.any (·.1.2))

/-- The releases of the writes that a read returns. -/
def State.readRels (s : State) (Xs : List AgentId) (k n : Nat) : List Release :=
  if s.paths.olds.isEmpty then [] else ((s.sees Xs k n).flatMap (·.2)).dedup

/-- The writes that a read of a unit did not pass by are visible to its agents from then on (R224). -/
def State.settleUnit (s : State) (Xs : List AgentId) (u n : Nat) (os : List OldVal) : List OldVal :=
  os.flatMap fun e =>
    if e.meets u n && Xs.any (fun x => !e.seenBy x) && !s.passes Xs u e then
      e.part 0 u ++ (e.part u (u + n)).map (fun p => Xs.foldl OldVal.show p) ++ e.part (u + n) (e.key + e.bytes.length)
    else [e]

/-- The same for every unit of a range. -/
def State.settleRange (s : State) (Xs : List AgentId) (os : List OldVal) (k n : Nat) : List OldVal :=
  let us := ((List.range n).map (unitStart k n)).dedup
  us.foldl (fun os u => s.settleUnit Xs u (((List.range n).filter fun i => unitStart k n i == u).length) os) os

/-- Every write to a range is visible to an agent from then on: it reads the newest values, as an atomic does (R230). -/
def State.sawNow (s : State) (x : AgentId) (l : Loc) (n : Nat) : State := match s.keyOf l with
  | none => s
  | some k =>
    let mark (e : OldVal) : List OldVal := e.part 0 k ++ (e.part k (k + n)).map (·.show x) ++ e.part (k + n) (e.key + e.bytes.length)
    { s with paths := { s.paths with olds := s.paths.olds.flatMap fun e => if e.meets k n then mark e else [e] } }

/-- The byte of a number after some writes, the newest first. -/
def State.overlaid (s : State) (ws : List (Nat × List Byte)) (k : Nat) : Byte × Bool :=
  match ws.find? fun p => decide (p.1 ≤ k) && decide (k < p.1 + p.2.length) with
  | some p => (p.2.getD (k - p.1) 0#8, false)
  | none => s.keyByte k

/-- A release added to those of a write: it covers what an earlier one of the same agent and scope did. -/
def addRelease (rs : List Release) (r : Release) : List Release :=
  r :: rs.filter fun q => !(q.who == r.who && q.scope == r.scope && q.op == r.op)

/-- How a write is made: by an atomic, as one column of a row that is read whole, and as what release (R227). -/
structure WriteKind where
  atomic : Bool := false
  whole : Bool := false
  rels : List Release := []
deriving DecidableEq, Repr

/-- The releases that a write by an agent carries (R227): its own, those of the fences that the agent has made before, and, for an atomic,
those of every earlier write of the location. -/
def State.writeRels (s : State) (w : WriteKind) (x : AgentId) (k n : Nat) : List Release :=
  let earlier := if w.atomic then (s.paths.olds.filter fun e => e.meets k n).flatMap (·.rels) else []
  ((s.paths.fences.filter fun r => r.who.id == x) ++ w.rels).foldl addRelease (earlier.foldr (fun r rs => addRelease rs r) [])

/-- The bytes that writes, in order, each by its agent, are about to replace are remembered (R224): a write is visible to its agent. -/
def State.remember (s : State) (kind : WriteKind) (ws : List (AgentId × Loc × List Byte)) : State :=
  let step (p : List OldVal × List (Nat × List Byte)) (w : AgentId × Loc × List Byte) : List OldVal × List (Nat × List Byte) :=
    match s.keyOf w.2.1 with
    | none => p
    | some k => (⟨k, (List.range w.2.2.length).map fun i => s.overlaid p.2 (k + i), s.paths.nextOld + p.1.length, [w.1], kind.atomic, kind.whole,
        s.writeRels kind w.1 k w.2.2.length⟩ :: p.1, (k, w.2.2) :: p.2)
  let new := (ws.foldl step ([], [])).1
  { s with paths := { s.paths with olds := new ++ s.paths.olds, nextOld := s.paths.nextOld + new.length } }

/-- The replaced values of a range are forgotten: every read returns the newest. -/
def Paths.forget (p : Paths) (k n : Nat) : Paths :=
  { p with olds := p.olds.flatMap fun e => if e.meets k n then e.part 0 k ++ e.part (k + n) (e.key + e.bytes.length) else [e] }

/-- What is remembered of a range of scratch is forgotten: its bytes are new for every agent. -/
def Paths.dropOld (p : Paths) (lo hi : Nat) : Paths :=
  { p.forget (2 ^ 60 + lo) (hi - lo) with scrOld := p.scrOld.filter fun o => decide (o.off < lo) || decide (hi ≤ o.off) }

/-! ## Releases and acquires (R226 to R229, R233) -/

/-- What is visible to one of some agents becomes visible to others (R228). -/
def State.flowFrom (s : State) (src : AgentId → Bool) (dst : List AgentId) : State :=
  { s with paths := { s.paths with olds := s.paths.olds.map fun e => if e.seen.any src then dst.foldl OldVal.show e else e } }

/-- The same of a list of agents. -/
def State.flow (s : State) (src dst : List AgentId) : State := s.flowFrom src.contains dst

/-- A view holds nothing any more. -/
def State.clearView (s : State) (v : AgentId) : State :=
  { s with paths := { s.paths with olds := s.paths.olds.map fun e => { e with seen := e.seen.filter (· ≠ v) } } }

/-- A release and an acquire at a scope may synchronise: each agent lies in the other's instance (R222, R227). -/
def Release.reaches (r : Release) (X : Agent) (sc : Nat) : Bool := r.who.meets r.scope X && r.who.meets sc X

/-- An acquire by an agent at a scope takes over what the releases covered that it pairs with. -/
def State.acquire (s : State) (X : Agent) (sc : Nat) (rs : List Release) : State :=
  s.flow ((rs.filter fun r => r.reaches X sc).map (·.view)) [X.id]

/-- A release by an agent at a scope: a view of its own keeps what is visible to the agent. -/
def State.releaseBy (s : State) (X : Agent) (sc : Nat) : Release × State :=
  let r : Release := ⟨.release s.paths.nextRel, X, sc, false⟩
  (r, { s with paths := { s.paths with nextRel := s.paths.nextRel + 1 } }.flow [X.id] [r.view])

/-- The releases whose writes an agent has read, for its next acquire fence (R227). -/
def Paths.note (p : Paths) (x : AgentId) (rs : List Release) : Paths :=
  { p with pend := (rs.filter fun r => !r.op && r.who.id != x && !p.pend.contains (x, r)).map (fun r => (x, r)) ++ p.pend }

/-- A fence by one agent (R227, R229): it acquires from the releases that it has read and from the fences before it, and is a release
fence for what it writes afterwards. -/
def State.fenceOf (s : State) (sc : Nat) (X : Agent) : State :=
  let s1 := s.acquire X sc ((s.paths.pend.filter fun p => p.1 == X.id).map (·.2) ++ s.paths.fences)
  let (r, s2) := s1.releaseBy X sc
  { s2 with paths := { s2.paths with fences := addRelease s2.paths.fences r } }

/-- The fences of one unit's lanes, in an order that nothing promises (R229): each next one is a free choice. -/
def State.fences (sc : Nat) : Nat → List Agent → State → State
  | 0, _, s => s
  | _, [], s => s
  | fuel + 1, X :: Xs, s =>
    if s.paths.olds.isEmpty then (X :: Xs).foldl (fun t Y => t.fenceOf sc Y) s
    else
      let (i, s1) := s.choose
      let Y := (X :: Xs).getD (i % (Xs.length + 1)) X
      State.fences sc fuel ((X :: Xs).erase Y) (s1.fenceOf sc Y)

/-- A group of newly drawn threads goes on where they stood (R222): what was promised to their former groups by `invt`, `icinv` or `fence.or`
holds for it. -/
def State.inherit (s : State) (former : List Nat) (uid : Nat) : State :=
  let add (l : List Nat) : List Nat := if l.any fun u => former.contains u then uid :: l else l
  { s with
    paths := { s.paths with scrOld := s.paths.scrOld.map fun o => { o with marks := add o.marks } }
    tlb := s.tlb.map fun e => { e with marks := add e.marks }
    icache := s.icache.map fun w => { w with marks := add w.marks, barred := add w.barred } }

/-! ## Operations of engines (R223, R226, R232, R233) -/

/-- A command given to an engine: the operation lies in its group's instances from team up, its completion releases at the command's scope,
of which codes 0 and 1 are the team's (R330), and it starts with what is visible to the group (R232). -/
def State.issueOp (s : State) (G : Group) (id : AgentId) (scope : Nat) : State :=
  let X : Agent := { s.groupAgent G with id := id, group := none }
  { s with paths := { s.paths with ops := ⟨id, X, max 1 scope, true⟩ :: s.paths.ops } }.flow (s.allIds G) [id]

/-- The releases that the completions of some operations are. -/
def State.opRels (s : State) (p : AgentId → Bool) : List Release := s.paths.ops.filter fun r => p r.view

/-- A wait for operations, or a record of one returned, is an acquire at their scopes by the threads of a group (R233, R348). -/
def State.acquireOps (s : State) (G : Group) (p : AgentId → Bool) : State :=
  (List.range G.threads.length).foldl (fun t l => t.acquire (s.laneAgent G l) 5 (s.opRels p)) s

/-! ## The fault queue (R375) -/

/-- Bytes stored by an agent of an address space at a resolved place that is memory of the slice or of the host, within one row. -/
def State.storeLoc (s : State) (x : AgentId) (asid : BitVec 12) (l : Loc) (bs : List Byte) : State :=
  let s1 := s.remember {} [(x, l, bs)]
  match l with
  | .dram f spa => ((spaWrite s1 f spa bs).noteTag asid f spa).bankServe f spa true
  | .host a => { s1 with host := memWrite s1.host a bs }
  | _ => s1

/-- The place is one that the part's own records can be written to. -/
def Loc.plain : Loc → Bool
  | .dram _ _ => true
  | .host _ => true
  | _ => false

/-- One more record dropped, saturating (R375). -/
def fqDrop (i : BitVec 32) : BitVec 32 := if i.setWidth 8 = 255#8 then i else i + 1#32

/-- What the banks hold of a write of the part's own within one row: the reads of its table walk, else the write (R287). -/
def State.writeHeld (s : State) (who : Holder) (v : View) (va : Nat) : List (Nat × Nat × Bool) :=
  if !s.busyBanks then []
  else match s.walkReqs who v va with
    | [] => match (globalRes s v .store va).1 with
      | .ok (.dram f spa) => if s.accessHolds who f spa false then [(f, spa, true)] else []
      | _ => []
    | rs => rs

/-- The number under which the records for a function's fault queue wait at banks. -/
def faultHolder (f : Nat) : Holder := ⟨2 ^ 37 + f, []⟩

/-- The address of a function's fault-queue ring, 0 without one, and the places of TAIL and HEAD (R375). -/
def Slice.fqRing (x : Slice) : Nat × Nat × Nat := (bits x.fqBase.toNat 55 13 * 8192, bits x.fqIdx.toNat 23 16, bits x.fqIdx.toNat 15 8)

/-- A record written at TAIL, which then advances; dropped and counted with the ring full, with no ring, or where its write fails
(R375). Vector 0 is raised when the ring was empty (R444). -/
def State.putFq (s : State) (f : Nat) (item : List Byte) : State :=
  let x := s.slice f
  let (base, tail, head) := x.fqRing
  let drop := s.setSlice f { x with fqIdx := fqDrop x.fqIdx }
  if (tail + 1) % 256 = head ∨ base = 0 then drop
  else
    match globalRes s (s.superView f) .store (base + 32 * tail) with
    | (.ok l, s1) =>
      if l.plain then
        let s2 := s1.storeLoc (.faults f) (s.superView f).asid l item
        let y := s2.slice f
        let s3 := s2.setSlice f { y with fqIdx := BitVec.ofNat 32 ((tail + 1) % 256 * 65536 + y.fqIdx.toNat % 65536) }
        if tail = head then s3.raiseMsi f 0 else s3
      else drop
    | _ => drop

/-- What the banks hold of the write of the next record. -/
def State.fqHeld (s : State) (f : Nat) : List (Nat × Nat × Bool) :=
  let (base, tail, _) := (s.slice f).fqRing
  if base = 0 then [] else s.writeHeld (faultHolder f) (s.superView f) (base + 32 * tail)

/-- A record for a function's fault queue: written now, or, behind those that wait already, once a bank that holds its write serves it
(R287, R375). -/
def State.postFq (s : State) (f kind core detail addr grid team cycle : Nat) : State :=
  let item := natLe 2 kind ++ natLe 2 core ++ natLe 4 detail ++ natLe 8 addr ++ natLe 8 grid ++ natLe 4 team ++ natLe 4 cycle
  let wait (t : State) : State := { t with bank := { t.bank with posts := t.bank.posts ++ [(f, item)] } }
  if s.bank.posts.any fun p => p.1 == f then wait s
  else match s.fqHeld f with
    | [] => s.putFq f item
    | rs => wait (s.holdReqs (faultHolder f) rs)

/-- The records that wait for a function's fault queue are written in their order, up to one that a bank holds again. -/
def State.servePosts (s : State) (f : Nat) : List (List Byte) → State
  | [] => s.unhold (faultHolder f)
  | item :: rest => match s.fqHeld f with
    | [] => (({ s with bank := { s.bank with posts := s.bank.posts.erase (f, item) } } : State).putFq f item).servePosts f rest
    | rs => s.holdReqs (faultHolder f) rs

/-- The records that wait for a function's fault queue. -/
def State.fqWaiting (s : State) (f : Nat) : List (List Byte) := (s.bank.posts.filter fun p => p.1 == f).map (·.2)

/-- A record about a team of the core. -/
def State.postTeamFq (s : State) (T : Team) (kind detail addr : Nat) : State :=
  match s.grid T.grid with
  | some g => s.postFq g.f kind s.coreNo detail addr g.entryVa.toNat T.linear s.now
  | none => s

end Sys2Proof.Machine
end

