-- ==== Sys2Proof/Machine/Life.lean ====
section
/-! DEFINITION. The life of threads, groups, teams and grids after their placement: barrier completion, claims, triggers,
the end of a team, and the containment levels (spec/06 R136 to R138; spec/07 R164 to R171; spec/17 R371 to R375). -/
namespace Sys2Proof.Machine

/-! ## Lanes of a group -/

/-- The virtual lanes of a group, 0 up to its number of threads. -/
def Group.lanes (G : Group) : List Nat := List.range G.threads.length

/-- The thread of a virtual lane. -/
def Group.thread (G : Group) (l : Nat) : Option Thread := G.threads[l]?

/-- The virtual lane holds a live thread (R155). -/
def Group.liveLane (G : Group) (l : Nat) : Bool := match G.thread l with
  | some t => t.live
  | none => false

/-- A set of virtual lanes as a 64-bit mask (R13). -/
def laneMask (n : Nat) (p : Nat → Bool) : BitVec 64 :=
  (List.range n).foldl (fun m l => if p l then m ||| 1#64 <<< l else m) 0#64

/-- A thread lies in a quad's columns and its bit is in a set of the quad's four columns. -/
def Thread.inCols (t : Thread) (pos : Nat) (cols : BitVec 4) : Bool := t.col / 4 == pos && cols.getLsbD (t.col % 4)

/-- The virtual lane is active in the sequencer. -/
def Group.activeIn (G : Group) (q : Seq) (l : Nat) : Bool := match G.thread l with
  | some t => t.live && t.inCols q.pos q.active
  | none => false

/-- The virtual lane belongs to the sequencer. -/
def Group.ownedBy (G : Group) (q : Seq) (l : Nat) : Bool := match G.thread l with
  | some t => t.live && t.inCols q.pos q.own
  | none => false

/-- The number of live threads of a group. -/
def Group.liveCount (G : Group) : Nat := (G.threads.filter (·.live)).length

/-- The register blocks that a group's live threads hold (R170). -/
def Group.blocks (G : Group) : Nat := ((G.threads.filter (·.live)).map fun t => t.regs.length / 8).sum

/-- The groups of a team in the live context. -/
def State.teamGroups (s : State) (k : Nat) : List Group := s.live.groups.filter fun G => G.team == some k

/-- Threads of a team that wait in reform bins (R151). -/
def State.binThreads (s : State) (k : Nat) : Nat :=
  (s.live.bins.map fun b => match b with
    | some x => if x.team = k then x.threads.length else 0
    | none => 0).sum

/-- The live threads of a team, those in bins included (R166). -/
def State.teamLive (s : State) (k : Nat) : Nat := ((s.teamGroups k).map Group.liveCount).sum + s.binThreads k

/-! ## Claims (R171) -/

/-- A thread whose allocation grows by n registers, which read zero. -/
def Thread.grow (t : Thread) (n : Nat) : Thread := if t.live then { t with regs := t.regs ++ List.replicate n ⟨0#32, false⟩ } else t

/-- A sequencer waits in a claim. -/
def Wait.isClaim : Wait → Bool
  | .claim _ => true
  | _ => false

/-- A sequencer that waited in a claim goes on at the next unit. -/
def Seq.granted (now : Nat) (q : Seq) : Seq :=
  if q.wait.isClaim then { q with wait := .none, pc := q.pc + 4#56, ready := now + 1 } else q

/-- One claim granted: each live thread of the group gets its blocks. -/
def State.grantOne (s : State) (c : Claim) : State := match s.group c.gctx with
  | none => s
  | some G =>
    let s1 := s.setGroup { G with threads := G.threads.map (Thread.grow · c.n), seqs := G.seqs.map (Seq.granted s.now) }
    { s1 with live := { s1.live with free := s1.live.free - c.need } }

/-- Claims granted strictly in queue order while the head's need fits (R171). -/
def State.grantFrom (s : State) : List Claim → State
  | [] => { s with live := { s.live with claims := [] } }
  | c :: cs => if c.need ≤ s.live.free then (s.grantOne c).grantFrom cs else { s with live := { s.live with claims := c :: cs } }

/-- The grant loop, on every pool change and at each cycle's end (R171). -/
def State.grantClaims (s : State) : State := s.grantFrom s.live.claims

/-- Blocks returned to the live pool. -/
def State.freeBlocks (s : State) (n : Nat) : State :=
  let r := if n = 0 then s.live.rises else s.live.rises + 1
  ({ s with live := { s.live with free := s.live.free + n, rises := r } }).grantClaims

/-! ## The journal (R371, R372) -/

/-- The scratch bytes of a team. -/
def State.teamScratch (s : State) (T : Team) : List Host.Cell := memSlice s.scr T.scrBase (T.scrBase + T.scrSize)

/-- A new rollback interval begins: at a team barrier's completion, and at placement (R371, R372; log entry 8). -/
def State.startInterval (s : State) (k : Nat) : State := match s.team k with
  | none => s
  | some T =>
    let T1 := { T with eligible := true, journal := [] }
    let s1 := s.setTeam T1
    let snap : TeamSnap := ⟨T1, s1.teamGroups k, s1.live.waits.filter fun w => w.team == k, s1.teamScratch T1⟩
    { s1 with live := { s1.live with snaps := snap :: s1.live.snaps.filter fun p => p.team.slot != k } }

/-- The team's eligibility ends until its next team barrier (R372); its pre-images are no longer needed. -/
def State.endEligible (s : State) (k : Nat) : State := match s.team k with
  | none => s
  | some T =>
    let s1 := s.setTeam { T with eligible := false, journal := [] }
    { s1 with live := { s1.live with snaps := s1.live.snaps.filter fun p => p.team.slot != k } }

/-! ## Barriers (R164 to R166) -/

/-- A phase ticket is satisfied: (PHASE - t) mod 2^16 is neither 0 nor at least 2^15 (R165). -/
def ticketDone (phase t : BitVec 16) : Bool := (phase - t) != 0#16 && decide ((phase - t).toNat < 2 ^ 15)

/-- A sequencer released by the completion of a phase of a slot, ready in the next cycle (R166). -/
def Seq.released (slot : Nat) (old new : BitVec 16) (now : Nat) (q : Seq) : Seq := match q.wait with
  | .bar b p => if b = slot ∧ p = old then { q with wait := .none, ready := now + 1 } else q
  | .barw b t => if b = slot ∧ ticketDone new t = true then { q with wait := .none, ready := now + 1 } else q
  | _ => q

/-- A barrier slot of a team. -/
def Team.bar (T : Team) (b : Nat) : Bar := T.bars.getD b ⟨0#16, 0, 0, none⟩

/-- The flag sets folded by a team barrier (R75). -/
def FpCtx.fold (c : FpCtx) : FpCtx := { c with committed := c.committed ||| c.pending, pending := 0#5 }

/-- The entries of the replay queue that a barrier of the team must wait for (R369): those numbered below `n`. -/
def State.owes (s : State) (k n : Nat) : Bool := s.replays.any fun r => r.team == some k && decide (r.serial < n)

/-- A phase completes (R166): those that wait for it go on, and what the arrivals have released is theirs (R167, R226). -/
def State.completeBar (s : State) (T : Team) (b : Nat) : State :=
  let B := T.bar b
  let ph := B.phase + 1#16
  let T1 := { T with bars := T.bars.set b ⟨ph, 0, 0, none⟩ }
  let s1 := s.setTeam T1
  let wake (G : Group) : Group :=
    if G.team = some T.slot then { G with seqs := G.seqs.map (Seq.released b B.phase ph s.now) } else G
  let leaving (G : Group) : BitVec 64 := laneMask G.threads.length fun l =>
    G.seqs.any fun q => decide (q.released b B.phase ph s.now ≠ q) && G.activeIn q l
  let out := (s.live.groups.filter fun G => decide (G.team = some T.slot)).flatMap fun G => s.laneIds G (leaving G)
  let s2 := ({ s1 with live := { s1.live with groups := s1.live.groups.map wake } } : State).flow [.arrived T.uid b, .passed T.uid b]
    (.passed T.uid b :: out)
  let payload := b + T.slot * 2 ^ 15 + ph.toNat * 2 ^ 19 + (if B.expect = 0 then 2 ^ 35 else 0)
  let s3 := match s.grid T.grid with
    | some g => s2.recEvent s.coreNo 0x03 0x02 g.asid.toNat g.f payload
    | none => s2
  if B.expect = 0 then (s3.setTeam { T1 with fp := T1.fp.fold, rollbacks := 0 }).startInterval T.slot else s3

/-- check_complete of a slot (R166): enough arrivals, and for a team barrier no replay entry still owed (R369). -/
def State.checkBar (s : State) (k b : Nat) : State := match s.team k with
  | none => s
  | some T =>
    let B := T.bar b
    let need := if B.expect = 0 then s.teamLive k else B.expect
    if B.arrived = 0 ∨ B.arrived < need then s
    else if B.expect = 0 then
      let n := B.owed.getD s.replaySerial
      if s.owes k n then s.setTeam { T with bars := T.bars.set b { B with owed := some n } } else s.completeBar T b
    else s.completeBar T b

/-- check_complete of every slot of a team, after a thread of it exits (R166). -/
def State.checkBars (s : State) (k : Nat) : State := (List.range 16).foldl (fun t b => t.checkBar k b) s

/-! ## Triggers and the end of a grid (R136 to R138) -/

/-- The number of teams of a grid. -/
def Grid.teams (g : Grid) : Nat := g.gx * g.gy * g.gz

/-- A launch counter written by the dispatcher (R130, R138): the value, the event and the vector of R444. The write releases what is
visible to the dispatcher and what the sources have released to it (R239). -/
def State.writeCounter (s : State) (f : Nat) (asid : BitVec 12) (trigt : BitVec 64) (src : List AgentId) : State :=
  let e := bits trigt.toNat 47 32
  if 0x100 ≤ e ∧ e ≤ 0x10F then
    let n := e - 0x100
    let v : BitVec 32 := trigt.setWidth 32
    let x := s.slice f
    let s1 := (s.setSlice f { x with lcnt := x.lcnt.set n v }).flow (.dispatcher s.die :: src) [.counter f n]
    (s1.recEvent (48 * s.die) 0x02 0x05 asid.toNat f (n + v.toNat * 16)).raiseMsi f (4 + n)
  else s

/-- The grid's trigger, once every team has triggered or ended (R138); an ended grid that is no longer placed is gone. -/
def State.checkGrid (s : State) (i : Nat) : State := match s.grid i with
  | none => s
  | some g =>
    let s1 := if !g.triggerWritten && decide (g.teams ≤ g.triggeredTeams) then
      (s.setGrid { g with triggerWritten := true }).writeCounter g.f g.asid g.trigt [.trigger i] else s
    if g.teams ≤ g.endedTeams ∧ ¬ g.placing = true then { s1 with grids := s1.grids.filter fun h => h.id != i } else s1

/-- A team is marked triggered; the first time counts for its grid (R137). -/
def State.markTriggered (s : State) (k : Nat) : State := match s.team k with
  | none => s
  | some T =>
    if T.triggered then s
    else
      let s1 := s.setTeam { T with triggered := true }
      match s1.grid T.grid with
      | none => s1
      | some g => (s1.setGrid { g with triggeredTeams := g.triggeredTeams + 1 }).checkGrid T.grid

/-! ## Frames (R364, R373) -/

/-- The payload of a trap event (R401). -/
def Frame.payload (f : Frame) : Nat := ((f.handle.getD 0#14).toNat) + f.gctx * 2 ^ 14 + f.team.getD 0 * 2 ^ 25

/-- The generation of a frame's handle index goes up, for its next use (R364). -/
def State.freeHandle (s : State) (f : Frame) : State := match f.handle, s.share f.share with
  | some h, some x =>
    let i := h.toNat % 64
    s.setShare f.share { x with gens := x.gens.set i (x.gens.getD i 0#8 + 1#8) }
  | _, _ => s

/-- Frames withdrawn, and their handles freed (R373); those that were posted, the monitor's among them, have an event (R401). -/
def State.withdraw (s : State) (p : Frame → Bool) : State :=
  let s1 := (s.live.frames.filter p).foldl (fun t f => if f.handle.isSome || f.monitor then
    (t.freeHandle f).recEvent s.coreNo 0x01 0x3F (f.ids.setWidth 12).toNat (bits f.ids.toNat 17 12) f.payload else t) s
  { s1 with live := { s1.live with frames := s1.live.frames.filter fun f => !p f } }

/-- The frames of a team withdrawn (R373). -/
def State.withdrawFrames (s : State) (k : Nat) : State := s.withdraw fun f => f.team == some k

/-! ## Groups leaving the engines (R307, R310) -/

/-- The accumulator slots of a team that a group holds are freed, each once no operation uses it (R307). -/
def AccSlot.drop (g : Nat) (a : AccSlot) : AccSlot :=
  if a.holder = some g then (if a.users = 0 then ⟨none, 0, false, []⟩ else { a with leaving := true }) else a

/-- Begins CLEAR if the owner is leaving and its accepted operations are done (R310). -/
def Matrix.settle (m : Matrix) : Matrix :=
  match m.st with
  | .owned _ => if m.leaving && m.ops.isEmpty then { m with st := .clear, leaving := false, plost := false } else m
  | _ => m

/-- A group leaves the matrix engine: it leaves the queue, its image is discarded, and an owner's engine goes to CLEAR, that of a group still
being swapped in once it is the owner (R309, R310, R332). -/
def Matrix.leave (m : Matrix) (g : Nat) : Matrix :=
  let m1 := { m with
    fifo := m.fifo.filter fun h => h != g
    areas := m.areas.filter fun a => a.uid != g
    waiting := m.waiting.filter fun p => p.2 != g }
  match m.st with
  | .owned h => if h = g then ({ m1 with leaving := true }).settle else m1
  | .swap _ (some h) => if h = g then { m1 with leaving := true } else m1
  | _ => m1

/-- What a group leaves behind when it ends (R307, R310). -/
def State.groupGone (s : State) (G : Group) : State :=
  let live := { s.live with
    groups := s.live.groups.filter fun H => H.gctx != G.gctx
    claims := s.live.claims.filter (fun c => c.gctx != G.gctx)
    waits := s.live.waits.filter fun w => w.gctx != G.gctx }
  let s1 := { s with mx := s.mx.leave G.uid, live := live }
  match G.team with
  | none => s1
  | some k => match s1.team k with
    | none => s1
    | some T => s1.setTeam { T with accs := T.accs.map (AccSlot.drop G.uid) }

/-! ## The end of a team (R136) -/

/-- An engine operation of the team is in flight (R136, R373). -/
def State.inFlight (s : State) (T : Team) : Bool :=
  s.mx.ops.any (fun o => o.tuid == T.uid) || s.tcs.any (fun o => o.tuid == T.uid)

/-- An operation of the team that a rollback waits for is in flight: an engine's, or a bank run (R316, R373). -/
def State.opsInFlight (s : State) (T : Team) : Bool := s.inFlight T || s.bank.runs.any fun r => r.tuid == T.uid

/-- An operation that keeps an ended team's scratch and slots is in flight (R136): an engine's, and for a killed team any (R349). -/
def State.holdsOps (s : State) (T : Team) : Bool := if T.killed then s.opsInFlight T else s.inFlight T

/-- The team's resources are freed, scratch and accumulator slots once no operation uses them (R136): until then the record
stays, under a number that is no resident slot's. The bytes of its scratch stay as they are until the next placement there
(R127). -/
def State.releaseTeam (s : State) (T : Team) : State :=
  if s.holdsOps T then
    { s with live := { s.live with teams := s.live.teams.map fun U => if U.slot = T.slot then { T with ended := true, slot := 16 + T.uid } else U } }
  else { s with
    live := { s.live with teams := s.live.teams.filter fun U => U.slot != T.slot }
    paths := if s.live.spilled.any fun p => p.1 == T.uid then s.paths else s.paths.dropOld T.scrBase (T.scrBase + T.scrSize) }

/-- A resident team of either context by its `uid`. -/
def State.teamUid (s : State) (u : Nat) : Option Team :=
  match s.live.teams.find? fun T => T.uid == u with
  | some T => some T
  | none => match s.shadow with
    | some x => x.teams.find? fun T => T.uid == u
    | none => none

/-- A team that has ended and that no engine operation uses any more gives its scratch and slots back (R136). -/
def State.releaseEnded (s : State) (u : Nat) : State := match s.teamUid u with
  | none => s
  | some T =>
    if T.ended ∧ ¬ s.holdsOps T = true then
      let on (c : Ctx) : Ctx := { c with teams := c.teams.filter fun U => U.uid != u }
      { s with
        live := on s.live
        shadow := s.shadow.map on
        paths := s.paths.dropOld T.scrBase (T.scrBase + T.scrSize) }
    else s

/-- A team ends: its blocks return, its groups and frames are gone, it counts as triggered, and its grid may trigger or end
(R136 to R138). The recorder has an event for the end of a team, unless the team was killed, which has an event of its own
(R395, R401). -/
def State.endTeam (s : State) (k : Nat) (killed : Bool) : State := match s.team k with
  | none => s
  | some T =>
    let s1 := (if T.triggered then s else s.flowFrom (AgentId.inTeam T.uid) [.trigger T.grid]).markTriggered k
    let gs := s1.teamGroups k
    let blocks := (gs.map Group.blocks).sum
    let s2 := (gs.foldl (fun t G => t.groupGone G) (s1.withdrawFrames k))
    let keep (b : Option Bin) : Option Bin := match b with
      | some x => if x.team = k then none else some x
      | none => none
    let s3 := { s2 with
      live := { s2.live with
        snaps := s2.live.snaps.filter (fun p => p.team.slot != k)
        bins := s2.live.bins.map keep }
      replays := s2.replays.filter fun r => r.team != some k }
    let binBlocks := (s2.live.bins.map fun b => match b with
      | some x => if x.team = k then (x.threads.map fun f => f.thread.regs.length / 8).sum else 0
      | none => 0).sum
    let s4 := match s3.team k with
      | some U => s3.releaseTeam { U with killed := killed }
      | none => s3
    let s5 := match s.grid T.grid with
      | some g => if killed then s4 else s4.recEvent s.coreNo 0x02 0x03 g.asid.toNat g.f (T.slot + T.linear * 16)
      | none => s4
    let s6 := match s5.grid T.grid with
      | some g => (s5.setGrid { g with endedTeams := g.endedTeams + 1 }).checkGrid T.grid
      | none => s5
    s6.freeBlocks (blocks + binBlocks)

/-! ## Teams on other cores (R135, R177) -/

/-- The images whose contexts have not entered a bank again (R381). -/
def State.saved (s : State) : List Image := s.images.filter fun i => !i.loaded

/-- Where the team of a rank of a team's cluster is: resident in the live context, not live, on another core, or ended (R177,
R196). -/
inductive Peer where
  | here (slot : Nat)
  | away
  | elsewhere
  | ended
deriving DecidableEq, Repr

/-- Two teams of one cluster, by rank. -/
def Team.isPeer (T U : Team) (rank : Nat) : Bool := U.grid == T.grid && U.cluster == T.cluster && U.crank == rank && !U.ended

/-- The linear number of the team of a rank of a team's cluster (R126): ranks rise along x. -/
def Team.peerLinear (T : Team) (rank : Nat) : Nat := T.linear - T.crank + rank

/-- Where a team's peer is. -/
def State.peer (s : State) (T : Team) (rank : Nat) : Peer := match s.live.teams.find? fun U => T.isPeer U rank with
  | some U => .here U.slot
  | none =>
    if (s.shadow.any fun x => x.teams.any fun U => T.isPeer U rank) || s.saved.any fun i => i.ctx.teams.any fun U => T.isPeer U rank then .away
    else if (s.grid T.grid).any fun g => g.remote.any fun r => r.linear == T.peerLinear rank then .elsewhere
    else .ended

/-- A team on another core triggers (R137). -/
def State.remoteTrigger (s : State) (i linear : Nat) : State := match s.grid i with
  | none => s
  | some g =>
    if g.remote.any fun r => r.linear == linear && !r.triggered then
      (s.setGrid { g with
        remote := g.remote.map fun r => if r.linear = linear then { r with triggered := true } else r
        triggeredTeams := g.triggeredTeams + 1 }).checkGrid i
    else s

/-- A team on another core ends; it counts as triggered (R136 to R138). -/
def State.remoteEnd (s : State) (i linear : Nat) : State :=
  let s1 := s.remoteTrigger i linear
  match s1.grid i with
  | none => s1
  | some g =>
    if g.remote.any fun r => r.linear == linear then
      (s1.setGrid { g with remote := g.remote.filter fun r => r.linear != linear, endedTeams := g.endedTeams + 1 }).checkGrid i
    else s1

/-! ## Containment (R368, R373, R374) -/

/-- A field of eight bits counted up, saturating. -/
def satAdd (w : BitVec 32) (lo n : Nat) : BitVec 32 := if bits w.toNat (lo + n - 1) lo + 1 = 2 ^ n then w else w + BitVec.ofNat 32 (2 ^ lo)

/-- The events counter of a share (R370) counted up at one of its fields. -/
def State.countEvent (s : State) (i lo n : Nat) : State := match s.share i with
  | some x => s.setShare i { x with events := satAdd x.events lo n }
  | none => s

/-- The share of a team on this core. -/
def State.teamShare (s : State) (T : Team) : Nat := match s.grid T.grid with
  | none => 0
  | some g => (List.range 4).findIdx fun i => match s.share i with
    | some x => x.f == g.f
    | none => false

/-- Team kill (R374): `means` is the recorder's code (R401: 1 and 2 for `eret` actions, 3 containment). -/
def State.killTeam (s : State) (k means detail : Nat) (report : Bool) : State := match s.team k with
  | none => s
  | some T =>
    if T.ended then s
    else
      let s1 := s.withdrawFrames k
      let s2 := match s.grid T.grid with
        | some g => s1.recEvent s.coreNo 0x02 0x04 g.asid.toNat g.f (T.slot + T.linear * 16 + means * 2 ^ 28)
        | none => s1
      let s3 := s2.countEvent (s.teamShare T) 0 8
      let s4 := if report then s3.postTeamFq T 2 detail 0 else s3
      s4.endTeam k true

/-- A change of the live context made in each context of the core: the live and the shadow one, and those that stand in images alone
(R377, R381). -/
def State.everywhere (s : State) (f : State → State) : State :=
  let s1 := ((f s).exchange)
  let s2 := if s1.shadow.isSome then (f s1).exchange else s1
  s2.saved.foldl (fun t i =>
    let u := f { t with live := i.ctx, shadow := none }
    { u with live := t.live, shadow := t.shadow, images := t.images.map fun j => if j = i then { i with ctx := u.live } else j }) s2

/-- Grid kill (R374): every team of the grid is killed, in each context and on the other cores, teams not placed are dropped and count
as ended, an entry still being placed is consumed, and one grid-killed record is posted. -/
def State.killGrid (s : State) (i : Nat) : State := match s.grid i with
  | none => s
  | some g =>
    let rest := g.teams - g.nextCluster * g.csize + g.remote.length
    let s0 := s.setGrid { g with
      killed := true
      placing := false
      remote := []
      triggeredTeams := g.triggeredTeams + rest - (g.remote.filter (·.triggered)).length
      endedTeams := g.endedTeams + rest }
    let s1 := s0.everywhere fun t =>
      ((t.live.teams.filter fun T => T.grid == i && !T.ended).map (·.slot)).foldl (fun u k => u.killTeam k 2 0 false) t
    let s2 := s1.postFq g.f 3 0xFFFF 0 0 g.entryVa.toNat 0 s.now
    let x := s2.slice g.f
    let q := x.gd.getD s.die LaunchQ.empty
    let s3 := if q.grid = some i then
      s2.setSlice g.f { x with gd := x.gd.set s.die { q with grid := none, qhead := g.next, done := q.done + 1#16 } } else s2
    s3.checkGrid i

/-- The claim that a group waits in, made afresh (R171, R373; log entry 9). -/
def Group.waitingClaim (G : Group) : Option Claim :=
  G.seqs.findSome? fun q => match q.wait with
    | .claim n => some ⟨G.gctx, n, n / 8 * G.liveCount⟩
    | _ => none

/-- A sequencer whose ready time is a given cycle. -/
def Seq.readyAt (now : Nat) (q : Seq) : Seq := { q with ready := now }

/-- A group as a rollback restores it (R373): its fragments are discarded, so that its quads own their columns' threads again, and a quad that
stood in TRAP at the barrier runs, since its frame is withdrawn. The lanes that a fragment held at the barrier stay inactive until their
quad pops them, which the spec leaves open (DESIGN CHOICE, log entry 46). -/
def Group.restored (now : Nat) (G : Group) : Group :=
  let cols (pos : Nat) : BitVec 4 := G.threads.foldl (fun m t => if t.live ∧ t.col / 4 = pos then m ||| 1#4 <<< (t.col % 4) else m) 0#4
  let go (q : Seq) : Seq := if q.st = .trap then { q with st := .run } else q
  { G with seqs := (G.seqs.filter fun q => !q.frag).map fun q => { go (q.readyAt now) with own := cols q.pos } }

/-- The groups of a team as the journal restores them (R373): pre-images in place, in-flight engine counts kept. -/
def State.rollbackTeam (s : State) (k addr : Nat) : State :=
  match s.team k, s.live.snaps.find? (fun p => p.team.slot == k) with
  | some T, some p =>
    let s1 := s.withdrawFrames k
    let before := ((s.teamGroups k).map Group.blocks).sum
    let after := (p.groups.map Group.blocks).sum
    let now := s.now
    let fresh := p.groups.map fun G => match s.group G.gctx with
      | some H => { G.restored now with mx := H.mx, tc := H.tc, bk := H.bk, unret := H.unret }
      | none => G.restored now
    let T1 := { p.team with
      fp := { p.team.fp with pending := 0#5, cycles := T.fp.cycles, wall := T.fp.wall }
      accs := T.accs
      fpx := T.fpx
      cesel := T.cesel
      triggered := T.triggered
      eligible := true
      journal := []
      rollbacks := T.rollbacks + 1
      stopping := none }
    let s2 := { s1 with
      live := { s1.live with
        groups := (s1.live.groups.filter fun (G : Group) => G.team != some k) ++ fresh,
        claims := (s1.live.claims.filter fun (c : Claim) => match s1.group c.gctx with
          | some G => G.team != some k
          | none => true) ++ fresh.filterMap Group.waitingClaim,
        waits := (s1.live.waits.filter fun (w : ChWait) => w.team != k) ++ p.waits,
        free := s1.live.free + before - after,
        rises := if after < before then s1.live.rises + 1 else s1.live.rises }
      scr := memPuts (memClear s1.scr T.scrBase (T.scrBase + T.scrSize)) p.scratch
      paths := s1.paths.dropOld T.scrBase (T.scrBase + T.scrSize)
      replays := s1.replays.filter fun r => r.team != some k }
    let s3 := (s2.setTeam T1).countEvent (s.teamShare T) 8 8
    let s4 := match s.grid T.grid with
      | some g => s3.recEvent s.coreNo 0x04 0x01 g.asid.toNat g.f (T.slot + (T.rollbacks + 1) * 16)
      | none => s3
    (s4.postTeamFq T 5 (T.rollbacks + 1) addr).grantClaims
  | _, _ => s

/-- Containment of a consumption or a detected silent error (R368, R373): an eligible team stops and rolls back, once its
engine operations in flight are done; otherwise, and for a third rollback in an interval, it is killed. -/
def State.contain (s : State) (k addr : Nat) : State := match s.team k with
  | none => s
  | some T =>
    if T.stopping.isSome then s
    else if T.eligible ∧ T.rollbacks < 2 ∧ (s.live.snaps.any fun p => p.team.slot == k) = true then
      if s.opsInFlight T then s.setTeam { T with stopping := some addr } else s.rollbackTeam k addr
    else s.killTeam k 3 0 true

end Sys2Proof.Machine
end

