-- ==== Sys2Proof/Machine/Operands.lean ====
section
/-! DEFINITION. Register operands: the codes of R12, pairs, runs and masks, the latches and their redirection, and the
register-window check (spec/01_sequential_machine.md R9 to R17; spec/05 R108; spec/07 R155). -/
namespace Sys2Proof.Machine

/-- The zero word, not poisoned. -/
def pzero : PWord := ⟨0#32, false⟩

/-- A clean word. -/
def clean (v : Word) : PWord := ⟨v, false⟩

/-! ## Reading (R12, R17) -/

/-- An element of a latch as it is read (R17): the live element, or, once redirected, the tagged register's contents or the
saved value. -/
def Thread.readLatch (t : Thread) (i : Nat) : PWord :=
  match t.lats[i]? with
  | none => pzero
  | some q =>
    if q.redir then
      if q.tag.toNat < 256 then t.regs.getD q.tag.toNat pzero
      else if q.tag.toNat < 264 then t.opf.getD (q.tag.toNat - 256) pzero
      else q.w
    else q.w

/-- The word that a register code names as a source in a virtual lane (R12). A lane that does not issue, but is the source of another one's
`shfl` or `rgt`, may hold too small an allocation for the register: R10 does not check it, and it gives a clean 0 (R158, R161; DESIGN
CHOICE, log entry 46). -/
def Group.readWord (G : Group) (l c : Nat) : PWord :=
  match G.thread l with
  | none => pzero
  | some t =>
    if c < 96 then t.regs.getD (G.winb + c) pzero
    else if c < 104 then t.opf.getD (c - 96) pzero
    else if c < 108 then t.readLatch (c - 104)
    else if c < 124 then G.unif.getD (c - 108) pzero
    else if c = 125 then clean (BitVec.ofNat 32 l)
    else if c = 126 then clean (BitVec.ofNat 32 t.tix)
    else pzero

/-- n words from a register code on; 0x7C reads zeros (R34, R108). -/
def Group.readWords (G : Group) (l c n : Nat) : List PWord :=
  (List.range n).map fun i => if c = 124 then pzero else G.readWord l (c + i)

/-- The 64-bit value of a pair (R11, R34). -/
def pairVal (ws : List PWord) : DWord := (ws.getD 1 pzero).val ++ (ws.getD 0 pzero).val

/-- Some word of a list is poisoned. -/
def anyPoison (ws : List PWord) : Bool := ws.any (·.poison)

/-- A mask register; k0 is the issuing lanes' active mask (R13). -/
def Group.mask (G : Group) (k0 : BitVec 64) (k : Nat) : BitVec 64 := if k = 0 then k0 else G.masks.getD (k - 1) 0#64

/-- Bits of virtual lanes at or above the declared width read zero and are not written (R13). -/
def Group.widthMask (G : Group) : BitVec 64 := laneMask G.width fun _ => true

/-- A mask register written. -/
def Group.setMask (G : Group) (k : Nat) (v : BitVec 64) : Group :=
  if k = 0 then G else { G with masks := G.masks.set (k - 1) (v &&& G.widthMask) }

/-! ## Writing -/

/-- One word of a thread's registers written, by code; other codes write nothing (R12). -/
def Thread.writeWord (t : Thread) (winb c : Nat) (v : PWord) : Thread :=
  if c < 96 then { t with regs := t.regs.set (winb + c) v }
  else if c < 104 then { t with opf := t.opf.set (c - 96) v }
  else t

/-- Words of a thread's registers written from a code on; 0x7C discards them (R34, R108). -/
def Thread.writeWords (t : Thread) (winb c : Nat) (ws : List PWord) : Thread :=
  if 104 ≤ c then t
  else (List.range ws.length).foldl (fun u i => u.writeWord winb (c + i) (ws.getD i pzero)) t

/-- A group with one thread replaced. -/
def Group.setThread (G : Group) (l : Nat) (t : Thread) : Group := { G with threads := G.threads.set l t }

/-- Uniform registers written from a code on (R14). -/
def Group.writeUnif (G : Group) (c : Nat) (ws : List PWord) : Group :=
  (List.range ws.length).foldl (fun H i => { H with unif := H.unif.set (c - 108 + i) (ws.getD i pzero) }) G

/-- The code names a uniform register. -/
def isUnif (c : Nat) : Bool := decide (108 ≤ c) && decide (c < 124)

/-! ## Latches (R15, R17) -/

/-- The tag of a destination word (R15). -/
def latchTag (winb c : Nat) : BitVec 9 :=
  if c < 96 then BitVec.ofNat 9 (winb + c) else if c < 104 then BitVec.ofNat 9 (256 + (c - 96)) else 511#9

/-- One push: the new element enters, the oldest is discarded. -/
def Thread.push (t : Thread) (v : PWord) (tag : BitVec 9) : Thread := { t with lats := ⟨v, tag, false⟩ :: t.lats.take 3 }

/-- A latch element written into the register that its tag names (R17, step 1). -/
def Thread.flushLatch (t : Thread) (q : Latch) : Thread :=
  if q.redir then t
  else if q.tag.toNat < 256 then { t with regs := t.regs.set q.tag.toNat q.w }
  else if q.tag.toNat < 264 then { t with opf := t.opf.set (q.tag.toNat - 256) q.w }
  else t

/-- A group switch for one thread (R17): the elements are written to their registers, oldest first, and every latch is
redirected; the values of those tagged "discard" are saved. -/
def Thread.redirect (t : Thread) : Thread :=
  let u := t.lats.reverse.foldl Thread.flushLatch t
  { u with lats := t.lats.map fun q => { q with redir := true } }

/-! ## The register-window check (R10, R11, R17) -/

/-- A thread may name n registers from a code on: the window plus the number lies within its allocation, and a redirected
latch's register too. -/
def Thread.namesOk (t : Thread) (winb c n : Nat) : Bool :=
  if c < 96 then decide (winb + c + n ≤ t.regs.length)
  else if 104 ≤ c ∧ c < 108 then match t.lats[c - 104]? with
    | none => true
    | some q => !(q.redir && decide (q.tag.toNat < 256) && decide (t.regs.length ≤ q.tag.toNat))
  else true

/-- Every issuing lane may name every register of a list of codes and counts. -/
def Group.namesOk (G : Group) (lanes : List Nat) (names : List (BitVec 7 × Nat)) : Bool :=
  lanes.all fun l => match G.thread l with
    | none => true
    | some t => names.all fun p => t.namesOk G.winb p.1.toNat p.2

end Sys2Proof.Machine
end

