-- ==== Sys2Proof/Machine/Flags.lean ====
section
/-! DEFINITION. The five floating-point flags (spec/03_number_formats.md R75 to R77; spec/05 R120 to R122). -/
namespace Sys2Proof.Machine

/-- Invalid (R75). -/
def flagNV : BitVec 5 := 1#5
/-- Divide by zero. -/
def flagDZ : BitVec 5 := 2#5
/-- Overflow. -/
def flagOF : BitVec 5 := 4#5
/-- Underflow. -/
def flagUF : BitVec 5 := 8#5
/-- Inexact. -/
def flagNX : BitVec 5 := 16#5

/-- The floating-point mode register that a group runs under (R67): a migrated group carries its own copy. -/
def State.fpmode (s : State) (G : Group) : BitVec 32 := match G.mig with
  | some m => m.mode
  | none => (s.fp G).mode

/-- FTZ (R67, R69). -/
def State.ftz (s : State) (G : Group) : Bool := (s.fpmode G).getLsbD 3

/-- Flags raised by a retiring instruction enter the pending set; a migrated group keeps them until it comes home (R75). -/
def State.raiseFlags (s : State) (g : Nat) (fl : BitVec 5) : State :=
  if fl = 0#5 then s
  else match s.group g with
    | none => s
    | some G => match G.mig with
      | some m => s.setGroup { G with mig := some { m with flags := m.flags ||| fl } }
      | none =>
        let c := s.fp G
        s.setFp G { c with pending := c.pending ||| fl }

/-- A quad that waits at an `mret` has been through it: it goes on (R295). -/
def Seq.fromHome (now : Nat) (q : Seq) : Seq := if q.wait = .home then { q with wait := .none, ready := now + 1 } else q

/-- A migrated group comes home (R75, R291, R295): a group switch, and the flags it carries join its team's pending set. -/
def State.comeHome (s : State) (g : Nat) : State := match s.group g with
  | none => s
  | some G => match G.mig with
    | none => s
    | some m =>
      let back (t : Thread) : Thread := if t.live then t.redirect else t
      (s.setGroup { G with mig := none, threads := G.threads.map back, seqs := G.seqs.map (Seq.fromHome s.now) }).raiseFlags g m.flags

/-- Flags cleared in both sets (R121). -/
def State.clearFlags (s : State) (G : Group) (fl : BitVec 5) : State :=
  let c := s.fp G
  s.setFp G { c with pending := c.pending &&& ~~~fl, committed := c.committed &&& ~~~fl }

/-- What `flgrd` reads (R120): committed OR pending; a migrated group, the sets as they stood when it left and the flags it
has raised since. -/
def State.readFlags (s : State) (G : Group) : BitVec 5 := match G.mig with
  | some m => m.seen ||| m.flags
  | none => (s.fp G).committed ||| (s.fp G).pending

end Sys2Proof.Machine
end

