-- ==== Sys2Proof/Machine/Float.lean ====
section
/-! DEFINITION. Number formats and rounding: exact values, decoding and rounding of every binary format, exact sums,
division and root, rounding to integers, and the DL8 format (spec/03_number_formats.md R57 to R70). -/
namespace Sys2Proof.Machine

/-! ## Exact values -/

/-- A value of a floating-point format: a NaN, signalling or quiet; an infinity; or the finite value (-1)^neg * m * 2^e,
a zero when m is 0. -/
inductive FVal where
  | nan (signalling : Bool)
  | inf (neg : Bool)
  | fin (neg : Bool) (m : Nat) (e : Int)
deriving DecidableEq, Repr

/-- The value is a NaN. -/
def FVal.isNan : FVal → Bool
  | .nan _ => true
  | _ => false
/-- The value is a signalling NaN (R59). -/
def FVal.isSig : FVal → Bool
  | .nan g => g
  | _ => false
/-- The value is an infinity. -/
def FVal.isInf : FVal → Bool
  | .inf _ => true
  | _ => false
/-- The value is a zero. -/
def FVal.isZero : FVal → Bool
  | .fin _ m _ => m == 0
  | _ => false
/-- The sign; a NaN has none. -/
def FVal.neg : FVal → Bool
  | .nan _ => false
  | .inf n => n
  | .fin n _ _ => n
/-- The value with its sign changed. -/
def FVal.flip : FVal → FVal
  | .nan g => .nan g
  | .inf n => .inf (!n)
  | .fin n m e => .fin (!n) m e

/-- The signed significand. -/
def sgn (neg : Bool) (m : Nat) : Int := if neg then -(m : Int) else (m : Int)

/-! ## Formats (R58) -/

/-- A binary format: exponent and fraction bits, bias, and how its top exponent is used: 0 as IEEE 754 has it, 1 as in
E4M3 (NaN at all ones only), 2 as in E2M1 (no special value). `sat` marks the formats whose overflow saturates (R68). -/
structure Fmt where
  eb : Nat
  mb : Nat
  bias : Nat
  top : Nat
  sat : Bool
  flush : Bool
deriving DecidableEq, Repr

/-- FP32. -/
def fp32 : Fmt := ⟨8, 23, 127, 0, false, true⟩
/-- FP16. -/
def fp16 : Fmt := ⟨5, 10, 15, 0, false, true⟩
/-- BF16. -/
def bf16 : Fmt := ⟨8, 7, 127, 0, false, true⟩
/-- E4M3. -/
def e4m3 : Fmt := ⟨4, 3, 7, 1, true, false⟩
/-- E5M2. -/
def e5m2 : Fmt := ⟨5, 2, 15, 0, true, false⟩
/-- E2M1. -/
def e2m1 : Fmt := ⟨2, 1, 1, 2, true, false⟩

/-- The number of bits of a format. -/
def Fmt.width (F : Fmt) : Nat := 1 + F.eb + F.mb
/-- The exponent of the least positive normal value. -/
def Fmt.emin (F : Fmt) : Int := 1 - (F.bias : Int)
/-- The code of the largest finite magnitude. -/
def Fmt.maxCode (F : Fmt) : Nat := match F.top with
  | 0 => (2 ^ F.eb - 1) * 2 ^ F.mb - 1
  | 1 => 2 ^ (F.eb + F.mb) - 2
  | _ => 2 ^ (F.eb + F.mb) - 1
/-- The code of the canonical NaN (R58). -/
def Fmt.nanCode (F : Fmt) : Nat := match F.top with
  | 0 => (2 ^ F.eb - 1) * 2 ^ F.mb + 2 ^ (F.mb - 1)
  | 1 => 2 ^ (F.eb + F.mb) - 1
  | _ => 0
/-- The code of positive infinity. -/
def Fmt.infCode (F : Fmt) : Nat := (2 ^ F.eb - 1) * 2 ^ F.mb
/-- A magnitude code with a sign. -/
def Fmt.signed (F : Fmt) (neg : Bool) (c : Nat) : Nat := if neg then c + 2 ^ (F.eb + F.mb) else c

/-- The value of a code (R58, R59); E5M2's canonical NaN is quiet like every narrow NaN. -/
def Fmt.decode (F : Fmt) (c : Nat) : FVal :=
  let neg := bitAt c (F.eb + F.mb)
  let mag := c % 2 ^ (F.eb + F.mb)
  let ex := mag / 2 ^ F.mb
  let fr := mag % 2 ^ F.mb
  if F.top = 0 ∧ ex = 2 ^ F.eb - 1 then
    if fr = 0 then .inf neg else .nan (!F.sat && !bitAt fr (F.mb - 1))
  else if F.top = 1 ∧ mag = 2 ^ (F.eb + F.mb) - 1 then .nan false
  else if ex = 0 then .fin neg fr (F.emin - F.mb)
  else .fin neg (2 ^ F.mb + fr) ((ex : Int) - F.bias - F.mb)

/-- The code of a subnormal of the format. -/
def Fmt.subnormal (F : Fmt) (c : Nat) : Bool :=
  (c % 2 ^ (F.eb + F.mb)) / 2 ^ F.mb == 0 && c % 2 ^ F.mb != 0

/-- Decoding with the flush of subnormal operands (R69). -/
def Fmt.decodeFtz (F : Fmt) (ftz : Bool) (c : Nat) : FVal :=
  if ftz && F.flush && F.subnormal c then .fin (bitAt c (F.eb + F.mb)) 0 0 else F.decode c

/-! ## Rounding (R66, R68, R69) -/

/-- The number of significant bits. -/
def bitLen (m : Nat) : Nat := if m = 0 then 0 else Nat.log2 m + 1

/-- A magnitude n + (r + sticky) / 2^k rounded to an integer by a mode: 0 RN, 1 RZ, 2 RU, 3 RD, 4 RNA. -/
def roundUp (mode : Nat) (neg : Bool) (n r k : Nat) (sticky : Bool) : Bool :=
  let inexact := r != 0 || sticky
  let half := 2 ^ k
  match mode with
  | 0 => decide (half < 2 * r) || (2 * r == half && (sticky || n % 2 == 1)) 
  | 1 => false
  | 2 => !neg && inexact
  | 3 => neg && inexact
  | _ => decide (half ≤ 2 * r)

/-- m * 2^e (and a little more when `sticky`) rounded to a multiple of 2^q: the multiple and whether it is inexact. -/
def roundAt (mode : Nat) (neg : Bool) (m : Nat) (e q : Int) (sticky : Bool) : Nat × Bool :=
  if q ≤ e then (m * 2 ^ (e - q).toNat, sticky)
  else
    let k := (q - e).toNat
    let n := m / 2 ^ k
    let r := m % 2 ^ k
    (if roundUp mode neg n r k sticky then n + 1 else n, r != 0 || sticky)

/-- What overflow gives (R68). -/
def Fmt.overflow (F : Fmt) (mode : Nat) (neg : Bool) : Nat × BitVec 5 :=
  let toMax := F.sat || mode == 1 || (mode == 2 && neg) || (mode == 3 && !neg)
  (F.signed neg (if toMax then F.maxCode else F.infCode), flagOF ||| flagNX)

/-- A finite exact value rounded once to a format (R66, R68, R69). The exact value is m * 2^e, and a little more in
magnitude when `sticky`, which callers use only with far more bits in m than the format holds. -/
def Fmt.roundFin (F : Fmt) (ftz : Bool) (mode : Nat) (neg : Bool) (m : Nat) (e : Int) (sticky : Bool) : Nat × BitVec 5 :=
  if m = 0 then (F.signed neg 0, 0#5)
  else
    let top := e + (bitLen m : Int) - 1
    if ftz && F.flush && decide (top < F.emin) then (F.signed neg 0, flagUF ||| flagNX)
    else
      let q := max (top - F.mb) (F.emin - F.mb)
      let r := roundAt mode neg m e q sticky
      let code := ((q + F.mb + F.bias - 1).toNat) * 2 ^ F.mb + r.1
      if F.maxCode < code then F.overflow mode neg
      else
        let u := roundAt mode neg m e (top - F.mb) sticky
        let tiny := decide (top < F.emin) && !(decide (top = F.emin - 1) && u.1 == 2 ^ (F.mb + 1))
        (F.signed neg code, if r.2 then (if tiny then flagUF ||| flagNX else flagNX) else 0#5)

/-- An exact or special value taken to a format (R59, R68). -/
def Fmt.round (F : Fmt) (ftz : Bool) (mode : Nat) : FVal → Nat × BitVec 5
  | .nan _ => if F.top = 2 then (0, flagNV) else (F.nanCode, 0#5)
  | .inf n => if F.top = 0 then (F.signed n F.infCode, 0#5) else (F.signed n F.maxCode, flagOF ||| flagNX)
  | .fin n m e => F.roundFin ftz mode n m e false

/-- A value rounded to an integer by a mode: the signed integer and whether it is inexact (R113, R62). -/
def roundInt (mode : Nat) (neg : Bool) (m : Nat) (e : Int) : Int × Bool :=
  let r := roundAt mode neg m e 0 false
  (sgn neg r.1, r.2)

/-! ## Exact sums, products, quotients and roots -/

/-- The sign of an exact zero result: plus, except minus in RD (R66). -/
def zeroNeg (mode : Nat) : Bool := mode == 3

/-- The exact product (R109): invalid for zero times infinity. -/
def fmulExact (x y : FVal) : Option FVal := match x, y with
  | .nan _, _ => some (.nan false)
  | _, .nan _ => some (.nan false)
  | .inf a, .inf b => some (.inf (a != b))
  | .inf a, .fin b m _ => if m = 0 then none else some (.inf (a != b))
  | .fin a m _, .inf b => if m = 0 then none else some (.inf (a != b))
  | .fin a m e, .fin b k f => some (.fin (a != b) (m * k) (e + f))

/-- A finite value's signed significand at an exponent not above its own. -/
def atExp (x : FVal) (e : Int) : Int := match x with
  | .fin n m f => sgn n (m * 2 ^ (f - e).toNat)
  | _ => 0

/-- The exact sum (R66, R109): invalid for infinities of opposite signs; an exact zero takes its sign from the mode unless
both are zeros of one sign. -/
def faddExact (mode : Nat) (x y : FVal) : Option FVal := match x, y with
  | .nan _, _ => some (.nan false)
  | _, .nan _ => some (.nan false)
  | .inf a, .inf b => if a = b then some (.inf a) else none
  | .inf a, .fin _ _ _ => some (.inf a)
  | .fin _ _ _, .inf b => some (.inf b)
  | .fin a m e, .fin b k f =>
    let g := min e f
    let t := sgn a (m * 2 ^ (e - g).toNat) + sgn b (k * 2 ^ (f - g).toNat)
    if t = 0 then some (.fin (if m = 0 ∧ k = 0 ∧ a = b then a else zeroNeg mode) 0 0)
    else some (.fin (decide (t < 0)) t.natAbs g)

/-- The exact sum of many values: none when infinities of both signs meet (R70). A sum of zeros of one sign keeps it; any
other exact zero takes its sign from the mode (R66). -/
def fsumExact (mode : Nat) (l : List FVal) : Option FVal :=
  if l.any (·.isNan) then some (.nan false)
  else
    let infs := l.filter (·.isInf)
    if infs.any (·.neg) && infs.any (fun v => !v.neg) then none
    else match infs with
      | v :: _ => some v
      | [] =>
        let g := l.foldl (fun a v => match v with
          | .fin _ _ e => min a e
          | _ => a) (0 : Int)
        let t := l.foldl (fun a v => a + atExp v g) (0 : Int)
        if t = 0 then
          let zs := l.all (·.isZero)
          let n := match l with
            | v :: r => if zs && r.all (fun w => w.neg == v.neg) then v.neg else zeroNeg mode
            | [] => zeroNeg mode
          some (.fin n 0 0)
        else some (.fin (decide (t < 0)) t.natAbs g)

/-- The quotient of two nonzero finite values with at least 64 significant bits and a sticky mark. -/
def fdivBits (m : Nat) (e : Int) (k : Nat) (f : Int) : Nat × Int × Bool :=
  let sh := 64 + bitLen k
  let a := m * 2 ^ sh
  (a / k, e - f - sh, a % k != 0)

/-- The integer square root of a number below 2^(2 b), found from its highest bit down. -/
def isqrt (b n : Nat) : Nat := (List.range b).reverse.foldl (fun r i => if (r + 2 ^ i) * (r + 2 ^ i) ≤ n then r + 2 ^ i else r) 0

/-- The root of a nonzero finite value with at least 44 significant bits and a sticky mark. -/
def fsqrtBits (m : Nat) (e : Int) : Nat × Int × Bool :=
  let sh : Nat := 88 + (if (e % 2 = 0) then 0 else 1)
  let a := m * 2 ^ sh
  let r := isqrt 64 a
  (r, (e - sh) / 2, r * r != a)

/-! ## Comparing -/

/-- The order of two values that are not NaN, with both zeros equal: the signs of x - y. -/
def fcmpExact (x y : FVal) : Ordering := match x, y with
  | .inf a, .inf b => if a = b then .eq else if a then .lt else .gt
  | .inf a, _ => if a then .lt else .gt
  | _, .inf b => if b then .gt else .lt
  | .fin a m e, .fin b k f =>
    let g := min e f
    compare (sgn a (m * (2 : Nat) ^ (e - g).toNat)) (sgn b (k * (2 : Nat) ^ (f - g).toNat))
  | _, _ => .eq

/-- x is below y in the order of minimum and maximum, where -0 is below +0 (R109). -/
def fbelow (x y : FVal) : Bool := match fcmpExact x y with
  | .lt => true
  | .eq => x.neg && !y.neg
  | .gt => false

/-- minimumNumber and maximumNumber of two values (R109). -/
def fminNum (mx : Bool) (x y : FVal) : FVal :=
  if x.isNan && y.isNan then .nan false
  else if x.isNan then y
  else if y.isNan then x
  else if fbelow x y != mx then x else y

/-! ## FP32 words -/

/-- An FP32 word read through the flush (R69). -/
def f32 (ftz : Bool) (w : Word) : FVal := fp32.decodeFtz ftz w.toNat

/-- NV when one of the operands is a signalling NaN (R59). -/
def sigFlag (l : List FVal) : BitVec 5 := if l.any (·.isSig) then flagNV else 0#5

/-- An exact result, none for an invalid case, taken to a format with the flags of the operands (R109). -/
def Fmt.finish (F : Fmt) (ftz : Bool) (mode : Nat) (ops : List FVal) (r : Option FVal) : Nat × BitVec 5 :=
  match r with
  | none => (F.nanCode, flagNV ||| sigFlag ops)
  | some v =>
    let p := F.round ftz mode v
    (p.1, p.2 ||| sigFlag ops)

/-! ## DL8 (R63 to R65) -/

/-- Ten to the power k, as a numerator and a denominator. -/
def tenPow (k : Int) : Nat × Nat := if 0 ≤ k then ((10 : Nat) ^ k.toNat, 1) else (1, (10 : Nat) ^ (-k).toNat)

/-- The number of bits of m, from bit 6 downward, equal to bit 6. -/
def dl8Run (m : Nat) : Nat := ((List.range 7).find? fun i => bitAt m (6 - i) != bitAt m 6).getD 7

/-- The exact magnitude of codes 1 to 127 as a fraction (R63). -/
def dl8Mag (m : Nat) : Nat × Nat :=
  let L := dl8Run m
  let k : Int := if bitAt m 6 then (L : Int) - 1 else -(L : Int)
  let n := 6 - L
  let f := if n = 0 then 0 else m % 2 ^ n
  let t := tenPow k
  (t.1 * (2 ^ n + 9 * f), t.2 * 2 ^ n)

/-- An FP32 rounding to nearest of a positive fraction. -/
def ratToF32 (neg : Bool) (num den : Nat) : Nat :=
  let q := fdivBits num 0 den 0
  (fp32.roundFin false 0 neg q.1 q.2.1 q.2.2).1

/-- The binary decode of a DL8 code, an FP32 code (R64). -/
def dl8Decode (c : Nat) : Nat :=
  let m := c % 128
  if m = 0 then (if bitAt c 7 then 0x7FC00000 else 0)
  else ratToF32 (bitAt c 7) (dl8Mag m).1 (dl8Mag m).2

/-- Compares a finite magnitude k * 2^e with a fraction. -/
def magCmp (k : Nat) (e : Int) (p : Nat × Nat) : Ordering :=
  if 0 ≤ e then compare (k * 2 ^ e.toNat * p.2) p.1 else compare (k * p.2) (p.1 * 2 ^ (-e).toNat)

/-- The magnitude of a code of P, zero included. -/
def dl8Val (m : Nat) : Nat × Nat := if m = 0 then (0, 1) else dl8Mag m

/-- Compares twice a magnitude with the sum of two codes' values. -/
def dl8Mid (k : Nat) (e : Int) (lo hi : Nat) : Ordering :=
  let a := dl8Val lo
  let b := dl8Val hi
  magCmp k (e + 1) (a.1 * b.2 + b.1 * a.2, a.2 * b.2)

/-- encode_dl8 (R65): the code and the flags. -/
def dl8Encode (mode : Nat) : FVal → Nat × BitVec 5
  | .nan g => (0x80, if g then flagNV else 0#5)
  | .inf n => ((if n then 0x80 else 0) + 0x7F, flagOF ||| flagNX)
  | .fin n k e =>
    if magCmp k e (1000000, 1) = .gt then ((if n then 0x80 else 0) + 0x7F, flagOF ||| flagNX)
    else
      let lo := ((List.range 128).reverse.find? fun c => magCmp k e (dl8Val c) != .lt).getD 0
      let exact := magCmp k e (dl8Val lo) == .eq
      let hi := if exact then lo else lo + 1
      let fl := if exact then 0#5 else if magCmp k e (1, 1000000) == .lt then flagNX ||| flagUF else flagNX
      let mag := if exact then lo else match mode with
        | 0 => (match dl8Mid k e lo hi with
          | .lt => lo
          | .gt => hi
          | .eq => if lo % 2 = 0 then lo else hi)
        | 1 => lo
        | 2 => if n then lo else hi
        | 3 => if n then hi else lo
        | _ => if dl8Mid k e lo hi == .lt then lo else hi
      (if mag = 0 then 0 else (if n then 0x80 else 0) + mag, fl)

end Sys2Proof.Machine
end

