-- ==== Sys2Proof/Machine/Approx.lean ====
section
/-! DEFINITION. The approximated functions of major 0x22 (spec/05_lane_arithmetic_instructions.md R111): a reference value
of each function with far more bits than FP32, the bound around it, and a free choice of a result within the bound. -/
namespace Sys2Proof.Machine

/-! ## Fixed-point references

A reference is an integer number of 2^-256ths. Every series below is cut where its terms fall under that unit, so a
reference errs by less than 2^-200 of its value or absolutely, far inside every bound of R111. -/

/-- The fraction bits of a reference. -/
def refBits : Nat := 256

/-- A finite value as a fixed-point number, its low bits cut. -/
def toFix (neg : Bool) (m : Nat) (e : Int) : Int :=
  sgn neg (if 0 ≤ e + refBits then m * 2 ^ (e + refBits).toNat else m / 2 ^ (-(e + refBits)).toNat)

/-- Product of fixed-point numbers. -/
def fixMul (a b : Int) : Int := (a * b) / 2 ^ refBits

/-- exp x for a fixed-point x of magnitude at most 1: the sum of x^k / k! by Horner's rule. -/
def fixExp (x : Int) : Int := (List.range 70).reverse.foldl (fun (a : Int) (k : Nat) => 2 ^ refBits + fixMul x a / ((k : Int) + 1)) (2 ^ refBits)

/-- The sum of z^(2k+1) / (2k+1), with signs alternating when `alt`, over n terms. -/
def fixOddSeries (alt : Bool) (n : Nat) (z : Int) : Int :=
  let q := fixMul z z
  let a := (List.range n).reverse.foldl (fun (a : Int) (k : Nat) =>
    2 ^ refBits / (2 * (k : Int) + 1) + (if alt then -(fixMul q a) else fixMul q a)) 0
  fixMul z a

/-- ln 2 = 2 artanh (1/3). -/
def fixLn2 : Int := 2 * fixOddSeries false 90 (2 ^ refBits / 3)

/-- log2 of a fixed-point number in [1, 2]: 2 artanh ((y-1)/(y+1)) / ln 2. -/
def fixLog2 (y : Int) : Int :=
  let z := (y - 2 ^ refBits) * 2 ^ refBits / (y + 2 ^ refBits)
  2 * fixOddSeries false 90 z * 2 ^ refBits / fixLn2

/-- pi in 2^-512ths, by 16 arctan (1/5) - 4 arctan (1/239). -/
def bigPi : Int :=
  let unit : Int := 2 ^ 512
  let arc (n : Int) (terms : Nat) : Int :=
    (List.range terms).foldl (fun (a : Int) (k : Nat) => a + (if k % 2 = 0 then 1 else -1) * (unit / (n ^ (2 * k + 1) * (2 * (k : Int) + 1)))) 0
  16 * arc 5 115 - 4 * arc 239 36

/-- x reduced exactly modulo 2 pi to [-pi, pi], as a fixed-point number; x is a finite FP32 value. -/
def fixReduce (neg : Bool) (m : Nat) (e : Int) : Int :=
  let x : Int := sgn neg (if 0 ≤ e + 512 then m * 2 ^ (e + 512).toNat else 0)
  let r := x % (2 * bigPi)
  (if bigPi < r then r - 2 * bigPi else r) / 2 ^ 256

/-- sin of a fixed-point number in [-pi, pi]. -/
def fixSin (x : Int) : Int :=
  let q := fixMul x x
  fixMul x ((List.range 40).reverse.foldl (fun (a : Int) (k : Nat) => 2 ^ refBits - fixMul q a / ((2 * (k : Int) + 2) * (2 * k + 3))) (2 ^ refBits))

/-- cos of a fixed-point number in [-pi, pi]. -/
def fixCos (x : Int) : Int :=
  let q := fixMul x x
  (List.range 40).reverse.foldl (fun (a : Int) (k : Nat) => 2 ^ refBits - fixMul q a / ((2 * (k : Int) + 1) * (2 * k + 2))) (2 ^ refBits)

/-- A reference value: sign, significand, exponent. -/
abbrev Ref := Bool × Nat × Int

/-- A fixed-point number scaled by a power of two as a reference. -/
def fixRef (x : Int) (e : Int) : Ref := (decide (x < 0), x.natAbs, e - refBits)

/-- The reference value of function fn of major 0x22 at a finite nonzero x (R111). -/
def refOf (fn : Nat) (neg : Bool) (m : Nat) (e : Int) : Ref := match fn with
  | 0 => let q := fdivBits 1 0 m e
    (neg, q.1, q.2.1)
  | 1 =>
    let odd := e % 2 != 0
    let k := if odd then 2 * m else m
    (false, isqrt 340 (2 ^ 640 / k), -320 - (if odd then e - 1 else e) / 2)
  | 2 =>
    let x := toFix neg m e
    let n := x / 2 ^ refBits
    fixRef (fixExp (fixMul (x - n * 2 ^ refBits) fixLn2)) n
  | 3 =>
    let n : Int := e + (bitLen m : Int) - 1
    let y := toFix false m (e - n)
    fixRef (n * 2 ^ refBits + fixLog2 y) 0
  | 4 => fixRef (fixSin (fixReduce neg m e)) 0
  | 5 => fixRef (fixCos (fixReduce neg m e)) 0
  | _ =>
    let x := toFix neg m e
    let y := 2 * x
    let n := y / 2 ^ refBits
    let ex := fixExp (y - n * 2 ^ refBits)
    let ee := (List.range n.natAbs).foldl (fun (a : Int) _ =>
      if 0 ≤ n then fixMul a (fixExp (2 ^ refBits)) else a * 2 ^ refBits / fixExp (2 ^ refBits)) ex
    fixRef ((ee - 2 ^ refBits) * 2 ^ refBits / (ee + 2 ^ refBits)) 0

/-- The exponent of the bound of R111: one or two ulps, or an absolute bound 2^-21 (sine, cosine). For the logarithm of a value in
[0.5, 2], where two ulps are never more than 2^-22, the absolute bound is the one that is asked for (DEDUCED, log entry 20). -/
def boundOf (fn : Nat) (r : Ref) (near : Bool) : Int :=
  let top : Int := r.2.2 + (bitLen r.2.1 : Int) - 1
  let ulp : Int := max (top - 23) (-149)
  match fn with
  | 0 => ulp
  | 3 => if near then -22 else ulp + 1
  | 4 => -21
  | 5 => -21
  | _ => ulp + 1

/-- |value of code c - reference| is less than 2^b by more than the reference may err, so that the exact result's bound holds. -/
def withinBound (c : Nat) (r : Ref) (b : Int) : Bool := match fp32.decode c with
  | .fin n m e =>
    let g := min (min e r.2.2) (b - 60)
    let d := sgn n (m * 2 ^ (e - g).toNat) - sgn r.1 (r.2.1 * 2 ^ (r.2.2 - g).toNat)
    decide (d.natAbs + 2 ^ (b - 60 - g).toNat ≤ 2 ^ (b - g).toNat)
  | _ => false

/-- A result within the bound of R111, subnormal or zero where `tiny` asks for that: the free value of Config where it is one, and
else the reference rounded to nearest (log entry 20). -/
def pickApprox (fn : Nat) (ftz near tiny : Bool) (w : Word) (r : Ref) : Nat :=
  let v := (Config.approx fn ftz w).toNat
  if withinBound v r (boundOf fn r near) && (!tiny || decide (v % 2 ^ 31 < 2 ^ 23)) then v else (fp32.roundFin false 0 r.1 r.2.1 r.2.2 true).1

/-- A power of two, with its exponent. -/
def pow2Exp (m : Nat) (e : Int) : Option Int := if m ≠ 0 ∧ 2 ^ Nat.log2 m = m then some (e + Nat.log2 m) else none

/-- The special inputs of R111: zeros, infinities and negative values. -/
def approxSpecial (fn : Nat) : FVal → Option (Nat × BitVec 5)
  | .nan g => some (0x7FC00000, if g then flagNV else 0#5)
  | .inf n => some (match fn, n with
    | 0, _ => (fp32.signed n 0, 0#5)
    | 1, false => (0, 0#5)
    | 2, false => (fp32.infCode, 0#5)
    | 2, true => (0, 0#5)
    | 3, false => (fp32.infCode, 0#5)
    | 6, _ => (fp32.signed n 0x3F800000, 0#5)
    | _, _ => (0x7FC00000, flagNV))
  | .fin n m _ =>
    if m = 0 then some (match fn with
      | 0 => (fp32.signed n fp32.infCode, flagDZ)
      | 1 => (fp32.signed n fp32.infCode, flagDZ)
      | 2 => (0x3F800000, 0#5)
      | 3 => (fp32.signed true fp32.infCode, flagDZ)
      | 5 => (0x3F800000, 0#5)
      | _ => (fp32.signed n 0, 0#5))
    else if n && (fn == 1 || fn == 3) then some (0x7FC00000, flagNV)
    else none

/-- The exact cases of R111, which raise no NX: the exact value. -/
def approxExact (fn : Nat) (neg : Bool) (m : Nat) (e : Int) : Option FVal := match fn with
  | 0 => match pow2Exp m e with
    | some k => if -126 ≤ -k ∧ -k ≤ 127 then some (.fin neg 1 (-k)) else none
    | none => none
  | 1 => match pow2Exp m e with
    | some k => if k % 2 = 0 then some (.fin false 1 (-(k / 2))) else none
    | none => none
  | 2 =>
    let r := roundInt 1 neg m e
    if r.2 = false ∧ -149 ≤ r.1 ∧ r.1 ≤ 127 then some (.fin false 1 r.1) else none
  | 3 => match pow2Exp m e with
    | some k => if -126 ≤ k then some (.fin (decide (k < 0)) k.natAbs 0) else none
    | none => none
  | _ => none

/-- The magnitude m * 2^e is below, at or above 2^k times n. -/
def magVs (m : Nat) (e : Int) (n : Nat) (k : Int) : Ordering :=
  let g := min e k
  compare (m * (2 : Nat) ^ (e - g).toNat) (n * (2 : Nat) ^ (k - g).toNat)

/-- The boundary cases of R111. -/
def approxEdge (fn : Nat) (ftz neg : Bool) (m : Nat) (e : Int) (w : Word) : Option (Nat × BitVec 5) := match fn with
  | 0 =>
    let q := fdivBits 1 0 m e
    let r := fp32.roundFin false 0 neg q.1 q.2.1 q.2.2
    if r.1 % 2 ^ 31 = fp32.infCode then some (fp32.signed neg fp32.infCode, flagOF ||| flagNX)
    else if magVs m e 1 126 = .gt then
      some (if ftz then fp32.signed neg 0 else pickApprox 0 ftz false true w (refOf 0 neg m e), flagUF ||| flagNX)
    else none
  | 2 =>
    if !neg && magVs m e 128 0 != .lt then some (fp32.infCode, flagOF ||| flagNX)
    else if neg && magVs m e 150 0 == .gt then some (0, flagUF ||| flagNX)
    else none
  | 4 => if magVs m e 1 (-12) = .lt then some (w.toNat, flagNX) else none
  | 6 =>
    if magVs m e 19 (-1) != .lt then some (fp32.signed neg 0x3F800000, flagNX)
    else if magVs m e 1 (-12) = .lt then some (w.toNat, flagNX) else none
  | _ => none

/-- The result of function fn of major 0x22 (R111): special inputs, exact cases, boundary cases, and otherwise a value
within the bound with NX; under FTZ a tiny result is flushed (R69). -/
def approxVal (fn : Nat) (ftz : Bool) (w : Word) : Nat × BitVec 5 :=
  let x := f32 ftz w
  match approxSpecial fn x with
  | some r => r
  | none => match x with
    | .fin neg m e =>
      match approxExact fn neg m e with
      | some v => fp32.round ftz 0 v
      | none => match approxEdge fn ftz neg m e w with
        | some r => r
        | none =>
          let r := refOf fn neg m e
          let near := magVs m e 1 (-1) != .lt && magVs m e 2 0 != .gt
          if ftz && magVs r.2.1 r.2.2 1 (-126) == .lt then (fp32.signed r.1 0, flagUF ||| flagNX)
          else (pickApprox fn ftz near false w r, flagNX)
    | _ => (0x7FC00000, 0#5)

end Sys2Proof.Machine
end

