-- ==== Sys2Proof/Machine/Freeze.lean ====
section
/-! DEFINITION. The freeze controller: fatal signals, freezing and thawing the rings (spec/19_event_recorder.md R397, R404 to
R406). -/
namespace Sys2Proof.Machine

/-- The recording units, ascending (R397). -/
def allUnits : List Nat := List.range 192 ++ (List.range 12).map (0x100 + ·) ++ [0x200, 0x201]

/-- A freeze mark (R401). -/
def freezeMark (seq kind : Nat) (cycle : BitVec 48) : BitVec 128 := eventOf 0x3E 1 0 0 cycle (seq % 65536 + kind * 65536)

/-- A ring that receives the freeze: it writes its mark and stops (R404). -/
def Ring.freeze (r : Ring) (mark : BitVec 128) (u now : Nat) : Ring :=
  if r.frozen then r
  else { r with main := newest (mainCap u) (r.main ++ [mark]), produced := r.produced + 1, frozen := true, dropped := 0, since := now }

/-- A freeze is broadcast, and every unit writes its mark (R404; log entry 24). -/
def State.freezeAll (s : State) (seq kind : Nat) : State :=
  { s with rings := allUnits.map fun u =>
    let c := unitCycles s u
    (u, (s.ring u).freeze (freezeMark seq kind c) u c.toNat) }

/-- A frozen ring resumes: it writes a gap event first (R401, R405). -/
def Ring.thaw (r : Ring) (u : Nat) (now : BitVec 48) : Ring :=
  if !r.frozen then r
  else
    let gap := eventOf 0x3F 1 0 0 now (min r.dropped (2 ^ 24 - 1) + (now.toNat - r.since) % 2 ^ 26 * 2 ^ 24)
    { r with main := newest (mainCap u) (r.main ++ [gap]), produced := r.produced + 1, frozen := false, dropped := 0 }

/-- Every ring resumes (R405). -/
def State.thawAll (s : State) : State :=
  { s with rings := s.rings.map fun p => (p.1, p.2.thaw p.1 (unitCycles s p.1)) }

/-- A further fault of the current capsule (R406). -/
def Freeze.second (c : Freeze) (ev : BitVec 128) (unit : Nat) : Freeze :=
  if c.secondary.length < 8 then { c with secondary := c.secondary ++ [(ev, unit)] } else { c with nsec := min 255 (c.nsec + 1) }

/-- A fatal signal reaches the controller (R405, R406). -/
def State.signal (s : State) (unit : Nat) (ev : BitVec 128) (device : Bool) (f : Nat) : State :=
  let c := s.fc
  match c.st with
  | .idle =>
    let c1 := { c with
      st := .freezing
      seq := c.seq + 1
      kind := if device then 2 else 1
      haltVf := if device then 0 else f
      fault := ev
      unit := unit
      secondary := []
      nsec := 0
      skip := false
      droppedAt := c.dropped
      again := none }
    ({ s with fc := c1 }).freezeAll c1.seq c1.kind
  | .freezing => { s with fc := if device then { c.second ev unit with kind := 2, haltVf := 0 } else c.second ev unit }
  | .copying => { s with fc := if device then { c.second ev unit with kind := 2, haltVf := 0 } else c.second ev unit }
  | .building =>
    if device && decide (c.kind = 1) then
      ({ s with fc := { c with again := some (c.again.getD (ev, unit)) } }).freezeAll (c.seq + 1) 2
    else { s with fc := c.second ev unit }
  | .flushing =>
    if device && decide (c.kind = 1) then
      ({ s with fc := { c with again := some (c.again.getD (ev, unit)) } }).freezeAll (c.seq + 1) 2
    else s
  | .stopped => s

/-- A unit's fault event enters its ring, and the unit signals the controller (R404). -/
def State.fatal (s : State) (unit : Nat) (ev : BitVec 128) (device : Bool) (f : Nat) : State :=
  (s.recRaw unit ev).signal unit ev device f

/-- The part stops (R361, R374): a device-fatal fault of a unit, with a code of its own. -/
def State.deviceFatalAt (s : State) (unit code : Nat) : State :=
  { s.fatal unit (eventOf 0x04 0x05 0 0 (unitCycles s unit) code) true 0 with device := true }

/-- The sensors of the compute dies read temperatures (R476): a die at 115 °C is device-fatal, which one of its cores meets, with a code of its
own; both are free choices. -/
def State.readDies (s : State) (ts : List Nat) : State :=
  let t := { s with pkg := { s.pkg with dieTemps := ts } }
  match ts.findIdx? (decide <| 115 ≤ ·) with
  | none => t
  | some d =>
    let (n, u) := t.choose
    u.deviceFatalAt (48 * d + n % 48) (n / 48 % 256)

end Sys2Proof.Machine
end

