-- ==== Sys2Proof/Machine/Ops.lean ====
section
/-! DEFINITION. The operations that every meaning shares: the unit being issued and its checks (R28, R37), parking lanes,
taking a trap and returning from one (spec/17 R360 to R366), poison consumption (R368), write-back with the latch push
(R14, R15, R37), the divergence stack (R97, R101), and the end of a unit. -/
namespace Sys2Proof.Machine

/-- The outcomes of a meaning. -/
abbrev Out := Host.Outcome State Fault Refusal

/-! ## Lanes of the unit -/

/-- The sequencers that issue the unit. -/
def Group.issuing (G : Group) (c : Cur) : List Seq := G.seqs.filter fun q => c.seqs.contains q.id

/-- k0: the active lanes of the issuing sequencers (R13). -/
def Group.k0 (G : Group) (c : Cur) : BitVec 64 :=
  laneMask G.threads.length fun l => (G.issuing c).any fun q => G.activeIn q l

/-- The lanes of a mask, ascending. -/
def lanesOf (G : Group) (m : BitVec 64) : List Nat := G.lanes.filter fun l => m.getLsbD l

/-- The lowest lane of a mask. -/
def lowest (m : BitVec 64) : Option Nat := (List.range 64).find? fun l => m.getLsbD l

/-- The agent of the lowest lane that issues, for a unit that makes one access for its group (R220). -/
def State.lowAgent (s : State) (G : Group) (c : Cur) : Agent := s.laneAgent G ((lowest (G.k0 c)).getD 0)

/-- PFX fields (R37); without a prefix word, the neutral values (R38). -/
def pfxKm (c : Cur) : Nat := bits (c.pfx.getD 0xFC1FE000#32).toNat 24 22
/-- Zero policy. -/
def pfxZm (c : Cur) : Bool := (c.pfx.getD 0xFC1FE000#32).getLsbD 21
/-- Rounding field. -/
def pfxRm (c : Cur) : Nat := bits (c.pfx.getD 0xFC1FE000#32).toNat 20 18
/-- Fourth operand. -/
def pfxC (c : Cur) : BitVec 7 := (c.pfx.getD 0xFC1FE000#32).extractLsb' 11 7
/-- Byte select. -/
def pfxX (c : Cur) : Nat := bits (c.pfx.getD 0xFC1FE000#32).toNat 10 8

/-- The run set (R37): the lanes of k0 that the mask of the prefix selects. -/
def Group.run (G : Group) (c : Cur) : BitVec 64 :=
  if pfxKm c = 0 then G.k0 c else G.k0 c &&& G.mask (G.k0 c) (pfxKm c)

/-- The rounding mode of the unit (R37, R66, R67). -/
def unitMode (s : State) (G : Group) (c : Cur) : Nat :=
  if pfxRm c = 7 then bits (s.fpmode G).toNat 2 0 else pfxRm c

/-- The full immediate of an I-format word, with the 25 bits of a LIMM before it when there is one (R39). -/
def immI (c : Cur) (i : BitVec 11) : DWord := match c.limm with
  | none => i.signExtend 64
  | some h => (h ++ i : BitVec 36).signExtend 64

/-- The full immediate of a B- or S-format word (R39). -/
def immS (c : Cur) (i : BitVec 14) : DWord := match c.limm with
  | none => i.signExtend 64
  | some h => (h ++ i : BitVec 39).signExtend 64

/-! ## The divergence stack (R97, R101, R148) -/

/-- A stack entry (R97). -/
def stackEntry (pend : Bool) (mask : BitVec 4) (pc : BitVec 56) : BitVec 64 :=
  0#3 ++ BitVec.ofBool pend ++ mask ++ (pc &&& ~~~3#56)

/-- The lanes of an entry. -/
def entryMask (e : BitVec 64) : BitVec 4 := e.extractLsb' 56 4
/-- The address of an entry. -/
def entryPc (e : BitVec 64) : BitVec 56 := e.setWidth 56
/-- The entry is a pending entry. -/
def entryPend (e : BitVec 64) : Bool := e.getLsbD 60

/-- An entry is well formed (R97, R367): its reserved bits are zero. -/
def entryOk (e : BitVec 64) : Bool := e.extractLsb' 61 3 == 0#3 && e.extractLsb' 0 2 == 0#2

/-- A group collective (R146). -/
def collectiveWord (w : Word) : Bool := match decodeWord w with
  | some (.vote ..) | some (.matchLanes ..) | some (.shfl ..) | some (.bcast ..) | some (.red ..) | some (.fred ..)
  | some (.scan ..) | some (.fscan ..) | some (.rgt ..) | some (.kop ..) | some (.kopNot ..) | some (.kmovTor ..)
  | some (.kmovTok ..) | some (.bar ..) | some (.bara ..) | some (.barw ..) | some (.elect ..) | some (.winb ..)
  | some (.rclaim ..) | some (.rrel ..) | some (.mig ..) => true
  | _ => false

/-- An entry that keeps only some of its lanes (R97). -/
def keepLanes (live : BitVec 4) (e : BitVec 64) : BitVec 64 := e &&& ~~~((~~~live).setWidth 64 <<< 56)

/-- The columns of a quad position that hold a live thread of the group. -/
def Group.liveCols (G : Group) (pos : Nat) : BitVec 4 :=
  (List.range 4).foldl (fun m i => if G.threads.any fun t => t.live && t.col == 4 * pos + i then m ||| 1#4 <<< i else m) 0#4

/-- The lanes that other live sequencers of the same quad own (R148). -/
def Group.othersOwn (G : Group) (q : Seq) : BitVec 4 :=
  G.seqs.foldl (fun m r => if r.id ≠ q.id ∧ r.pos = q.pos ∧ r.st ≠ .done then m ||| r.own else m) 0#4

/-- The outcome of resume_pop (R101, R148). -/
inductive Pop where
  | go (q : Seq)
  | refill
  | join (stack : List (BitVec 64))
  | dead
deriving DecidableEq, Repr

/-- resume_pop over the entries of a stack: entries without a surviving lane are dropped, an entry that holds a lane of
another live sequencer is not popped, and the next entry resumes its lanes. A sequencer whose own lanes have all ended does not
wait for the others' (R149). -/
def popStack (live others : BitVec 4) (q : Seq) (fromJoin : Bool) : List (BitVec 64) → Pop
  | [] => if 0 < q.spill then .refill
    else if fromJoin then .go { q with stack := [], pc := q.pc + 4#56 } else .dead
  | e :: rest =>
    let m := entryMask e &&& live
    if m = 0#4 then popStack live others q fromJoin rest
    else if m &&& others ≠ 0#4 then (if q.own = 0#4 then .dead else .join (e :: rest))
    else .go { q with active := m, stack := rest, pc := if entryPend e then entryPc e else entryPc e + 4#56 }

/-- resume_pop for a sequencer of a group. -/
def Group.pop (G : Group) (q : Seq) (fromJoin : Bool) : Pop := popStack (G.liveCols q.pos) (G.othersOwn q) q fromJoin q.stack

/-! ## Parking lanes (R147) -/

/-- Fragment sequencers in use on the core, over both contexts (R124, R377). -/
def State.fragsUsed (s : State) : Nat :=
  let n (c : Ctx) : Nat := (c.groups.map fun G => (G.seqs.filter fun q => q.frag && decide (q.st ≠ .done)).length).sum
  n s.live + (match s.shadow with
    | some c => n c
    | none => 0)

/-- The columns of a sequencer that a lane mask covers. -/
def Group.colsOf (G : Group) (q : Seq) (m : BitVec 64) : BitVec 4 :=
  (List.range 4).foldl (fun b i => if (lanesOf G m).any (fun l => match G.thread l with
    | some t => t.col == 4 * q.pos + i && q.active.getLsbD i
    | none => false) then b ||| 1#4 <<< i else b) 0#4

/-- The lanes that park when the lanes of a mask fault in a unit: the faulting lanes of each issuing sequencer, and all its
active lanes when not all fault and no fragment sequencer is free (R147). `free` fragment sequencers are left. -/
def parkPlan (G : Group) (bad : BitVec 64) : List Seq → Nat → BitVec 64
  | [], _ => 0#64
  | q :: qs, free =>
    let cols := G.colsOf q bad
    let all := laneMask G.threads.length fun l => G.activeIn q l
    if cols = 0#4 then parkPlan G bad qs free
    else if cols = q.active then (all &&& bad) ||| parkPlan G bad qs free
    else if 0 < free then (all &&& bad) ||| parkPlan G bad qs (free - 1)
    else all ||| parkPlan G bad qs free

/-- The next unused sequencer number of a group. -/
def Group.nextSeq (G : Group) : Nat := G.seqs.foldl (fun m q => max m (q.id + 1)) 0

/-- The lanes of a sequencer's columns, as threads redirected (R17). -/
def Group.redirectCols (G : Group) (pos : Nat) (cols : BitVec 4) : Group :=
  { G with threads := G.threads.map fun t => if t.live && t.inCols pos cols then t.redirect else t }

/-- One sequencer parks columns at an address: itself when they are all its active lanes and `split` is not asked for, else
a new fragment with copies of its stack and spill count (R147). The numbers of the parked sequencers come with the group. -/
def Group.parkOne (G : Group) (split : Bool) (pc : BitVec 56) (q : Seq) (cols : BitVec 4) : Group × Nat :=
  if cols = q.active ∧ ¬ split = true then
    ((G.redirectCols q.pos q.own).setSeq { q with st := .trap, pc := pc, wait := .none }, q.id)
  else
    let f : Seq := { q with id := G.nextSeq, frag := true, own := cols, active := cols, pc := pc, st := .trap, wait := .none, popNext := false }
    let H := (G.redirectCols q.pos cols).setSeq { q with own := q.own &&& ~~~cols, active := q.active &&& ~~~cols }
    ({ H with seqs := H.seqs ++ [f] }, f.id)

/-- The lanes of a mask park in every listed sequencer that holds some of them. -/
def Group.park (G : Group) (split : Bool) (pc : BitVec 56) (m : BitVec 64) : List Seq → Group × List Nat
  | [] => (G, [])
  | q :: qs =>
    let cols := G.colsOf q m
    if cols = 0#4 then G.park split pc m qs
    else
      let (H, i) := G.parkOne split pc q cols
      let (K, is) := H.park split pc m qs
      (K, i :: is)

/-! ## Taking a trap (R360 to R364) -/

/-- What a trap reports (R363). -/
structure TrapInfo where
  cause : BitVec 8
  stage2 : Bool
  info : BitVec 8
  addr : Nat
  lanes : BitVec 64
  code : Nat
  pc : BitVec 56
  word : BitVec 32
deriving DecidableEq, Repr

/-- The trap goes to the monitor (R361). -/
def toMonitor (l : Level) (t : TrapInfo) : Bool := match l with
  | .U => (t.stage2 && decide (0x05#8 ≤ t.cause) && decide (t.cause ≤ 0x08#8)) || t.cause == 0x19#8 || t.cause == 0x30#8
  | _ => true

/-- The encoding of a level (R19). -/
def Level.code : Level → Nat
  | .U => 0
  | .S => 1
  | .M => 3

/-- The 64 bytes of a frame in memory (R363). -/
def Frame.bytes (f : Frame) : List Byte :=
  natLe 8 f.pc.toNat ++ natLe 8 f.addr.toNat ++ natLe 8 f.lanes.toNat ++ natLe 1 f.cause.toNat ++ natLe 1 f.info.toNat
  ++ natLe 1 f.level.code ++ natLe 1 (if f.frag then 1 else 0) ++ natLe 2 f.gctx ++ natLe 2 (f.team.getD 0) ++ natLe 4 f.word.toNat
  ++ natLe 4 f.code.toNat ++ natLe 4 f.tix ++ natLe 4 f.ids.toNat ++ natLe 8 f.cycles.toNat ++ natLe 8 0

/-- The frame that a trap of a group posts, for the sequencers that it parks (R363). -/
def State.frameOf (s : State) (G : Group) (parked : List Nat) (t : TrapInfo) : Frame where
  share := G.share
  handle := none
  gctx := G.gctx
  team := G.team
  seqs := parked
  monitor := toMonitor G.level t
  started := false
  pc := t.pc
  addr := BitVec.ofNat 64 t.addr
  lanes := t.lanes
  cause := t.cause
  info := t.info
  level := G.level
  frag := parked.any fun i => match G.seq i with
    | some q => q.frag
    | none => false
  word := t.word
  code := BitVec.ofNat 32 t.code
  tix := match lowest t.lanes with
    | some l => match G.thread l with
      | some th => th.tix
      | none => 0
    | none => 0
  ids := BitVec.ofNat 32 ((s.asidOf G).toNat + s.fOf G * 4096)
  cycles := s.dieCycles

/-- The handle indexes of a share that frames hold, in both contexts and in saved ones (R364, R383). -/
def State.usedHandles (s : State) (sh : Nat) : List Nat :=
  let n (c : Ctx) : List Nat := (c.frames.filter fun f => f.share == sh && !f.monitor).filterMap fun f => f.handle.map fun h => h.toNat % 64
  n s.live ++ (match s.shadow with
    | some c => n c
    | none => []) ++ s.saved.flatMap fun i => n i.ctx

/-- The number under which the frames of a share wait at banks. -/
def frameHolder (sh : Nat) : Holder := ⟨2 ^ 37 + 64 + sh, []⟩

/-- The address of a frame in its frame buffer (R363). -/
def State.frameVa (s : State) (f i : Nat) : Nat := bits (s.slice f).trFbase.toNat 55 12 * 4096 + 4096 * s.coreNo + 64 * i

/-- What the banks hold of the write of a frame under a handle index (R287). -/
def State.frameHeld (s : State) (f : Frame) (i : Nat) : List (Nat × Nat × Bool) := match s.share f.share with
  | none => []
  | some x => s.writeHeld (frameHolder f.share) (s.superView x.f) (s.frameVa x.f i)

/-- A frame given a handle index: its bytes are written at the frame buffer and it is posted; a write that fails ends the
trap as a team kill (R364). -/
def State.postFrame (s : State) (f : Frame) (i : Nat) : State := match s.share f.share with
  | none => s
  | some x =>
    let h : BitVec 14 := (x.gens.getD i 0#8) ++ BitVec.ofNat 6 i
    match globalRes s (s.superView x.f) .store (s.frameVa x.f i) with
    | (.ok l, s1) =>
      if l.plain then
        let s2 := (s1.storeLoc (.faults x.f) (s.superView x.f).asid l f.bytes).unhold (frameHolder f.share)
        let s3 := s2.recEvent s.coreNo 0x01 f.cause.toNat (f.ids.setWidth 12).toNat x.f { f with handle := some h }.payload
        { s3 with live := { s3.live with frames := s3.live.frames ++ [{ f with handle := some h }] } }
      else match f.team with
        | some k => s.killTeam k 3 0 true
        | none => s
    | (_, s1) => match f.team with
      | some k => s1.killTeam k 3 0 true
      | none => s1

/-- A frame enters the core's list: posted under the lowest free handle index, or without a handle until one frees (R364);
a monitor's frame is kept by the monitor (R361). One whose write a bank holds is posted once the bank serves it (R287). -/
def State.addFrame (s : State) (f : Frame) : State :=
  if f.monitor then
    let s1 := s.recEvent s.coreNo 0x01 f.cause.toNat (f.ids.setWidth 12).toNat (bits f.ids.toNat 17 12) f.payload
    { s1 with live := { s1.live with frames := s1.live.frames ++ [f] } }
  else if (s.live.frames.any fun g => g.share == f.share && !g.monitor && g.handle.isNone)
      || (s.slice (bits f.ids.toNat 17 12)).trCtl.getLsbD 12 then
    { s with live := { s.live with frames := s.live.frames ++ [f] } }
  else match (List.range 64).find? fun i => !(s.usedHandles f.share).contains i with
    | some i => match s.frameHeld f i with
      | [] => s.postFrame f i
      | rs => let t := s.holdReqs (frameHolder f.share) rs
        { t with live := { t.live with frames := t.live.frames ++ [f] } }
    | none => { s with live := { s.live with frames := s.live.frames ++ [f] } }

/-- A trap at M is device-fatal (R361, R374). -/
def State.deviceFatal (s : State) (code : Nat) : State := s.deviceFatalAt s.coreNo code

/-- Taking a trap, the one operation for every cause: a migrated group comes home (R295), the lanes of `m` in the listed
sequencers park at the frame's address with their latches redirected, and the frame goes to S or to M (R147, R360 to R364).
At M the part stops. -/
def State.takeTrap (s : State) (G : Group) (seqs : List Seq) (m : BitVec 64) (split : Bool) (t : TrapInfo) : State :=
  match G.level with
  | .M => s.deviceFatal 1
  | _ =>
    let s0 := s.comeHome G.gctx
    let (H, parked) := ((s0.group G.gctx).getD G).park split t.pc m seqs
    (s0.setGroup H).addFrame (s0.frameOf H parked t)

/-- The return from a trap (R365 action 0, R149): the frame's sequencers go back to RUN at an address; one whose pop raised
the refill trap outside a `join` runs resume_pop instead (R101). The frame is gone. -/
def State.resumeFrame (s : State) (f : Frame) (pc : BitVec 56) : State :=
  let now := s.now
  let wake (q : Seq) : Seq := if f.seqs.contains q.id ∧ q.st = .trap then { q with st := .run, pc := pc, ready := now + 1 } else q
  let s1 := match s.group f.gctx with
    | some G => s.setGroup { G with seqs := G.seqs.map wake }
    | none => s
  { s1 with live := { s1.live with frames := s1.live.frames.filter fun g => g ≠ f } }

/-! ## The end of a unit -/

/-- The unit is over: nothing is being issued. -/
def State.endUnit (s : State) : State := { s with cur := none }

/-- A sequencer goes on at an address, ready again in the next cycle. -/
def Seq.goto (q : Seq) (pc : BitVec 56) (now : Nat) : Seq := { q with pc := pc, ready := now + 1 }

/-- The issuing sequencers that are still in RUN go on at the word after the unit (R28), and the unit is over. -/
def State.advance (s : State) (c : Cur) : State :=
  match s.group c.gctx with
  | none => s.endUnit
  | some G =>
    let step (q : Seq) : Seq := if c.seqs.contains q.id ∧ (q.st = .run ∨ q.st = .cwait) then
      { q.goto (c.pc + 4#56) s.now with st := .run } else q
    (s.setGroup { G with seqs := G.seqs.map step }).endUnit

/-- A trap of the whole unit: every issuing sequencer parks its active lanes, and one frame names the lanes of k0 (R366). -/
def State.trapUnit (s : State) (G : Group) (c : Cur) (cause : BitVec 8) (code : Nat) : State :=
  (s.takeTrap G (G.issuing c) (G.k0 c) false ⟨cause, false, 0#8, 0, G.k0 c, code, c.unitPc, c.word⟩).endUnit

/-- A fetch fault, reported for the whole unit (R28, R360); the frame's instruction word, which was not reached, is a free word
(log entry 1). -/
def State.trapFetch (s : State) (G : Group) (c : Cur) (e : Flt) : State :=
  let info : BitVec 8 := BitVec.ofNat 8 ((if e.stage2 then 1 else 0) + 2 * e.level + (if e.malformed then 16 else 0) + 64)
  let (w, t) := s.chooseWord
  (t.takeTrap G (G.issuing c) (G.k0 c) false ⟨e.cause, e.stage2, info, e.addr, G.k0 c, 0, c.unitPc, w⟩).endUnit

/-- A quad cause in each issuing sequencer by itself, one frame each, at an address (R360, R366). -/
def State.trapEach (s : State) (G : Group) (c : Cur) (cause : BitVec 8) (code : Nat) (pc : BitVec 56) : State :=
  ((G.issuing c).foldl (fun t q => match t.group G.gctx with
    | none => t
    | some H =>
      let m := laneMask H.threads.length fun l => H.activeIn q l
      t.takeTrap H [q] m false ⟨cause, false, 0#8, 0, m, code, pc, c.word⟩) s).endUnit

/-! ## Poison consumption (R18, R368) -/

/-- The poisoned physical address that a consumption by a function reports (R375): that of one of the poisoned blocks that reads by the
function have met, by a free choice; a free value where they have met none (log entry 6). -/
def State.poisonAddr (s : State) (f : Nat) : Nat × State :=
  let met := s.paths.reads.filter fun r => r.1 == f
  let (n, t) := s.choose
  (match met[n % met.length]? with
    | some r => 16 * r.2
    | none => n % 2 ^ 40, t)

/-- A record put into the management core's list in the order of the reads (R376). -/
def insertRead (r : Nat × Nat × Nat) : List (Nat × Nat × Nat) → List (Nat × Nat × Nat)
  | [] => [r]
  | q :: l => if r.1 < q.1 then r :: q :: l else q :: insertRead r l

/-- A consumption by a function is reported to the management core (R376): its record stands where its read reached the bank. -/
def State.tellManagement (s : State) (f a : Nat) : State :=
  { s with pkg := { s.pkg with consumers := insertRead (s.paths.reads.findIdx (· == (f, a / 16)), f, a) s.pkg.consumers } }

/-- The lanes that have no effect when the lanes of a mask consume (R147, R368): those lanes, and in a handler group, whose lanes
park, the lanes that park with them. -/
def State.eaten (s : State) (G : Group) (c : Cur) (m : BitVec 64) : BitVec 64 := match G.team with
  | none => parkPlan G m (G.issuing c) (64 - s.fragsUsed)
  | some _ => m

/-- The consumption of a handler group: its lanes park and take cause 0x19, which goes to M, with one frame for each quad or
fragment, or one for a ganged collective (R360, R368). -/
def State.consumeTrap (s : State) (G : Group) (c : Cur) (m : BitVec 64) : State :=
  let gone := s.eaten G c m
  let take (t : State) (qs : List Seq) (hit : BitVec 64) : State := match t.group G.gctx with
    | none => t
    | some H =>
      let (K, parked) := H.park false c.unitPc gone qs
      (t.setGroup K).addFrame (t.frameOf K parked ⟨0x19#8, false, 0#8, 0, hit, 0, c.unitPc, c.word⟩)
  if collectiveWord c.word then take s (G.issuing c) m
  else (G.issuing c).foldl (fun t q => if G.colsOf q m = 0#4 then t
    else take t [q] (laneMask 64 fun l => m.getLsbD l && G.activeIn q l)) s

/-- A consumption acted on is told: to the management core, to the recorder and to the function's fault queue, once a migrated group is
home (R295, R368, R375, R376, R401); with the address that it reports. A handler group has no team, so its record and its event name
team 0 (log entry 46). -/
def State.tellConsumption (s : State) (G : Group) : Nat × State :=
  let (a, s0) := s.poisonAddr (s.fOf G)
  let s1 := (s0.tellManagement (s0.fOf G) a).comeHome G.gctx
  let s2 := s1.recGroup G 0x04 0x03 (G.gctx % 2048 + G.team.getD 0 * 2 ^ 11 + (a / 32) * 2 ^ 15)
  (a, match G.team with
    | none => s2.postFq (s2.fOf G) 4 s2.coreNo 0 a 0 0 s2.now
    | some k => match s2.team k with
      | some T => s2.postTeamFq T 4 0 a
      | none => s2)

/-- A consumption acted on in the lanes of a mask: told, and contained: the team rolls back or is killed; in a handler group the lanes
park and the cause 0x19 goes to M (R368, R375, R401). -/
def State.consume (s : State) (G : Group) (c : Cur) (m : BitVec 64) : State :=
  let (a, t) := s.tellConsumption G
  match G.team with
  | none => (t.consumeTrap G c m).advance c
  | some k => (t.contain k a).endUnit

/-! ## What a unit admits (R28, R33, R37, R38) -/

/-- What an instruction admits before it: a prefix, a long immediate; which prefix fields it uses (`c` 1 a word, 2 a pair
when an atomic needs one); the largest byte select; whether zero policy may stand; the nw bit; whether latches are pushed;
whether the prefix's mask selects operands and not lanes (R37, `sel`); the registers it names. -/
structure Unit where
  pfx : Bool := true
  limm : Bool := false
  rm : Bool := false
  c : Nat := 0
  x : Nat := 0
  zm : Bool := true
  nw : Bool := false
  latch : Bool := true
  sel : Bool := false
  names : List (BitVec 7 × Nat) := []
deriving DecidableEq, Repr

/-- The prefixes before the unit's instruction are admitted, and every prefix field that the instruction does not use is
neutral (R28, R37, R38). -/
def Unit.prefixOk (u : Unit) (c : Cur) : Bool :=
  (c.limm.isNone || u.limm) &&
  (match c.pfx with
    | none => true
    | some w => u.pfx && w.setWidth 8 == 0#8 && !(pfxKm c == 0 && pfxZm c) && pfxRm c != 5 && pfxRm c != 6
      && (u.rm || pfxRm c == 7) && (if u.c = 0 then pfxC c == 124#7 else if u.c = 2 then ps (pfxC c) else ws (pfxC c))
      && decide (pfxX c ≤ u.x) && (u.zm || !pfxZm c))

/-- The registers that the unit names, with the fourth operand (R10). -/
def Unit.allNames (u : Unit) (c : Cur) : List (BitVec 7 × Nat) :=
  if u.c = 0 then u.names else (pfxC c, u.c) :: u.names

/-- The run set of an instruction (R37): every lane of k0 for `sel`. -/
def Unit.run (u : Unit) (G : Group) (c : Cur) : BitVec 64 := if u.sel then G.k0 c else G.run c

/-- The checks of the whole unit in the order of R28; the cause of the first that fails. -/
def Unit.check (u : Unit) (G : Group) (c : Cur) : Option (BitVec 8) :=
  if !u.prefixOk c then some 0x01#8
  else if !G.namesOk (lanesOf G (G.k0 c)) (u.allNames c) then some 0x03#8
  else none

/-! ## Results of lanes and write-back (R14, R15, R37, R243, R366) -/

/-- What one run lane does: result words with their poison and the flags raised; a fault; or a poison consumption. -/
inductive LaneOut where
  | ok (ws : List PWord) (fl : BitVec 5)
  | flt (e : Flt)
  | consume
deriving DecidableEq, Repr

/-- Where results go: nowhere, to registers from a code on, or to a mask register. -/
inductive Dst where
  | none
  | regs (c : BitVec 7) (n : Nat)
  | mask (k : Nat)
deriving DecidableEq, Repr

/-- A thread's part of the write-back: its registers, under merge or zero policy, and its latch push (R15, R16, R37). R37 zeroes the
registers of lanes of k0 alone; what a lane that did not write pushes follows the policy in every lane of the quad (R15). -/
def Thread.retire (t : Thread) (winb c n : Nat) (nw latch zero inK0 : Bool) (res : Option (List PWord)) : Thread :=
  let old := (List.range n).map fun i => if c < 96 then t.regs.getD (winb + c + i) pzero
    else if c < 104 then t.opf.getD (c - 96 + i) pzero else pzero
  let after : List PWord := match res with
    | some ws => ws
    | none => if decide (c = 124) || zero then List.replicate n pzero else old
  let u := if inK0 && !nw then t.writeWords winb c after else t
  if latch && (decide (c < 104) || c == 124) then
    (List.range n).foldl (fun v i => v.push (after.getD i pzero) (latchTag winb (if c = 124 then c else c + i))) u
  else u

/-- The issuing sequencers that do not park whole: a unit whose active lanes of a quad all park has no effect there, and pushes when
it is executed again (R15, R366). -/
def Group.staying (G : Group) (c : Cur) (gone : BitVec 64) : List Seq :=
  if gone = 0#64 then G.issuing c else (G.issuing c).filter fun q => decide (G.colsOf q gone ≠ q.active)

/-- The write-back of a group: the run lanes' results, the other lanes of k0 by merge or zero policy, and the push in every
lane of the issuing quads that stay; a uniform destination takes the lowest lane of k0 (R14, log entry 10). `out` answers for the
lanes of the run set that completed; `gone` are the lanes that parked. -/
def Group.writeBack (G : Group) (u : Unit) (c : Cur) (d : Dst) (k0 run gone : BitVec 64) (out : Nat → Option (List PWord)) : Group :=
  match d with
  | .none => G
  | .mask k =>
    let old := G.masks.getD (k - 1) 0#64
    G.setMask k (laneMask 64 fun l =>
      if gone.getLsbD l then old.getLsbD l
      else if run.getLsbD l then (match out l with
        | some ws => (ws.getD 0 pzero).val != 0#32
        | none => old.getLsbD l)
      else if k0.getLsbD l then old.getLsbD l && !pfxZm c
      else old.getLsbD l)
  | .regs r n =>
    if isUnif r.toNat then match lowest k0 with
      | none => G
      | some l =>
        if gone.getLsbD l then G
        else if run.getLsbD l then match out l with
          | some ws => G.writeUnif r.toNat ws
          | none => G
        else if pfxZm c then G.writeUnif r.toNat (List.replicate n pzero) else G
    else
      let qs := G.staying c gone
      { G with threads := G.threads.mapIdx fun l t =>
        if gone.getLsbD l then t
        else if qs.any fun q => G.ownedBy q l then
          t.retire G.winb r.toNat n u.nw u.latch (pfxZm c) (k0.getLsbD l) (if run.getLsbD l then out l else none)
        else t }

/-- The INFO byte of a lane fault (R363). -/
def Flt.info (e : Flt) (write : Bool) : BitVec 8 :=
  BitVec.ofNat 8 ((if e.stage2 then 1 else 0) + 2 * e.level + (if e.malformed then 16 else 0) + (if write then 32 else 0))

/-- The fault that a unit reports: the lowest-ranked number first; of rank 2, the address-space fault before the
migration-restricted trap (R243). -/
def Flt.before (a b : Flt) : Bool :=
  decide (a.rank < b.rank) || (a.rank == b.rank && decide (a.cause < b.cause))

/-- The first fault of a list by that order; of one cause the lowest lane's. -/
def worst : List (Nat × Flt) → Option Flt
  | [] => none
  | (_, e) :: r => match worst r with
    | none => some e
    | some f => some (if f.before e then f else e)

/-- A lane's fault, if it has one. -/
def LaneOut.fault : LaneOut → Option Flt
  | .flt e => some e
  | _ => none

/-- A lane's result words, if it completes. -/
def LaneOut.words : LaneOut → Option (List PWord)
  | .ok ws _ => some ws
  | _ => none

/-- The flags that a lane raises. -/
def LaneOut.flags : LaneOut → BitVec 5
  | .ok _ f => f
  | _ => 0#5

/-- The lanes that fault, with their faults. -/
def faultsOf (outs : List (Nat × LaneOut)) : List (Nat × Flt) := outs.filterMap fun p => p.2.fault.map fun e => (p.1, e)

/-- The lanes that consume poison. -/
def eatersOf (outs : List (Nat × LaneOut)) : BitVec 64 := laneMask 64 fun l => outs.any fun p => p.1 == l && decide (p.2 = .consume)

/-- The result words of a lane. -/
def wordsOf (outs : List (Nat × LaneOut)) (l : Nat) : Option (List PWord) := (outs.find? fun p => p.1 == l).bind fun p => p.2.words

/-- The flags that the lanes outside a mask raise. -/
def flagsOf (outs : List (Nat × LaneOut)) (gone : BitVec 64) : BitVec 5 :=
  outs.foldl (fun a p => if gone.getLsbD p.1 then a else a ||| p.2.flags) 0#5

/-- The report of a unit's faults (R243, R363): the lanes that met the cause of the fault reported, in whichever stage, and the address
and the INFO byte of the lowest of them; where lanes met one cause in different stages the spec does not say which the frame names
(DESIGN CHOICE, log entry 46). -/
def faultReport (flts : List (Nat × Flt)) (e : Flt) (write : Bool) (pc : BitVec 56) (w : BitVec 32) : TrapInfo :=
  let hit := laneMask 64 fun l => flts.any fun p => p.1 == l && p.2.cause == e.cause
  let a := ((lowest hit).bind fun l => (flts.find? fun p => p.1 == l).map fun p => p.2.addr).getD 0
  ⟨e.cause, e.stage2, e.info write, a, hit, 0, pc, w⟩

/-- A unit some of whose run lanes fault: they park with one frame, and so do lanes that consume; the other lanes complete. -/
def State.retireFault (s : State) (G : Group) (c : Cur) (u : Unit) (d : Dst) (write : Bool) (outs : List (Nat × LaneOut)) (e : Flt) : State :=
  let flts := faultsOf outs
  let bad := eatersOf outs ||| laneMask 64 fun l => flts.any fun p => p.1 == l
  let gone := parkPlan G bad (G.issuing c) (64 - s.fragsUsed)
  let s1 := (s.setGroup (G.writeBack u c d (G.k0 c) (u.run G c) gone (wordsOf outs))).raiseFlags G.gctx (flagsOf outs gone)
  match s1.group G.gctx with
  | none => s1.endUnit
  | some K => (s1.takeTrap K (K.issuing c) gone false (faultReport flts e write c.unitPc c.word)).advance c

/-- The results of a unit's run lanes retired: lanes that fault park with one frame, lanes that consume are contained when
nothing ranks higher, the others write back and raise their flags, and the unit is over (R28, R243, R366, R368).
`write` marks a store for the frame. -/
def State.retire (s : State) (G : Group) (c : Cur) (u : Unit) (d : Dst) (write : Bool) (outs : List (Nat × LaneOut)) : State :=
  match worst (faultsOf outs) with
  | some e => s.retireFault G c u d write outs e
  | none =>
    let eats := eatersOf outs
    let gone := s.eaten G c eats
    let s1 := (s.setGroup (G.writeBack u c d (G.k0 c) (u.run G c) gone (wordsOf outs))).raiseFlags G.gctx (flagsOf outs gone)
    if eats = 0#64 then s1.advance c
    else match s1.group G.gctx with
      | none => s1.endUnit
      | some K => s1.consume K c eats

/-! ## Running a unit -/

/-- The unit in progress and its group; a meaning that is called outside a unit faults. -/
def withUnit (s : State) (k : Cur → Group → Out) : Out := match s.cur with
  | none => .fault .noUnit
  | some c => match s.group c.gctx with
    | none => .fault .noUnit
    | some G => k c G

/-- An instruction whose run lanes each compute by themselves (R78): the checks of the unit, then each run lane's result,
then write-back. -/
def laneUnit (u : Unit) (d : Dst) (f : State → Cur → Group → Nat → LaneOut) (s : State) : Out :=
  withUnit s fun c G => match u.check G c with
    | some cause => .next (s.trapUnit G c cause 0)
    | none => .next (s.retire G c u d false ((lanesOf G (u.run G c)).map fun l => (l, f s c G l)))

/-- Sources read as words in a lane, consumed if poisoned, else the function of their values. -/
def onWords (G : Group) (l : Nat) (srcs : List (Nat × Nat)) (f : List Word → List Word × BitVec 5) : LaneOut :=
  let ws := (srcs.map fun p => G.readWords l p.1 p.2).flatten
  if anyPoison ws then .consume
  else
    let r := f (ws.map (·.val))
    .ok (r.1.map clean) r.2

end Sys2Proof.Machine
end

