-- ==== Sys2Proof/Machine/Integer.lean ====
section
/-! DEFINITION. Integer arithmetic, logic, shifts, bit counting, addresses and the immediate forms: majors 0x00 to 0x08 and
0x10 to 0x17 (spec/04_scalar_and_control_instructions.md R78 to R89). -/
namespace Sys2Proof.Machine

/-! ## Shared forms -/

/-- Word 0, 1, 2 of a list of operand words. -/
def w0 (v : List Word) : Word := v.getD 0 0#32
/-- Word 1. -/
def w1 (v : List Word) : Word := v.getD 1 0#32
/-- Word 2. -/
def w2 (v : List Word) : Word := v.getD 2 0#32

/-- Two words as one 64-bit value, low word first (R3). -/
def join64 (lo hi : Word) : DWord := hi ++ lo

/-- A 64-bit result as two words. -/
def split64 (x : DWord) : List Word := [x.setWidth 32, x.extractLsb' 32 32]

/-- d := f a (unary word form, R78). -/
def unaryOp (n : BitVec 1) (d a : BitVec 7) (f : Word → Word) : State → Out :=
  laneUnit { nw := n == 1#1, names := [(d, 1), (a, 1)] } (.regs d 1) fun _ _ G l =>
    onWords G l [(a.toNat, 1)] fun v => ([f (w0 v)], 0#5)

/-- d := f a b (binary word form, R78). -/
def binaryOp (n : BitVec 1) (d a b : BitVec 7) (f : Word → Word → Word) : State → Out :=
  laneUnit { nw := n == 1#1, names := [(d, 1), (a, 1), (b, 1)] } (.regs d 1) fun _ _ G l =>
    onWords G l [(a.toNat, 1), (b.toNat, 1)] fun v => ([f (w0 v) (w1 v)], 0#5)

/-- d := f a b c, with c from the prefix (R37, R78). -/
def ternaryOp (n : BitVec 1) (d a b : BitVec 7) (f : Word → Word → Word → Word) : State → Out :=
  laneUnit { nw := n == 1#1, c := 1, names := [(d, 1), (a, 1), (b, 1)] } (.regs d 1) fun _ cu G l =>
    onWords G l [(a.toNat, 1), (b.toNat, 1), ((pfxC cu).toNat, 1)] fun v => ([f (w0 v) (w1 v) (w2 v)], 0#5)

/-- pair d := f (pair a) (pair b). -/
def pairOp (n : BitVec 1) (d a b : BitVec 7) (f : DWord → DWord → DWord) : State → Out :=
  laneUnit { nw := n == 1#1, names := [(d, 2), (a, 2), (b, 2)] } (.regs d 2) fun _ _ G l =>
    onWords G l [(a.toNat, 2), (b.toNat, 2)] fun v => (split64 (f (join64 (w0 v) (w1 v)) (join64 (w2 v) (v.getD 3 0#32))), 0#5)

/-- d := f a imm, for the I-format words with a long immediate (R87). -/
def immOp (d a : BitVec 7) (i : BitVec 11) (f : Word → Word → Word) : State → Out :=
  laneUnit { limm := true, names := [(d, 1), (a, 1)] } (.regs d 1) fun _ cu G l =>
    onWords G l [(a.toNat, 1)] fun v => ([f (w0 v) ((immI cu i).setWidth 32)], 0#5)

/-! ## Values (R79 to R85) -/

/-- Saturation to the signed 32-bit range. -/
def satS (x : Int) : Word := BitVec.ofInt 32 (max (-2147483648) (min 2147483647 x))
/-- Saturation to the unsigned 32-bit range. -/
def satU (x : Int) : Word := BitVec.ofInt 32 (max 0 (min 4294967295 x))

/-- Signed quotient, truncated; the corners of R81. -/
def idivVal (a b : Word) : Word :=
  if b = 0#32 then 0xFFFFFFFF#32 else BitVec.ofInt 32 (Int.tdiv a.toInt b.toInt)
/-- Unsigned quotient. -/
def idivnVal (a b : Word) : Word := if b = 0#32 then 0xFFFFFFFF#32 else BitVec.ofNat 32 (a.toNat / b.toNat)
/-- Signed remainder with the sign of the dividend. -/
def iremVal (a b : Word) : Word := if b = 0#32 then a else BitVec.ofInt 32 (Int.tmod a.toInt b.toInt)
/-- Unsigned remainder. -/
def iremnVal (a b : Word) : Word := if b = 0#32 then a else BitVec.ofNat 32 (a.toNat % b.toNat)

/-- The shift count b[4:0] (R84). -/
def shCount (b : Word) : Nat := b.toNat % 32

/-- Funnel shift left: the high word of (a, c) shifted left. -/
def fshlVal (a b c : Word) : Word := ((a ++ c : BitVec 64) <<< shCount b).extractLsb' 32 32
/-- Funnel shift right: the low word of (c, a) shifted right. -/
def fshrVal (a b c : Word) : Word := ((c ++ a : BitVec 64) >>> shCount b).setWidth 32

/-- The number of one bits. -/
def popcVal (a : Word) : Word := BitVec.ofNat 32 ((List.range 32).filter fun i => a.getLsbD i).length
/-- Zero bits above the highest one bit. -/
def clzVal (a : Word) : Word := BitVec.ofNat 32 (((List.range 32).find? fun i => a.getLsbD (31 - i)).getD 32)
/-- Zero bits below the lowest one bit. -/
def ctzVal (a : Word) : Word := BitVec.ofNat 32 (((List.range 32).find? fun i => a.getLsbD i).getD 32)
/-- Bits in reverse order. -/
def brevVal (a : Word) : Word := a.reverse

/-! ## Add and subtract (R79) -/

/-- `iadd` (R79). -/
def execIadd (n : BitVec 1) (d a b : BitVec 7) (s : State) : Out := binaryOp n d a b (fun x y => x + y) s
/-- `isub` (R79). -/
def execIsub (n : BitVec 1) (d a b : BitVec 7) (s : State) : Out := binaryOp n d a b (fun x y => x - y) s
/-- `iadds`: signed saturation (R79). -/
def execIadds (n : BitVec 1) (d a b : BitVec 7) (s : State) : Out := binaryOp n d a b (fun x y => satS (x.toInt + y.toInt)) s
/-- `isubs` (R79). -/
def execIsubs (n : BitVec 1) (d a b : BitVec 7) (s : State) : Out := binaryOp n d a b (fun x y => satS (x.toInt - y.toInt)) s
/-- `iaddns`: unsigned saturation (R79). -/
def execIaddns (n : BitVec 1) (d a b : BitVec 7) (s : State) : Out :=
  binaryOp n d a b (fun x y => satU ((x.toNat : Int) + (y.toNat : Int))) s
/-- `isubns` (R79). -/
def execIsubns (n : BitVec 1) (d a b : BitVec 7) (s : State) : Out :=
  binaryOp n d a b (fun x y => satU ((x.toNat : Int) - (y.toNat : Int))) s
/-- `iadd64` (R79). -/
def execIadd64 (n : BitVec 1) (d a b : BitVec 7) (s : State) : Out := pairOp n d a b (fun x y => x + y) s
/-- `isub64` (R79). -/
def execIsub64 (n : BitVec 1) (d a b : BitVec 7) (s : State) : Out := pairOp n d a b (fun x y => x - y) s

/-! ## Multiply and divide (R80, R81) -/

/-- `imul` (R80). -/
def execImul (n : BitVec 1) (d a b : BitVec 7) (s : State) : Out := binaryOp n d a b (fun x y => x * y) s
/-- `imulh`: high word of the signed product (R80). -/
def execImulh (n : BitVec 1) (d a b : BitVec 7) (s : State) : Out :=
  binaryOp n d a b (fun x y => (BitVec.ofInt 64 (x.toInt * y.toInt)).extractLsb' 32 32) s
/-- `imulhn`: high word of the unsigned product (R80). -/
def execImulhn (n : BitVec 1) (d a b : BitVec 7) (s : State) : Out :=
  binaryOp n d a b (fun x y => (BitVec.ofNat 64 (x.toNat * y.toNat)).extractLsb' 32 32) s
/-- `imad` (R80). -/
def execImad (n : BitVec 1) (d a b : BitVec 7) (s : State) : Out := ternaryOp n d a b (fun x y z => x * y + z) s
/-- `idiv` (R81). -/
def execIdiv (n : BitVec 1) (d a b : BitVec 7) (s : State) : Out := binaryOp n d a b idivVal s
/-- `idivn` (R81). -/
def execIdivn (n : BitVec 1) (d a b : BitVec 7) (s : State) : Out := binaryOp n d a b idivnVal s
/-- `irem` (R81). -/
def execIrem (n : BitVec 1) (d a b : BitVec 7) (s : State) : Out := binaryOp n d a b iremVal s
/-- `iremn` (R81). -/
def execIremn (n : BitVec 1) (d a b : BitVec 7) (s : State) : Out := binaryOp n d a b iremnVal s

/-! ## Minimum, maximum, absolute value, negation (R82) -/

/-- `imin` (R82). -/
def execImin (n : BitVec 1) (d a b : BitVec 7) (s : State) : Out := binaryOp n d a b (fun x y => if x.toInt ≤ y.toInt then x else y) s
/-- `imax` (R82). -/
def execImax (n : BitVec 1) (d a b : BitVec 7) (s : State) : Out := binaryOp n d a b (fun x y => if x.toInt ≤ y.toInt then y else x) s
/-- `iminn` (R82). -/
def execIminn (n : BitVec 1) (d a b : BitVec 7) (s : State) : Out := binaryOp n d a b (fun x y => if x ≤ y then x else y) s
/-- `imaxn` (R82). -/
def execImaxn (n : BitVec 1) (d a b : BitVec 7) (s : State) : Out := binaryOp n d a b (fun x y => if x ≤ y then y else x) s
/-- `iabs` (R82). -/
def execIabs (n : BitVec 1) (d a : BitVec 7) (s : State) : Out := unaryOp n d a (fun x => BitVec.ofInt 32 x.toInt.natAbs) s
/-- `ineg` (R82). -/
def execIneg (n : BitVec 1) (d a : BitVec 7) (s : State) : Out := unaryOp n d a (fun x => 0#32 - x) s

/-! ## Logic and move (R83) -/

/-- `and` (R83). -/
def execAndW (n : BitVec 1) (d a b : BitVec 7) (s : State) : Out := binaryOp n d a b (fun x y => x &&& y) s
/-- `or` (R83). -/
def execOrW (n : BitVec 1) (d a b : BitVec 7) (s : State) : Out := binaryOp n d a b (fun x y => x ||| y) s
/-- `xor` (R83). -/
def execXorW (n : BitVec 1) (d a b : BitVec 7) (s : State) : Out := binaryOp n d a b (fun x y => x ^^^ y) s
/-- `andn` (R83). -/
def execAndn (n : BitVec 1) (d a b : BitVec 7) (s : State) : Out := binaryOp n d a b (fun x y => x &&& ~~~y) s
/-- `orn` (R83). -/
def execOrn (n : BitVec 1) (d a b : BitVec 7) (s : State) : Out := binaryOp n d a b (fun x y => x ||| ~~~y) s
/-- `xnor` (R83). -/
def execXnor (n : BitVec 1) (d a b : BitVec 7) (s : State) : Out := binaryOp n d a b (fun x y => ~~~(x ^^^ y)) s
/-- `mov`: the word with its poison bit, never consumed (R18, R83). -/
def execMov (n : BitVec 1) (d a : BitVec 7) (s : State) : Out :=
  laneUnit { nw := n == 1#1, names := [(d, 1), (a, 1)] } (.regs d 1) (fun _ _ G l => .ok [G.readWord l a.toNat] 0#5) s

/-! ## Shifts and rotates (R84) -/

/-- `shl` (R84). -/
def execShl (n : BitVec 1) (d a b : BitVec 7) (s : State) : Out := binaryOp n d a b (fun x y => x <<< shCount y) s
/-- `shr` (R84). -/
def execShr (n : BitVec 1) (d a b : BitVec 7) (s : State) : Out := binaryOp n d a b (fun x y => x >>> shCount y) s
/-- `sar` (R84). -/
def execSar (n : BitVec 1) (d a b : BitVec 7) (s : State) : Out := binaryOp n d a b (fun x y => x.sshiftRight (shCount y)) s
/-- `rol` (R84). -/
def execRol (n : BitVec 1) (d a b : BitVec 7) (s : State) : Out := binaryOp n d a b (fun x y => x.rotateLeft (shCount y)) s
/-- `ror` (R84). -/
def execRor (n : BitVec 1) (d a b : BitVec 7) (s : State) : Out := binaryOp n d a b (fun x y => x.rotateRight (shCount y)) s
/-- `fshl` (R84). -/
def execFshl (n : BitVec 1) (d a b : BitVec 7) (s : State) : Out := ternaryOp n d a b fshlVal s
/-- `fshr` (R84). -/
def execFshr (n : BitVec 1) (d a b : BitVec 7) (s : State) : Out := ternaryOp n d a b fshrVal s

/-! ## Bit counting (R85) -/

/-- `popc` (R85). -/
def execPopc (n : BitVec 1) (d a : BitVec 7) (s : State) : Out := unaryOp n d a popcVal s
/-- `clz` (R85). -/
def execClz (n : BitVec 1) (d a : BitVec 7) (s : State) : Out := unaryOp n d a clzVal s
/-- `ctz` (R85). -/
def execCtz (n : BitVec 1) (d a : BitVec 7) (s : State) : Out := unaryOp n d a ctzVal s
/-- `brev` (R85). -/
def execBrev (n : BitVec 1) (d a : BitVec 7) (s : State) : Out := unaryOp n d a brevVal s

/-! ## Addresses (R86, R89) -/

/-- `lea64`: a pair plus a signed index shifted left (R86). -/
def execLea64 (n : BitVec 1) (sh : BitVec 3) (d a b : BitVec 7) (s : State) : Out :=
  laneUnit { nw := n == 1#1, names := [(d, 2), (a, 2), (b, 1)] } (.regs d 2) (fun _ _ G l =>
    onWords G l [(a.toNat, 2), (b.toNat, 1)] fun v =>
      (split64 (join64 (w0 v) (w1 v) + ((w2 v).signExtend 64) <<< sh.toNat), 0#5)) s

/-- The index of `lea64i` (R89): with a long immediate the full immediate shifted right by three. -/
def lea64iIndex (c : Cur) (x : BitVec 8) (sh : BitVec 3) : DWord := match c.limm with
  | none => x.signExtend 64
  | some _ => (immI c (x ++ sh : BitVec 11)).sshiftRight 3

/-- `lea64i` (R89). -/
def execLea64i (d a : BitVec 7) (x : BitVec 8) (sh : BitVec 3) (s : State) : Out :=
  laneUnit { limm := true, names := [(d, 2), (a, 2)] } (.regs d 2) (fun _ c G l =>
    onWords G l [(a.toNat, 2)] fun v => (split64 (join64 (w0 v) (w1 v) + (lea64iIndex c x sh) <<< sh.toNat), 0#5)) s

/-! ## Immediate forms (R87, R88) -/

/-- `addi` (R87). -/
def execAddi (d a : BitVec 7) (i : BitVec 11) (s : State) : Out := immOp d a i (fun x y => x + y) s
/-- `andi` (R87). -/
def execAndi (d a : BitVec 7) (i : BitVec 11) (s : State) : Out := immOp d a i (fun x y => x &&& y) s
/-- `ori` (R87). -/
def execOri (d a : BitVec 7) (i : BitVec 11) (s : State) : Out := immOp d a i (fun x y => x ||| y) s
/-- `xori` (R87). -/
def execXori (d a : BitVec 7) (i : BitVec 11) (s : State) : Out := immOp d a i (fun x y => x ^^^ y) s
/-- `movi` (R87). -/
def execMovi (d : BitVec 7) (i : BitVec 11) (s : State) : Out := immOp d 124#7 i (fun _ y => y) s
/-- `addi64` (R87). -/
def execAddi64 (d a : BitVec 7) (i : BitVec 11) (s : State) : Out :=
  laneUnit { limm := true, names := [(d, 2), (a, 2)] } (.regs d 2) (fun _ c G l =>
    onWords G l [(a.toNat, 2)] fun v => (split64 (join64 (w0 v) (w1 v) + immI c i), 0#5)) s

/-- An immediate shift (R88). -/
def shiftImmOp (d a : BitVec 7) (f : Word → Word) : State → Out :=
  laneUnit { names := [(d, 1), (a, 1)] } (.regs d 1) fun _ _ G l => onWords G l [(a.toNat, 1)] fun v => ([f (w0 v)], 0#5)

/-- `shli` (R88). -/
def execShli (d a : BitVec 7) (c : BitVec 5) (s : State) : Out := shiftImmOp d a (fun x => x <<< c.toNat) s
/-- `shri` (R88). -/
def execShri (d a : BitVec 7) (c : BitVec 5) (s : State) : Out := shiftImmOp d a (fun x => x >>> c.toNat) s
/-- `sari` (R88). -/
def execSari (d a : BitVec 7) (c : BitVec 5) (s : State) : Out := shiftImmOp d a (fun x => x.sshiftRight c.toNat) s

end Sys2Proof.Machine
end

