-- ==== Sys2Proof/Machine/FloatOps.lean ====
section
/-! DEFINITION. Floating-point compares, FP32 and packed arithmetic and the approximated functions: majors 0x1C, 0x1D, 0x1E
fn 2 and 0x20 to 0x23 (spec/04 R91, R92; spec/05_lane_arithmetic_instructions.md R109 to R112). -/
namespace Sys2Proof.Machine

/-! ## Shared forms -/

/-- A floating-point result of a lane from its source words, under the unit's FTZ bit and rounding mode (R37, R67, R69). -/
def fpLane (srcs : Cur → List (Nat × Nat)) (f : Bool → Nat → List Word → List Word × BitVec 5) :
    State → Cur → Group → Nat → LaneOut :=
  fun s c G l => onWords G l (srcs c) (f (s.ftz G) (unitMode s G c))

/-- d := f a of a major that uses rm (R38). -/
def fpUnary (n : BitVec 1) (d a : BitVec 7) (f : Bool → Nat → Word → Word × BitVec 5) : State → Out :=
  laneUnit { nw := n == 1#1, rm := true, names := [(d, 1), (a, 1)] } (.regs d 1)
    (fpLane (fun _ => [(a.toNat, 1)]) fun z m v => let r := f z m (w0 v)
      ([r.1], r.2))

/-- d := f a b of a major that uses rm. -/
def fpBinary (n : BitVec 1) (d a b : BitVec 7) (f : Bool → Nat → Word → Word → Word × BitVec 5) : State → Out :=
  laneUnit { nw := n == 1#1, rm := true, names := [(d, 1), (a, 1), (b, 1)] } (.regs d 1)
    (fpLane (fun _ => [(a.toNat, 1), (b.toNat, 1)]) fun z m v => let r := f z m (w0 v) (w1 v)
      ([r.1], r.2))

/-- d := f a b c with c from the prefix. -/
def fpTernary (n : BitVec 1) (d a b : BitVec 7) (f : Bool → Nat → Word → Word → Word → Word × BitVec 5) : State → Out :=
  laneUnit { nw := n == 1#1, rm := true, c := 1, names := [(d, 1), (a, 1), (b, 1)] } (.regs d 1)
    (fpLane (fun c => [(a.toNat, 1), (b.toNat, 1), ((pfxC c).toNat, 1)]) fun z m v => let r := f z m (w0 v) (w1 v) (w2 v)
      ([r.1], r.2))

/-- A code of a format as a word with flags. -/
def asWord (r : Nat × BitVec 5) : Word × BitVec 5 := (BitVec.ofNat 32 r.1, r.2)

/-! ## Compares (R91, R92) -/

/-- The relation of `fcmp` fn f between two values. -/
def fcmpRel (f : Nat) (x y : FVal) : Bool :=
  let un := x.isNan || y.isNan
  let o := fcmpExact x y
  match f with
  | 0 => !un && o == .eq
  | 1 => un || o != .eq
  | 2 => !un && o == .lt
  | 3 => !un && o != .gt
  | 4 => !un && o == .gt
  | 5 => !un && o != .lt
  | 6 => !un
  | _ => un

/-- A compare of two words and the flags it raises. -/
def fcmpVal (f : Nat) (ftz : Bool) (a b : Word) : Bool × BitVec 5 :=
  let x := f32 ftz a
  let y := f32 ftz b
  (fcmpRel f x y, sigFlag [x, y])

/-- `fcmp` to a mask (R91). -/
def execFcmp (f k : BitVec 3) (a b : BitVec 7) (s : State) : Out :=
  laneUnit { names := [(a, 1), (b, 1)] } (.mask k.toNat)
    (fpLane (fun _ => [(a.toNat, 1), (b.toNat, 1)]) fun z _ v => let r := fcmpVal f.toNat z (w0 v) (w1 v)
      ([if r.1 then 1#32 else 0#32], r.2)) s

/-- `fcmpv` to a register (R91). -/
def execFcmpv (n : BitVec 1) (f : BitVec 3) (d a b : BitVec 7) (s : State) : Out :=
  laneUnit { nw := n == 1#1, names := [(d, 1), (a, 1), (b, 1)] } (.regs d 1)
    (fpLane (fun _ => [(a.toNat, 1), (b.toNat, 1)]) fun z _ v => let r := fcmpVal f.toNat z (w0 v) (w1 v)
      ([if r.1 then 0xFFFFFFFF#32 else 0#32], r.2)) s

/-- The class bit of an FP32 value (R92). -/
def fclassBit (w : Word) : Nat := match fp32.decode w.toNat with
  | .nan g => if g then 0 else 1
  | .inf n => if n then 2 else 9
  | .fin n m _ => if m = 0 then (if n then 5 else 6)
    else if fp32.subnormal w.toNat then (if n then 4 else 7)
    else if n then 3 else 8

/-- `fclass` (R92). -/
def execFclass (n : BitVec 1) (d a : BitVec 7) (s : State) : Out := unaryOp n d a (fun x => 1#32 <<< fclassBit x) s

/-! ## Major 0x20 (R109) -/

/-- The rounded sum of two values of a format. -/
def Fmt.add (F : Fmt) (z : Bool) (m : Nat) (x y : FVal) : Nat × BitVec 5 := F.finish z m [x, y] (faddExact m x y)
/-- The rounded product. -/
def Fmt.mul (F : Fmt) (z : Bool) (m : Nat) (x y : FVal) : Nat × BitVec 5 := F.finish z m [x, y] (fmulExact x y)
/-- x * y + w, rounded once: invalid where the product is, or where the sum adds opposite infinities. -/
def Fmt.fma (F : Fmt) (z : Bool) (m : Nat) (x y w : FVal) : Nat × BitVec 5 :=
  F.finish z m [x, y, w] (match fmulExact x y with
    | none => none
    | some p => faddExact m p w)

/-- minimumNumber or maximumNumber: exact, with no flag but NV for a signalling NaN. -/
def fminVal (mx z : Bool) (a b : Word) : Word × BitVec 5 :=
  let x := f32 z a
  let y := f32 z b
  asWord ((fp32.round false 0 (fminNum mx x y)).1, sigFlag [x, y])

/-- `fadd` (R109). -/
def execFadd (n : BitVec 1) (d a b : BitVec 7) (s : State) : Out :=
  fpBinary n d a b (fun z m x y => asWord (fp32.add z m (f32 z x) (f32 z y))) s
/-- `fsub`: the sum with the second operand negated (R109). -/
def execFsub (n : BitVec 1) (d a b : BitVec 7) (s : State) : Out :=
  fpBinary n d a b (fun z m x y => asWord (fp32.add z m (f32 z x) (f32 z y).flip)) s
/-- `fmul` (R109). -/
def execFmul (n : BitVec 1) (d a b : BitVec 7) (s : State) : Out :=
  fpBinary n d a b (fun z m x y => asWord (fp32.mul z m (f32 z x) (f32 z y))) s
/-- `ffma` (R109). -/
def execFfma (n : BitVec 1) (d a b : BitVec 7) (s : State) : Out :=
  fpTernary n d a b (fun z m x y w => asWord (fp32.fma z m (f32 z x) (f32 z y) (f32 z w))) s
/-- `fmac`: the accumulator is the destination (R109). -/
def execFmac (n : BitVec 1) (d a b : BitVec 7) (s : State) : Out :=
  laneUnit { nw := n == 1#1, rm := true, names := [(d, 1), (a, 1), (b, 1)] } (.regs d 1)
    (fpLane (fun _ => [(a.toNat, 1), (b.toNat, 1), (d.toNat, 1)]) fun z m v =>
      let r := asWord (fp32.fma z m (f32 z (w0 v)) (f32 z (w1 v)) (f32 z (w2 v)))
      ([r.1], r.2)) s
/-- `fmin` (R109). -/
def execFmin (n : BitVec 1) (d a b : BitVec 7) (s : State) : Out := fpBinary n d a b (fun z _ x y => fminVal false z x y) s
/-- `fmax` (R109). -/
def execFmax (n : BitVec 1) (d a b : BitVec 7) (s : State) : Out := fpBinary n d a b (fun z _ x y => fminVal true z x y) s
/-- `fcpysgn`: a bit operation (R109). -/
def execFcpysgn (n : BitVec 1) (d a b : BitVec 7) (s : State) : Out :=
  fpBinary n d a b (fun _ _ x y => ((x &&& 0x7FFFFFFF#32) ||| (y &&& 0x80000000#32), 0#5)) s

/-! ## Major 0x21 (R110) -/

/-- `frnd` value: NX is never raised, and a result of zero keeps the operand's sign. -/
def frndVal (z : Bool) (m : Nat) (a : Word) : Word × BitVec 5 := match f32 z a with
  | .nan g => (0x7FC00000#32, if g then flagNV else 0#5)
  | .inf n => asWord (fp32.signed n fp32.infCode, 0#5)
  | .fin n k e =>
    let r := roundInt m n k e
    asWord ((fp32.round false 0 (.fin n r.1.natAbs 0)).1, 0#5)

/-- `fdiv` value with the special cases of R110. -/
def fdivVal (z : Bool) (m : Nat) (a b : Word) : Word × BitVec 5 :=
  let x := f32 z a
  let y := f32 z b
  let sg := x.neg != y.neg
  match x, y with
  | .nan _, _ => (0x7FC00000#32, sigFlag [x, y])
  | _, .nan _ => (0x7FC00000#32, sigFlag [x, y])
  | .inf _, .inf _ => (0x7FC00000#32, flagNV)
  | .inf _, .fin _ _ _ => asWord (fp32.signed sg fp32.infCode, 0#5)
  | .fin _ _ _, .inf _ => asWord (fp32.signed sg 0, 0#5)
  | .fin _ j e, .fin _ k f =>
    if k = 0 then (if j = 0 then (0x7FC00000#32, flagNV) else asWord (fp32.signed sg fp32.infCode, flagDZ))
    else if j = 0 then asWord (fp32.signed sg 0, 0#5)
    else
      let q := fdivBits j e k f
      asWord (fp32.roundFin z m sg q.1 q.2.1 q.2.2)

/-- `fsqrt` value with the special cases of R110. -/
def fsqrtVal (z : Bool) (m : Nat) (a : Word) : Word × BitVec 5 := match f32 z a with
  | .nan g => (0x7FC00000#32, if g then flagNV else 0#5)
  | .inf n => if n then (0x7FC00000#32, flagNV) else asWord (fp32.infCode, 0#5)
  | .fin n k e =>
    if k = 0 then asWord (fp32.signed n 0, 0#5)
    else if n then (0x7FC00000#32, flagNV)
    else
      let q := fsqrtBits k e
      asWord (fp32.roundFin z m false q.1 q.2.1 q.2.2)

/-- `fabs` (R110). -/
def execFabs (n : BitVec 1) (d a : BitVec 7) (s : State) : Out := fpUnary n d a (fun _ _ x => (x &&& 0x7FFFFFFF#32, 0#5)) s
/-- `fneg` (R110). -/
def execFneg (n : BitVec 1) (d a : BitVec 7) (s : State) : Out := fpUnary n d a (fun _ _ x => (x ^^^ 0x80000000#32, 0#5)) s
/-- `frnd` (R110). -/
def execFrnd (n : BitVec 1) (d a : BitVec 7) (s : State) : Out := fpUnary n d a frndVal s
/-- `fdiv` (R110). -/
def execFdiv (n : BitVec 1) (d a b : BitVec 7) (s : State) : Out := fpBinary n d a b fdivVal s
/-- `fsqrt` (R110). -/
def execFsqrt (n : BitVec 1) (d a : BitVec 7) (s : State) : Out := fpUnary n d a fsqrtVal s

/-! ## Major 0x22 (R111) -/

/-- A function of major 0x22 by its fn; the rounding mode has no effect. -/
def approxOp (fn : Nat) (n : BitVec 1) (d a : BitVec 7) : State → Out := fpUnary n d a fun z _ x => asWord (approxVal fn z x)

/-- `frcp` (R111). -/
def execFrcp (n : BitVec 1) (d a : BitVec 7) (s : State) : Out := approxOp 0 n d a s
/-- `frsq` (R111). -/
def execFrsq (n : BitVec 1) (d a : BitVec 7) (s : State) : Out := approxOp 1 n d a s
/-- `fexp2` (R111). -/
def execFexp2 (n : BitVec 1) (d a : BitVec 7) (s : State) : Out := approxOp 2 n d a s
/-- `flog2` (R111). -/
def execFlog2 (n : BitVec 1) (d a : BitVec 7) (s : State) : Out := approxOp 3 n d a s
/-- `fsin` (R111). -/
def execFsin (n : BitVec 1) (d a : BitVec 7) (s : State) : Out := approxOp 4 n d a s
/-- `fcos` (R111). -/
def execFcos (n : BitVec 1) (d a : BitVec 7) (s : State) : Out := approxOp 5 n d a s
/-- `ftanh` (R111). -/
def execFtanh (n : BitVec 1) (d a : BitVec 7) (s : State) : Out := approxOp 6 n d a s

/-! ## Major 0x23 (R112) -/

/-- Element i of a packed pair (R57). -/
def half (w : Word) (i : Nat) : Nat := (w.toNat / 2 ^ (16 * i)) % 2 ^ 16

/-- Both elements computed by themselves and packed, their flags ORed. -/
def packed2 (f : Nat → Nat × BitVec 5) : Word × BitVec 5 :=
  (BitVec.ofNat 32 ((f 1).1 * 2 ^ 16 + (f 0).1), (f 0).2 ||| (f 1).2)

/-- Element i of a word as a value of a 16-bit format. -/
def Fmt.elem16 (F : Fmt) (z : Bool) (w : Word) (i : Nat) : FVal := F.decodeFtz z (half w i)

/-- Packed addition in a format. -/
def packedAdd (F : Fmt) (n : BitVec 1) (d a b : BitVec 7) : State → Out :=
  fpBinary n d a b fun z m x y => packed2 fun i => F.add z m (F.elem16 z x i) (F.elem16 z y i)
/-- Packed multiplication. -/
def packedMul (F : Fmt) (n : BitVec 1) (d a b : BitVec 7) : State → Out :=
  fpBinary n d a b fun z m x y => packed2 fun i => F.mul z m (F.elem16 z x i) (F.elem16 z y i)
/-- Packed fused multiply-add. -/
def packedFma (F : Fmt) (n : BitVec 1) (d a b : BitVec 7) : State → Out :=
  fpTernary n d a b fun z m x y w => packed2 fun i => F.fma z m (F.elem16 z x i) (F.elem16 z y i) (F.elem16 z w i)

/-- `hadd2` (R112). -/
def execHadd2 (n : BitVec 1) (d a b : BitVec 7) (s : State) : Out := packedAdd fp16 n d a b s
/-- `hmul2` (R112). -/
def execHmul2 (n : BitVec 1) (d a b : BitVec 7) (s : State) : Out := packedMul fp16 n d a b s
/-- `hfma2` (R112). -/
def execHfma2 (n : BitVec 1) (d a b : BitVec 7) (s : State) : Out := packedFma fp16 n d a b s
/-- `badd2` (R112). -/
def execBadd2 (n : BitVec 1) (d a b : BitVec 7) (s : State) : Out := packedAdd bf16 n d a b s
/-- `bmul2` (R112). -/
def execBmul2 (n : BitVec 1) (d a b : BitVec 7) (s : State) : Out := packedMul bf16 n d a b s
/-- `bfma2` (R112). -/
def execBfma2 (n : BitVec 1) (d a b : BitVec 7) (s : State) : Out := packedFma bf16 n d a b s

end Sys2Proof.Machine
end

