-- ==== Sys2Proof/Machine/CrossLane.lean ====
section
/-! DEFINITION. Group collectives (spec/06_parallel_execution.md R146) and the cross-lane instructions, majors 0x48 to 0x4F
(spec/07_cross_lane_and_team_instructions.md R155 to R162; spec/03_number_formats.md R72 to R74). -/
namespace Sys2Proof.Machine

/-! ## Collectives (R146) -/

/-- The sequencers of a group that still hold a thread. -/
def Group.liveSeqs (G : Group) : List Seq := G.seqs.filter fun q => decide (q.st ≠ .done)

/-- The whole group issues as one: every live sequencer issues, at one depth (R146). -/
def Group.ganged (G : Group) (c : Cur) : Bool := match G.liveSeqs with
  | [] => false
  | q :: qs => (q :: qs).all fun r => c.seqs.contains r.id && r.stack.length == q.stack.length

/-- Sequencers of a group put into CWAIT at their unit. -/
def Group.toCwait (G : Group) (ids : List Nat) (pc : BitVec 56) : Group :=
  { G with seqs := G.seqs.map fun q => if ids.contains q.id then { q with st := .cwait, pc := pc } else q }

/-- A collective: it issues for the whole ganged group; a part of a group waits in CWAIT (R146, R149). -/
def collective (s : State) (k : Cur → Group → Out) : Out :=
  withUnit s fun c G =>
    if G.ganged c then k c G else .next (s.setGroup (G.toCwait c.seqs c.unitPc)).endUnit

/-- A collective whose run lanes each have a result of their own (R155). Where `wide` answers that a group-wide result reads poison,
every run lane consumes it and no lane is written. -/
def crossUnit (u : Unit) (d : Dst) (wide : Cur → Group → Bool) (f : State → Cur → Group → Nat → LaneOut) (s : State) : Out :=
  collective s fun c G => match u.check G c with
    | some cause => .next (s.trapUnit G c cause 0)
    | none =>
      if wide c G then .next (s.consume G c (u.run G c))
      else .next (s.retire G c u d false ((lanesOf G (u.run G c)).map fun l => (l, f s c G l)))

/-- The result of each lane is its own. -/
def noneWide (_ : Cur) (_ : Group) : Bool := false

/-- The unit record of majors 0x48 to 0x4F: no latch is pushed. -/
def xlUnit (rm : Bool) (names : List (BitVec 7 × Nat)) : Unit := { rm := rm, latch := false, names := names }

/-- The run lanes of a unit, ascending. -/
def Group.runLanes (G : Group) (c : Cur) : List Nat := lanesOf G (G.run c)

/-- Some run lane holds poison in registers from a code on. -/
def Group.runPoison (G : Group) (c : Cur) (a n : Nat) : Bool := (G.runLanes c).any fun m => anyPoison (G.readWords m a n)

/-! ## Votes and matches (R156, R157) -/

/-- `vote` (R156): fn 0 all, 1 any, 2 ballot. -/
def execVote (f k : BitVec 3) (a : BitVec 7) (s : State) : Out :=
  crossUnit (xlUnit false [(a, 1)]) (.mask k.toNat) (fun c G => f != 2#3 && G.runPoison c a.toNat 1) (fun _ c G l =>
    let ws := (G.runLanes c).map fun m => G.readWord m a.toNat
    let mine := G.readWord l a.toNat
    if f = 2#3 then (if mine.poison then .consume else .ok [clean (if mine.val != 0#32 then 1#32 else 0#32)] 0#5)
    else
      let b := if f = 0#3 then ws.all fun w => w.val != 0#32 else ws.any fun w => w.val != 0#32
      .ok [clean (if b then 1#32 else 0#32)] 0#5) s

/-- The class of a lane (R157): the run lanes with its value. -/
def Group.matchClass (G : Group) (c : Cur) (a n l : Nat) : BitVec 64 :=
  let mine := (G.readWords l a n).map (·.val)
  laneMask 64 fun m => (G.run c).getLsbD m && decide ((G.readWords m a n).map (·.val) = mine)

/-- `match` (R157): the class to a pair, the leaders to a mask. -/
def execMatchLanes (w : BitVec 1) (d a : BitVec 7) (k : BitVec 3) (s : State) : Out :=
  collective s fun c G =>
    let n := if w = 0#1 then 1 else 2
    let u := xlUnit false [(d, 2), (a, n)]
    match u.check G c with
    | some cause => .next (s.trapUnit G c cause 0)
    | none =>
      let leader (l : Nat) : Bool := decide (lowest (G.matchClass c a.toNat n l) = some l)
      let H := G.writeBack u c (.regs d 2) (G.k0 c) (G.run c) 0#64 fun l => some ((split64 (G.matchClass c a.toNat n l)).map clean)
      if G.runPoison c a.toNat n then .next (s.consume G c (G.run c))
      else .next (s.retire H c u (.mask k.toNat) false ((G.runLanes c).map fun l =>
        (l, LaneOut.ok [clean (if leader l then 1#32 else 0#32)] 0#5)))

/-! ## Shuffles (R158) -/

/-- The source lane of `shfl` and `bcast`, when it is a lane of the group. -/
def shflSrc (f w l : Nat) (b : Word) : Option Nat :=
  let c := b.toNat % 64
  match f with
  | 1 => if c ≤ l ∧ l - c < w then some (l - c) else none
  | 2 => if l + c < w then some (l + c) else none
  | 3 => if l ^^^ (c % w) < w then some (l ^^^ (c % w)) else none
  | _ => some (c % w)

/-- The word that a lane takes: the source lane's where it holds a live thread, else its own. -/
def Group.shflWord (G : Group) (a f l : Nat) (b : Word) : PWord := match shflSrc f G.width l b with
  | some m => if G.liveLane m then G.readWord m a else G.readWord l a
  | none => G.readWord l a

/-- `shfl` (R158). -/
def execShfl (f : BitVec 2) (d a b : BitVec 7) (s : State) : Out :=
  crossUnit (xlUnit false [(d, 1), (a, 1), (b, 1)]) (.regs d 1) noneWide (fun _ _ G l =>
    let q := G.readWord l b.toNat
    if q.poison then .consume else .ok [G.shflWord a.toNat f.toNat l q.val] 0#5) s

/-- The word of the lowest run lane. -/
def Group.selWord (G : Group) (c : Cur) (b : Nat) : PWord := match lowest (G.run c) with
  | none => pzero
  | some m => G.readWord m b

/-- `bcast` (R158): the selector of the lowest run lane. -/
def execBcast (d a b : BitVec 7) (s : State) : Out :=
  crossUnit (xlUnit false [(d, 1), (a, 1), (b, 1)]) (.regs d 1) (fun c G => (G.selWord c b.toNat).poison) (fun _ c G l =>
    .ok [G.shflWord a.toNat 0 l (G.selWord c b.toNat).val] 0#5) s

/-! ## Integer reductions (R74, R159) -/

/-- The identity of an integer reduction by fn (R74). -/
def redIdentity : Nat → Word
  | 1 => 0x7FFFFFFF#32
  | 2 => 0x80000000#32
  | 3 => 0xFFFFFFFF#32
  | 5 => 0xFFFFFFFF#32
  | _ => 0#32

/-- The operation of an integer reduction by fn (R159). -/
def redOp (f : Nat) (x y : Word) : Word := match f with
  | 0 => x + y
  | 1 => if x.toInt ≤ y.toInt then x else y
  | 2 => if x.toInt ≤ y.toInt then y else x
  | 3 => if x ≤ y then x else y
  | 4 => if x ≤ y then y else x
  | 5 => x &&& y
  | 6 => x ||| y
  | _ => x ^^^ y

/-- The combination of the run lanes up to a bound. -/
def Group.reduce (G : Group) (c : Cur) (f a hi : Nat) : Word :=
  (((G.runLanes c).filter fun m => decide (m ≤ hi)).map fun m => (G.readWord m a).val).foldl (redOp f) (redIdentity f)

/-- `red` (R159). -/
def execRed (f : BitVec 3) (d a : BitVec 7) (s : State) : Out :=
  crossUnit (xlUnit false [(d, 1), (a, 1)]) (.regs d 1) (fun c G => G.runPoison c a.toNat 1) (fun _ c G _ =>
    .ok [clean (G.reduce c f.toNat a.toNat 63)] 0#5) s

/-- `scan` (R159). -/
def execScan (f : BitVec 3) (d a : BitVec 7) (s : State) : Out :=
  crossUnit (xlUnit false [(d, 1), (a, 1)]) (.regs d 1) (fun c G => G.runPoison c a.toNat 1) (fun _ c G l =>
    .ok [clean (G.reduce c f.toNat a.toNat l)] 0#5) s

/-! ## FP32 reductions (R72, R73, R160) -/

/-- The identity of an FP32 reduction (R74). -/
def fredIdentity (f : Nat) : Word := if f = 0 then 0x80000000#32 else 0x7FC00000#32

/-- A value with the flags raised on the way to it. -/
abbrev FW := Word × BitVec 5

/-- The operation of a node (R72). -/
def fredOp (f : Nat) (z : Bool) (m : Nat) (x y : FW) : FW :=
  let r := match f with
    | 0 => asWord (fp32.add z m (f32 z x.1) (f32 z y.1))
    | 1 => fminVal false z x.1 y.1
    | _ => fminVal true z x.1 y.1
  (r.1, r.2 ||| x.2 ||| y.2)

/-- An input of the tree: read through the flush, a NaN made canonical (R59, R69), with NV for a signalling NaN. -/
def fredInput (z : Bool) (w : Word) : FW := let v := f32 z w
  (BitVec.ofNat 32 (fp32.round false 0 v).1, sigFlag [v])

/-- Level l + 1 of the tree from level l. -/
def fredLevel (f : Nat) (z : Bool) (m : Nat) : List FW → List FW
  | x :: y :: r => fredOp f z m x y :: fredLevel f z m r
  | _ => []

/-- The levels of the tree, inputs first. -/
def fredLevels (f : Nat) (z : Bool) (m : Nat) : Nat → List FW → List (List FW)
  | 0, y => [y]
  | k + 1, y => y :: fredLevels f z m k (fredLevel f z m y)

/-- log2 of a group width. -/
def log2Width (w : Nat) : Nat := if w = 8 then 3 else if w = 16 then 4 else if w = 32 then 5 else 6

/-- The tree over a group's declared width: lanes that do not run contribute the identity. -/
def Group.fredTree (G : Group) (c : Cur) (f a : Nat) (z : Bool) (m : Nat) : List (List FW) :=
  fredLevels f z m (log2Width G.width) ((List.range G.width).map fun l =>
    if (G.run c).getLsbD l then fredInput z (G.readWord l a).val else (fredIdentity f, 0#5))

/-- A node of the tree. -/
def treeNode (t : List (List FW)) (l j : Nat) : FW := (t.getD l []).getD j (0#32, 0#5)

/-- fscan_at (R73): the blocks of lanes 0 to i, combined from left to right, from level k down. -/
def fscanFrom (f : Nat) (z : Bool) (m : Nat) (t : List (List FW)) (i : Nat) : Nat → Nat → Option FW → Option FW
  | 0, base, acc => if bitAt (i + 1) 0 then some (match acc with
      | none => treeNode t 0 base
      | some x => fredOp f z m x (treeNode t 0 base)) else acc
  | l + 1, base, acc => if bitAt (i + 1) (l + 1) then
      fscanFrom f z m t i l (base + 2 ^ (l + 1)) (some (match acc with
        | none => treeNode t (l + 1) (base / 2 ^ (l + 1))
        | some x => fredOp f z m x (treeNode t (l + 1) (base / 2 ^ (l + 1)))))
    else fscanFrom f z m t i l base acc

/-- `fred` (R160). -/
def execFred (f : BitVec 2) (d a : BitVec 7) (s : State) : Out :=
  crossUnit (xlUnit true [(d, 1), (a, 1)]) (.regs d 1) (fun c G => G.runPoison c a.toNat 1) (fun s c G _ =>
    let t := G.fredTree c f.toNat a.toNat (s.ftz G) (unitMode s G c)
    let r := treeNode t (log2Width G.width) 0
    .ok [clean r.1] r.2) s

/-- `fscan` (R160). -/
def execFscan (f : BitVec 2) (d a : BitVec 7) (s : State) : Out :=
  crossUnit (xlUnit true [(d, 1), (a, 1)]) (.regs d 1) (fun c G => G.runPoison c a.toNat 1) (fun s c G l =>
    let z := s.ftz G
    let m := unitMode s G c
    let t := G.fredTree c f.toNat a.toNat z m
    let r := (fscanFrom f.toNat z m t l (log2Width G.width) 0 none).getD (0#32, 0#5)
    .ok [clean r.1] (r.2 ||| sigFlag ((G.runLanes c).map fun i => f32 z (G.readWord i a.toNat).val))) s

/-! ## Transpose (R161) -/

/-- Bits per element of `rgt` by fn. -/
def rgtBits (f : Nat) : Nat := 8 * 2 ^ f

/-- New word k of a lane: each of its elements taken from the lane of its number in the tile, zero where none lives. -/
def Group.rgtWord (G : Group) (d z l k : Nat) : PWord :=
  let m := 32 / z
  let e := 8 * m
  let t := l / e * e
  let parts := (List.range m).map fun i =>
    let src := t + (k * m + i)
    if G.liveLane src then
      let w := G.readWord src (d + (l % e) / m)
      ((w.val.toNat / 2 ^ (z * ((l % e) % m))) % 2 ^ z, w.poison)
    else (0, false)
  ⟨BitVec.ofNat 32 (((List.range m).map fun i => (parts.getD i (0, false)).1 * 2 ^ (z * i)).sum), parts.any (·.2)⟩

/-- `rgt` (R161): illegal in a group narrower than a tile. -/
def execRgt (f : BitVec 3) (d : BitVec 7) (s : State) : Out :=
  let z := rgtBits f.toNat
  collective s fun c G =>
    let u := xlUnit false [(d, 8)]
    if u.prefixOk c ∧ G.width < 8 * (32 / z) then .next (s.trapUnit G c 0x01#8 0)
    else match u.check G c with
      | some cause => .next (s.trapUnit G c cause 0)
      | none => .next (s.retire G c u (.regs d 8) false ((G.runLanes c).map fun l =>
        (l, .ok ((List.range 8).map fun k => G.rgtWord d.toNat z l k) 0#5)))

/-! ## Masks (R162) -/

/-- A condition as a mask bit's result. -/
def bitOut (b : Bool) : LaneOut := .ok [clean (if b then 1#32 else 0#32)] 0#5

/-- `kop` (R162): and, or, xor, and-not. -/
def execKop (f : BitVec 2) (d a b : BitVec 3) (s : State) : Out :=
  crossUnit (xlUnit false []) (.mask d.toNat) noneWide (fun _ c G l =>
    let x := (G.mask (G.k0 c) a.toNat).getLsbD l
    let y := (G.mask (G.k0 c) b.toNat).getLsbD l
    bitOut (match f.toNat with
      | 0 => x && y
      | 1 => x || y
      | 2 => x != y
      | _ => x && !y)) s

/-- `kop.not` (R162). -/
def execKopNot (d a : BitVec 3) (s : State) : Out :=
  crossUnit (xlUnit false []) (.mask d.toNat) noneWide (fun _ c G l => bitOut (!(G.mask (G.k0 c) a.toNat).getLsbD l)) s

/-- `kmov.tor` (R162): the whole mask to a pair. -/
def execKmovTor (d : BitVec 7) (a : BitVec 3) (s : State) : Out :=
  crossUnit (xlUnit false [(d, 2)]) (.regs d 2) noneWide (fun _ c G _ =>
    .ok ((split64 (G.mask (G.k0 c) a.toNat &&& G.widthMask)).map clean) 0#5) s

/-- `kmov.tok` (R162): each lane's own bit of its pair. -/
def execKmovTok (d : BitVec 3) (a : BitVec 7) (s : State) : Out :=
  crossUnit (xlUnit false [(a, 2)]) (.mask d.toNat) noneWide (fun _ _ G l =>
    let ws := G.readWords l a.toNat 2
    if anyPoison ws then .consume else bitOut ((pairVal ws).getLsbD l)) s

end Sys2Proof.Machine
end

