-- ==== Sys2Proof/Machine/Control.lean ====
section
/-! DEFINITION. Prefix words, branches, the divergence stack, thread exit, reform and software traps: majors 0x7E, 0x7F and
0x40 to 0x45 (spec/01 R28; spec/02 R37, R39; spec/04_scalar_and_control_instructions.md R96 to R106; spec/06 R147 to R152). -/
namespace Sys2Proof.Machine

/-! ## Prefix words (R28) -/

/-- A PFX word: it may only come first in a unit (R28). -/
def execPfx (k : BitVec 3) (z : BitVec 1) (m : BitVec 3) (c : BitVec 7) (x : BitVec 3) (s : State) : Out :=
  withUnit s fun u G =>
    if u.pfx.isSome ∨ u.limm.isSome then .next (s.trapUnit G u 0x01#8 0)
    else .next { s with cur := some { u with pfx := some (0x7E#7 ++ k ++ z ++ m ++ c ++ x ++ 0#8), pc := u.pc + 4#56 } }

/-- A LIMM word: at most one, after any PFX (R28, R39). -/
def execLimm (h : BitVec 25) (s : State) : Out :=
  withUnit s fun u G =>
    if u.limm.isSome then .next (s.trapUnit G u 0x01#8 0)
    else .next { s with cur := some { u with limm := some h, pc := u.pc + 4#56 } }

/-! ## Shared control operations -/

/-- The unit record of the control majors: no prefix, no latch. -/
def ctlUnit (limm : Bool) (names : List (BitVec 7 × Nat)) : Unit := { pfx := false, limm := limm, latch := false, names := names }

/-- The B-format target (R36), none outside 0 to 2^56 - 1 (R96), and the address it would have. -/
def bTarget (c : Cur) (o : BitVec 14) : Option (BitVec 56) × Nat :=
  let t : Int := (c.pc.toNat : Int) + 4 * (immS c o).toInt
  (if 0 ≤ t ∧ t < 2 ^ 56 then some (BitVec.ofInt 56 t) else none, (BitVec.ofInt 64 t).toNat)

/-- The lanes of a group in the columns of a quad position. -/
def Group.lanesIn (G : Group) (pos : Nat) (cols : BitVec 4) : BitVec 64 :=
  laneMask G.threads.length fun l => match G.thread l with
    | some t => t.live && t.inCols pos cols
    | none => false

/-- A frame for one sequencer that stands in TRAP already, with no lane parked anew. -/
def State.trapSeq (s : State) (G : Group) (q : Seq) (t : TrapInfo) : State := match G.level with
  | .M => s.deviceFatal 1
  | _ =>
    let s0 := s.comeHome G.gctx
    let H := (((s0.group G.gctx).getD G).redirectCols q.pos q.own).setSeq { q with st := .trap, wait := .none, pc := t.pc }
    (s0.setGroup H).addFrame (s0.frameOf H [q.id] t)

/-- A quad cause in one sequencer (R360, R366). -/
def State.trapQuad (s : State) (g id : Nat) (cause : BitVec 8) (code : Nat) (pc : BitVec 56) (word : BitVec 32) : State :=
  match s.group g with
  | none => s
  | some G => match G.seq id with
    | none => s
    | some q =>
      let m := laneMask G.threads.length fun l => G.activeIn q l
      s.takeTrap G [q] m false ⟨cause, false, 0#8, 0, m, code, pc, word⟩

/-! ## Quads left without lanes (R101, R148, R149) -/

/-- If all of a quad's own lanes are gone, a fragment of it takes its place as the quad (R148). -/
def Group.promote (G : Group) (pos : Nat) : Group :=
  if G.seqs.any fun q => q.pos == pos && !q.frag && decide (q.st ≠ .done) then G
  else match G.seqs.find? fun q => q.pos == pos && q.frag && decide (q.st ≠ .done) with
    | some f => G.setSeq { f with frag := false }
    | none => G

/-- A group or a team without a thread ends (R136, R149); a live one keeps only its live sequencers. -/
def State.settleGroup (s : State) (g : Nat) : State := match s.group g with
  | none => s
  | some G =>
    let H := { G with seqs := G.liveSeqs }
    if H.seqs.isEmpty then
      let s1 := (s.comeHome g).groupGone G
      match G.team with
      | none => s1
      | some k => if s1.teamLive k = 0 then s1.endTeam k false else s1.checkBars k
    else
      let s1 := s.setGroup H
      match G.team with
      | none => s1
      | some k => s1.checkBars k

/-- resume_pop of a sequencer (R101, R148): `fromJoin` for a `join`, otherwise for a unit that left no active lane. A refill
trap outside `join` leaves the sequencer to run resume_pop when it resumes. When a refill trap ends the loop, the entries without
survivors that the loop has passed still stand on the stack of a `join`, since traps are precise, and are gone otherwise; the lanes of
a frame outside `join` are those that the sequencer owns and no other live sequencer does, since what spilled entries hold is in
software's memory (DESIGN CHOICE, log entry 46). -/
def State.resumePop (s : State) (g id : Nat) (fromJoin : Bool) (unitPc : BitVec 56) (word : BitVec 32) : State :=
  match s.group g with
  | none => s
  | some G => match G.seq id with
    | none => s
    | some q => match G.pop q fromJoin with
      | .go r => s.setGroup (G.setSeq { r with st := .run, wait := .none, popNext := false, ready := s.now + 1 })
      | .join st => s.setGroup (G.setSeq { q with stack := st, st := .jwait, popNext := !fromJoin })
      | .dead => s.setGroup ((G.setSeq { q with st := .done, own := 0#4, active := 0#4 }).promote q.pos)
      | .refill =>
        if fromJoin then s.trapQuad g id 0x11#8 0 unitPc word
        else
          let held := G.lanesIn q.pos (q.own &&& ~~~(G.othersOwn q))
          s.trapSeq G { q with popNext := true, stack := [] } ⟨0x11#8, false, 0#8, 0, held, 0, unitPc, word⟩

/-- What a unit makes of one of its sequencers: it goes on, it takes the divergence-depth trap, or it has no active lane and
pops. -/
inductive QuadOut where
  | go (q : Seq)
  | deep
  | pop (q : Seq)
deriving DecidableEq, Repr

/-- A pushed entry, or none on a full stack (R97). -/
def Seq.push (q : Seq) (es : List (BitVec 64)) : Option Seq :=
  if 16 < q.stack.length + es.length then none else some { q with stack := es ++ q.stack }

/-- One sequencer's outcome applied (R97 to R101). -/
def State.applyQuad (s : State) (c : Cur) (id : Nat) (o : QuadOut) : State := match o with
  | .go q => match s.group c.gctx with
    | some G => s.setGroup (G.setSeq { q with ready := s.now + 1 })
    | none => s
  | .deep => s.trapQuad c.gctx id 0x10#8 0 c.unitPc c.word
  | .pop q => match s.group c.gctx with
    | some G => (s.setGroup (G.setSeq q)).resumePop c.gctx id false c.unitPc c.word
    | none => s

/-- Numbers listed once each, at their first place. -/
def onceEach : List Nat → List Nat
  | [] => []
  | i :: is => i :: (onceEach is).filter fun j => j != i

/-- A unit's outcome in each of its sequencers, in order. -/
def State.applyQuads (s : State) (c : Cur) : List Nat → (Group → Seq → QuadOut) → State
  | [], _ => s
  | i :: is, f => match s.group c.gctx with
    | none => s
    | some G => match G.seq i with
      | none => s.applyQuads c is f
      | some q => (s.applyQuad c i (f G q)).applyQuads c is f

/-- The sequencer of a unit goes on at an address. -/
def Seq.at (q : Seq) (pc : BitVec 56) : QuadOut := .go { q with pc := pc }

/-- A control instruction without register operands or lane faults: the checks of the unit, then each quad's outcome. -/
def quadUnit (u : Unit) (f : Cur → Group → Seq → QuadOut) (s : State) : Out :=
  withUnit s fun c G => match u.check G c with
    | some cause => .next (s.trapUnit G c cause 0)
    | none => .next ((s.applyQuads c (onceEach c.seqs) (f c)).endUnit.settleGroup c.gctx)

/-- A control instruction with a B-format target (R96): a target out of range faults every issuing lane. -/
def branchUnit (o : BitVec 14) (f : BitVec 56 → Cur → Group → Seq → QuadOut) (s : State) : Out :=
  withUnit s fun c G => match (ctlUnit true []).check G c with
    | some cause => .next (s.trapUnit G c cause 0)
    | none => match bTarget c o with
      | (some t, _) => .next ((s.applyQuads c (onceEach c.seqs) (f t c)).endUnit)
      | (none, a) => .next (s.takeTrap G (G.issuing c) (G.k0 c) false ⟨0x04#8, false, 0#8, a, G.k0 c, 0, c.unitPc, c.word⟩).endUnit

/-! ## Branches (R98 to R101) -/

/-- `bra` (R98). -/
def execBra (o : BitVec 14) (s : State) : Out := branchUnit o (fun t _ _ q => q.at t) s

/-- The columns of a sequencer's active lanes that a mask holds. -/
def Group.taken (G : Group) (q : Seq) (m : BitVec 64) : BitVec 4 := G.colsOf q m

/-- `brc` and `brc.clr` (R99). -/
def execBrc (cc : BitVec 1) (k : BitVec 3) (o : BitVec 14) (s : State) : Out :=
  branchUnit o (fun t c G q =>
    let m := G.mask (G.k0 c) k.toNat
    let T := G.taken q (if cc = 0#1 then m else ~~~m)
    let N := q.active &&& ~~~T
    if N = 0#4 then q.at t
    else if T = 0#4 then q.at (c.pc + 4#56)
    else match q.push [stackEntry true T t] with
      | none => .deep
      | some r => .go { r with active := N, pc := c.pc + 4#56 }) s

/-- `pjn` (R100). -/
def execPjn (o : BitVec 14) (s : State) : Out :=
  branchUnit o (fun t c _ q => match q.push [stackEntry false q.active t] with
    | none => .deep
    | some r => r.at (c.pc + 4#56)) s

/-- `join` (R101). -/
def execJoin (s : State) : Out :=
  withUnit s fun c G => match (ctlUnit false []).check G c with
    | some cause => .next (s.trapUnit G c cause 0)
    | none => .next ((((onceEach c.seqs).foldl (fun t i => t.resumePop c.gctx i true c.unitPc c.word) s).endUnit).settleGroup c.gctx)

/-! ## Calls and indirect branches (R102) -/

/-- The link pair of lanes written (R102). -/
def Group.writeLink (G : Group) (d : BitVec 7) (m : BitVec 64) (link : BitVec 56) : Group :=
  let ws := (split64 (link.setWidth 64)).map clean
  if isUnif d.toNat then (if m = 0#64 then G else G.writeUnif d.toNat ws)
  else { G with threads := G.threads.mapIdx fun l t => if m.getLsbD l then t.writeWords G.winb d.toNat ws else t }

/-- `call` (R102). -/
def execCall (a : BitVec 7) (o : BitVec 14) (s : State) : Out :=
  withUnit s fun c G => match (ctlUnit true [(a, 2)]).check G c with
    | some cause => .next (s.trapUnit G c cause 0)
    | none => match bTarget c o with
      | (some t, _) =>
        .next (((s.setGroup (G.writeLink a (G.k0 c) (c.pc + 4#56))).applyQuads c (onceEach c.seqs) fun _ q => q.at t).endUnit)
      | (none, ad) => .next (s.takeTrap G (G.issuing c) (G.k0 c) false ⟨0x04#8, false, 0#8, ad, G.k0 c, 0, c.unitPc, c.word⟩).endUnit

/-- What a lane's register target is (R96): checked for range, then alignment, then poison. -/
inductive Target where
  | ok (pc : BitVec 56)
  | flt (e : Flt)
  | eat
deriving DecidableEq, Repr

/-- The target pair of a lane. -/
def Group.target (G : Group) (a l : Nat) : Target :=
  let ws := G.readWords l a 2
  let v := pairVal ws
  if v.extractLsb' 56 8 ≠ 0#8 then .flt (fltSpace v.toNat)
  else if v.extractLsb' 0 2 ≠ 0#2 then .flt (fltAlign v.toNat)
  else if anyPoison ws then .eat
  else .ok (v.setWidth 56)

/-- The lanes of a group whose target fails a check, and what the unit reports of them: the highest-ranked fault, with the
consuming lanes parked beside it, or a consumption alone (R96, R243, R368). -/
def Group.badTargets (G : Group) (a : Nat) (lanes : List Nat) : BitVec 64 × BitVec 64 × Option Flt :=
  let ts := lanes.map fun l => (l, G.target a l)
  let flts := ts.filterMap fun p => match p.2 with
    | .flt e => some (p.1, e)
    | _ => none
  let eats := laneMask 64 fun l => ts.any fun p => p.1 == l && decide (p.2 = .eat)
  (laneMask 64 (fun l => flts.any fun p => p.1 == l), eats, worst flts)

/-- The distinct targets of a sequencer's good lanes with their columns, in the order of the lowest lane of each (R102). -/
def Group.targetSets (G : Group) (q : Seq) (a : Nat) (good : BitVec 64) : List (BitVec 56 × BitVec 4) :=
  let ls := (lanesOf G good).filter fun l => G.activeIn q l
  let pcs := (ls.filterMap fun l => match G.target a l with
    | .ok t => some t
    | _ => none)
  (pcs.foldl (fun (acc : List (BitVec 56)) t => if acc.contains t then acc else acc ++ [t]) []).map fun t =>
    (t, G.colsOf q (laneMask 64 fun l => good.getLsbD l && decide (G.target a l = .ok t)))

/-- Where the good lanes of one sequencer go (R102): the first target runs, the others wait in pending entries. -/
def Group.spread (G : Group) (q : Seq) (a : Nat) (good : BitVec 64) : QuadOut := match G.targetSets q a good with
  | [] => .pop { q with active := 0#4 }
  | (t, m) :: rest => match q.push (rest.map fun p => stackEntry true p.2 p.1) with
    | none => .deep
    | some r => .go { r with active := m, pc := t }

/-- The lanes of some sequencers that fail park under one frame, in a fragment of their own while one is free, so that their quad goes
on with what it has left, be it no lane; a quad for which no fragment is free parks all its active lanes (R102, R147). Where fewer
fragments are free than quads need, the quads that stand first in the group's list get them; the spec does not say which do (DESIGN
CHOICE, log entry 46). -/
def State.parkTargets (s : State) (G : Group) (qs : List Seq) (bad : BitVec 64) (t : TrapInfo) : State := match G.level with
  | .M => s.deviceFatal 1
  | _ =>
    let hit := qs.filter fun q => decide (G.colsOf q bad ≠ 0#4)
    let n := 64 - s.fragsUsed
    let whole := laneMask G.threads.length fun l => (hit.drop n).any fun q => G.activeIn q l
    let s0 := s.comeHome G.gctx
    let (H, parked) := ((s0.group G.gctx).getD G).park true t.pc bad (hit.take n)
    let (K, parked2) := H.park false t.pc whole (hit.drop n)
    (s0.setGroup K).addFrame (s0.frameOf K (parked ++ parked2) t)

/-- The consumption of a target by lanes of a handler group: told, and each quad that holds some of them parks those under a frame of its
own (R96, R360, R368). -/
def State.eatTargets (s : State) (G : Group) (c : Cur) (eats : BitVec 64) : State :=
  (G.issuing c).foldl (fun t q => match t.group G.gctx with
    | none => t
    | some H => if G.colsOf q eats = 0#4 then t
      else t.parkTargets H [q] eats ⟨0x19#8, false, 0#8, 0, laneMask 64 fun l => eats.getLsbD l && G.activeIn q l, 0, c.unitPc, c.word⟩)
    (s.tellConsumption G).2

/-- `brx`, `callx` and `ret` (R102): `d` is the link pair of `callx`. A quad with lanes that fail a check of R96 and whose other lanes need
too many pushes takes both traps, the first for the lanes that fail and the depth trap for the others, though R366 says that a quad
cause never shares a unit with lane causes: R102 gives each of the two (DESIGN CHOICE, log entry 46). -/
def indirect (d : Option (BitVec 7)) (a : BitVec 7) (s : State) : Out :=
  let names := match d with
    | some r => [(r, 2), (a, 2)]
    | none => [(a, 2)]
  withUnit s fun c G => match (ctlUnit false names).check G c with
    | some cause => .next (s.trapUnit G c cause 0)
    | none =>
      let lanes := lanesOf G (G.k0 c)
      let (flts, eats, w) := G.badTargets a.toNat lanes
      if w.isNone ∧ eats ≠ 0#64 ∧ G.team.isSome then .next (s.consume G c eats)
      else
        let bad := flts ||| eats
        let s1 := match w with
          | some e =>
            let hit := laneMask 64 fun l => lanes.contains l && (match G.target a.toNat l with
              | .flt f => f.cause == e.cause
              | _ => false)
            let ad := match lowest hit with
              | some l => (pairVal (G.readWords l a.toNat 2)).toNat
              | none => 0
            s.parkTargets G (G.issuing c) bad ⟨e.cause, false, 0#8, ad, hit, 0, c.unitPc, c.word⟩
          | none => if eats = 0#64 then s else s.eatTargets G c eats
        match s1.group c.gctx with
        | none => .next s1.endUnit
        | some H =>
          let running := (onceEach c.seqs).filter fun i => match H.seq i with
            | some q => decide (q.st ≠ .trap)
            | none => false
          let good := G.k0 c &&& ~~~bad
          let deep (i : Nat) : Bool := match H.seq i with
            | some q => decide (G.spread q a.toNat good = .deep)
            | none => false
          let linkers := laneMask 64 fun l => good.getLsbD l && running.any fun i => !deep i && (match H.seq i with
            | some q => H.activeIn q l
            | none => false)
          let s2 := match d with
            | some r => s1.setGroup (H.writeLink r linkers (c.pc + 4#56))
            | none => s1
          .next (((s2.applyQuads c running fun _ q => G.spread q a.toNat good).endUnit).settleGroup c.gctx)

/-- `brx` (R102). -/
def execBrx (a : BitVec 7) (s : State) : Out := indirect none a s
/-- `callx` (R102). -/
def execCallx (d a : BitVec 7) (s : State) : Out := indirect (some d) a s
/-- `ret`, which acts as `brx` (R102). -/
def execRet (a : BitVec 7) (s : State) : Out := indirect none a s

/-! ## Ending and pausing (R103 to R106) -/

/-- The threads of the issuing lanes end (R103): every stack entry of their quads loses them (R97), their blocks return (R170), and the eligibility of the team ends (R372). -/
def State.exitLanes (s : State) (G : Group) (m : BitVec 64) : State :=
  let H0 : Group := { G with threads := G.threads.mapIdx fun l t => if m.getLsbD l then { t with live := false } else t }
  let H : Group := { H0 with seqs := H0.seqs.map fun q => { q with stack := q.stack.map (keepLanes (H0.liveCols q.pos)) } }
  let s1 := s.setGroup H
  let s2 := match G.team with
    | some k => s1.endEligible k
    | none => s1
  match G.team with
  | some _ => s2.freeBlocks (G.blocks - H.blocks)
  | none => s2

/-- `exit` (R103): the issuing lanes leave their quads, which pop. -/
def execExitThread (s : State) : Out :=
  withUnit s fun c G => match (ctlUnit false []).check G c with
    | some cause => .next (s.trapUnit G c cause 0)
    | none =>
      let gone (q : Seq) : Seq := { q with own := q.own &&& ~~~q.active, active := 0#4 }
      let s1 := s.exitLanes G (G.k0 c)
      .next (((s1.applyQuads c (onceEach c.seqs) fun _ q => .pop (gone q)).endUnit).settleGroup c.gctx)

/-- `yield` (R104): the group's quads become ready anew. -/
def execYield (s : State) : Out :=
  withUnit s fun c G => match (ctlUnit false []).check G c with
    | some cause => .next (s.trapUnit G c cause 0)
    | none =>
      let H := { G with seqs := G.seqs.map (Seq.readyAt (s.now + 1)) }
      .next ((s.setGroup H).advance c)

/-- `nop` (R105). -/
def execNop (s : State) : Out :=
  withUnit s fun c G => match (ctlUnit false []).check G c with
    | some cause => .next (s.trapUnit G c cause 0)
    | none => .next (s.advance c)

/-- `trap` and `brk` (R106): each issuing quad or fragment takes the trap by itself and resumes after the instruction. -/
def softTrap (cause : BitVec 8) (code : BitVec 14) (s : State) : Out :=
  withUnit s fun c G => match (ctlUnit false []).check G c with
    | some e => .next (s.trapUnit G c e 0)
    | none =>
      if G.level = .M then .next (s.trapUnit G c 0x01#8 0)
      else .next (s.trapEach G c cause code.toNat (c.pc + 4#56))

/-- `trap` (R106). -/
def execTrap (c : BitVec 14) (s : State) : Out := softTrap 0x20#8 c s
/-- `brk` (R106). -/
def execBrk (c : BitVec 14) (s : State) : Out := softTrap 0x21#8 c s

/-! ## Reform (R150 to R152) -/

/-- The key of a bin (R151). -/
def Bin.hasKey (b : Bin) (team role : Nat) (pc : BitVec 56) (winb : Nat) (l : Level) : Bool :=
  b.team == team && b.role == role && b.pc == pc && b.winb == winb && decide (b.level = l)

/-- A thread's column is taken in a bin. -/
def Bin.taken (b : Bin) (col : Nat) : Bool := b.threads.any fun f => f.thread.col == col

/-- The filing time of a bin's oldest thread. -/
def Bin.oldest (b : Bin) : Int := match b.threads.map (·.since) with
  | [] => 0
  | x :: xs => xs.foldl min x

/-- Threads in ascending column order. -/
def byColumn (l : List Filed) : List Filed := (List.range 64).filterMap fun c => l.find? fun f => f.thread.col == c

/-- The lowest group context of the live context that no group holds. Contexts 2,044 to 2,047 are the handler groups' (R386); should
a draw need more than the 2,044 others, the model goes on at 2,048 (log entry 11). -/
def State.freeGctx (s : State) : Nat :=
  ((List.range 4096).find? fun g => g / 4 != 511 && !(s.live.groups.any fun G => G.gctx == g)).getD 0

/-- The lowest group index of a role that no group of the team holds (R152). -/
def State.freeIndex (s : State) (k role : Nat) : Nat :=
  ((List.range 2048).find? fun i => !((s.teamGroups k).any fun G => G.role == role && G.index == i)).getD 0

/-- A completion class with nothing issued. -/
def ClassSeq.empty : ClassSeq := ⟨0#32, 0#32, [], 0#32⟩

/-- A fresh floating-point context. -/
def FpCtx.zero : FpCtx := ⟨0#32, 0#5, 0#5, 0#64, 0#64⟩

/-- A sequencer of a new group, standing at an address. -/
def Seq.fresh (id pos : Nat) (cols : BitVec 4) (pc : BitVec 56) (now : Nat) : Seq :=
  ⟨id, pos, false, cols, cols, pc, [], 0, .run, .none, now, false⟩

/-- The columns of a position that a list of threads holds. -/
def colsAt (ts : List Thread) (pos : Nat) : BitVec 4 :=
  ts.foldl (fun m t => if t.col / 4 = pos then m ||| 1#4 <<< (t.col % 4) else m) 0#4

/-- The sequencers of a group formed of threads: one for each position that holds one (R152). -/
def seqsOf (ts : List Thread) (pc : BitVec 56) (now : Nat) : List Seq :=
  (List.range 16).filterMap fun p => let m := colsAt ts p
    if m = 0#4 then none else some (Seq.fresh p p m pc now)

/-- Drawing a bin (R152): its threads become a group of declared width 64 in a free group context; `aged` for the event. -/
def State.drawBin (s : State) (i : Nat) (aged : Bool) : State := match s.live.bins.getD i none with
  | none => s
  | some b =>
    let fs := byColumn b.threads
    let ts := fs.map fun f => f.thread.redirect
    let u := match fs with
      | f :: _ => f.unif
      | [] => []
    let share := match s.team b.team with
      | some T => s.teamShare T
      | none => 0
    let g := s.freeGctx
    let G : Group := {
      gctx := g
      uid := s.nextUid
      share := share
      team := some b.team
      role := b.role
      index := s.freeIndex b.team b.role
      width := 64
      reformed := true
      level := b.level
      winb := b.winb
      unif := u
      masks := List.replicate 7 0#64
      threads := ts
      seqs := seqsOf ts b.pc s.now
      timer := 0
      timerPend := false
      own := FpCtx.zero
      sel := 0#10
      mx := ClassSeq.empty
      tc := ClassSeq.empty
      bk := ClassSeq.empty
      unret := []
      mig := none
      serving := none }
    let s1 := ({ s with
      nextUid := s.nextUid + 1
      live := { s.live with groups := s.live.groups ++ [G], bins := s.live.bins.set i none } } : State).inherit (fs.map (·.former)) G.uid
    s1.recGroup G 0x03 0x03 (i + ts.length * 2 ^ 5 + g * 2 ^ 12 + b.team * 2 ^ 23 + (if aged then 2 ^ 27 else 0))

/-- The filling bins of a context: whether it is the shadow's, the bin's number, and how long its oldest thread has waited by a cycle
of the context. -/
def Ctx.waits32 (x : Ctx) (shadow : Bool) (now : Nat) : List (Bool × Nat × Int) :=
  (List.range 32).filterMap fun i => (x.bins.getD i none).map fun b => (shadow, i, (now : Int) - b.oldest)

/-- The filling bin of the core with the oldest thread (R151, R377): whether it is the shadow's, and its number. Of bins whose oldest threads
have waited equally long, the live context's come before the shadow's, and then the lowest-numbered; the spec does not rank them (DESIGN
CHOICE, log entry 46). -/
def State.oldestBin (s : State) : Option (Bool × Nat) :=
  let all := s.live.waits32 false s.now ++ (match s.shadow with
    | some x => x.waits32 true x.left
    | none => [])
  (all.foldl (fun (best : Option (Bool × Nat × Int)) b => match best with
    | none => some b
    | some c => if c.2.2 < b.2.2 then some b else best) none).map fun b => (b.1, b.2.1)

/-- A bin of the core is EMPTY: neither context fills it (R151, R377). -/
def State.binEmpty (s : State) (i : Nat) : Bool :=
  (s.live.bins.getD i none).isNone && (match s.shadow with
    | some x => (x.bins.getD i none).isNone
    | none => true)

/-- A bin of the live context set. -/
def State.putBin (s : State) (i : Nat) (b : Bin) : State := { s with live := { s.live with bins := s.live.bins.set i (some b) } }

/-- The lowest-numbered EMPTY bin takes a key and a first thread. -/
def State.openBin (s : State) (b : Bin) : State := match (List.range 32).find? s.binEmpty with
  | some i => s.putBin i b
  | none => s

/-- A bin of either context drawn (R151). -/
def State.drawAny (s : State) (shadow : Bool) (i : Nat) : State :=
  if shadow then (s.exchange.drawBin i false).exchange else s.drawBin i false

/-- Filing one thread under its key (R151): a draw takes effect before the filing that caused it, and a bin of 64 threads
is drawn at once. -/
def State.file (s : State) (k role winb : Nat) (l : Level) (pc : BitVec 56) (f : Filed) : State :=
  let fresh : Bin := ⟨k, role, pc, winb, l, [f]⟩
  match (List.range 32).find? fun i => match s.live.bins.getD i none with
    | some b => b.hasKey k role pc winb l
    | none => false with
  | some i => match s.live.bins.getD i none with
    | some b =>
      if b.taken f.thread.col then (s.drawBin i false).putBin i fresh
      else
        let b1 := { b with threads := b.threads ++ [f] }
        let s1 := s.putBin i b1
        if 64 ≤ b1.threads.length then s1.drawBin i false else s1
    | none => s
  | none =>
    if (List.range 32).any s.binEmpty then s.openBin fresh
    else match s.oldestBin with
      | some (shadow, i) => (s.drawAny shadow i).openBin fresh
      | none => s

/-- The lanes of a mask in ascending column order. -/
def Group.byCol (G : Group) (m : BitVec 64) : List (Nat × Thread) :=
  (List.range 64).filterMap fun col => (G.lanes.find? fun l => m.getLsbD l && (match G.thread l with
    | some t => t.col == col
    | none => false)).bind fun l => (G.thread l).map fun t => (l, t)

/-- The lanes that file leave their group (R150): their threads go on living in the bins, with their registers, and leave nothing
behind that would hold their place (R125). -/
def Group.leave (G : Group) (m : BitVec 64) : Group :=
  { G with threads := G.threads.mapIdx fun l t => if m.getLsbD l then { t with live := false, regs := [] } else t }

/-- `reform` (R150). A filed thread keeps the uniform registers of its former group as they stand at the filing, for the draw that copies
them; the spec does not say whether a later change by that group counts (DESIGN CHOICE, log entry 46). -/
def execReform (a : BitVec 7) (s : State) : Out :=
  withUnit s fun c G =>
    let nm := if a = 124#7 then [] else [(a, 2)]
    let u := ctlUnit false nm
    if !u.prefixOk c then .next (s.trapUnit G c 0x01#8 0)
    else match G.team with
      | none => .next (s.trapUnit G c 0x01#8 0)
      | some k =>
        if G.width ≠ 64 ∨ G.level ≠ .U ∨ ((G.issuing c).any fun q => !q.stack.isEmpty || q.spill != 0) then
          .next (s.trapUnit G c 0x01#8 0)
        else if G.mig.isSome then .next (s.trapUnit G c 0x13#8 0)
        else match u.check G c with
          | some cause => .next (s.trapUnit G c cause 0)
          | none =>
            let lanes := lanesOf G (G.k0 c)
            let (flts, eats, w) := if a = 124#7 then (0#64, 0#64, none) else G.badTargets a.toNat lanes
            if w.isNone ∧ eats ≠ 0#64 then .next (s.consume G c eats)
            else
              let s0 := s.endEligible k
              let s1 := match w with
                | some e =>
                  let hit := laneMask 64 fun l => lanes.contains l && (match G.target a.toNat l with
                    | .flt f => f.cause == e.cause
                    | _ => false)
                  let ad := match lowest hit with
                    | some l => (pairVal (G.readWords l a.toNat 2)).toNat
                    | none => 0
                  s0.parkTargets G (G.issuing c) (flts ||| eats) ⟨e.cause, false, 0#8, ad, hit, 0, c.unitPc, c.word⟩
                | none => s0
              match s1.group c.gctx with
              | none => .next s1.endUnit
              | some H =>
                let running := (onceEach c.seqs).filter fun i => match H.seq i with
                  | some q => decide (q.st ≠ .trap)
                  | none => false
                let go := laneMask 64 fun l => !(flts ||| eats).getLsbD l && running.any fun i => match H.seq i with
                  | some q => H.activeIn q l
                  | none => false
                let next (l : Nat) : BitVec 56 := if a = 124#7 then c.pc + 4#56 else match G.target a.toNat l with
                  | .ok t => t
                  | _ => 0#56
                let s2 := s1.setGroup (H.leave go)
                let s3 := (H.byCol go).foldl (fun t p =>
                  t.file k G.role G.winb G.level (next p.1) ⟨p.2.redirect, G.unif, s.now, G.uid⟩) s2
                let gone (q : Seq) : Seq := { q with own := q.own &&& ~~~q.active, active := 0#4 }
                .next (((s3.applyQuads c running fun _ q => .pop (gone q)).endUnit).settleGroup c.gctx)

end Sys2Proof.Machine
end

