-- ==== Sys2Proof/Machine/Team.lean ====
section
/-! DEFINITION. Team synchronisation, the register pool and channels: majors 0x50 and 0x52 to 0x55, with the steps that grant
claims, find claim deadlocks and serve waiting channel operations (spec/07_cross_lane_and_team_instructions.md R163 to R180;
spec/06 R137). -/
namespace Sys2Proof.Machine

/-! ## Shared operations -/

/-- The unit's sequencers stand at an address and wait (R139). -/
def State.holdAt (s : State) (c : Cur) (pc : BitVec 56) (w : Wait) : State := match s.group c.gctx with
  | none => s.endUnit
  | some G =>
    let hold (q : Seq) : Seq := if c.seqs.contains q.id ∧ (q.st = .run ∨ q.st = .cwait) then
      { q with st := .run, pc := pc, wait := w, ready := s.now + 1 } else q
    (s.setGroup { G with seqs := G.seqs.map hold }).endUnit

/-- A word written to lanes of a group, or once to a uniform register (R14). -/
def Group.writeLanes (G : Group) (d : BitVec 7) (m : BitVec 64) (f : Nat → List PWord) : Group :=
  if isUnif d.toNat then match lowest m with
    | some l => G.writeUnif d.toNat (f l)
    | none => G
  else { G with threads := G.threads.mapIdx fun l t => if m.getLsbD l then t.writeWords G.winb d.toNat (f l) else t }

/-- The checks that the instructions of a team share: the prefix, a team, no migration, then the registers (R163, R176,
R478). -/
def teamChecks (u : Unit) (restricted : Bool) (c : Cur) (G : Group) : Option (BitVec 8) :=
  if !u.prefixOk c || (restricted && G.team.isNone) then some 0x01#8
  else if restricted && G.mig.isSome then some 0x13#8
  else u.check G c

/-- A collective of major 0x50. -/
def teamCollective (names : List (BitVec 7 × Nat)) (restricted : Bool) (s : State) (k : Cur → Group → State) : Out :=
  collective s fun c G => match teamChecks (ctlUnit false names) restricted c G with
    | some cause => .next (s.trapUnit G c cause 0)
    | none => .next (k c G)

/-- The group's team, for an instruction that has checked that there is one. -/
def State.teamOf (s : State) (G : Group) : Option Team := G.team.bind s.team

/-- The number of lanes of a mask. -/
def popc64 (m : BitVec 64) : Nat := ((List.range 64).filter fun l => m.getLsbD l).length

/-! ## Barriers (R164 to R167) -/

/-- An arrival at a slot by the issuing lanes, a release of what is visible to them, and the wait of `bar` (R165, R167). -/
def State.arrive (s : State) (c : Cur) (G : Group) (T : Team) (id cnt : Nat) (waits : Bool) : State :=
  let B := T.bar id
  if B.arrived ≠ 0 ∧ B.expect ≠ cnt then s.trapUnit G c 0x14#8 id
  else
    let n := popc64 (G.k0 c)
    let s1 := (s.setTeam { T with bars := T.bars.set id { B with arrived := B.arrived + n, expect := cnt } }).flow (s.laneIds G (G.k0 c))
      [.arrived T.uid id]
    let s2 := s1.recGroup G 0x03 0x01 (id + G.gctx * 2 ^ 4 + T.slot * 2 ^ 15 + n * 2 ^ 19)
    (s2.holdAt c (c.pc + 4#56) (if waits then .bar id B.phase else .none)).checkBar T.slot id

/-- `bar` (R165). -/
def execBar (cnt : BitVec 10) (i : BitVec 4) (s : State) : Out :=
  teamCollective [] true s fun c G => match s.teamOf G with
    | some T => s.arrive c G T i.toNat cnt.toNat true
    | none => s.endUnit

/-- `bara` (R165). -/
def execBara (cnt : BitVec 10) (i : BitVec 4) (s : State) : Out :=
  teamCollective [] true s fun c G => match s.teamOf G with
    | some T => s.arrive c G T i.toNat cnt.toNat false
    | none => s.endUnit

/-- The word that a uniform operand gives: that of the lowest lane of k0 (R22, R165). -/
def Group.lowWord (G : Group) (c : Cur) (a : BitVec 7) : PWord := match lowest (G.k0 c) with
  | some l => G.readWord l a.toNat
  | none => pzero

/-- `barw` (R165): waits for the phase that a ticket names; a poisoned ticket is consumed by every lane of k0. A phase found complete
gives what the arrivals of the completed phases have released (R167). -/
def execBarw (a : BitVec 7) (i : BitVec 4) (s : State) : Out :=
  teamCollective [(a, 1)] true s fun c G => match s.teamOf G with
    | none => s.endUnit
    | some T =>
      let w := G.lowWord c a
      let t : BitVec 16 := w.val.setWidth 16
      if w.poison then s.consume G c (G.k0 c)
      else if ticketDone (T.bar i.toNat).phase t then (s.flow [.passed T.uid i.toNat] (s.laneIds G (G.k0 c))).advance c
      else s.holdAt c (c.pc + 4#56) (.barw i.toNat t)

/-! ## Elect and window (R168, R169) -/

/-- `elect` (R168). -/
def execElect (k : BitVec 3) (s : State) : Out :=
  teamCollective [] false s fun c G =>
    let k0 := G.k0 c
    let old := G.masks.getD (k.toNat - 1) 0#64
    let bit : BitVec 64 := match lowest k0 with
      | some l => 1#64 <<< l
      | none => 0#64
    (s.setGroup (G.setMask k.toNat ((old &&& ~~~k0) ||| bit))).advance c

/-- `winb` (R169). -/
def execWinb (b : BitVec 5) (s : State) : Out :=
  collective s fun c G =>
    if !(ctlUnit false []).prefixOk c then .next (s.trapUnit G c 0x01#8 0)
    else if G.mig.isSome then .next (s.trapUnit G c 0x13#8 0)
    else .next ((s.setGroup { G with winb := 8 * b.toNat }).advance c)

/-! ## Early trigger (R137) -/

/-- The release of a `trig` (R137, R138): of the team's writes at its first, of the issuing group's at a later one. -/
def State.releaseTrigger (s : State) (G : Group) (k : Nat) : State := match s.team k with
  | none => s
  | some T =>
    if T.triggered then s.flow (s.allIds G) [.trigger T.grid] else s.flowFrom (AgentId.inTeam T.uid) [.trigger T.grid]

/-- `trig` (R137): a release, the end of the team's eligibility, and the first time the team's trigger, which releases what the whole team
has written (R138). -/
def execTrig (s : State) : Out :=
  withUnit s fun c G => match teamChecks (ctlUnit false []) true c G with
    | some cause => .next (s.trapUnit G c cause 0)
    | none => match G.team with
      | none => .next s.endUnit
      | some k => if G.k0 c = 0#64 then .next (s.advance c) else .next ((((s.releaseTrigger G k).endEligible k).markTriggered k).advance c)

/-! ## The register pool (R170 to R173) -/

/-- The allocations of a group's live threads, in registers. -/
def Group.allocs (G : Group) : List Nat := (G.threads.filter (·.live)).map fun t => t.regs.length

/-- Live threads of a group hold different allocations (R170). -/
def Group.uneven (G : Group) : Bool := match G.allocs with
  | [] => false
  | a :: r => r.any fun b => b != a

/-- `rclaim` (R171): the claim joins the queue, and the group waits at its unit until it is granted. -/
def execRclaim (n : BitVec 5) (s : State) : Out :=
  teamCollective [] true s fun c G =>
    if n = 0#5 ∨ G.uneven = true ∨ (G.allocs.any fun a => decide (256 < a + 8 * n.toNat)) = true then s.trapUnit G c 0x01#8 0
    else
      let s1 := s.holdAt c c.unitPc (.claim (8 * n.toNat))
      let claim : Claim := ⟨G.gctx, 8 * n.toNat, n.toNat * G.liveCount⟩
      ({ s1 with live := { s1.live with claims := s1.live.claims ++ [claim] } }).grantClaims

/-- A thread's top registers released. -/
def Thread.shrink (n : Nat) (t : Thread) : Thread := if t.live then { t with regs := t.regs.take (t.regs.length - n) } else t

/-- `rrel` (R172). -/
def execRrel (n : BitVec 5) (s : State) : Out :=
  teamCollective [] true s fun c G =>
    if n = 0#5 ∨ G.uneven = true ∨ (G.allocs.any fun a => decide (a < 8 * n.toNat + 8)) = true then s.trapUnit G c 0x01#8 0
    else ((s.setGroup { G with threads := G.threads.map (Thread.shrink (8 * n.toNat)) }).advance c).freeBlocks (n.toNat * G.liveCount)

/-- `CLAIM_GRANT` (R171): claims granted in queue order while the head's need is free. -/
def execClaimGrant (s : State) : Out := .next s.grantClaims

/-- A group is blocked (R173): every live quad waits in a claim, at a barrier, in a channel, or in CWAIT or JWAIT. -/
def Group.blocked (G : Group) : Bool := G.liveSeqs.all fun q => match q.st with
  | .cwait => true
  | .jwait => true
  | .run => (match q.wait with
    | .none => false
    | .engine => false
    | .stall => false
    | .home => false
    | .flags _ => false
    | _ => true)
  | _ => false

/-- A team is blocked. -/
def State.teamBlocked (s : State) (k : Nat) : Bool := !(s.teamGroups k).isEmpty && (s.teamGroups k).all Group.blocked

/-- The claims of a team leave the queue and trap at their `rclaim` (R173). -/
def State.trapClaims (s : State) (k : Nat) : State :=
  let mine := s.live.claims.filter fun c => match s.group c.gctx with
    | some G => G.team == some k
    | none => false
  let s1 := { s with live := { s.live with claims := s.live.claims.filter fun c => !(mine.any fun m => m.gctx == c.gctx) } }
  let s2 := mine.foldl (fun t cl => match t.group cl.gctx with
    | none => t
    | some G =>
      let qs := G.seqs.filter fun q => q.wait.isClaim
      let m := laneMask G.threads.length fun l => qs.any fun q => G.activeIn q l
      match qs with
      | [] => t
      | q :: _ => t.takeTrap G qs m false ⟨0x15#8, false, 0#8, 0, m, cl.n, q.pc, 0xA0DF0000#32 + BitVec.ofNat 32 (cl.n / 8)⟩) s1
  s2.grantClaims

/-- `CLAIM_DEADLOCK` (R173): a team that has stayed blocked for 65,536 live cycles, while the pool never rose. -/
def execClaimDeadlock (k : Nat) (s : State) : Out := match s.team k with
  | none => .next s
  | some T =>
    if 65536 ≤ T.blocked ∧ s.teamBlocked k = true ∧ (s.live.claims.any fun c => match s.group c.gctx with
        | some G => G.team == some k
        | none => false) = true then
      .next ((s.setTeam { T with blocked := 0 }).trapClaims k)
    else .next s

/-! ## Channels (R175 to R180) -/

/-- Where a channel operation goes: a channel of a resident team, a team whose context is not live, a team on another core, or a
team that has ended (R177). -/
inductive ChTarget where
  | here (slot ch : Nat)
  | away
  | elsewhere
  | ended
deriving DecidableEq, Repr

/-- The target of a channel number and a rank (R175, R177). -/
def State.chTarget (s : State) (T : Team) (ch rank : Nat) : ChTarget :=
  if ch < 48 then .here T.slot ch
  else match s.peer T rank with
    | .here k => .here k (ch - 48)
    | .away => .away
    | .elsewhere => .elsewhere
    | .ended => .ended

/-- A channel of a team on another core takes an entry now, or counts as full (R177): which of them is free (log entry 2). -/
def State.farRoom (s : State) : Bool × State := let (n, t) := s.choose
  (n % 2 == 1, t)

/-- A channel of a resident team. -/
def State.chan (s : State) (k j : Nat) : Option Chan := (s.team k).bind fun T => T.chans.getD j none

/-- The channel has a free slot. -/
def Chan.room (h : Chan) : Bool := decide (h.count < h.depth)

/-- An entry written at the tail of a channel with a free slot (R177): its words are bytes of the team's scratch, each written by the lane
that sends it (R175), and what is visible to the senders goes with the entry (R180). -/
def State.chPut (s : State) (k j : Nat) (e : List PWord) (by_ : Nat → AgentId) : State := match s.team k, s.chan k j with
  | some T, some h =>
    let i := (h.head + h.count) % h.depth
    let words : List (AgentId × Loc × List Byte) := (List.range 64).map fun l => (by_ l, Loc.scratch k (h.base + 256 * i + 4 * l), natLe 4 (e.getD l pzero).val.toNat)
    let h1 := { h with count := h.count + 1, poisons := h.poisons.set i (laneMask 64 fun l => (e.getD l pzero).poison) }
    let s1 := ((s.setTeam { T with chans := T.chans.set j (some h1) }).remember {} words).clearView (.entry T.uid j i)
    ({ s1 with scr := memWrite s1.scr (T.scrBase + h.base + 256 * i) (words.flatMap (·.2.2)) } : State).flow (words.map (·.1)) [.entry T.uid j i]
  | _, _ => s

/-- The lanes that send an entry: a lane that sends no word of its own leaves its place to the lowest lane that does. -/
def State.senders (s : State) (G : Group) (m : BitVec 64) (l : Nat) : AgentId :=
  (s.laneAgent G (if m.getLsbD l then l else (lowest m).getD 0)).id

/-- The entry at the head of a channel as a `recv` takes it: the slot's bytes as they are, with the poison bits of its
`send` (R175, R178). -/
def State.chHead (s : State) (T : Team) (h : Chan) : List PWord :=
  let a := T.scrBase + h.base + 256 * h.head
  (List.range 64).map fun l => ⟨BitVec.ofNat 32 (leNat (memRead s.scr (a + 4 * l) 4)), (h.poisons.getD h.head 0#64).getLsbD l⟩

/-- A channel without its head entry. -/
def Chan.pop (h : Chan) : Chan := { h with head := (h.head + 1) % h.depth, count := h.count - 1 }

/-- A `recv` served: its lanes take their words, and what was visible to the senders is visible to them (R178, R180, R226). -/
def State.chTake (s : State) (g : Nat) (d : BitVec 7) (m : BitVec 64) (k j : Nat) : State := match s.team k, s.chan k j, s.group g with
  | some T, some h, some G =>
    let e := s.chHead T h
    ((s.setTeam { T with chans := T.chans.set j (some h.pop) }).setGroup (G.writeLanes d m fun l => [e.getD l pzero])).flow
      [.entry T.uid j h.head] (s.laneIds G m)
  | _, _, _ => s

/-- The entry that the issuing lanes form (R177). -/
def Group.chEntry (G : Group) (c : Cur) (a : BitVec 7) : List PWord :=
  (List.range 64).map fun l => if (G.k0 c).getLsbD l then G.readWord l a.toNat else pzero

/-- The checks of a channel operation (R176): the channel must be declared, and the rank lie in the cluster. -/
def chChecks (s : State) (u : Unit) (ch rank : Nat) (c : Cur) (G : Group) : Option (BitVec 8) := match s.teamOf G with
  | none => some 0x01#8
  | some T =>
    if !u.prefixOk c || (T.chans.getD (if ch < 48 then ch else ch - 48) none).isNone || (48 ≤ ch && T.csize ≤ rank) then some 0x01#8
    else teamChecks u true c G

/-- A channel instruction: the checks, then its effect for the group's team. -/
def chUnit (names : List (BitVec 7 × Nat)) (ch rank : Nat) (s : State) (k : Cur → Group → Team → State) : Out :=
  withUnit s fun c G =>
    let u := ctlUnit false names
    match chChecks s u ch rank c G with
    | some cause => .next (s.trapUnit G c cause 0)
    | none => match s.teamOf G with
      | some T => .next (k c G T)
      | none => .next s.endUnit

/-- A send to another team ends the sender's eligibility (R372). -/
def State.sentFrom (s : State) (T : Team) (ch rank : Nat) : State :=
  if 48 ≤ ch ∧ rank ≠ T.crank then s.endEligible T.slot else s

/-- The channel operations wait in the order in which they began (R180). -/
def State.chWait (s : State) (c : Cur) (w : ChWait) : State :=
  let s1 := s.holdAt c c.unitPc .chan
  { s1 with live := { s1.live with waits := s1.live.waits ++ [w] } }

/-- `send` (R177): the entry is enqueued or discarded, with the status of d. -/
def execSend (ch : BitVec 6) (d a : BitVec 7) (r : BitVec 3) (s : State) : Out :=
  chUnit [(d, 1), (a, 1)] ch.toNat r.toNat s fun c G T =>
    let tgt := s.chTarget T ch.toNat r.toNat
    let (far, sf) := if tgt = .elsewhere then s.farRoom else (false, s)
    let s0 := sf.sentFrom T ch.toNat r.toNat
    let room : Option (Nat × Nat) := match tgt with
      | .here k j => if (s.chan k j).any Chan.room then some (k, j) else none
      | _ => none
    let s1 := match room with
      | some (k, j) => s0.chPut k j (G.chEntry c a) (s.senders G (G.k0 c))
      | none => s0
    let st : Word := if room.isSome || far then 1#32 else 0#32
    let s2 := if d = 124#7 then s1 else match s1.group G.gctx with
      | some H => s1.setGroup (H.writeLanes d (G.k0 c) fun _ => [clean st])
      | none => s1
    s2.advance c

/-- `sendw` (R177): waits for a free slot; to a team that has ended it completes at once. -/
def execSendw (ch : BitVec 6) (a : BitVec 7) (r : BitVec 3) (s : State) : Out :=
  chUnit [(a, 1)] ch.toNat r.toNat s fun c G T =>
    let s0 := s.sentFrom T ch.toNat r.toNat
    let wait := s0.chWait c ⟨G.gctx, T.slot, c.seqs, ch.toNat, r.toNat, 124#7, G.k0 c, some (G.chEntry c a)⟩
    match s.chTarget T ch.toNat r.toNat with
    | .ended => s0.advance c
    | .away => wait
    | .elsewhere => wait
    | .here k j => if (s.chan k j).any Chan.room then (s0.chPut k j (G.chEntry c a) (s.senders G (G.k0 c))).advance c else wait

/-- `recv` (R178): takes the head entry, or waits for one. -/
def execRecv (ch : BitVec 6) (d : BitVec 7) (s : State) : Out :=
  chUnit [(d, 1)] ch.toNat 0 s fun c G T =>
    if (s.chan T.slot ch.toNat).any fun h => decide (0 < h.count) then
      (s.chTake G.gctx d (G.k0 c) T.slot ch.toNat).advance c
    else s.chWait c ⟨G.gctx, T.slot, c.seqs, ch.toNat, 0, d, G.k0 c, none⟩

/-- `chq` (R179): the filled or the free count. -/
def execChq (ch : BitVec 6) (d : BitVec 7) (q : BitVec 1) (s : State) : Out :=
  chUnit [(d, 1)] ch.toNat 0 s fun c G T => match s.chan T.slot ch.toNat with
    | none => s.endUnit
    | some h =>
      let n := if q = 0#1 then h.count else h.depth - h.count
      (s.setGroup (G.writeLanes d (G.k0 c) fun _ => [clean (BitVec.ofNat 32 n)])).advance c

/-- The sequencers of a waiting channel operation go on after it. -/
def State.chDone (s : State) (w : ChWait) : State :=
  let s1 := { s with live := { s.live with waits := s.live.waits.filter fun v => v ≠ w } }
  match s1.group w.gctx with
  | none => s1
  | some G =>
    let go (q : Seq) : Seq := if w.seqs.contains q.id ∧ q.wait = .chan then
      { q with wait := .none, pc := q.pc + 4#56, ready := s.now + 1 } else q
    s1.setGroup { G with seqs := G.seqs.map go }

/-- The lanes that send the entry of a waiting `sendw`. -/
def State.waitSenders (s : State) (w : ChWait) (l : Nat) : AgentId := match s.group w.gctx with
  | some G => s.senders G w.lanes l
  | none => .handler 0 l

/-- A waiting operation is served when it can be (R180). -/
def State.chServe (s : State) (w : ChWait) : State := match s.team w.team with
  | none => s
  | some T => match w.entry, s.chTarget T w.ch w.rank with
    | some e, .here k j => if (s.chan k j).any Chan.room then (s.chPut k j e (s.waitSenders w)).chDone w else s
    | some _, .ended => s.chDone w
    | some _, .away => s
    | some _, .elsewhere => let (far, t) := s.farRoom
      if far then t.chDone w else t
    | none, .here k j => if (s.chan k j).any fun h => decide (0 < h.count) then (s.chTake w.gctx w.d w.lanes k j).chDone w else s
    | none, _ => s

/-- A cluster send from a team on another core arrives at a channel of a resident team (R180): what it holds is free, and an entry for
which no slot is free is not taken (R177; log entry 2). -/
def State.remoteSend (s : State) (k j : Nat) : State := match s.chan k j, s.team k with
  | some h, some T =>
    if h.room then
      let (n, t) := s.choose
      t.chPut k j ((List.range 64).map fun l => ⟨BitVec.ofNat 32 (n / 2 ^ (33 * l)), bitAt n (33 * l + 32)⟩)
        fun _ => .entry T.uid j ((h.head + h.count) % h.depth)
    else s
  | _, _ => s

/-- The waiting operation goes to a channel of a team. -/
def State.waitsOn (s : State) (w : ChWait) (k j : Nat) : Bool := match s.team w.team with
  | none => false
  | some T => decide (s.chTarget T w.ch w.rank = .here k j)

/-- `CHANNEL_WAIT_SERVED` (R180): the operations that wait on a channel, in the order in which they began to wait. -/
def execChannelWaitServed (team ch : Nat) (s : State) : Out :=
  .next ((s.live.waits.filter fun w => s.waitsOn w team ch).foldl State.chServe s)

/-- Every waiting operation, in the order in which they began to wait, at a cycle's start. -/
def State.serveWaits (s : State) : State := s.live.waits.foldl State.chServe s

end Sys2Proof.Machine
end

