-- ==== Sys2Proof/Machine/Access.lean ====
section
/-! DEFINITION. The shared operations of every memory access: a lane's address and the checks of R243, the place behind it,
reads and writes of that place with poison (R244), the waits of R196, R235 and R287, and what an access does besides
(spec/09_memory_hierarchy.md R191 to R217; spec/10_consistency_model.md R234, R235; spec/11_memory_instructions.md R242 to
R245). -/
namespace Sys2Proof.Machine

/-! ## Addresses (R242, R195, R243) -/

/-- A lane's effective address: a poisoned address word, a fault, or the address. -/
inductive Ea where
  | eat
  | flt (e : Flt)
  | ea (n : Nat)
deriving DecidableEq, Repr

/-- The effective address of a lane in a space (0 generic, 1 global, 2 scratch, 3 constant), with a byte displacement. -/
def Group.ea (G : Group) (sp a l : Nat) (disp : Int) : Ea :=
  if sp < 2 then
    let ws := G.readWords l a 2
    if anyPoison ws then .eat else .ea (pairVal ws + BitVec.ofInt 64 disp).toNat
  else
    let w := G.readWord l a
    let t : Int := (w.val.toNat : Int) + disp
    if w.poison then .eat
    else if 0 ≤ t ∧ t < 2 ^ 32 then .ea t.toNat else .flt (fltSpace (BitVec.ofInt 64 t).toNat)

/-- An access to the group's own scratch (R194): a handler group has none (R478). -/
def State.scratchRes (s : State) (G : Group) (ea off size : Nat) : Res := match s.teamOf G with
  | none => .flt (fltSpace ea)
  | some T => if T.scrSize < off + size then .flt (fltSpace ea) else .ok (.scratch T.slot off)

/-- An access to the scratch of a cluster peer (R195, R196). -/
def State.clusterRes (s : State) (G : Group) (ea rank off size : Nat) : Res := match s.teamOf G with
  | none => .flt (fltSpace ea)
  | some T =>
    if T.csize ≤ rank then .flt (fltSpace ea)
    else match s.peer T rank with
      | .here k => if T.scrSize < off + size then .flt (fltSpace ea) else .ok (.scratch k off)
      | .away => .wait
      | .elsewhere => if T.scrSize < off + size then .flt (fltSpace ea) else .ok (.peer off)
      | .ended => .flt (fltSpace ea)

/-- An access to the constant bank (R195, R197). -/
def State.constRes (s : State) (G : Group) (k : Acc) (ea off : Nat) : Res := match s.gridOf G with
  | none => .flt (fltSpace ea)
  | some g =>
    if 65536 ≤ off then .flt (fltSpace ea)
    else match k with
      | .load => .ok (.const g.id off)
      | _ => .flt (fltPerm ea)

/-- The enclave of a slot of this device. -/
def State.enclave (s : State) (slot : Nat) : Option Enclave := s.pkg.enclaves.find? fun e => e.slot == slot

/-- The enclaves with one replaced. -/
def State.setEnclave (s : State) (e : Enclave) : State :=
  { s with pkg := { s.pkg with enclaves := s.pkg.enclaves.map fun d => if d.slot = e.slot then e else d } }

/-- The enclave's keys change to those of the next epoch (R472): packets of the one before are accepted for a while. -/
def Enclave.rekey (e : Enclave) : Enclave := { e with epoch := e.epoch + 1#8, grace := true, counters := [] }

/-- A message is counted under the key of its direction (R470); before a counter passes 2^63 the keys change. -/
def Enclave.count (e : Enclave) (a b : Nat) : Enclave :=
  let n := ((e.counters.find? fun c => c.1 == a && c.2.1 == b).map (·.2.2)).getD 0
  if 2 ^ 63 ≤ n + 1 then { e.rekey with counters := [(a, b, 1)] }
  else { e with counters := (a, b, n + 1) :: e.counters.filter fun c => !(c.1 == a && c.2.1 == b) }

/-- The enclave that a function has joined (R467). -/
def State.enclaveOf (s : State) (f : Nat) : Option Enclave := s.pkg.enclaves.find? fun e => e.members.any fun p => p.2 == f

/-- The page that an IA names in an enclave on this device (R467): the participant's function, and the leaf that its own stage 2 gives; none
when the participant is missing or revoked, or the page is not there. -/
def State.enclavePage (s : State) (e : Enclave) (ia : Nat) : Option (Nat × Leaf2) :=
  match e.members.find? fun p => p.1 == ia / 2 ^ 42 % 64 && !e.revoked.contains p.1 with
  | none => none
  | some p => match stage2 s p.2 (ia % 2 ^ 42) with
    | .error _ => none
    | .ok l => if l.nr then none else some (p.2, l)

/-- The place that an IA names in an enclave on this device to an access (R467): none, too, where the stage 2 does not permit the access, an
atomic to host memory among them (R463), and in a halted slice, which no bank unit serves (R458). -/
def State.enclaveLoc (s : State) (e : Enclave) (ia : Nat) (k : Acc) : Option Loc :=
  match s.enclavePage e ia with
  | none => none
  | some (f, l) =>
    let a := l.base + ia % 4096
    if (s.slice f).halted || (decide (k ≠ .load) && (!l.w || (f == 0 && frozenFor s k a))) || (l.host && decide (k = .atomic)) then none
    else some (if l.host then .host a else .dram f a)

/-- Where this device serves a remote access to itself (R467): the participant that the IA names, through its own stage 2;
none when the participant is missing or revoked, or its stage 2 faults. -/
def remoteHere (s : State) (f ia : Nat) (k : Acc) : Option Loc := ((s.enclaveOf f).bind fun e => s.enclaveLoc e ia k).map Loc.toVia

/-- A port of the routing table's masks for a device is up (R465, R466). -/
def State.linked (s : State) (dev : Nat) : Bool := match s.pkg.routes.find? fun r => r.1 == dev with
  | some r => (List.range 18).any fun i => (r.2.1 ||| r.2.2).getLsbD i && ((s.pkg.ports[i]?).any fun (p : Port) => p.up)
  | none => false

/-- The place names a revoked participant of the function's enclave, or one that the enclave does not have (R467, R471). -/
def State.absentLoc (s : State) : Loc → Bool
  | .remote f _ ia => (s.enclaveOf f).any fun e => e.revoked.contains (ia / 2 ^ 42 % 64) || decide (e.n ≤ ia / 2 ^ 42 % 64)
  | _ => false

/-- A request to a place of another device crosses a port, and counts as a message to that device (R470). -/
def State.sendTo (s : State) : Loc → State
  | .remote f dev _ => if dev = s.pkg.device then s else match s.enclaveOf f with
    | some e => s.setEnclave (e.count s.pkg.device dev)
    | none => s
  | _ => s

/-- The place names a revoked participant of the function's enclave (R471). -/
def State.revokedLoc (s : State) : Loc → Bool
  | .remote f _ ia => (s.enclaveOf f).any fun e => e.revoked.contains (ia / 2 ^ 42 % 64)
  | _ => false

/-- An access in a space at an effective address, without the alignment check (R195 to R201, R243). -/
def State.spaceRes (s : State) (G : Group) (k : Acc) (sp ea size : Nat) : Res × State :=
  let tag := ea / 2 ^ 56
  let off := ea % 2 ^ 24
  match sp with
  | 0 =>
    if tag = 0 then globalRes s (s.view G) k ea
    else if tag = 0xFE ∧ ea % 2 ^ 56 / 2 ^ 24 = 0 then
      (if G.mig.isSome then .flt (fltMig ea) else s.scratchRes G ea off size, s)
    else if tag = 0xFD ∧ ea % 2 ^ 56 / 2 ^ 27 = 0 then
      (if G.mig.isSome then .flt (fltMig ea) else s.clusterRes G ea (ea / 2 ^ 24 % 8) off size, s)
    else if tag = 0xFC ∧ ea % 2 ^ 56 / 2 ^ 16 = 0 then (s.constRes G k ea (ea % 2 ^ 16), s)
    else (.flt (fltSpace ea), s)
  | 1 => if tag = 0 then globalRes s (s.view G) k ea else (.flt (fltSpace ea), s)
  | 2 => (s.scratchRes G ea ea size, s)
  | _ => (s.constRes G k ea ea, s)

/-- What a lane's access comes to before it is performed: a poisoned operand, a fault, a wait, with the reads of its table walk that banks
hold, or a place. -/
inductive LaneAt where
  | eat
  | flt (e : Flt)
  | wait (reqs : List (Nat × Nat × Bool))
  | at (ea : Nat) (l : Loc)
deriving DecidableEq, Repr

/-- The checks of R243 for one access, in their order, ending with alignment. A remote leaf that names this device leads to
the participant's memory (R467). -/
def State.locate (s : State) (G : Group) (k : Acc) (sp size align : Nat) (e : Ea) : LaneAt × State := match e with
  | .eat => (.eat, s)
  | .flt e => (.flt e, s)
  | .ea a => match (if sp < 2 ∧ a / 2 ^ 56 = 0 then s.walkReqs (s.holder G) (s.view G) a else []) with
   | r :: rs => (.wait (r :: rs), s)
   | [] => match s.spaceRes G k sp a size with
    | (.flt e, s1) => (.flt e, s1)
    | (.wait, s1) => (.wait [], s1)
    | (.ok l, s1) =>
      if a % align ≠ 0 then (.flt (fltAlign a), s1)
      else match l with
        | .remote f dev ia =>
          if dev = s1.pkg.device then (.at a ((remoteHere s1 f ia k).getD (.remote f dev ia)), s1) else (.at a l, s1)
        | _ => (.at a l, s1)

/-- The access waits before it has a place. -/
def LaneAt.waits : LaneAt → Bool
  | .wait _ => true
  | _ => false

/-- The reads of its table walk that banks hold. -/
def LaneAt.walkHeld : LaneAt → List (Nat × Nat × Bool)
  | .wait r => r
  | _ => []

/-- The accesses of several lanes located in ascending order. -/
def State.locateAll (s : State) (G : Group) (k : Acc) (sp size align : Nat) : List (Nat × Ea) → List (Nat × LaneAt) × State
  | [] => ([], s)
  | (l, e) :: r =>
    let (x, s1) := s.locate G k sp size align e
    let (xs, s2) := s1.locateAll G k sp size align r
    ((l, x) :: xs, s2)

/-! ## Reading and writing a place -/

/-- A CRC group, the eight beats of 32 bits that carry 32 bytes (R2, R214), lies in part in a range. -/
def groupIn (f spa n b : Nat) : Bool := decide (dramKey f spa / 32 ≤ b) && decide (b ≤ (dramKey f spa + n - 1) / 32)

/-- A transfer of one of the CRC groups of a range arrives poisoned (R214). -/
def State.linkHit (s : State) (f spa n : Nat) : Bool := s.paths.linkBad.any (groupIn f spa n)

/-- A read of host memory that comes too late (R463). -/
def State.hostHit (s : State) (a n : Nat) : Bool := s.paths.hostLate.any fun b => decide (a ≤ b) && decide (b < a + n)

/-- The bytes that a place gives to a read that agents make together, with their poison (R217, R221, R224, R244, R463, R467): no agent stands
for a read of the newest values; a place of another device, and a remote access that fails, give free bytes, poisoned in the second
case. -/
def State.readAt (s : State) (Xs : List AgentId) (l : Loc) (ea n : Nat) : List Byte × Bool := match l.base with
  | .dram f spa =>
    let r := s.visible Xs (dramKey f spa) (spaRead s f spa n) (spaPoisonRange s f spa n)
    (r.1, r.2 || s.linkHit f spa n)
  | .scratch slot off => s.visible Xs (2 ^ 60 + s.scrAddr slot off) (memRead s.scr (s.scrAddr slot off) n) false
  | .const g off => (match s.grid g with
    | some x => memRead x.const off n
    | none => List.replicate n 0#8, false)
  | .block p => ((List.range n).map fun i => BitVec.ofNat 8 (p.toNat / 2 ^ (8 * ((ea + i) % 4))), false)
  | .host a => s.visible Xs (2 ^ 61 + a) (memRead s.host a n) (s.hostHit a n)
  | .remote _ dev ia =>
    ((List.range n).map fun i => Config.remoteByte s.free dev (ia + i),
      dev == s.pkg.device || !s.linked dev || s.absentLoc l.base || Config.remoteBad s.free dev (ia / 16))
  | .peer off => ((List.range n).map fun i => Config.remoteByte s.free (2 ^ 32) (off + i), false)
  | .via _ _ _ => ([], false)

/-- Reading a place changes something besides: it takes a free choice, ends a late transfer, makes writes visible, or meets a release. -/
def State.readOpen (s : State) (Xs : List AgentId) (l : Loc) (n : Nat) : Bool :=
  (match l.base with
    | .dram f spa => s.linkHit f spa n
    | .host a => s.hostHit a n
    | .remote _ _ _ => true
    | .peer _ => true
    | _ => false)
  || (match s.keyOf l with
    | some k => !Xs.isEmpty && s.paths.olds.any fun e => e.meets k n && (Xs.any (fun x => !e.seenBy x) || !e.rels.isEmpty)
    | none => false)

/-- What a read leaves behind beside the transfers: what its agents have read they never read older again (R224), and the releases of the
writes read stand for their next acquire fence (R227). -/
def State.noteRead (s : State) (p : Paths) (r : List AgentId × Loc × Nat) : Paths := match s.keyOf r.2.1 with
  | none => p
  | some k =>
    let rels := s.readRels r.1 k r.2.2
    r.1.foldl (fun q x => q.note x rels) { p with olds := s.settleRange r.1 p.olds k r.2.2 }

/-- What reads, each by its agents, leave behind: what they have read counts, transfers that came late or poisoned are over, and a free choice
has been used. -/
def State.afterReads (s : State) (ps : List (List AgentId × Loc × Nat)) : State :=
  if ps.any fun p => s.readOpen p.1 p.2.1 p.2.2 then
    let late (b : Nat) : Bool := ps.any fun p => match p.2.1.base with
      | .host a => decide (a ≤ b) && decide (b < a + p.2.2)
      | _ => false
    let bad (b : Nat) : Bool := ps.any fun p => match p.2.1.base with
      | .dram f spa => groupIn f spa p.2.2 b
      | _ => false
    let q := ps.foldl s.noteRead s.paths
    { s with
      free := s.free + 1
      paths := { q with
        hostLate := q.hostLate.filter fun b => !late b
        linkBad := q.linkBad.filter fun b => !bad b } }
  else s

/-- One read of a place that agents make together. -/
def State.readLoc (s : State) (Xs : List AgentId) (l : Loc) (ea n : Nat) : List Byte × Bool × State :=
  let r := s.readAt Xs l ea n
  (r.1, r.2, s.afterReads [(Xs, l, n)])

/-- A lane store to scratch leaves the old words visible to engine reads until a `fence.or` covers it (R234). -/
def State.oldScratch (s : State) (off n : Nat) : State :=
  let words := (List.range ((off % 4 + n + 3) / 4)).map fun i => off / 4 * 4 + 4 * i
  let olds := words.map fun a => ScrOld.mk a (BitVec.ofNat 32 (leNat (memRead s.scr a 4))) []
  { s with paths := { s.paths with scrOld := olds ++ s.paths.scrOld } }

/-- The store of one unit: every lane's bytes, in ascending lane order, so that the highest lane wins; what falls into one
slice's memory is one request list (R192, R214, R248). Bytes for another device or another core leave the model. -/
def State.writeLocs (s : State) (ws : List (Loc × List Byte)) : State :=
  let fs := (ws.filterMap fun p => match p.1.base with
    | .dram f _ => some f
    | _ => none).dedup
  let s1 := fs.foldl (fun t f => spaWrites t f (ws.flatMap fun p => match p.1.base with
    | .dram g spa => if g = f then (List.range p.2.length).map fun i => (spa + i, p.2.getD i 0#8) else []
    | _ => [])) s
  ws.foldl (fun t p => match p.1.base with
    | .scratch slot off =>
      let a := t.scrAddr slot off
      let t1 := t.oldScratch a p.2.length
      { t1 with scr := memWrite t1.scr a p.2 }
    | .host a => { t with host := memWrite t.host a p.2 }
    | _ => t) s1

/-- Writes, each made by its agent: what they replace may still be read by others (R224). -/
def State.writeBy (s : State) (kind : WriteKind) (ws : List (AgentId × Loc × List Byte)) : State := (s.remember kind ws).writeLocs (ws.map (·.2))

/-! ## Engine ranges (R235) -/

/-- The scratch ranges that the operations in flight have registered: core-physical start and end, and whether they are
write ranges. -/
def State.engineRanges (s : State) : List (Nat × Nat × Bool) :=
  (s.mx.ops.flatMap fun o => o.ranges) ++ s.tcs.flatMap fun o => o.ranges

/-- A lane access to scratch stalls: a store or atomic that meets a range, a load that meets a write range. -/
def State.rangeStall (s : State) (k : Acc) (slot off n : Nat) : Bool :=
  let a := s.scrAddr slot off
  s.engineRanges.any fun r => decide (a < r.2.1) && decide (r.1 < a + n) && (r.2.2 || decide (k ≠ .load))

/-! ## A unit's accesses -/

/-- The places that the lanes of a unit reach. -/
def placed (xs : List (Nat × LaneAt)) : List (Nat × Nat × Loc) := xs.filterMap fun p => match p.2 with
  | .at ea l => some (p.1, ea, l)
  | _ => none

/-- A request to DRAM (R207): the slice, the physical address, a multiple of the grain, and the grain in bytes. -/
structure Req where
  f : Nat
  spa : Nat
  grain : Nat
deriving DecidableEq, Repr

/-- The caches may serve the request, so that it reaches no bank: a read, or a store of a whole line (R209). -/
def Req.cacheable (r : Req) (k : Acc) : Bool := decide (k = .load) || (decide (k = .store) && r.grain == 128)

/-- A number put into an ascending list, once. -/
def insertAsc (n : Nat) : List Nat → List Nat
  | [] => [n]
  | m :: ms => if n < m then n :: m :: ms else if n = m then m :: ms else m :: insertAsc n ms

/-- The smallest grain with which two bytes of a block fall into one request (R207). -/
def grainOf (lo hi : Nat) : Nat := if lo / 16 = hi / 16 then 16 else if lo / 32 = hi / 32 then 32 else if lo / 64 = hi / 64 then 64 else 128

/-- The DRAM requests of a unit whose accesses have a size (R207): one for each 128-byte block that they touch, in ascending address
order, of the smallest grain that holds the bytes touched. -/
def dramReqs (size : Nat) (ps : List (Nat × Nat × Loc)) : List Req :=
  let at_ := ps.filterMap fun p => match p.2.2.base with
    | .dram f spa => some (dramKey f spa)
    | _ => none
  let ends := at_.flatMap fun a => [a, a + size - 1]
  (ends.foldl (fun l a => insertAsc (a / 128) l) []).map fun b =>
    let mine := (at_.filter fun a => a / 128 == b || (a + size - 1) / 128 == b)
    let lo := mine.foldl (fun m a => min m (max a (128 * b))) (128 * b + 127)
    let hi := mine.foldl (fun m a => max m (min (a + size - 1) (128 * b + 127))) 0
    let g := grainOf lo hi
    ⟨b * 128 / 2 ^ 40, lo / g * g % 2 ^ 40, g⟩

/-- A place in another device's memory. -/
def Loc.far : Loc → Bool
  | .remote _ _ _ => true
  | _ => false

/-- The unit stays at its address and tries again (R139). -/
def State.retryUnit (s : State) (c : Cur) (w : Wait) : State := s.holdAt c c.unitPc w

/-- A unit's accesses must wait, and the state in which it does: a cluster peer that is away (R196), a registered range
(R235), a row of a busy bank (R287), or a slot (R422, R423): a migrated group from its drain point on, and an atomic, which is performed
at its bank, always. Host memory that the port does not reach now is waited for, but a read whose completion is known not to come in time is
performed (R463, R464). -/
def State.accessWaits (s : State) (c : Cur) (G : Group) (k : Acc) (size : Nat) (xs : List (Nat × LaneAt)) : Option State :=
  let ps := placed xs
  let reqs := dramReqs size ps
  let who := s.holder G
  if xs.any fun p => p.2.waits then
    some ((s.holdReqs who (xs.flatMap fun p => p.2.walkHeld)).retryUnit c .engine)
  else if ps.any fun p => match p.2.2 with
      | .scratch slot off => s.rangeStall k slot off size
      | _ => false then some (s.retryUnit c .stall)
  else if s.portStopped (s.fOf G) && ps.any fun p => match p.2.2 with
      | .host a => !(decide (k = .load) && s.hostHit a size)
      | _ => false then some (s.retryUnit c .engine)
  else if (G.mig.any fun m => s.drainedOn (4 + m.stack)) = true ∧ (reqs ≠ [] ∨ (ps.any fun p => p.2.2.far) = true) then
    some (s.retryUnit c .engine)
  else if reqs.any fun p => s.accessHolds who p.f p.spa (p.cacheable k) || (decide (k = .atomic) && s.inSlotOn (4 + s.stackOf p.f p.spa)) then
    some ((s.holdReqs who (reqs.map fun p => (p.f, p.spa, decide (k ≠ .load)))).retryUnit c .engine)
  else none

/-- The poisoned 16-byte blocks that accesses reach, with their slices; a store, which reads nothing, meets a row whose tag failed alone
(R213, R215). -/
def State.badBlocks (s : State) (k : Acc) (size : Nat) (ps : List (Nat × Nat × Loc)) : List (Nat × Nat) :=
  (ps.flatMap fun p => match p.2.2.base with
    | .dram f spa => ((List.range ((spa % 16 + size + 15) / 16)).map fun i => (f, spa / 16 * 16 + 16 * i)).filter fun b =>
      if k = .store then s.rowBad.contains (spaRow b.1 (s.slice b.1) b.2).1 else spaPoison s b.1 b.2
    | _ => []).dedup

/-- Reads of poisoned blocks by a function have reached their banks (R376). -/
def State.sawPoison (s : State) (f : Nat) (bs : List (Nat × Nat)) : State :=
  if bs.isEmpty then s
  else { s with paths := { s.paths with reads := s.paths.reads ++ (bs.map fun p => (f, p.2 / 16)).filter fun r => !s.paths.reads.contains r } }

/-- What accesses of a size performed do besides: they are served at busy banks, poisoned reads count and are recorded, and they end
the eligibility of the teams that R240 and R245 name: a store or atomic of the lanes outside the own scratch, an access to another
slice's memory or through a remote leaf, and a store or atomic by a cluster address, whichever team it names. A store or atomic sent to
another device waits for its acknowledgement (R468), and every request to one counts as a message (R470). -/
def State.accessed (s : State) (G : Group) (k : Acc) (size : Nat) (ps : List (Nat × Nat × Loc)) : State :=
  let asid := s.asidOf G
  let s1 := (dramReqs size ps).foldl (fun t p => t.bankServe p.f p.spa (decide (k ≠ .load))) (s.unhold (s.holder G))
  let bad := s.badBlocks k size ps
  let s2 := (bad.foldl (fun t p => t.noteBad asid p.1 p.2) s1).sawPoison (s.fOf G) (if k = .store then [] else bad)
  let peers := (ps.filterMap fun p => match p.2.2 with
    | .scratch slot _ => if G.team = some slot then none else some slot
    | _ => none).dedup
  let s3 := peers.foldl State.endEligible s2
  let ends := ps.any fun p => match p.2.2 with
    | .scratch slot _ => decide (k = .atomic) || (decide (k = .store) && (decide (G.team ≠ some slot) || p.2.1 / 2 ^ 56 == 0xFD))
    | .remote _ _ _ => true
    | .via _ _ _ => true
    | _ => decide (k ≠ .load)
  let remote := ps.any fun p => match p.2.2 with
    | .dram f _ => f != s.fOf G
    | _ => false
  let sent := ps.filterMap fun p => match p.2.2 with
    | .remote _ _ _ => if k = .load then none else some (s.laneAgent G p.1).id
    | _ => none
  let s4 := ps.foldl (fun t p => t.sendTo p.2.2) (if sent.isEmpty then s3 else { s3 with paths := { s3.paths with unacked := (sent ++ s3.paths.unacked).dedup } })
  match G.team with
  | some t => if ends || remote then s4.endEligible t else s4
  | none => s4

/-- A lane's outcome when its access is not performed. -/
def LaneAt.out : LaneAt → Option LaneOut
  | .eat => some .consume
  | .flt e => some (.flt e)
  | _ => none

/-- The lanes of a unit that park when some lane faults; they perform no access (R147, R243). -/
def State.parking (s : State) (G : Group) (c : Cur) (xs : List (Nat × LaneAt)) : BitVec 64 :=
  if xs.any fun p => match p.2 with
    | .flt _ => true
    | _ => false then
    parkPlan G (laneMask 64 fun l => xs.any fun p => p.1 == l && p.2.out.isSome) (G.issuing c) (64 - s.fragsUsed)
  else 0#64

/-- Where link CRC has failed for a part of a request, the whole transfer arrives poisoned (R207, R214). -/
def State.spreadLink (s : State) (reqs : List Req) : State :=
  if s.paths.linkBad.isEmpty then s
  else
    let hit := reqs.filter fun r => s.linkHit r.f r.spa r.grain
    { s with paths := { s.paths with linkBad := s.paths.linkBad ++ hit.flatMap fun r => (List.range ((r.spa % 32 + r.grain + 31) / 32)).map (dramKey r.f r.spa / 32 + ·) } }

/-- The transfers of requests are over. -/
def State.clearLink (s : State) (reqs : List Req) : State :=
  if s.paths.linkBad.isEmpty then s
  else { s with paths := { s.paths with linkBad := s.paths.linkBad.filter fun b => !reqs.any fun r => groupIn r.f r.spa r.grain b } }

/-- A memory unit after its lanes have been located: it waits, or its accesses are performed by `act`, which answers for the
lanes that reach a place, and it retires (R243). -/
def State.memUnit (s : State) (c : Cur) (G : Group) (u : Unit) (d : Dst) (k : Acc) (size : Nat) (xs : List (Nat × LaneAt))
    (act : State → List (Nat × Nat × Loc) → List (Nat × LaneOut) × State) : State :=
  match s.accessWaits c G k size xs with
  | some t => t
  | none =>
    let ps := (placed xs).filter fun p => !(s.parking G c xs).getLsbD p.1
    let reqs := if k = .store then [] else dramReqs size ps
    let (outs, s1) := act (s.spreadLink reqs) ps
    let s2 := if ps.isEmpty then s1 else (s1.clearLink reqs).accessed G k size ps
    s2.retire G c u d (decide (k ≠ .load)) ((xs.filterMap fun p => p.2.out.map fun o => (p.1, o)) ++ outs)

/-- The checks of a memory unit (R28, R243): prefix, the migration restriction that the encoding shows, registers. -/
def memChecks (u : Unit) (sp : Nat) (c : Cur) (G : Group) : Option (BitVec 8) :=
  if !u.prefixOk c then some 0x01#8
  else if sp = 2 ∧ G.mig.isSome then some 0x13#8
  else u.check G c

/-- The address register of a space: a pair, or one word (R242). -/
def addrName (sp : Nat) (a : BitVec 7) : BitVec 7 × Nat := (a, if sp < 2 then 2 else 1)

end Sys2Proof.Machine
end

