-- ==== Sys2Proof/Machine/Memory.lean ====
section
/-! DEFINITION. Loads, stores, `ldg` and `pref`: majors 0x58 to 0x5F, 0x64 and 0x65
(spec/11_memory_instructions.md R242 to R250). -/
namespace Sys2Proof.Machine

/-- The words that loaded bytes give to a destination: narrow values extended to one word, wider ones word by word, each with
the poison of its bytes (R244, R247). -/
def loadWords (size : Nat) (signed : Bool) (bs : List Byte) (p : Bool) : List PWord :=
  if size < 4 then
    let v := leNat bs
    [⟨if signed then (BitVec.ofNat (8 * size) v).signExtend 32 else BitVec.ofNat 32 v, p⟩]
  else (List.range (size / 4)).map fun i => ⟨BitVec.ofNat 32 (leNat ((bs.drop (4 * i)).take 4)), p⟩

/-- The lanes of a load that read the place of one of them: they make the read together. -/
def State.readers (s : State) (G : Group) (ps : List (Nat × Nat × Loc)) (l : Loc) : List AgentId :=
  (ps.filter fun q => decide (q.2.2 = l)).map fun q => (s.laneAgent G q.1).id

/-- The reads of a load's lanes, all of one state; lanes that read one place receive one value (R221). -/
def loadLanes (size : Nat) (signed : Bool) (G : Group) (ps : List (Nat × Nat × Loc)) (s : State) : List (Nat × LaneOut) × State :=
  (ps.map fun p =>
    let r := s.readAt (s.readers G ps p.2.2) p.2.2 p.2.1 size
    (p.1, LaneOut.ok (loadWords size signed r.1 r.2) 0#5),
    s.afterReads (ps.map fun p => (s.readers G ps p.2.2, p.2.2, size)))

/-- A load (R247): size bytes in each run lane, at the register address plus the offset in units of the size. -/
def loadUnit (sp size : Nat) (signed : Bool) (d a : BitVec 7) (off : Int) (s : State) : Out :=
  withUnit s fun c G =>
    let n := if size < 4 then 1 else size / 4
    let u : Unit := { latch := false, names := [(d, n), addrName sp a] }
    match memChecks u sp c G with
    | some cause => .next (s.trapUnit G c cause 0)
    | none =>
      let eas := (lanesOf G (u.run G c)).map fun l => (l, G.ea sp a.toNat l (off * size))
      let (xs, s1) := s.locateAll G .load sp size size eas
      .next (s1.memUnit c G u (.regs d n) .load size xs fun t ps => loadLanes size signed G ps t)

/-- `ld.b` (R246, R247). -/
def execLdB (s _p : BitVec 2) (d a : BitVec 7) (o : BitVec 5) (t : State) : Out := loadUnit s.toNat 1 false d a o.toInt t
/-- `ld.h` (R246, R247). -/
def execLdH (s _p : BitVec 2) (d a : BitVec 7) (o : BitVec 5) (t : State) : Out := loadUnit s.toNat 2 false d a o.toInt t
/-- `lds.b` (R246, R247). -/
def execLdsB (s _p : BitVec 2) (d a : BitVec 7) (o : BitVec 5) (t : State) : Out := loadUnit s.toNat 1 true d a o.toInt t
/-- `lds.h` (R246, R247). -/
def execLdsH (s _p : BitVec 2) (d a : BitVec 7) (o : BitVec 5) (t : State) : Out := loadUnit s.toNat 2 true d a o.toInt t
/-- `ld.w` (R246, R247). -/
def execLdW (s _p : BitVec 2) (d a : BitVec 7) (o : BitVec 7) (t : State) : Out := loadUnit s.toNat 4 false d a o.toInt t
/-- `ld.d` (R246, R247). -/
def execLdD (s _p : BitVec 2) (d a : BitVec 7) (o : BitVec 7) (t : State) : Out := loadUnit s.toNat 8 false d a o.toInt t
/-- `ld.q` (R246, R247). -/
def execLdQ (s _p : BitVec 2) (d a : BitVec 7) (o : BitVec 7) (t : State) : Out := loadUnit s.toNat 16 false d a o.toInt t

/-- The bytes that a lane stores: the low bytes of its source words (R248). -/
def storeBytes (size : Nat) (ws : List PWord) : List Byte := (ws.flatMap fun w => natLe 4 w.val.toNat).take size

/-- A store that the other side never acknowledges: a remote access to this device that fails, to a device that no
port reaches, or to a participant that is missing or revoked (R467, R468, R471). -/
def Loc.lost (s : State) : Loc → Bool
  | .remote f dev ia => dev == s.pkg.device || !s.linked dev || s.absentLoc (.remote f dev ia)
  | _ => false

/-- The writes of a store's lanes, as one unit. -/
def storeLanes (size : Nat) (G : Group) (d : Nat) (n : Nat) (ps : List (Nat × Nat × Loc)) (s : State) :
    List (Nat × LaneOut) × State :=
  (ps.map fun p => (p.1, if p.2.2.lost s then LaneOut.consume else .ok [] 0#5),
    s.writeBy {} (ps.map fun p => ((s.laneAgent G p.1).id, p.2.2, storeBytes size (G.readWords p.1 d n))))

/-- A lane whose access would be performed but whose data is poisoned (R243, rank 7). -/
def LaneAt.orEat (bad : Bool) : LaneAt → LaneAt
  | .at ea l => if bad then .eat else .at ea l
  | x => x

/-- A store (R248): size bytes of its source in each run lane; of lanes that write one byte the highest wins (R192). -/
def storeUnit (sp size : Nat) (d a : BitVec 7) (off : Int) (s : State) : Out :=
  withUnit s fun c G =>
    let n := if size < 4 then 1 else size / 4
    let u : Unit := { latch := false, zm := false, names := [(d, n), addrName sp a] }
    match memChecks u sp c G with
    | some cause => .next (s.trapUnit G c cause 0)
    | none =>
      let eas := (lanesOf G (u.run G c)).map fun l => (l, G.ea sp a.toNat l (off * size))
      let (xs, s1) := s.locateAll G .store sp size size eas
      let ys := xs.map fun p => (p.1, p.2.orEat (anyPoison (G.readWords p.1 d.toNat n)))
      .next (s1.memUnit c G u .none .store size ys fun t ps => storeLanes size G d.toNat n ps t)

/-- `st.b` (R246, R248). -/
def execStB (s _p : BitVec 2) (d a : BitVec 7) (o : BitVec 6) (t : State) : Out := storeUnit s.toNat 1 d a o.toInt t
/-- `st.h` (R246, R248). -/
def execStH (s _p : BitVec 2) (d a : BitVec 7) (o : BitVec 6) (t : State) : Out := storeUnit s.toNat 2 d a o.toInt t
/-- `st.w` (R246, R248). -/
def execStW (s _p : BitVec 2) (d a : BitVec 7) (o : BitVec 7) (t : State) : Out := storeUnit s.toNat 4 d a o.toInt t
/-- `st.d` (R246, R248). -/
def execStD (s _p : BitVec 2) (d a : BitVec 7) (o : BitVec 7) (t : State) : Out := storeUnit s.toNat 8 d a o.toInt t
/-- `st.q` (R246, R248). -/
def execStQ (s _p : BitVec 2) (d a : BitVec 7) (o : BitVec 7) (t : State) : Out := storeUnit s.toNat 16 d a o.toInt t

/-- A fault of an operand that the whole issue shares parks every lane of k0 as one fragment (R249, R257, R328). -/
def State.faultAll (s : State) (G : Group) (c : Cur) (e : Flt) (write : Bool) : State :=
  (s.takeTrap G (G.issuing c) (G.k0 c) false ⟨e.cause, e.stage2, e.info write, e.addr, G.k0 c, 0, c.unitPc, c.word⟩).endUnit

/-- `ldg` (R249): one word into a uniform register, at the address of the lowest lane of k0; its checks are made once. -/
def execLdg (sp _p : BitVec 2) (d a : BitVec 7) (o : BitVec 7) (s : State) : Out :=
  withUnit s fun c G =>
    let u : Unit := { pfx := false, latch := false, names := [addrName sp.toNat a] }
    match memChecks u sp.toNat c G with
    | some cause => .next (s.trapUnit G c cause 0)
    | none => match lowest (G.k0 c) with
      | none => .next (s.advance c)
      | some l =>
        let (x, s1) := s.locate G .load sp.toNat 4 4 (G.ea sp.toNat a.toNat l (o.toInt * 4))
        match x with
        | .eat => .next (s1.consume G c (G.k0 c))
        | .flt e => .next (s1.faultAll G c e false)
        | .wait r => .next ((s1.holdReqs (s1.holder G) r).retryUnit c .engine)
        | .at ea p => match s1.accessWaits c G .load 4 [(l, .at ea p)] with
          | some t => .next t
          | none =>
            let (bs, bad, s2) := s1.readLoc [(s1.laneAgent G l).id] p ea 4
            let s3 := s2.accessed G .load 4 [(l, ea, p)]
            .next ((s3.setGroup (G.writeUnif d.toNat (loadWords 4 false bs bad))).advance c)

/-- `pref` (R250): it changes no value; a poisoned address word is consumed. -/
def execPref (sp _p : BitVec 2) (a : BitVec 7) (o : BitVec 7) (s : State) : Out :=
  withUnit s fun c G =>
    let u : Unit := { latch := false, zm := false, names := [addrName sp.toNat a] }
    match memChecks u sp.toNat c G with
    | some cause => .next (s.trapUnit G c cause 0)
    | none => .next (s.retire G c u .none false ((lanesOf G (u.run G c)).map fun l =>
        (l, if G.ea sp.toNat a.toNat l (o.toInt * 128) = .eat then LaneOut.consume else .ok [] 0#5)))

/-! ## Atomics (R251 to R253) -/

/-- The operations of an atomic (R252): the new value of a memory value m, an operand v and the `cas` value n, and none
where a `cas` does not match; `w` is the width in bits. -/
def atomVal (op w m v n : Nat) : Option Nat :=
  let sm := (BitVec.ofNat w m).toInt
  let sv := (BitVec.ofNat w v).toInt
  match op with
  | 0 => some ((m + v) % 2 ^ w)
  | 1 => some (if sm ≤ sv then m else v)
  | 2 => some (if sm ≤ sv then v else m)
  | 3 => some (min m v)
  | 4 => some (max m v)
  | 5 => some (Nat.land m v)
  | 6 => some (Nat.lor m v)
  | 7 => some (Nat.xor m v)
  | 8 => some v
  | 9 => if m = v then some n else none
  | 10 => some (fp32.add false 0 (fp32.decode m) (fp32.decode v)).1
  | 11 => some (fminVal false false (BitVec.ofNat 32 m) (BitVec.ofNat 32 v)).1.toNat
  | _ => some (fminVal true false (BitVec.ofNat 32 m) (BitVec.ofNat 32 v)).1.toNat

/-- The read of an atomic by an agent (R226, R230): it reads the newest value; with acquire, it takes over what the releases covered whose
writes, or later atomics' writes, it reads. -/
def State.atomRead (s : State) (X : Agent) (acq : Bool) (sc : Nat) (l : Loc) (n : Nat) : State := match s.keyOf l with
  | none => s
  | some k =>
    let rels := if s.paths.olds.isEmpty then [] else ((s.sees [] k n).flatMap (·.2)).dedup
    let s1 := s.sawNow X.id l n
    let s2 := if acq then s1.acquire X sc rels else s1
    { s2 with paths := s2.paths.note X.id rels }

/-- The write of an atomic by an agent (R226): with release, it carries what is visible to the agent. -/
def State.atomWrite (s : State) (X : Agent) (rel : Bool) (sc : Nat) (l : Loc) (bs : List Byte) : State :=
  if rel then
    let (r, s1) := s.releaseBy X sc
    s1.writeBy { atomic := true, rels := [r] } [(X.id, l, bs)]
  else s.writeBy { atomic := true } [(X.id, l, bs)]

/-- One lane's atomic, performed indivisibly, with its ordering and scope (R226, R230, R252, R253): it returns the newest value; a poisoned
location is not written. -/
def atomLane (op n : Nat) (ord : BitVec 2) (sc : Nat) (G : Group) (d cc : Nat) (p : Nat × Nat × Loc) (s : State) : LaneOut × State :=
  let X := s.laneAgent G p.1
  let (bs, bad, s0) := s.readLoc [] p.2.2 p.2.1 (4 * n)
  let s1 := s0.atomRead X (ord.getLsbD 0) sc p.2.2 (4 * n)
  let old := loadWords (4 * n) false bs bad
  let val (c : Nat) : Nat := leNat ((G.readWords p.1 c n).flatMap fun w => natLe 4 w.val.toNat)
  if p.2.2.lost s then (.consume, s1)
  else if bad then (.ok old 0#5, s1)
  else match atomVal op (32 * n) (leNat bs) (val d) (val cc) with
    | none => (.ok old 0#5, s1)
    | some v => (.ok old 0#5, s1.atomWrite X (ord.getLsbD 1) sc p.2.2 (natLe (4 * n) v))

/-- The lanes in an order that nothing promises (R253): each next one is a free choice. -/
def atomLanes (op n : Nat) (ord : BitVec 2) (sc : Nat) (G : Group) (d cc : Nat) : Nat → List (Nat × Nat × Loc) → State → List (Nat × LaneOut) × State
  | 0, _, s => ([], s)
  | _, [], s => ([], s)
  | fuel + 1, p :: ps, s =>
    if ps.all fun q => decide (q.2.2 ≠ p.2.2) then
      let (o, s1) := atomLane op n ord sc G d cc p s
      let (os, s2) := atomLanes op n ord sc G d cc fuel ps s1
      ((p.1, o) :: os, s2)
    else
      let (i, s0) := s.choose
      let q := (p :: ps).getD (i % (ps.length + 1)) p
      let (o, s1) := atomLane op n ord sc G d cc q s0
      let (os, s2) := atomLanes op n ord sc G d cc fuel ((p :: ps).erase q) s1
      ((q.1, o) :: os, s2)

/-- An atomic of n words (R251 to R253): `ret` for those that return the old value; `ord` its ordering at the scope `sc`, of which codes 1 and
3 acquire and codes 2 and 3 release (R226). -/
def atomUnit (sp n : Nat) (ret : Bool) (ord : BitVec 2) (sc : Nat) (d a : BitVec 7) (op : Nat) (s : State) : Out :=
  withUnit s fun c G =>
    let cas := ret && op == 9
    let u : Unit := { latch := false, zm := ret, c := if cas then n else 0, names := [(d, n), addrName sp a] }
    match memChecks u sp c G with
    | some cause => .next (s.trapUnit G c cause 0)
    | none =>
      let eas := (lanesOf G (u.run G c)).map fun l => (l, G.ea sp a.toNat l 0)
      let (xs, s1) := s.locateAll G .atomic sp (4 * n) (4 * n) eas
      let ys := xs.map fun p => (p.1, p.2.orEat (anyPoison (G.readWords p.1 d.toNat n) || (cas && anyPoison (G.readWords p.1 (pfxC c).toNat n))))
      .next (s1.memUnit c G u (if ret then .regs d n else .none) .atomic (4 * n) ys fun t ps =>
        let (os, t0) := atomLanes op n ord sc G d.toNat (pfxC c).toNat ps.length ps t
        (if ret then os else os.map fun o => (o.1, match o.2 with
          | .ok _ _ => LaneOut.ok [] 0#5
          | x => x), t0))

/-- `atom` (R251 to R253). -/
def execAtom (s r : BitVec 2) (d a : BitVec 7) (x : BitVec 3) (y : BitVec 4) (t : State) : Out :=
  atomUnit s.toNat 1 true r x.toNat d a y.toNat t
/-- `atom.64` (R251 to R253). -/
def execAtom64 (s r : BitVec 2) (d a : BitVec 7) (x : BitVec 3) (y : BitVec 4) (t : State) : Out :=
  atomUnit s.toNat 2 true r x.toNat d a y.toNat t
/-- `atr` (R251 to R253). -/
def execAtr (s r : BitVec 2) (d a : BitVec 7) (x : BitVec 3) (y : BitVec 4) (t : State) : Out :=
  atomUnit s.toNat 1 false r x.toNat d a y.toNat t

end Sys2Proof.Machine
end

