-- ==== Sys2Proof/Machine/Maintain.lean ====
section
/-! DEFINITION. Fences, cache maintenance, tile-layout records and translation maintenance: majors 0x63, 0x66 and 0x67
(spec/11_memory_instructions.md R254 to R264; spec/09 R203, R218; spec/10 R234, R236 to R238). -/
namespace Sys2Proof.Machine

/-! ## Fences (R254 to R256, R237, R238) -/

/-- The agents that the groups and the reform bins of a context hold, group by group (R222); a thread in a bin goes by its former group. -/
def Ctx.agents (x : Ctx) : List Agent :=
  let of (k : Option Nat) (uid : Nat) : Agent := agentIn (.group uid) uid (x.teams.find? fun T => k == some T.slot)
  x.groups.map (fun G => of G.team G.uid) ++ x.bins.flatMap fun b => match b with
    | some y => y.threads.map fun f => of (some y.team) f.former
    | none => []

/-- The agents of the core's groups, in both contexts and in images (R222, R377). -/
def State.agents (s : State) : List Agent :=
  s.live.agents ++ (match s.shadow with
    | some x => x.agents
    | none => []) ++ s.saved.flatMap fun i => i.ctx.agents

/-- A group, by its number, lies in the instance of a scope of an issuing group (R222). -/
def State.inScope (s : State) (G : Group) (scope : Nat) (uid : Nat) : Bool :=
  uid == G.uid || s.agents.any fun Y => Y.group == some uid && Y.meets scope (s.groupAgent G)

/-- What a fence settles: at pkg and sys scope the translations that the group's `invt` marked are gone (R237), and the
instruction words that its `icinv` marked are fetched no more by the agents of the scope (R238). -/
def State.fenced (s : State) (G : Group) (scope : Nat) : State :=
  let keep (w : IcWord) : Option IcWord :=
    if !w.marks.contains G.uid then some w
    else if 3 ≤ scope then none
    else some { w with barred := w.barred ++ G.uid :: (s.agents.filterMap (·.group)).filter (s.inScope G scope) }
  { s with
    tlb := if 4 ≤ scope then s.tlb.filter fun e => !e.marks.contains G.uid else s.tlb
    icache := s.icache.filterMap keep }

/-- A unit of major 0x63: no prefix; `fence.tl` and `fence.or` are restricted while migrated and in handler groups (R254,
R478). -/
def fenceUnit (restricted : Bool) (names : List (BitVec 7 × Nat)) (s : State) (k : Cur → Group → State) : Out :=
  withUnit s fun c G => match teamChecks (ctlUnit false names) restricted c G with
    | some cause => .next (s.trapUnit G c cause 0)
    | none => .next (if G.k0 c = 0#64 then s.advance c else k c G)

/-- A bank run, a running tile copy, or the save area of a `macq`, still uses a translation that the group's `invt` has marked (R237, R281,
R308): its pages were found under it. -/
def State.drains (s : State) (G : Group) : Bool :=
  s.tlb.any fun e => e.marks.contains G.uid
    && ((s.bank.runs.any fun r => r.f == e.f && r.asid == e.asid && r.pages.any fun p => e.covers (4096 * p.1))
      || (s.tcs.any fun o => o.f == e.f && o.asid == e.asid && !o.left.isEmpty && o.pages.any fun p => e.covers (4096 * p.1))
      || (s.mx.areas.any fun a => a.f == e.f && a.asid == e.asid && (List.range 35).any fun i => e.covers (a.va / 4096 * 4096 + 4096 * i)))

/-- `fence` at a scope (R255): an acquire fence and a release fence of each thread of k0. At pkg and sys scope it waits for the accesses that use a translation
which the group has marked (R237). -/
def execFence (x : BitVec 3) (s : State) : Out := fenceUnit false [] s fun c G =>
  if 4 ≤ x.toNat ∧ s.drains G = true then s.retryUnit c .engine
  else ((State.fences x.toNat G.threads.length (s.laneAgents G (G.k0 c)) s).fenced G x.toNat).advance c

/-- `fence.tl` (R256): the record-cache entries of the team's function and address space are dropped, and the group's later operations
read no record older than what is visible to the issuing threads now (R236). -/
def execFenceTl (s : State) : Out :=
  fenceUnit true [] s fun c G =>
    (({ s with records := s.records.filter fun r => !(r.f == s.fOf G && r.asid == s.asidOf G) } : State).flow (s.laneIds G (G.k0 c)) [.group G.uid]).advance c

/-- `fence.or` (R234, R256): every store to the team's scratch so far is covered for the group's later engine operations. -/
def execFenceOr (s : State) : Out :=
  fenceUnit true [] s fun c G =>
    let olds := s.paths.scrOld.map fun o => { o with marks := G.uid :: o.marks }
    ({ s with paths := { s.paths with scrOld := olds } } : State).advance c

/-! ## Cache maintenance (R257) -/

/-- The check that the three instructions share: the address of the lowest lane of k0, its poison and its tag; then their
effect on the lines. -/
def lineUnit (a : BitVec 7) (s : State) (k : Cur → Group → Nat → State) : Out :=
  fenceUnit false [(a, 2)] s fun c G => match lowest (G.k0 c) with
    | none => s.advance c
    | some l => match G.ea 1 a.toNat l 0 with
      | .eat => s.consume G c (G.k0 c)
      | .flt e => s.faultAll G c e false
      | .ea v => if v / 2 ^ 56 ≠ 0 then s.faultAll G c (fltSpace v) false else (k c G v).advance c

/-- `cinv` (R257): it changes no value that a read may return. -/
def execCinv (a : BitVec 7) (_l : BitVec 14) (s : State) : Out := lineUnit a s fun _ _ _ => s
/-- `cwb` (R257): it changes no value that a read may return. -/
def execCwb (a : BitVec 7) (_l : BitVec 14) (s : State) : Out := lineUnit a s fun _ _ _ => s

/-- The lines of a virtual range that stand in the DRAM of this device, by slice and physical line (R257): pages not present, malformed, NR,
CB or past the end are skipped; a remote leaf that names this device leads to the participant's lines (R467). -/
def State.lines (s : State) (v : View) (va n : Nat) : List (Nat × Nat) :=
  (List.range n).filterMap fun i =>
    let a := va / 128 * 128 + 128 * i
    if 2 ^ 56 ≤ a then none
    else if v.boot then (if a < 2 ^ 40 then some (v.f, a / 128) else none)
    else match walk s v.f v.asid a with
      | .ok l =>
        if l.nr1 || l.nr2 || l.cb.isSome || l.host then none
        else match l.remote with
          | none => some (v.f, (l.spa + a % 4096) / 128)
          | some d =>
            if d ≠ s.pkg.device then none
            else match (s.enclaveOf v.f).bind fun e => s.enclavePage e (l.spa + a % 4096) with
              | some (f, m) => if m.host then none else some (f, (m.base + a % 4096) / 128)
              | none => none
      | .fail _ => none

/-- `icinv` (R257, R238): the instruction words of the lines are marked for the group's next fence. -/
def execIcinv (a : BitVec 7) (l : BitVec 14) (s : State) : Out :=
  lineUnit a s fun _ G va =>
    let ls := s.lines (s.view G) va (l.toNat + 1)
    { s with icache := s.icache.map fun w => if ls.contains (w.f, w.spa / 128) then { w with marks := G.uid :: w.marks } else w }

/-! ## Tile-layout records (R258 to R262) -/

/-- A little-endian field of a list of bytes. -/
def fld (bs : List Byte) (off n : Nat) : Nat := leNat ((bs.drop off).take n)

/-- A tile-layout record (R258). -/
structure TileRec where
  base : Nat
  dim0 : Nat
  dim1 : Nat
  stride1 : Nat
  tile0 : Nat
  tile1 : Nat
  srow : Nat
  fmt : Nat
  swz : Nat
  sbase : Nat
  sstride : Nat
  scm : Nat
  pad : Nat
deriving DecidableEq, Repr

/-- The fields of a record's 64 bytes. -/
def tileRec (bs : List Byte) : TileRec where
  base := fld bs 0 8
  dim0 := fld bs 8 4
  dim1 := fld bs 12 4
  stride1 := fld bs 16 8
  tile0 := fld bs 24 2
  tile1 := fld bs 26 2
  srow := fld bs 28 2
  fmt := fld bs 30 1
  swz := fld bs 31 1
  sbase := fld bs 32 8
  sstride := fld bs 40 8
  scm := fld bs 48 1
  pad := fld bs 49 1

/-- The bits of an element of a format (R258). -/
def fmtBits : Nat → Nat
  | 3 => 4
  | 4 => 4
  | 5 => 16
  | 6 => 16
  | 7 => 32
  | 9 => 32
  | _ => 8

/-- The row pitch in scratch: SROW, or the tile row's bytes rounded up to 16 (R258, R317). -/
def TileRec.pitch (r : TileRec) : Nat := if r.srow = 0 then (r.tile0 * fmtBits r.fmt / 8 + 15) / 16 * 16 else r.srow

/-- The swizzle's group of chunks (R258, R317). -/
def TileRec.group (r : TileRec) : Nat := if r.swz = 0 then 1 else 2 ^ (r.swz + 2)

/-- record_check (R259): the first code that a record fails, or 0. -/
def recordCheck (bs : List Byte) : Nat :=
  let r := tileRec bs
  let b := fmtBits r.fmt
  if (bs.drop 50).any (· != 0#8) || decide (2 ≤ r.pad) || decide (2 ^ 56 ≤ r.base) || decide (2 ^ 56 ≤ r.sbase) then 1
  else if 0x0B ≤ r.fmt then 2
  else if r.dim0 = 0 ∨ 2 ^ 24 < r.dim0 ∨ r.dim1 = 0 ∨ 2 ^ 24 < r.dim1 ∨ r.tile0 = 0 ∨ 1024 < r.tile0 ∨ r.tile1 = 0 ∨ 256 < r.tile1
    ∨ (b = 4 ∧ r.tile0 % 2 = 1) then 3
  else if r.stride1 % 16 ≠ 0 ∨ r.srow % 16 ≠ 0 ∨ r.stride1 < 16 ∨ 2 ^ 40 < r.stride1 ∨ r.stride1 * 8 < r.dim0 * b
    ∨ (r.srow ≠ 0 ∧ r.srow * 8 < r.tile0 * b) then 4
  else if 4 ≤ r.swz ∨ (r.swz ≠ 0 ∧ r.pitch % (16 * r.group) ≠ 0) then 5
  else if 3 ≤ r.scm ∨ (r.scm ≠ 0 ∧ ¬ (r.fmt = 0 ∨ r.fmt = 1 ∨ r.fmt = 2 ∨ r.fmt = 3)) ∨ (r.scm = 1 ∧ r.tile0 % 32 ≠ 0)
    ∨ (r.scm = 2 ∧ r.tile1 % 32 ≠ 0) ∨ (r.scm = 0 ∧ (r.sbase ≠ 0 ∨ r.sstride ≠ 0)) then 6
  else 0

/-- The record cache filled with a record (R218): it holds 64, and one of a full cache, by a free choice, is evicted. -/
def State.fillRecord (s : State) (r : RecEntry) : State :=
  let rest := s.records.filter fun q => !(q.f == r.f && q.asid == r.asid && q.va == r.va)
  if rest.length < 64 then { s with records := r :: rest }
  else
    let (n, t) := s.choose
    { t with records := r :: rest.eraseIdx (n % 64) }

/-- The writes to a range that a read by agents passes by. -/
def State.missed (s : State) (Xs : List AgentId) (l : Loc) (n : Nat) : List Nat := match s.keyOf l with
  | none => []
  | some k => (s.paths.olds.filter fun e => e.meets k n && (List.range n).any fun i => e.meets (k + i) 1 && s.passes Xs (unitStart k n i) e).map (·.num)

/-- The writes to a range. -/
def State.writesTo (s : State) (l : Loc) (n : Nat) : List Nat := match s.keyOf l with
  | none => []
  | some k => (s.paths.olds.filter fun e => e.meets k n).map (·.num)

/-- A cached record is too old for a group: it misses a write that was visible at the group's last `fence.tl` (R236). -/
def State.tooOld (s : State) (G : Group) (r : RecEntry) : Bool :=
  s.paths.olds.any fun e => r.missed.contains e.num && e.seenBy (.group G.uid)

/-- A record as a lane's engine command or `tlrd` reads it through the record cache (R218, R236). A miss, or a hit on a record that the
group's last `fence.tl` makes too old, reads memory and fills the cache. Another hit gives the cached bytes; or, when its entry was evicted
before, which is a free choice, the record is filled anew, each 16-byte quarter with its value before or after the stores since. A
poisoned record is not kept. -/
def State.readRecord (s : State) (G : Group) (x : AgentId) (va : Nat) (l : Loc) : List Byte × Bool × State :=
  let f := s.fOf G
  let asid := s.asidOf G
  match s.records.find? fun r => r.f == f && r.asid == asid && r.va == va && !s.tooOld G r with
  | none =>
    let (now, bad, s1) := s.readLoc [x, .group G.uid] l va 64
    (now, bad, if bad then s1 else s1.fillRecord ⟨f, asid, va, now, s.missed [x, .group G.uid] l 64⟩)
  | some r =>
    let (now, bad, s1) := s.readLoc [] l va 64
    if r.bytes = now then (now, false, s)
    else
      let (n, s2) := s1.choose
      let bs := (List.range 4).flatMap fun i => if bitAt n i then (now.drop (16 * i)).take 16 else (r.bytes.drop (16 * i)).take 16
      if n % 16 = 0 then (r.bytes, false, { s with free := s2.free })
      else (bs, bad, if bad then { s2 with records := s2.records.filter fun q => q ≠ r } else s2.fillRecord ⟨f, asid, va, bs, s.writesTo l 64⟩)

/-- The status word of `tlw` and `tlrd`. -/
def statusOut (n : Nat) : LaneOut := .ok [clean (BitVec.ofNat 32 n)] 0#5

/-- Whether the fault that a unit of `tlw` and `tlrd` reports met a store (R260, R363): `k` is the record's kind of access, and the scratch
has the other. -/
def reportStores (k : Acc) (xs both : List (Nat × LaneAt)) : Bool :=
  match worst (faultsOf (both.filterMap fun p => p.2.out.map fun o => (p.1, o))) with
  | none => decide (k ≠ .load)
  | some e => if xs.any fun p => p.2 == .flt e then decide (k ≠ .load) else decide (k = .load)

/-- A unit of `tlw` and `tlrd` (R260): in each lane the record's place and the scratch place, both found before anything is
done; `k` is the record's kind of access. -/
def recordUnit (d a b : BitVec 7) (k : Acc) (act : State → Group → Nat → Nat → Loc → Loc → LaneOut × State) (s : State) : Out :=
  withUnit s fun c G =>
    let u : Unit := { pfx := false, latch := false, names := [(d, 1), (a, 2), (b, 1)] }
    if !u.prefixOk c then .next (s.trapUnit G c 0x01#8 0)
    else if G.mig.isSome then .next (s.trapUnit G c 0x13#8 0)
    else match u.check G c with
    | some cause => .next (s.trapUnit G c cause 0)
    | none =>
      let ls := lanesOf G (G.k0 c)
      let other : Acc := if k = .load then .store else .load
      let (xs, s1) := s.locateAll G k 0 64 64 (ls.map fun l => (l, G.ea 0 a.toNat l 0))
      let (ys, s2) := s1.locateAll G other 2 64 16 (ls.map fun l => (l, G.ea 2 b.toNat l 0))
      let both := (xs.zip ys).map fun p => (p.1.1, match p.1.2, p.2.2 with
        | .eat, _ => LaneAt.eat
        | _, .eat => .eat
        | .flt e, .flt f => .flt (if f.before e then f else e)
        | .flt e, _ => .flt e
        | _, .flt e => .flt e
        | .wait r, _ => .wait r
        | .at _ _, y => y)
      match s2.accessWaits c G k 64 xs, s2.accessWaits c G other 64 both with
      | some t, _ => .next t
      | _, some t => .next t
      | none, none =>
        let gone := s2.parking G c both
        let step (acc : List (Nat × LaneOut) × State) (p : (Nat × LaneAt) × (Nat × LaneAt)) : List (Nat × LaneOut) × State :=
          match p.1.2, p.2.2 with
          | .at ea l, .at _ m =>
            if gone.getLsbD p.1.1 then acc
            else
              let (o, t) := act acc.2 G p.1.1 ea l m
              (acc.1 ++ [(p.1.1, o)], t)
          | _, _ => acc
        let (outs, s3) := (xs.zip ys).foldl step ([], s2)
        .next (s3.retire G c u (.regs d 1) (reportStores k xs both) ((both.filterMap fun p => p.2.out.map fun o => (p.1, o)) ++ outs))

/-- `tlw` (R261): a checked image is written as the record, and leaves the record cache; that ends the team's eligibility, wherever the
record is (R245). -/
def execTlw (d a b : BitVec 7) (s : State) : Out :=
  recordUnit d a b .store (fun t G i ea l m =>
    let x := (t.laneAgent G i).id
    let (img, _, t1) := t.readLoc [x] m 0 64
    let st := recordCheck img
    if st ≠ 0 then (statusOut st, t1)
    else
      let t0 := (t1.writeBy {} [(x, l, img)]).accessed G .store 64 [(0, ea, l)]
      let t2 := match G.team with
        | some k => t0.endEligible k
        | none => t0
      (if l.lost t then .consume else statusOut 0,
        { t2 with records := t2.records.filter fun r => !(r.f == t.fOf G && r.asid == t.asidOf G && r.va == ea) })) s

/-- `tlrd` (R262): the record as an engine would see it goes to scratch; a poisoned one is consumed. -/
def execTlrd (d a b : BitVec 7) (s : State) : Out :=
  recordUnit d a b .load (fun t G i ea l m =>
    let x := (t.laneAgent G i).id
    let (img, bad, t1) := t.readRecord G x ea l
    let t2 := t1.accessed G .load 64 [(0, ea, l)]
    if bad then (.consume, t2) else (statusOut (recordCheck img), t2.writeBy {} [(x, m, img)])) s

/-- The check of a record address for ranks 2 and 6 only (R260): its tag with the bounds of its space, then its alignment. -/
def State.recordRank (s : State) (G : Group) (v : Nat) : Option Flt :=
  let rank2 : Option Flt := if v / 2 ^ 56 = 0 then none else match (s.spaceRes G .load 0 v 64).1 with
    | .flt e => if e.rank = 2 then some e else none
    | _ => none
  match rank2 with
  | some e => some e
  | none => if v % 64 ≠ 0 then some (fltAlign v) else none

/-- `tli` (R262): the record's cache entries are dropped; the address is checked for ranks 2 and 6 only. -/
def execTli (a : BitVec 7) (s : State) : Out :=
  withUnit s fun c G =>
    let u : Unit := { pfx := false, latch := false, names := [(a, 2)] }
    if !u.prefixOk c then .next (s.trapUnit G c 0x01#8 0)
    else if G.mig.isSome then .next (s.trapUnit G c 0x13#8 0)
    else match u.check G c with
    | some cause => .next (s.trapUnit G c cause 0)
    | none =>
      let ls := lanesOf G (G.k0 c)
      let out (l : Nat) : LaneOut := match G.ea 0 a.toNat l 0 with
        | .eat => .consume
        | .flt e => .flt e
        | .ea v => match s.recordRank G v with
          | some e => .flt e
          | none => .ok [] 0#5
      let vas := ls.filterMap fun l => match G.ea 0 a.toNat l 0 with
        | .ea v => if decide (out l = .ok [] 0#5) then some v else none
        | _ => none
      let s1 := { s with records := s.records.filter fun r => !(r.f == s.fOf G && r.asid == s.asidOf G && vas.contains r.va) }
      .next (s1.retire G c u .none false (ls.map fun l => (l, out l)))

/-! ## Translation maintenance (R263, R264) -/

/-- The stage-2 part of a translation-cache entry covers an intermediate address (R263): the address lies in a range of one of the
stage-2 entries that its walk used. -/
def TlbEntry.covers2 (e : TlbEntry Walk) (ia : Nat) : Bool := e.ias.any fun p => decide (p.1 ≤ ia) && decide (ia < p.1 + p.2)

/-- `invt` (R263): entries of the issuing function are marked, by kind; their end is promised by the group's `fence.pkg`. -/
def State.invalidate (s : State) (G : Group) (b : Word) (va : Nat) : State :=
  let asid : BitVec 12 := b.setWidth 12
  let f := s.fOf G
  let hit (e : TlbEntry Walk) : Bool := e.f == f && (match bits b.toNat 13 12 with
    | 0 => e.asid == asid && e.covers va
    | 1 => e.asid == asid
    | 2 => e.covers2 va
    | _ => true)
  { s with tlb := s.tlb.map fun e => if hit e then { e with marks := G.uid :: e.marks } else e }

/-- The unit of major 0x67: privileged (R263, R264). -/
def xlUnit67 (names : List (BitVec 7 × Nat)) (s : State) (k : Unit → Cur → Group → State) : Out :=
  withUnit s fun c G =>
    let u : Unit := { pfx := false, latch := false, names := names }
    if !u.prefixOk c then .next (s.trapUnit G c 0x01#8 0)
    else if G.level = .U then .next (s.trapUnit G c 0x02#8 0)
    else match u.check G c with
    | some cause => .next (s.trapUnit G c cause 0)
    | none => .next (k u c G)

/-- `invt` (R263). -/
def execInvt (a b : BitVec 7) (s : State) : Out :=
  xlUnit67 [(a, 2), (b, 1)] s fun u c G =>
    let ls := lanesOf G (G.k0 c)
    let bad (l : Nat) : Bool := anyPoison (G.readWords l a.toNat 2) || (G.readWord l b.toNat).poison
    let s1 := ls.foldl (fun t l => if bad l then t else t.invalidate G (G.readWord l b.toNat).val (pairVal (G.readWords l a.toNat 2)).toNat) s
    s1.retire G c u .none false (ls.map fun l => (l, if bad l then LaneOut.consume else .ok [] 0#5))

/-- One probe (R264): the four words, and the state with the caches filled. -/
def State.probe (s : State) (G : Group) (b : Word) (va : Nat) : List Word × State :=
  let fail (n stage lvl : Nat) : List Word := [BitVec.ofNat 32 (2 * n + 16 * stage + 32 * lvl), 0#32, 0#32, 0#32]
  if va / 2 ^ 56 ≠ 0 then (fail 1 0 0, s)
  else match xlate s (s.fOf G) (b.setWidth 12) va with
    | (.fail w, s1) => (fail (if w.malformed then 3 else 2) (if w.stage2 then 1 else 0) w.level, s1)
    | (.ok l, s1) =>
      let need (w x u : Bool) : Bool := (b.getLsbD 12 && !w) || (b.getLsbD 13 && !x) || (b.getLsbD 14 && !u)
      let perm := need (l.w1 && l.w2) (l.x1 && l.x2) (l.u1 && l.u2)
      let fault := if perm then 4 else if l.nr1 || l.nr2 then 5 else 0
      let attr := (if l.w1 && l.w2 then 1 else 0) + (if l.x1 && l.x2 then 2 else 0) + (if l.u1 && l.u2 then 4 else 0)
        + (if l.cb.isSome then 8 else 0) + (if l.nr1 || l.nr2 then 16 else 0) + (if l.br then 32 else 0)
        + (if l.remote.isSome then 64 else 0) + (if l.uncached then 128 else 0)
        + 256 * (min l.size1 l.size2) + 65536 * (l.remote.getD 0)
      let out := match l.cb with
        | some p => [p, 0#32]
        | none => split64 (BitVec.ofNat 64 (l.spa + va % 4096))
      (([BitVec.ofNat 32 ((if fault = 0 then 1 else 0) + 2 * fault), BitVec.ofNat 32 attr] ++ out), s1)

/-- `vprobe` (R264). -/
def execVprobe (d a b : BitVec 7) (s : State) : Out :=
  xlUnit67 [(d, 4), (a, 2), (b, 1)] s fun u c G =>
    let ls := lanesOf G (G.k0 c)
    let step (acc : List (Nat × LaneOut) × State) (l : Nat) : List (Nat × LaneOut) × State :=
      if anyPoison (G.readWords l a.toNat 2) || (G.readWord l b.toNat).poison then (acc.1 ++ [(l, LaneOut.consume)], acc.2)
      else
        let (ws, t) := acc.2.probe G (G.readWord l b.toNat).val (pairVal (G.readWords l a.toNat 2)).toNat
        (acc.1 ++ [(l, LaneOut.ok (ws.map clean) 0#5)], t)
    let (outs, s1) := ls.foldl step ([], s)
    s1.retire G c u (.regs d 4) false outs

end Sys2Proof.Machine
end

