-- ==== Sys2Proof/Machine/Pages.lean ====
section
/-! DEFINITION. How engines, the dispatcher and the context engine reach memory: page by page and block by block, with the errors that they
meet and the banks that hold them (spec/14 R318, R322; spec/09 R213 to R215; spec/12 R287). -/
namespace Sys2Proof.Machine

/-! ## Memory as engines reach it -/

/-- A global access by an engine at a virtual address: tag check, translation, and a remote leaf that leads back to this
device (R243, R467). -/
def State.engLoc (s : State) (v : View) (k : Acc) (va : Nat) : Except Flt Loc × State :=
  if 2 ^ 56 ≤ va then (.error (fltSpace va), s)
  else match globalRes s v k va with
    | (.ok (.remote f dev ia), s1) =>
      (.ok (if dev = s1.pkg.device then (remoteHere s1 f ia k).getD (.remote f dev ia) else .remote f dev ia), s1)
    | (.ok l, s1) => (.ok l, s1)
    | (.flt e, s1) => (.error e, s1)
    | (.wait, s1) => (.error (fltSpace va), s1)

/-- The place n bytes further on in the same page. -/
def Loc.add (l : Loc) (n : Nat) : Loc := match l with
  | .dram f spa => .dram f (spa + n)
  | .scratch slot off => .scratch slot (off + n)
  | .const g off => .const g (off + n)
  | .block p => .block p
  | .host a => .host (a + n)
  | .remote f dev ia => .remote f dev (ia + n)
  | .peer off => .peer (off + n)
  | .via h f a => .via h f (a + n)

/-- The place of the first byte of the page that holds the byte at a virtual address. -/
def Loc.pageStart (l : Loc) (va : Nat) : Loc :=
  let n := va % 4096
  match l with
  | .dram f spa => .dram f (spa - n)
  | .host a => .host (a - n)
  | .remote f dev ia => .remote f dev (ia - n)
  | .via h f a => .via h f (a - n)
  | l => l

/-- Pages found for an engine: page number and the place of its first byte. -/
abbrev Pages := List (Nat × Loc)

/-- The pages of a list found in order; the fault of the lowest rank, if any (R318). -/
def State.findPages (s : State) (v : View) (k : Acc) : List Nat → Pages × Option Flt × State
  | [] => ([], none, s)
  | p :: ps =>
    let (r, s1) := s.engLoc v k (4096 * p)
    let (qs, e, s2) := s1.findPages v k ps
    match r with
    | .ok l => ((p, l) :: qs, e, s2)
    | .error f => (qs, some (match e with
      | some g => if g.before f then g else f
      | none => f), s2)

/-- The place of a virtual address among pages found. -/
def Pages.at (ps : Pages) (va : Nat) : Loc := match ps.find? fun p => p.1 == va / 4096 with
  | some p => p.2.add (va % 4096)
  | none => .block 0#32

/-- The page numbers of a byte range. -/
def pageNums (va n : Nat) : List Nat := if n = 0 then [] else (List.range ((va % 4096 + n + 4095) / 4096)).map fun i => va / 4096 + i

/-- A byte range cut at 16-byte blocks: starts and lengths. -/
def blockCuts (va n : Nat) : List (Nat × Nat) :=
  (List.range ((va % 16 + n + 15) / 16)).map fun i =>
    let lo := max va (va / 16 * 16 + 16 * i)
    let hi := min (va + n) (va / 16 * 16 + 16 * i + 16)
    (lo, hi - lo)

/-- A range read by an agent, block by block: the bytes of each block with its poison; poisoned reads are counted and recorded. -/
def State.readCuts (s : State) (x : AgentId) (asid : BitVec 12) (ps : Pages) : List (Nat × Nat) → List (List Byte × Bool) × State
  | [] => ([], s)
  | p :: r =>
    let l := ps.at p.1
    let (bs, bad, s1) := s.readLoc [x] l p.1 p.2
    let s2 := match l.base with
      | .dram f spa => let t := s1.bankServe f spa false
        if bad then t.noteBad asid f (spa / 16 * 16) else t
      | b => s1.sendTo b
    let (xs, s3) := s2.readCuts x asid ps r
    ((bs, bad) :: xs, s3)

/-- Bytes written by an engine in an address space, block by block, as one request (R214); they are visible to others once the operation's
completion has been waited for (R233). The tag of a row reached is verified (R213). -/
def State.writeCuts (s : State) (x : AgentId) (asid : BitVec 12) (ps : Pages) (va : Nat) (bs : List Byte) (kind : WriteKind := {}) : State :=
  let ws := (blockCuts va bs.length).map fun p => (x, ps.at p.1, (bs.drop (p.1 - va)).take p.2)
  let s1 := ws.foldl (fun t w => match w.2.1.base with
    | .dram f spa => (t.bankServe f spa true).noteTag asid f spa
    | b => t.sendTo b) s
  s1.writeBy kind ws

/-- The requests to DRAM of a range, block by block. -/
def Pages.reqs (ps : Pages) (write : Bool) (va n : Nat) : List (Nat × Nat × Bool) := (blockCuts va n).filterMap fun p => match (ps.at p.1).base with
  | .dram f spa => some (f, spa, write)
  | _ => none

/-- Some of the pages found for a function stand in host memory that its port does not reach now (R464). -/
def State.portHolds (s : State) (f : Nat) (ps : Pages) : Bool := s.portStopped f && ps.any fun p => match p.2.base with
  | .host _ => true
  | _ => false

/-- Some request goes to a row that a running instance holds closed to others (R287). -/
def State.reqsHeld (s : State) (who : Holder) (reqs : List (Nat × Nat × Bool)) : Bool := reqs.any fun p => s.accessHolds who p.1 p.2.1 !p.2.2

/-- The reads of the table walks of pages that banks hold (R287). -/
def State.walksHeld (s : State) (who : Holder) (v : View) (pages : List Nat) : List (Nat × Nat × Bool) :=
  if !s.busyBanks then [] else pages.flatMap fun p => s.walkReqs who v (4096 * p)

/-- What the banks hold of accesses to ranges, one after the other (R287): of the first that meets a hold, the reads of its table walks, else
its requests; or one that stands for host memory out of reach (R464). -/
def State.rangesHeld (s : State) (who : Holder) (v : View) (k : Acc) : List (Nat × Nat) → List (Nat × Nat × Bool)
  | [] => []
  | p :: rest =>
    if !s.busyBanks && !s.portStopped v.f then []
    else match s.walksHeld who v (pageNums p.1 p.2) with
      | [] => if s.portHolds v.f (s.findPages v k (pageNums p.1 p.2)).1 then [(v.f, 0, false)]
       else match ((s.findPages v k (pageNums p.1 p.2)).1.reqs (decide (k ≠ .load)) p.1 p.2).filter fun r => s.accessHolds who r.1 r.2.1 !r.2.2 with
        | [] => s.rangesHeld who v k rest
        | rs => rs
      | rs => rs

end Sys2Proof.Machine
end

