-- ==== Sys2Proof/Machine/Completion.lean ====
section
/-! DEFINITION. Completion sequences and the event queues of the cores (spec/14_asynchronous_engines.md R320, R321;
spec/15_engine_instructions.md R346; spec/19 R401). -/
namespace Sys2Proof.Machine

/-! ## Sequences (R320) -/

/-- The three completion classes of a group (R346). -/
inductive Cls where
  | bk | mx | tc
deriving DecidableEq, Repr

/-- The class's code in records and events. -/
def Cls.code : Cls → Nat
  | .bk => 0
  | .mx => 1
  | .tc => 2

/-- A group's sequence of a class. -/
def Group.cls (G : Group) : Cls → ClassSeq
  | .bk => G.bk
  | .mx => G.mx
  | .tc => G.tc

/-- A group with a class's sequence replaced. -/
def Group.setCls (G : Group) (x : ClassSeq) : Cls → Group
  | .bk => { G with bk := x }
  | .mx => { G with mx := x }
  | .tc => { G with tc := x }

/-- A command takes the next number of its class. -/
def ClassSeq.issue (q : ClassSeq) : ClassSeq :=
  { q with issued := q.issued + 1#32, pend := q.pend ++ [⟨q.issued + 1#32, false, 0#32⟩] }

/-- The completed head of the pending list passed over. -/
def ClassSeq.pass : List Pend → BitVec 32 → List Pend × BitVec 32
  | [], n => ([], n)
  | p :: ps, n => if p.done then ClassSeq.pass ps p.seq else (p :: ps, n)

/-- A command of the class completes with a status: the sequence reaches s when operations 1 to s have all completed, and
the first nonzero status is kept (R320, R334). -/
def ClassSeq.complete (q : ClassSeq) (seq : BitVec 32) (status : Nat) : ClassSeq :=
  let ps := q.pend.map fun p => if p.seq = seq then { p with done := true, status := BitVec.ofNat 32 status } else p
  let r := ClassSeq.pass ps q.upTo
  { q with
    pend := r.1
    upTo := r.2
    bad := if q.bad = 0#32 then BitVec.ofNat 32 status else q.bad }

/-! ## Event queues (R321) -/

/-- The number of slices with a share on a core. -/
def State.sharesOn (s : State) (core : Nat) : Nat :=
  (s.slices.filter fun x => x.valid && x.cores.any fun p => p.1 == core && p.2.1 != 0).length

/-- The capacity of a partition. -/
def State.partCap (s : State) (core : Nat) : Nat := 256 / max 1 (s.sharesOn core)

/-- A partition of a core's queue. -/
def State.part (s : State) (core f : Nat) : List EvRecord := ((s.evq.find? fun p => p.1 == core * 64 + f).map (·.2)).getD []

/-- The state with a partition replaced. -/
def State.setPart (s : State) (core f : Nat) (l : List EvRecord) : State :=
  { s with evq := (core * 64 + f, l) :: s.evq.filter fun p => p.1 != core * 64 + f }

/-- A completion record enters its partition, or is held at its engine when that is full or the engine holds one already
(R321). -/
def State.postRecord (s : State) (eng core f : Nat) (item : EvRecord) : State :=
  if (s.part core f).length < s.partCap core ∧ ¬ (s.held.any fun h => h.eng == eng) = true then
    s.setPart core f (s.part core f ++ [item])
  else { s with held := s.held ++ [⟨eng, core, f, item⟩] }

/-- A completion record's bits (R346). -/
def recordBits (seq : BitVec 32) (status cls source tag : Nat) : BitVec 128 :=
  BitVec.ofNat 128 (seq.toNat + (status % 256) * 2 ^ 32 + cls * 2 ^ 40 + 2 ^ 47 + (source % 65536) * 2 ^ 48 + (tag % 2 ^ 64) * 2 ^ 64)

/-- The engines beside the core that may hold a record: the matrix engine, the tile-copy unit, a bank run. Package copy and
migration engines hold theirs under their own numbers. -/
def Cls.engine (run : Nat) : Cls → Nat
  | .mx => 0x400
  | .tc => 0x401
  | .bk => 0x402 + run

/-- The group that issued a command, in either context, while it lives. -/
def State.withUid (s : State) (g uid : Nat) (k : Group → Group) : State :=
  let on (c : Ctx) : Ctx := { c with groups := c.groups.map fun G => if G.gctx = g ∧ G.uid = uid then k G else G }
  { s with live := on s.live, shadow := s.shadow.map on, images := s.images.map fun i => { i with ctx := on i.ctx } }

/-- A command of a class completes (R320, R321, R346, R401): its group's sequence, the event, and its record. -/
def State.completeCmd (s : State) (cls : Cls) (g uid f : Nat) (asid : BitVec 12) (seq : BitVec 32) (status scope tag run : Nat)
    (post : Bool) : State :=
  let s1 := s.withUid g uid fun G =>
    let H := G.setCls ((G.cls cls).complete seq status) cls
    if decide (cls = .tc) && status == 0x40 then { H with unret := H.unret ++ [seq] } else H
  let s2 := s1.recEvent s.coreNo 0x05 0x02 asid.toNat f (cls.code + seq.toNat * 2 ^ 3 + (status % 256) * 2 ^ 35)
  if post then s2.postRecord (cls.engine run) s.coreNo f ⟨recordBits seq status cls.code g tag, uid, scope⟩ else s2

/-- A command of a class is issued by a group at a scope: its number, what its operation starts with (R232), and the event (R320, R329,
R401). -/
def State.issueCmd (s : State) (G : Group) (cls : Cls) (scope : Nat) : BitVec 32 × State :=
  let q := (G.cls cls).issue
  match s.group G.gctx with
  | none => (q.issued, s)
  | some H => (q.issued, ((s.setGroup (H.setCls q cls)).issueOp G (.op cls.code G.uid q.issued) scope).recGroup G 0x05 0x01 (cls.code + q.issued.toNat * 2 ^ 3 + G.gctx * 2 ^ 35))

end Sys2Proof.Machine
end

