-- ==== Sys2Proof/Machine/BankUnit.lean ====
section
/-! DEFINITION. Bank units: the bank-ops, majors 0x68 to 0x6D, and the life of a run: pre-check, admission, served accesses and
completion (spec/12_near_bank_compute.md R265 to R288; spec/20_reef_slots.md R424). -/
namespace Sys2Proof.Machine

/-! ## The instance whose word is executed -/

/-- The state with a run replaced. -/
def State.setRun (s : State) (r : Run) : State :=
  { s with bank := { s.bank with runs := s.bank.runs.map fun q => if q.id = r.id then r else q } }

/-- An instance of a run in a bank's FIFO. -/
def State.inst (s : State) (run k : Nat) : Option Inst := s.bank.insts.find? fun i => i.run == run && i.k == k && !i.ended

/-- The agent that a run is (R220, R223). -/
def Run.agent (r : Run) : AgentId := .op 0 r.uid r.seq

/-- The number under which a run's reads before it starts wait at banks. -/
def Run.holder (r : Run) : Holder := ⟨opUid 0 r.seq r.uid, []⟩

/-- A bank-op acts on the instance marked as executing; issued by a group it is illegal (R42). -/
def withInst (s : State) (act : Run → Inst → State) : Out := match s.bank.cur with
  | none => withUnit s fun c G => .next (s.trapUnit G c 0x01#8 0)
  | some (r, k) => match s.run r, s.inst r k with
    | some R, some i =>
      let t := act R i
      .next { t with bank := { t.bank with cur := none } }
    | _, _ => .fault .noUnit

/-! ## Columns (R267, R273) -/

/-- The physical address of a byte of a row of the instance's page. -/
def Inst.rowAddr (i : Inst) (row : Nat) : Nat := i.page + 2048 * row

/-- A slot. -/
def Inst.slot (i : Inst) (n : Nat) : BSlot := i.slots.getD n .closed

/-- Eight words of a row's column, each poisoned with its 16-byte block or with its row. -/
def readRowCol (s : State) (i : Inst) (row c : Nat) : List PWord :=
  (List.range 8).map fun w =>
    let a := i.rowAddr row + 32 * c + 4 * w
    ⟨BitVec.ofNat 32 (leNat (spaRead s i.f a 4)), spaPoison s i.f a⟩

/-- A column of a slot as it is read (R267); a closed slot has none. -/
def readCol (s : State) (i : Inst) (n c : Nat) : List PWord := match i.slot n with
  | .closed => List.replicate 8 pzero
  | .opened row _ _ => readRowCol s i row c
  | .table cols => cols.getD c (List.replicate 8 pzero)

/-- The blocks of a run of words marked: a block with a poisoned word gets an uncorrectable pattern (R267). -/
def State.markBlocks (s : State) (f a : Nat) (ws : List PWord) : State :=
  let bad := (List.range (ws.length / 4)).filterMap fun b =>
    if (List.range 4).any fun w => (ws.getD (4 * b + w) pzero).poison then some (dramKey f (a + 16 * b) / 16) else none
  { s with eccBad := bad ++ s.eccBad.filter fun x => !bad.contains x }

/-- Words written into a slice's memory as whole blocks, with their poison, by a run. A micro-op writes at one boundary: a read sees what
it wrote whole (R437). -/
def State.writeWords (s : State) (run f a : Nat) (ws : List PWord) : State :=
  let bs := ws.flatMap fun w => natLe 4 w.val.toNat
  let s1 := match s.run run with
    | some r => s.remember { whole := true } [(r.agent, .dram f a, bs)]
    | none => s
  (spaWrite s1 f a bs).markBlocks f a ws

/-- The words of columns of an open row that the instance writes over for the first time are kept until the row closes (R284). -/
def State.keepPre (s : State) (i : Inst) (row : Nat) (cols : List Nat) : Inst :=
  { i with pre := i.pre ++ (cols.filter fun c => !(i.pre.any fun p => p.1 == row && p.2.1 == c)).map fun c => (row, c, readRowCol s i row c) }

/-- A column of a slot written: an open row is marked written (R273). -/
def State.writeCol (s : State) (i : Inst) (n c : Nat) (ws : List PWord) : State := match i.slot n with
  | .closed => s
  | .opened row _ _ => (s.writeWords i.run i.f (i.rowAddr row + 32 * c) ws).setInst ((s.keepPre i row [c]).markWritten n)
  | .table cols => s.setInst { i with slots := i.slots.set n (.table (cols.set c ws)) }

/-- The slot is open or holds a table. -/
def BSlot.usable : BSlot → Bool
  | .closed => false
  | _ => true

/-! ## Operands (R270) -/

/-- The index of the innermost active loop. -/
def Inst.i (x : Inst) : Nat := match x.loops with
  | l :: _ => l.idx
  | [] => 0

/-- The index of the outermost active loop. -/
def Inst.j (x : Inst) : Nat := match x.loops.getLast? with
  | some l => l.idx
  | none => 0

/-- A column operand. -/
def Inst.col (x : Inst) (c : BitVec 7) : Nat := (c.toNat % 64 + (if c.getLsbD 6 then x.i else 0)) % 64

/-- An octet operand. -/
def Inst.octet (x : Inst) (o : BitVec 4) : Nat := (o.toNat % 8 + (if o.getLsbD 3 then x.i else 0)) % 8

/-- A parameter word of the run (R280), with its poison. -/
def Run.param (r : Run) (p : Nat) : PWord := ⟨BitVec.ofNat 32 (fld r.block (0x40 + 4 * (p % 16)) 4), r.pbad.getLsbD (p % 16)⟩

/-! ## Cost and the end of an op (R277, R278, R285, R287) -/

/-- The word after a completed word, with the back edges of the loops that end there, innermost first (R277). -/
def backEdge (w : Nat) : List BLoop → Nat × List BLoop
  | [] => (w + 1, [])
  | l :: ls => if l.last = w then (if l.idx + 1 < l.cnt then (l.first, { l with idx := l.idx + 1 } :: ls) else backEdge w ls) else (w + 1, l :: ls)

/-- The word is completed. -/
def Inst.after (i : Inst) (w : Nat) : Inst :=
  let r := backEdge w i.loops
  { i with pc := r.1, loops := r.2 }

/-- The cycles that held accesses, as row and whether they write, add when they are served at a yield point within the instance (R287): each
run of consecutive accesses to one row opens it, serves them and closes it. -/
def heldCost : List (Nat × Bool) → Nat
  | [] => 0
  | [(_, w)] => 16 + 1 + (if w then 12 else 6)
  | (r, w) :: (q, v) :: rest =>
    if r = q then 1 + heldCost ((q, w || v) :: rest) else 16 + 1 + (if w then 12 else 6) + heldCost ((q, v) :: rest)

/-- A yield point is reached: the accesses held then are served before the instance goes on, and their cycles count (R287). -/
def Inst.yieldPoint (i : Inst) (r : Run) : Inst :=
  { i.spend r (heldCost (i.held.map fun h => (h.row, h.write))) with atYield := !i.held.isEmpty }

/-- The base die of an instance's bank. -/
def Inst.die (i : Inst) : Nat := 4 + i.stack

/-- An op that has executed: its cost, the next word, and from the drain point of a slot a yield point at every boundary
(R287, R422). -/
def State.opDone (s : State) (r : Run) (k cost : Nat) (poison : Bool) (fl : BitVec 5) : State := match s.inst r.id k with
  | none => s
  | some i =>
    let j := ({ i with poison := i.poison || poison, flags := i.flags ||| fl }.spend r cost).after i.pc
    s.setInst (if s.drainedOn j.die then j.yieldPoint r else j)

/-- The cost of a `bpre` (R278). -/
def BSlot.closeCost : BSlot → Nat
  | .opened row written bind => if written then (if bind = some row then 12 else 16) else 6
  | _ => 2

/-- An instance leaves its bank: its state is gone (R265); while accesses held at it are still to be served, what has ended keeps the bank
(R287). -/
def State.dropInst (s : State) (i : Inst) : State :=
  let drop (x : Inst) : Option Inst :=
    if x.run = i.run ∧ x.k = i.k then
      (if x.held.isEmpty then none
       else some { x with slots := List.replicate 4 .closed, acc := [], loops := [], pre := [], marks := [], ending := none, atYield := false, ended := true })
    else some x
  { s with bank := { s.bank with insts := s.bank.insts.filterMap drop } }

/-- A boundary between the micro-ops of an instance: a yield point from the drain point of a slot on (R287, R422). -/
def State.boundary (s : State) (r : Run) (i : Inst) : State := s.setInst (if s.drainedOn i.die then i.yieldPoint r else i)

/-- An instance's end with a code begins (R277, R279): the four `bpre` are still to come, each a micro-op of its own. -/
def State.endInst (s : State) (r : Run) (i : Inst) (code cost : Nat) : State := s.boundary r { i.spend r cost with ending := some (code, 0) }

/-- A slot closed (R272). -/
def Inst.close (i : Inst) (n : Nat) : Inst := match i.slot n with
  | .opened row _ _ => { i with slots := i.slots.set n .closed, pre := i.pre.filter (fun p => p.1 != row), marks := i.marks.filter fun p => p.1 != row }
  | _ => { i with slots := i.slots.set n .closed }

/-- The next micro-op of an instance's end: the `bpre` of a slot, or, after the last, the end itself: its state is gone, and its result stays
with the run (R277, R279). -/
def State.endStep (s : State) (i : Inst) : State := match s.run i.run, i.ending with
  | some r, some (code, n) =>
    if n < 4 then s.boundary r { (i.close n).spend r (i.slot n).closeCost with ending := some (code, n + 1) }
    else
      let e : InstEnd := ⟨i.k, BitVec.ofNat 8 code, i.flags, i.counter, i.exceeded, i.poison, none, 0#16⟩
      (s.setRun { r with ends := r.ends ++ [e] }).dropInst i
  | _, _ => s

/-- ROWRANGE. -/
def codeRowRange : Nat := 0x08
/-- SLOTSTATE. -/
def codeSlotState : Nat := 0x09
/-- OUTRANGE. -/
def codeOutRange : Nat := 0x0A
/-- BADPARAM. -/
def codeBadParam : Nat := 0x0B

/-! ## Row operations (R272) -/

/-- A poisoned read by the bank unit counts and is recorded (R215). -/
def State.noteCol (s : State) (r : Run) (i : Inst) (n c : Nat) : State := match i.slot n with
  | .opened row _ _ =>
    let a := i.rowAddr row + 32 * c
    let s1 := if spaPoison s i.f a then s.noteBad r.asid i.f a else s
    if spaPoison s i.f (a + 16) then s1.noteBad r.asid i.f (a + 16) else s1
  | _ => s

/-- `bact` (R272): opens a row, whose tag is verified. -/
def execBact (sl : BitVec 2) (ri pe : BitVec 1) (p : BitVec 4) (imm : BitVec 10) (s : State) : Out :=
  withInst s fun r i =>
    let P := if pe = 1#1 then r.param p.toNat else pzero
    let row := (BitVec.ofNat 32 (imm.toNat + P.val.toNat + (if ri = 1#1 then i.j else 0))).toNat
    if 1024 ≤ row then s.endInst r i codeRowRange 0
    else if i.slot sl.toNat ≠ .closed ∨ (i.openAt (row : Int)).isSome = true then s.endInst r i codeSlotState 0
    else
      let s1 := if s.rowBad.contains (spaRow i.f (s.slice i.f) (i.rowAddr row)).1 then s.noteBad r.asid i.f (i.rowAddr row) else s
      (s1.setInst { i with slots := i.slots.set sl.toNat (.opened row false (some row)) }).opDone r i.k 16 P.poison 0#5

/-- `bpre` (R272). -/
def execBpre (sl : BitVec 2) (s : State) : Out :=
  withInst s fun r i =>
    (s.setInst (i.close sl.toNat)).opDone r i.k (i.slot sl.toNat).closeCost false 0#5

/-- The contents of a slot moved onto an open one (R267, R272): the target's row takes the bytes and their poison, and the
row-poison mark or its absence. -/
def State.moveSlot (s : State) (i : Inst) (a t trow : Nat) : State :=
  let ws := (List.range 64).flatMap fun c => readCol s i a c
  let x := s.slice i.f
  let key := (spaRow i.f x (i.rowAddr trow)).1
  let marked := match i.slot a with
    | .opened row _ _ => s.rowBad.contains (spaRow i.f x (i.rowAddr row)).1
    | _ => false
  let plain := match i.slot a with
    | .opened row _ _ => (List.range 512).map fun w =>
        let ad := i.rowAddr row + 4 * w
        (⟨BitVec.ofNat 32 (leNat (spaRead s i.f ad 4)), s.eccBad.contains (dramKey i.f ad / 16)⟩ : PWord)
    | _ => ws
  let bind := match i.slot a with
    | .opened _ _ b => b
    | _ => none
  let s1 := s.writeWords i.run i.f (i.rowAddr trow) plain
  let s2 := { s1 with
    rowBad := if marked then key :: s1.rowBad.filter (fun k => k != key) else s1.rowBad.filter (fun k => k != key)
    paths := { s1.paths with
      rowSeen := if marked then s1.paths.rowSeen else s1.paths.rowSeen.filter fun k => k != key
      rowPart := s1.paths.rowPart.filter fun p => p.1 != key } }
  let marks := if i.marks.any fun p => p.1 == trow then i.marks else (trow, s.rowBad.contains key) :: i.marks
  s2.setInst { s.keepPre i trow (List.range 64) with slots := i.slots.set t (.opened trow true bind), marks := marks }

/-- `browsh` and `brcpy` (R272). -/
def slotMove (cost : Nat) (a t : Nat) (s : State) : Out :=
  withInst s fun r i => match i.slot t with
    | .opened trow _ _ =>
      if i.slot a = .closed then s.endInst r i codeSlotState 0
      else
        let bad := (List.range 64).any fun c => anyPoison (readCol s i a c)
        (((List.range 64).foldl (fun u c => u.noteCol r i a c) s).moveSlot i a t trow).opDone r i.k cost bad 0#5
    | _ => s.endInst r i codeSlotState 0

/-- `browsh` (R272). -/
def execBrowsh (a t : BitVec 2) (s : State) : Out := slotMove 4 a.toNat t.toNat s
/-- `brcpy` (R272): a chain of shifts, each of four cycles (R278). -/
def execBrcpy (a t : BitVec 2) (s : State) : Out :=
  slotMove (4 * (max a.toNat t.toNat - min a.toNat t.toNat)) a.toNat t.toNat s

/-! ## Column transfers and tables (R273, R274) -/

/-- `brdc` (R273). -/
def execBrdc (sl : BitVec 2) (c : BitVec 7) (o : BitVec 4) (s : State) : Out :=
  withInst s fun r i =>
    if !(i.slot sl.toNat).usable then s.endInst r i codeSlotState 0
    else
      let ws := readCol s i sl.toNat (i.col c)
      let n := 8 * i.octet o
      let acc := i.acc.mapIdx fun m w => if n ≤ m ∧ m < n + 8 then ws.getD (m - n) pzero else w
      ((s.noteCol r i sl.toNat (i.col c)).setInst { i with acc := acc }).opDone r i.k 1 (anyPoison ws) 0#5

/-- `bwrc` (R273). -/
def execBwrc (sl : BitVec 2) (c : BitVec 7) (o : BitVec 4) (s : State) : Out :=
  withInst s fun r i =>
    if !(i.slot sl.toNat).usable then s.endInst r i codeSlotState 0
    else
      let ws := (i.acc.drop (8 * i.octet o)).take 8
      (s.writeCol i sl.toNat (i.col c) ws).opDone r i.k 1 (anyPoison ws) 0#5

/-- A table with every column zero (R266). -/
def emptyTable : List (List PWord) := List.replicate 64 (List.replicate 8 pzero)

/-- `bldt` (R274). -/
def execBldt (t : BitVec 2) (x : BitVec 7) (a : BitVec 2) (y : BitVec 7) (s : State) : Out :=
  withInst s fun r i =>
    let cols : Option (List (List PWord)) := match i.slot t.toNat with
      | .opened _ _ _ => none
      | .closed => some emptyTable
      | .table cs => some cs
    if i.slot a.toNat = .closed then s.endInst r i codeSlotState 0
    else match cols with
      | none => s.endInst r i codeSlotState 0
      | some cs =>
        let ws := readCol s i a.toNat (i.col y)
        ((s.noteCol r i a.toNat (i.col y)).setInst { i with slots := i.slots.set t.toNat (.table (cs.set (i.col x) ws)) }).opDone
          r i.k 1 (anyPoison ws) 0#5

/-- One accumulator of `blut` (R274): the weight's table entry, exact in FP32, is added with one rounding. -/
def lutStep (w T : List PWord) (m : Nat) (a : PWord) : PWord × BitVec 5 :=
  let wm := w.getD (m / 8) pzero
  let n := wm.val.toNat / 2 ^ (4 * (m % 8)) % 16
  let tn := T.getD (n / 2) pzero
  let h := tn.val.toNat / 2 ^ (16 * (n % 2)) % 65536
  let q := fp32.add false 0 (fp32.decode a.val.toNat) (fp32.decode (h * 65536))
  (⟨BitVec.ofNat 32 q.1, a.poison || wm.poison || tn.poison⟩, q.2)

/-- `blut` (R274): 64 lookups. -/
def execBlut (a : BitVec 2) (x : BitVec 7) (t : BitVec 2) (y : BitVec 7) (s : State) : Out :=
  withInst s fun r i => match i.slot t.toNat with
    | .table cs =>
      if i.slot a.toNat = .closed then s.endInst r i codeSlotState 0
      else
        let w := readCol s i a.toNat (i.col x)
        let T := cs.getD (i.col y) (List.replicate 8 pzero)
        let rs := i.acc.mapIdx fun m v => lutStep w T m v
        let fl := rs.foldl (fun f p => f ||| p.2) 0#5
        ((s.noteCol r i a.toNat (i.col x)).setInst { i with acc := rs.map (·.1) }).opDone r i.k 1 (anyPoison w || anyPoison T) fl
    | _ => s.endInst r i codeSlotState 0

/-! ## Elementwise operations (R268, R275) -/

/-- Word by word over columns of the named slots, and parameter words that every result takes in: every slot must be usable; the results go to
the destination's column. -/
def elementOp (d c : Nat) (srcs : List Nat) (params : List PWord) (cost : Nat) (f : List Word → Word × BitVec 5) (s : State) (r : Run) (i : Inst) : State :=
  if (d :: srcs).any fun n => !(i.slot n).usable then s.endInst r i codeSlotState 0
  else
    let cols := srcs.map fun n => readCol s i n c
    let out := (List.range 8).map fun e =>
      let ws := cols.map fun col => col.getD e pzero
      let q := f (ws.map (·.val))
      ((⟨q.1, anyPoison ws || anyPoison params⟩ : PWord), q.2)
    let s1 := srcs.foldl (fun t n => t.noteCol r i n c) s
    let s2 := s1.writeCol i d c (out.map (·.1))
    s2.opDone r i.k cost (cols.any anyPoison || anyPoison params) (out.foldl (fun a p => a ||| p.2) 0#5)

/-- The FP32 value of a word, never flushed (R268). -/
def fv (w : Word) : FVal := fp32.decode w.toNat

/-- `beadd` (R275). -/
def execBeadd (d a b : BitVec 2) (c : BitVec 7) (v : BitVec 2) (s : State) : Out :=
  withInst s fun r i => elementOp d.toNat (i.col c) [a.toNat, b.toNat] [] 1 (fun ws => match v.toNat with
    | 0 => asWord (fp32.add false 0 (fv (w0 ws)) (fv (w1 ws)))
    | 1 => asWord (fp32.add false 0 (fv (w0 ws)) (fv (w1 ws)).flip)
    | 2 => fminVal true false (w0 ws) (w1 ws)
    | _ => fminVal false false (w0 ws) (w1 ws)) s r i

/-- `befma` (R275): `.vv` multiplies the slots and adds the destination, `.vs` multiplies by a parameter. -/
def execBefma (d a b : BitVec 2) (c : BitVec 7) (v : BitVec 2) (p : BitVec 4) (s : State) : Out :=
  withInst s fun r i =>
    if v = 0#2 then elementOp d.toNat (i.col c) [a.toNat, b.toNat, d.toNat] [] 1
      (fun ws => asWord (fp32.fma false 0 (fv (w0 ws)) (fv (w1 ws)) (fv (w2 ws)))) s r i
    else elementOp d.toNat (i.col c) [a.toNat, b.toNat] [r.param p.toNat] 1
      (fun ws => asWord (fp32.fma false 0 (fv (w0 ws)) (fv (r.param p.toNat).val) (fv (w1 ws)))) s r i

/-- x * y * y, rounded once (R275). -/
def scaleSq (x y : FVal) : Word × BitVec 5 :=
  asWord (fp32.finish false 0 [x, y] (match fmulExact x y with
    | none => none
    | some q => fmulExact q y))

/-- The value is below zero, so that its root is no number. -/
def FVal.below : FVal → Bool
  | .inf n => n
  | .fin n k _ => n && decide (k ≠ 0)
  | .nan _ => false

/-- x divided by the root of y, rounded once, with the special cases of IEEE 754 (R275): the root of a negative y raises NV whatever x. -/
def divRoot (x y : FVal) : Word × BitVec 5 := match x, y with
  | .nan _, _ => (0x7FC00000#32, sigFlag [x, y] ||| (if y.below then flagNV else 0#5))
  | _, .nan _ => (0x7FC00000#32, sigFlag [x, y])
  | _, .inf true => (0x7FC00000#32, flagNV)
  | .inf _, .inf false => (0x7FC00000#32, flagNV)
  | .fin n _ _, .inf false => asWord (fp32.signed n 0, 0#5)
  | x, .fin m k f =>
    if k ≠ 0 ∧ m = true then (0x7FC00000#32, flagNV)
    else match x with
      | .inf n => asWord (fp32.signed (n != m) fp32.infCode, 0#5)
      | .fin n j e =>
        if k = 0 then (if j = 0 then (0x7FC00000#32, flagNV) else asWord (fp32.signed (n != m) fp32.infCode, flagDZ))
        else if j = 0 then asWord (fp32.signed n 0, 0#5)
        else
          let odd : Bool := f % 2 != 0
          let k1 := if odd then 2 * k else k
          let f1 : Int := if odd then f - 1 else f
          let num := j * j * (2 : Nat) ^ (160 : Nat)
          let q := num / k1
          let t := isqrt 110 q
          asWord (fp32.roundFin false 0 n t (e - f1 / 2 - 80) (t * t != q || num % k1 != 0))
      | .nan g => (0x7FC00000#32, if g then flagNV else 0#5)

/-- `bescl` (R275). -/
def execBescl (d a : BitVec 2) (c : BitVec 7) (v : BitVec 2) (p : BitVec 4) (s : State) : Out :=
  withInst s fun r i =>
    let P := (r.param p.toNat).val
    let params := if v = 2#2 then [r.param p.toNat, r.param (p.toNat + 1)] else [r.param p.toNat]
    elementOp d.toNat (i.col c) [a.toNat] params (if v.toNat < 2 then 1 else 4) (fun ws => match v.toNat with
      | 0 => asWord (fp32.mul false 0 (fv P) (fv (w0 ws)))
      | 1 => scaleSq (fv P) (fv (w0 ws))
      | 2 =>
        let y := asWord (fp32.add false 0 (fv (w0 ws)) (fv (r.param (p.toNat + 1)).val))
        let q := divRoot (fv P) (fv y.1)
        (q.1, q.2 ||| y.2)
      | _ => fdivVal false 0 P (w0 ws)) s r i

/-! ## Output and control (R276, R277) -/

/-- The place of a virtual address among the pages that the pre-check found (R281). -/
def Run.place (r : Run) (va : Nat) : Option (Nat × Nat) :=
  (r.pages.find? fun p => p.1 == va / 4096).map fun p => (p.2.1, p.2.2 + va % 4096)

/-- The holder of a run's own writes at banks. -/
def writeHolder : Holder := ⟨2 ^ 35, []⟩

/-- Words written to memory at a virtual address of the run, with their poison: at a bank whose instance has the row closed they wait like
any other access (R287); what goes to another device leaves the model. -/
def State.runWrite (s : State) (r : Run) (va : Nat) (ws : List PWord) : State := match r.place va with
  | none => s
  | some (k, a) =>
    if k = 64 then
      let bs := ws.flatMap fun w => natLe 4 w.val.toNat
      let s1 := s.remember {} [(r.agent, .host a, bs)]
      { s1 with host := memWrite s1.host a bs }
    else if 64 < k then s
    else if s.instHolds writeHolder k a false then s.bankHold writeHolder k a true (some ⟨r.id, k, a, ws⟩)
    else ((s.writeWords r.id k a ws).noteTag r.asid k a).bankServe k a true

/-- OUT, OUTSTRIDE, SAVE, PAGES and MASK of a run block (R280). -/
def Run.out (r : Run) : Nat := fld r.block 0x18 8
/-- OUTSTRIDE. -/
def Run.stride (r : Run) : Nat := fld r.block 0x20 4
/-- SAVE. -/
def Run.save (r : Run) : Nat := fld r.block 0x28 8

/-- `bacc` (R276). -/
def execBacc (n : BitVec 3) (orel : BitVec 1) (imm : BitVec 10) (irel z : BitVec 1) (s : State) : Out :=
  withInst s fun r i =>
    let o := i.octet (orel ++ n)
    let off := 32 * (imm.toNat + (if irel = 1#1 then i.i else 0))
    if r.stride < off + 32 then s.endInst r i codeOutRange 0
    else
      let ws := (i.acc.drop (8 * o)).take 8
      let acc := if z = 1#1 then i.acc.mapIdx (fun m w => if 8 * o ≤ m ∧ m < 8 * o + 8 then pzero else w) else i.acc
      ((s.setInst { i with acc := acc }).runWrite r (r.out + i.k * r.stride + off) ws).opDone r i.k 2 (anyPoison ws) 0#5

/-- `bloop` (R277). -/
def execBloop (pe : BitVec 1) (p : BitVec 4) (cnt : BitVec 10) (last : BitVec 6) (s : State) : Out :=
  withInst s fun r i =>
    let P := if pe = 1#1 then r.param p.toNat else clean (cnt.setWidth 32)
    let count := P.val.toNat
    if 65535 < count then s.endInst r i codeBadParam 0
    else if count = 0 then
      let j := { i.spend r 1 with poison := i.poison || P.poison }
      let k := { j with loops := (backEdge last.toNat i.loops).2, pc := (backEdge last.toNat i.loops).1 }
      s.boundary r k
    else
      let j := { i.spend r 1 with poison := i.poison || P.poison }
      s.boundary r { j with loops := ⟨i.pc + 1, last.toNat, 0, count⟩ :: i.loops, pc := i.pc + 1 }

/-- `byld` (R277, R287). -/
def execByld (s : State) : Out :=
  withInst s fun r i =>
    let s1 := s.opDone r i.k 1 false 0#5
    match s1.inst r.id i.k with
    | none => s1
    | some j => s1.setInst (if s.drainedOn j.die then j else j.yieldPoint r)

/-- `bend` (R277): the end begins; the slots close, each by a micro-op, and the instance ends. -/
def execBend (s : State) : Out := withInst s fun r i => s.endInst r i 0 2

/-! ## Image checks (R269, R282) -/

/-- A word is a bank-op with every field as its entry requires. -/
def bankWord (w : Word) : Option Instr := match decodeWord w with
  | some i => (match i with
    | .bact .. | .bpre .. | .browsh .. | .brcpy .. | .brdc .. | .bwrc .. | .bldt .. | .blut .. | .beadd .. | .befma ..
    | .bescl .. | .bacc .. | .bloop .. | .byld | .bend => some i
    | _ => none)
  | none => none

/-- The static cost of a bank-op (R278). -/
def staticCost : Instr → Nat
  | .bact .. => 16
  | .bpre .. => 16
  | .browsh .. => 4
  | .brcpy a t => 4 * (max a.toNat t.toNat - min a.toNat t.toNat)
  | .bescl _ _ _ v _ => if v.toNat < 2 then 1 else 4
  | .bacc .. => 2
  | .bend => 66
  | _ => 1

/-- The loops of an image: index, last word, and the immediate count, none for a parameter. -/
def imageLoops (is : List Instr) : List (Nat × Nat × Option Nat) :=
  (List.range is.length).filterMap fun w => match (is[w]? : Option Instr) with
    | some (.bloop e _ c l) => some (w, l.toNat, if e = 1#1 then none else some c.toNat)
    | _ => none

/-- The loop bodies nest (R282): each ends after its own word and inside its enclosing body, no deeper than two. -/
def loopsOk (ls : List (Nat × Nat × Option Nat)) : Bool :=
  ls.all fun a => decide (a.1 < a.2.1)
    && (ls.all fun b => !(decide (b.1 < a.1) && decide (a.1 ≤ b.2.1)) || decide (a.2.1 ≤ b.2.1))
    && decide ((ls.filter fun b => decide (b.1 < a.1) && decide (a.1 ≤ b.2.1)).length < 2)

/-- The first `bend` outside every loop body. -/
def topBend (is : List Instr) (ls : List (Nat × Nat × Option Nat)) : Option Nat :=
  (List.range is.length).find? fun w => (match (is[w]? : Option Instr) with
    | some .bend => true
    | _ => false) && ls.all fun a => !(decide (a.1 < w) && decide (w ≤ a.2.1))

/-- The yield spans of a stretch of words: whether it holds a yield point, the static cost up to and including its first
one, the cost after its last one, and the longest span inside; a stretch without one counts its whole cost as the first. -/
structure Spans where
  yields : Bool
  first : Nat
  last : Nat
  longest : Nat
  bad : Bool
deriving DecidableEq, Repr

/-- Two stretches one after the other. -/
def Spans.andThen (a b : Spans) : Spans :=
  match a.yields, b.yields with
  | false, false => ⟨false, a.first + b.first, 0, 0, a.bad || b.bad⟩
  | false, true => ⟨true, a.first + b.first, b.last, b.longest, a.bad || b.bad⟩
  | true, false => ⟨true, a.first, a.last + b.first, a.longest, a.bad || b.bad⟩
  | true, true => ⟨true, a.first, b.last, max (max a.longest b.longest) (a.last + b.first), a.bad || b.bad⟩

/-- A loop of a count over a body (R282). -/
def Spans.loop (b : Spans) (own : Bool) : Option Nat → Spans
  | some n =>
    if n = 0 then ⟨false, 0, 0, 0, b.bad⟩
    else if !b.yields then ⟨false, n * b.first, 0, 0, b.bad⟩
    else ⟨true, b.first, b.last, if 2 ≤ n then max b.longest (b.last + b.first) else b.longest, b.bad⟩
  | none => if own then ⟨true, b.first, b.last, max b.longest (b.last + b.first), b.bad⟩ else { b with bad := true }

/-- A `byld` at the own level of words lo to hi. -/
def ownYield (is : List Instr) (lo hi : Nat) : Bool :=
  (List.range is.length).any fun w => decide (lo ≤ w) && decide (w ≤ hi) && (match (is[w]? : Option Instr) with
    | some .byld => true
    | _ => false) && (imageLoops is).all fun a => !(decide (lo ≤ a.1) && decide (a.1 < w) && decide (w ≤ a.2.1))

/-- The spans of words lo to hi, by fuel. -/
def spansOf (is : List Instr) : Nat → Nat → Nat → Spans
  | 0, _, _ => ⟨false, 0, 0, 0, true⟩
  | fuel + 1, lo, hi =>
    if hi < lo then ⟨false, 0, 0, 0, false⟩
    else match (is[lo]? : Option Instr) with
      | some (.bloop e _ c l) =>
        let body := spansOf is fuel (lo + 1) l.toNat
        let rest := spansOf is fuel (l.toNat + 1) hi
        (Spans.andThen ⟨false, 1, 0, 0, false⟩
          (body.loop (ownYield is (lo + 1) l.toNat) (if e = 1#1 then none else some c.toNat))).andThen rest
      | some .byld => Spans.andThen ⟨true, 1, 0, 0, false⟩ (spansOf is fuel (lo + 1) hi)
      | some i => Spans.andThen ⟨false, staticCost i, 0, 0, false⟩ (spansOf is fuel (lo + 1) hi)
      | none => ⟨false, 0, 0, 0, false⟩

/-- No yield span exceeds 200 bank cycles (R282). -/
def spansOk (is : List Instr) (b : Nat) : Bool :=
  let x := spansOf is 65 0 b
  !x.bad && decide (x.first ≤ 200) && decide (x.last ≤ 200) && decide (x.longest ≤ 200)

/-! ## Pre-check (R281) -/

/-- How a run sees memory: its issuer's address space and level. -/
def Run.view (r : Run) : View := ⟨r.f, r.asid, r.user, false⟩

/-- The code of a translation failure, with its rank. -/
def fltCode (e : Flt) : Nat × Nat := (e.rank, if e.rank ≤ 3 then 0x04 else if e.rank = 4 then 0x05 else 0x03)

/-- The first byte of a 4 KiB page that a run looks up for an access; a remote leaf that names this device leads to the participant's memory
(R467). A constant block is not resident for a bank unit (R217). -/
def Run.pageLoc (r : Run) (s : State) (k : Acc) (va : Nat) : Except Flt Loc × State := match s.engLoc r.view k (va / 4096 * 4096) with
  | (.ok l, t) => (match l.base with
    | .dram .. | .host .. | .remote .. => .ok l
    | _ => .error ⟨5, 0x07#8, false, 0, false, va⟩, t)
  | x => x

/-- One page of a run looked up, in the form that the run keeps it. -/
def Run.page (r : Run) (s : State) (k : Acc) (va : Nat) : Except Flt (Nat × Nat × Nat) × State := match r.pageLoc s k va with
  | (.error e, t) => (.error e, t)
  | (.ok l, t) => (.ok (va / 4096, match l.base with
    | .dram f a => (f, a)
    | .host a => (64, a)
    | .remote _ _ ia => (65, ia)
    | _ => (65, 0)), t)

/-- The pages of a range that a run reads. -/
def Run.locs (r : Run) : List Nat → State → Except Flt Pages × State
  | [], s => (.ok [], s)
  | p :: ps, s => match r.pageLoc s .load (4096 * p) with
    | (.error e, t) => (.error e, t)
    | (.ok l, t) => match r.locs ps t with
      | (.error e, u) => (.error e, u)
      | (.ok qs, u) => (.ok ((p, l) :: qs), u)

/-- Bytes read through a run's translations, with the poison of each 16-byte block. The spec does not say what the pre-check does with a
poisoned or late word of the block's fields or of the image: DESIGN CHOICE, it uses the word as it stands (log entry 46). -/
def Run.bytes (r : Run) (s : State) (va n : Nat) : Except Flt (List Byte × List Bool) × State := match r.locs (pageNums va n) s with
  | (.error e, t) => (.error e, t)
  | (.ok ps, t) =>
    let (xs, u) := t.readCuts r.agent r.asid ps (blockCuts va n)
    (.ok (xs.flatMap (·.1), xs.map (·.2)), u)

/-- Several pages looked up: those found, and the lowest-ranked failure's code. -/
def Run.find (r : Run) (k : Acc) : List Nat → State → List (Nat × Nat × Nat) × Option (Nat × Nat) × State
  | [], s => ([], none, s)
  | va :: vs, s =>
    let (p, s1) := r.page s k va
    let (ps, w, s2) := r.find k vs s1
    match p with
    | .ok x => (x :: ps, w, s2)
    | .error e => (ps, some (match w with
      | none => fltCode e
      | some y => if (fltCode e).1 ≤ y.1 then fltCode e else y), s2)

/-- Page k of a run's MASK (R217, R281): one leaf of at least 2 MiB that is bank-resident memory of the slice, readable, and
writable when asked, which a page that holds frozen stage-2 tables is not (R451). A page marked NR or CB is not resident, after the
permission check. -/
def Run.bankPage (r : Run) (s : State) (write : Bool) (k : Nat) : Except (Nat × Nat) Nat × State :=
  let va := fld r.block 8 8 + k * 2 ^ 21
  if va / 2 ^ 56 ≠ 0 then (.error (3, 0x04), s)
  else match xlate s r.f r.asid va with
    | (.fail _, t) => (.error (3, 0x04), t)
    | (.ok l, t) =>
      if l.cb.isSome || l.nr1 || l.nr2 then
        match leafCheck l r.user (if write then .store else .load) va with
        | some e => (.error (fltCode e), t)
        | none => (.error (5, 0x03), t)
      else if l.remote.isSome || l.host || !l.br || decide (l.size1 < 2) || decide (l.size2 < 2) then (.error (3, 0x04), t)
      else match leafCheck l r.user (if write then .store else .load) va with
        | some e => (.error (fltCode e), t)
        | none =>
          if write ∧ r.f = 0 ∧ (t.pkg.frozen.any fun p => p.2 / 512 == l.spa / 2 ^ 21) = true then (.error (4, 0x05), t) else (.ok l.spa, t)

/-- The bank pages of a run, with the lowest-ranked failure. -/
def Run.bankPages (r : Run) (write : Bool) : List Nat → State → List (Nat × Nat) × Option (Nat × Nat) × State
  | [], s => ([], none, s)
  | k :: ks, s =>
    let (p, s1) := r.bankPage s write k
    let (ps, w, s2) := r.bankPages write ks s1
    match p with
    | .ok a => ((k, a) :: ps, w, s2)
    | .error e => (ps, some (match w with
      | none => e
      | some y => if e.1 ≤ y.1 then e else y), s2)

/-- The lower-ranked of two failures. -/
def lower : Option (Nat × Nat) → Option (Nat × Nat) → Option (Nat × Nat)
  | none, b => b
  | a, none => a
  | some a, some b => some (if a.1 ≤ b.1 then a else b)

/-- The fields of the run block (R280). -/
def blockOk (b : List Byte) : Bool :=
  fld b 0 8 % 256 == 0 && fld b 8 8 % 2 ^ 21 == 0 && fld b 0x10 8 != 0 && fld b 0x18 8 % 32 == 0
  && fld b 0x20 4 % 32 == 0 && decide (fld b 0x20 4 ≤ 32768)
  && ((fld b 0x20 4 == 0) == (fld b 0x18 8 == 0)) && fld b 0x24 4 == 0 && fld b 0x28 8 % 64 == 0 && fld b 0x38 8 == 0

/-- The image's header (R269), and OUT, which is 0 unless the image holds a `bacc` (R280). -/
def headerOk (b hdr : List Byte) (usesOut : Bool) : Bool :=
  let bound := fld hdr 0 4
  (usesOut || fld b 0x18 8 == 0) && decide (1 ≤ bound) && decide (bound < 2 ^ 24) && decide (1 ≤ fld hdr 4 1) && decide (fld hdr 4 1 ≤ 64)
  && (hdr.drop 5).all (· == 0#8)

/-- The longest admission window, in bank cycles (R283). -/
def State.window (s : State) : Nat := if s.cal.next.doubled then 7000 else 15000

/-- The pages of 4 KiB that a range of bytes touches. -/
def pagesOf (va n : Nat) : List Nat := if n = 0 then [] else (List.range ((va % 4096 + n + 4095) / 4096)).map fun i => va / 4096 * 4096 + 4096 * i

/-- A run is over before any instance starts. -/
def State.failRun (s : State) (r : Run) (code : Nat) : State := s.setRun { r with checked := true, code := BitVec.ofNat 8 code }

/-- The instances of a run in the FIFOs of their banks (R280, R283). -/
def State.queueInsts (s : State) (r : Run) (ps : List (Nat × Nat)) : State :=
  let x := s.slice r.f
  let mk (p : Nat × Nat) : Inst :=
    let key := (spaRow r.f x p.2).1
    ⟨r.id, p.1, r.f, key.stack, rowBank x key, p.2, false, [], [], 0, [], 0#5, 0, false, false, false, [], 0, false, [], [], none⟩
  { s with bank := { s.bank with insts := s.bank.insts ++ ps.map mk } }

/-- The image writes its pages (R281). -/
def writesPages (is : List Instr) : Bool := is.any fun i => match i with
  | .bwrc .. | .befma .. | .beadd .. | .bescl .. | .browsh .. | .brcpy .. => true
  | _ => false

/-- The image holds a `bacc`. -/
def usesOut (is : List Instr) : Bool := is.any fun i => match i with
  | .bacc .. => true
  | _ => false

/-- A word is a `bacc`. -/
def isBacc (w : Word) : Bool := match bankWord w with
  | some (.bacc ..) => true
  | _ => false

/-- The checks of the translations (R281): the pages of the run block with their own failure found already. -/
def State.precheckPages (s : State) (r : Run) (is : List Instr) (blkPg : List (Nat × Nat × Nat)) (f1 : Option (Nat × Nat)) : State :=
  let ks := (List.range 64).filter fun k => bitAt (fld r.block 0x10 8) k
  let ia := fld r.block 0 8
  let (imgPg, f2, t2) := r.find .load (pagesOf ia 272) s
  let (bank, f3, t3) := r.bankPages (writesPages is) ks t2
  let (outPg, f4, t4) := r.find .store (ks.flatMap fun k => pagesOf (r.out + k * r.stride) r.stride).dedup t3
  let saves := if r.save = 0 then [] else (ks.flatMap fun k => pagesOf (r.save + k * 320) 320).dedup
  let (savePg, f5, t5) := r.find .store saves t4
  match lower f1 (lower f2 (lower f3 (lower f4 f5))) with
  | some e => t5.failRun r e.2
  | none =>
    if ¬ (bank.map (·.2)).Nodup then t5.failRun r 0x0E
    else if t5.window < r.bound then t5.failRun r 0x07
    else
      let bankPg := bank.map fun p => ((fld r.block 8 8 + p.1 * 2 ^ 21) / 4096, r.f, p.2)
      let r1 := { r with checked := true, pages := blkPg ++ outPg ++ savePg ++ imgPg ++ bankPg }
      (t5.setRun r1).queueInsts r1 bank

/-- The checks of a run, in their order (R281). Those of the block's own fields need only the block; a block or an image that cannot be read
ends the run with the code of its translation. The block's pages found for writing serve STATUS whatever fails. -/
def State.precheck (s : State) (r : Run) : State := match r.bytes s r.va 128 with
  | (.error e, t) => t.failRun r (fltCode e).2
  | (.ok (blk, bad), t) =>
    let (blkPg, f1, t0) := r.find .store (pagesOf r.va 128) t
    let pbad : BitVec 16 := (laneMask 16 fun p => bad.getD (4 + p / 4) false).setWidth 16
    let r1 := { r with block := blk, pbad := pbad, pages := if f1.isNone then blkPg else [] }
    if !blockOk blk then t0.failRun r1 0x06
    else match r1.bytes t0 (fld blk 0 8) 272 with
    | (.error e, t1) => t1.failRun r1 (fltCode e).2
    | (.ok (img, _), t1) =>
      let ws := (List.range 64).map fun i => BitVec.ofNat 32 (fld img (4 * i) 4)
      let hdr := img.drop 256
      let is := ws.filterMap bankWord
      let r2 := { r1 with image := ws, bound := fld hdr 0 4 }
      let loops := imageLoops is
      if !headerOk blk hdr (ws.any isBacc) then t1.failRun r2 0x06
      else if is.length ≠ 64 ∨ ¬ loopsOk loops = true ∨ (topBend is loops).isNone = true then t1.failRun r2 0x01
      else if !spansOk is ((topBend is loops).getD 0) then t1.failRun r2 0x02
      else t1.precheckPages r2 is blkPg f1

/-- What the banks hold of a run's pre-check (R287): of its reads of the block and the image, else of the table walks of its pages. -/
def State.precheckHeld (s : State) (r : Run) : List (Nat × Nat × Bool) :=
  if !s.busyBanks then []
  else match s.rangesHeld r.holder r.view .load [(r.va, 128)] with
    | [] => match (r.bytes s r.va 128).1 with
      | .error _ => []
      | .ok (blk, _) =>
        let b := { r with block := blk }
        let ks := (List.range 64).filter fun k => bitAt (fld blk 0x10 8) k
        let pages := ks.flatMap fun k => pageNums (fld blk 8 8 + k * 2 ^ 21) 1 ++ pageNums (b.out + k * b.stride) b.stride
          ++ if b.save = 0 then [] else pageNums (b.save + k * 320) 320
        match s.rangesHeld r.holder r.view .load [(fld blk 0 8, 272)] with
        | [] => s.walksHeld r.holder r.view pages
        | rs => rs
    | rs => rs

/-- `RUN_PRECHECK` (R281). It waits while a bank holds a read of it (R287). -/
def execRunPrecheck (run : Nat) (s : State) : Out := match s.run run with
  | none => .next s
  | some r =>
    if r.checked then .next s
    else match s.precheckHeld r with
      | [] => .next ((s.unhold r.holder).precheck r)
      | rs => .next (s.holdReqs r.holder rs)

/-! ## Admission (R283) -/

/-- The instance at the head of a bank's FIFO. -/
def State.bankHead (s : State) (stack bank : Nat) : Option Inst := s.bank.insts.find? fun i => i.stack == stack && i.bank == bank

/-- An instance may start now: its bound ends by the drain point of the next slot of its base die (R283). -/
def State.fits (s : State) (d bound : Nat) : Bool :=
  !s.inSlotOn d && (s.comingOn d).head?.any fun x => decide (235 ≤ s.startsIn d x) && decide (bound * 94 ≤ (s.startsIn d x - 235) * 50)

/-- An instance started in a cycle (R265). -/
def Inst.begin (i : Inst) (now : Nat) : Inst :=
  { i with started := true, begun := now, slots := List.replicate 4 .closed, acc := List.replicate 64 pzero, pc := 0, loops := [] }

/-- A live granule move holds admission at the bank: at the one in turn (R457). -/
def State.bankMoving (s : State) (i : Inst) : Bool := match (s.slice i.f).trust.move with
  | none => false
  | some m => decide (i.bank / 32 = ((s.slice i.f).gran.getD m.1 none).getD 64) && decide (32 * i.stack + i.bank % 32 = m.2.2)

/-- `INSTANCE_ADMISSION` (R283): the head starts when its bound fits; with a bound above the window its run ends. -/
def execBankAdmission (stack bank : Nat) (s : State) : Out := match s.bankHead stack bank with
  | none => .next s
  | some i => match s.run i.run with
    | none => .next s
    | some r =>
      if i.started then .next s
      else if s.window < r.bound then
        let s1 := if r.code = 0#8 then s.setRun { r with code := 0x07#8 } else s
        .next { s1 with bank := { s1.bank with insts := s1.bank.insts.filter fun x => x.started || x.run != r.id } }
      else if s.fits i.die r.bound ∧ ¬ s.bankMoving i = true then .next (s.setInst (i.begin s.now))
      else .next s

/-- The holder of accesses by agents outside the model. -/
def outsideHolder : Holder := ⟨2 ^ 34, []⟩

/-- `BANK_ACCESS_SERVED` (R287): an access of an agent outside the model's core to a row of a bank, counted in the instance's page; one to a
closed row waits. The data of a write is not known: it leaves a free block. -/
def execBankAccessServed (stack bank row : Nat) (write : Bool) (s : State) : Out := match s.bankHead stack bank with
  | none => .next s
  | some i =>
    if !i.started then .next s
    else
      let (c, s1) := s.choose
      let a := i.rowAddr row + 32 * (c % 64)
      let bytes := (List.range 8).map fun w => clean (BitVec.ofNat 32 (leNat ((List.range 4).map fun b => Config.freeByte s.free (4 * w + b))))
      if (i.openAt (row : Int)).isSome then
        let s2 := if write then s1.bankServe i.f a true else s.bankServe i.f a false
        .next (if write then s2.writeWords s.bank.nextRun i.f a bytes else s2)
      else if write then .next (s1.bankHold outsideHolder i.f a true (some ⟨s.bank.nextRun, i.f, a, bytes⟩))
      else .next (s.bankHold outsideHolder i.f (i.rowAddr row) false none)

/-! ## The next micro-op of an instance -/

/-- The instance's next micro-op boundary has come (R278): its bank cycles since it started are over, at 94 core cycles for 50. -/
def State.instDue (s : State) (i : Inst) : Bool :=
  i.started && !i.ended && !s.inSlotOn i.die && decide (i.begun * 50 + i.counter * 94 ≤ s.now * 50)

/-- The accesses of a yield point, or those that were held to an instance's end, are to be served now (R287): not in a slot. -/
def State.serveDue (s : State) (i : Inst) : Bool := i.started && (i.atYield || i.ended) && !s.inSlotOn i.die

/-- The instance's next word is to be executed. -/
def State.pickInst (s : State) (i : Inst) : State := { s with bank := { s.bank with cur := some (i.run, i.k) } }

/-- A write of a bank run that waited at a bank is performed. -/
def State.heldWrite (s : State) (w : BWrite) : State := s.writeWords w.run w.f w.spa w.words

/-- The accesses held at a bank are taken from its list (R287): who waits there may now reach its rows. -/
def State.takeHeld (s : State) (i : Inst) : State :=
  let s1 := if i.ended then { s with bank := { s.bank with insts := s.bank.insts.filter fun x => !(x.ended && x.run == i.run && x.k == i.k) } }
    else s.setInst { i with held := [], atYield := false }
  { s1 with bank := { s1.bank with granted := s1.bank.granted ++ i.held.filterMap fun h =>
      if h.data.isNone && h.who != outsideHolder then some (h.who, i.stack, i.bank) else none } }

/-! ## Overrun and halt (R284, R286) -/

/-- The save record of a stopped instance (R286): the accumulators keep their poison (R265). -/
def Inst.record (i : Inst) : List PWord :=
  let bs := natLe 4 i.pc ++ natLe 4 i.counter ++ natLe 2 i.j ++ natLe 2 i.i ++ natLe 1 i.flags.toNat ++ natLe 1 i.loops.length ++ List.replicate 50 0#8
  (List.range 16).map (fun w => clean (BitVec.ofNat 32 (fld bs (4 * w) 4))) ++ i.acc

/-- An instance still running at a slot's start stops, and is saved (R286, R424). -/
def State.overrun (s : State) (seq : BitVec 16) (i : Inst) : State := match s.run i.run with
  | none => s
  | some r =>
    let e : InstEnd := ⟨i.k, 0x0C#8, i.flags, i.counter, i.exceeded, i.poison, some i.record, seq⟩
    let s2 := (s.setRun { r with ends := r.ends ++ [e] }).dropInst i
    s2.recEvent (0x100 + i.stack) 0x08 0x03 r.asid.toNat r.f (i.k + seq.toNat * 2 ^ 6)

/-- What a halted instance had written over in rows still open stands again: those rows are not written back, nor is a mark that moved content left on them
(R284). -/
def State.undoOpen (s : State) (i : Inst) : State :=
  let key (row : Nat) : RowKey := (spaRow i.f (s.slice i.f) (i.rowAddr row)).1
  let back (l : List RowKey) (p : Nat × Bool) : List RowKey := if p.2 then key p.1 :: l.filter (· ≠ key p.1) else l.filter (· ≠ key p.1)
  let s := { s with rowBad := i.marks.foldl back s.rowBad }
  i.pre.foldl (fun t p => (spaWrite t i.f (i.rowAddr p.1 + 32 * p.2.1) (p.2.2.flatMap fun w => natLe 4 w.val.toNat)).markBlocks i.f
    (i.rowAddr p.1 + 32 * p.2.1) p.2.2) s

/-- The instances of a halted slice stop and write nothing further (R284); those still queued end in the same way. -/
def State.haltRuns (s : State) (f : Nat) : State :=
  let mine := s.bank.insts.filter fun i => i.f == f && !i.ended
  let ended (r : Run) : Run :=
    if r.f ≠ f then r
    else { r with
      checked := true
      code := if r.checked then r.code else 0x0D#8
      ends := r.ends ++ ((mine.filter fun i => i.run == r.id).map fun i =>
        ⟨i.k, 0x0D#8, i.flags, i.counter, i.exceeded, i.poison, none, 0#16⟩) }
  let drop (h : Held) : Bool := h.data.any fun w => s.bank.runs.any fun r => r.id == w.run && r.f == f
  let s1 := mine.foldl State.undoOpen { s with bank := { s.bank with
    runs := s.bank.runs.map ended
    insts := s.bank.insts.map fun i => { i with held := i.held.filter fun h => !drop h } } }
  mine.foldl State.dropInst s1

/-! ## Completion (R284) -/

/-- The instance result that STATUS names: the lowest-numbered instance with a nonzero code. -/
def Run.worstEnd (r : Run) : Option InstEnd :=
  (List.range 64).findSome? fun k => r.ends.find? fun e => e.k == k && e.code != 0#8

/-- STATUS (R284). -/
def Run.status (r : Run) : BitVec 64 :=
  let code := if r.code ≠ 0#8 then r.code.toNat else match r.worstEnd with
    | some e => e.code.toNat
    | none => 0
  let k := if r.code ≠ 0#8 then 0 else match r.worstEnd with
    | some e => e.k
    | none => 0
  let fl := r.ends.foldl (fun a e => a ||| e.flags) 0#5
  let cyc := min 0xFFFFFFFF (r.ends.foldl (fun a e => max a e.counter) 0)
  BitVec.ofNat 64 (code + k * 2 ^ 8 + (if r.ends.any (·.exceeded) then 2 ^ 14 else 0) + (if r.ends.any (·.poison) then 2 ^ 15 else 0)
    + fl.toNat * 2 ^ 16 + cyc * 2 ^ 32)

/-- The save records of a run's stopped instances (R286). -/
def State.writeSaves (s : State) (r : Run) : State :=
  if r.save = 0 then s
  else (List.range 64).foldl (fun t k => match r.ends.find? fun e => e.k == k with
    | some e => (match e.save with
      | some ws => (List.range 20).foldl (fun u j =>
          u.runWrite r (r.save + 320 * k + 16 * j) ((ws.drop (4 * j)).take 4)) t
      | none => t)
    | none => t) s

/-- The fault-queue records of overruns, in ascending k (R424). -/
def State.postOverruns (s : State) (r : Run) : State :=
  (List.range 64).foldl (fun t k => match r.ends.find? fun e => e.k == k && e.code == 0x0C#8 with
    | some e => t.postFq r.f 6 t.coreNo (k + e.slotSeq.toNat * 65536) r.va r.gridVa r.linear t.now
    | none => t) s

/-- STATUS written, when the block can be read and written (R284, R343): at the place that the pre-check found (R281). -/
def State.writeStatus (s : State) (r : Run) : State :=
  s.runWrite r (r.va + 0x30) [clean (r.status.setWidth 32), clean ((r.status >>> 32).setWidth 32)]

/-- A write of a run still waits at a bank. -/
def State.runHeld (s : State) (run : Nat) : Bool := s.bank.insts.any fun i => i.held.any fun h => h.data.any fun w => w.run == run

/-- A run whose instances have ended, and whose writes are made, completes (R284), which may free what its killed team holds (R349). -/
def State.finishRun (s : State) (r : Run) : State :=
  let s0 := s.postOverruns r
  let s1 := { s0 with bank := { s0.bank with runs := s0.bank.runs.filter fun q => q.id != r.id } }
  (s1.completeCmd .bk r.gctx r.uid r.f r.asid r.seq (r.status.toNat % 256) r.scope r.va r.id r.post).releaseEnded r.tuid

/-- `RUN_COMPLETE` (R284): once every instance has ended, outside a slot, its saves and STATUS are written, and when all its writes are made the
run completes. -/
def execRunComplete (run : Nat) (s : State) : Out := match s.run run with
  | none => .next s
  | some r =>
    if r.checked ∧ ¬ (s.bank.insts.any fun i => i.run == run && !i.ended) = true ∧ s.cal.inSlot.isNone = true ∧ ¬ s.runHeld run = true then
      let s1 := if r.written then s else (s.writeSaves r).writeStatus r
      .next (if s1.runHeld run then s1.setRun { r with written := true } else s1.finishRun r)
    else .next s

end Sys2Proof.Machine
end

