-- ==== Sys2Proof/Machine/Convert.lean ====
section
/-! DEFINITION. Conversions, quantisation and dot products: majors 0x30 to 0x34, 0x38 and 0x39
(spec/05_lane_arithmetic_instructions.md R113 to R119; spec/03_number_formats.md R61, R62, R70). -/
namespace Sys2Proof.Machine

/-! ## Integers (R113) -/

/-- `f2i` value, signed or unsigned. -/
def f2iVal (uns z : Bool) (m : Nat) (a : Word) : Word × BitVec 5 :=
  let lo : Int := if uns then 0 else -2147483648
  let hi : Int := if uns then 4294967295 else 2147483647
  match f32 z a with
  | .nan _ => (0#32, flagNV)
  | .inf n => (BitVec.ofInt 32 (if n then lo else hi), flagNV)
  | .fin n k e =>
    let r := roundInt m n k e
    if r.1 < lo then (BitVec.ofInt 32 lo, flagNV)
    else if hi < r.1 then (BitVec.ofInt 32 hi, flagNV)
    else (BitVec.ofInt 32 r.1, if r.2 then flagNX else 0#5)

/-- `i2f` value. -/
def i2fVal (uns : Bool) (m : Nat) (a : Word) : Word × BitVec 5 :=
  let v : Int := if uns then (a.toNat : Int) else a.toInt
  asWord (fp32.roundFin false m (decide (v < 0)) v.natAbs 0 false)

/-- `f2i`, signed with u 0 and unsigned with u 1 (R113). -/
def execF2i (n u : BitVec 1) (d a : BitVec 7) (s : State) : Out := fpUnary n d a (f2iVal (u == 1#1)) s
/-- `i2f` (R113). -/
def execI2f (n u : BitVec 1) (d a : BitVec 7) (s : State) : Out := fpUnary n d a (fun _ m x => i2fVal (u == 1#1) m x) s

/-! ## Between floating-point formats (R114) -/

/-- A value of one format taken to another, with the flag of a signalling source. -/
def cvt (F : Fmt) (z : Bool) (m : Nat) (x : FVal) : Nat × BitVec 5 := F.finish z m [x] (some x)

/-- Codes packed from the least significant position up, w bits each, with their flags ORed. -/
def packCodes (w : Nat) : List (Nat × BitVec 5) → Nat × BitVec 5
  | [] => (0, 0#5)
  | (c, f) :: r => let p := packCodes w r
    (c + 2 ^ w * p.1, f ||| p.2)

/-- Element i of w bits of a word. -/
def elemBits (w : Nat) (x : Word) (i : Nat) : Nat := (x.toNat / 2 ^ (w * i)) % 2 ^ w

/-- Source words to one packed word. -/
def narrowOp (n : BitVec 1) (d : BitVec 7) (srcs : List (BitVec 7 × Nat)) (F : Fmt) : State → Out :=
  laneUnit { nw := n == 1#1, rm := true, names := (d, 1) :: srcs } (.regs d 1)
    (fpLane (fun _ => srcs.map fun p => (p.1.toNat, p.2)) fun z m v =>
      let r := asWord (packCodes F.width (v.map fun x => cvt F z m (f32 z x)))
      ([r.1], r.2))

/-- One packed word to several FP32 words. -/
def widenOp (n : BitVec 1) (d a : BitVec 7) (F : Fmt) (k : Nat) : State → Out :=
  laneUnit { nw := n == 1#1, rm := true, names := [(d, k), (a, 1)] } (.regs d k)
    (fpLane (fun _ => [(a.toNat, 1)]) fun z m v =>
      let rs := (List.range k).map fun i => cvt fp32 z m (F.decodeFtz z (elemBits F.width (w0 v) i))
      (rs.map fun r => BitVec.ofNat 32 r.1, rs.foldl (fun a r => a ||| r.2) 0#5))

/-- A packed pair to a packed pair of another format. -/
def repackOp (n : BitVec 1) (d a : BitVec 7) (F T : Fmt) : State → Out :=
  fpUnary n d a fun z m x => packed2 fun i => cvt T z m (F.elem16 z x i)

/-- `fcvt.f16.f32` (R114). -/
def execFcvtF16F32 (n : BitVec 1) (d a b : BitVec 7) (s : State) : Out := narrowOp n d [(a, 1), (b, 1)] fp16 s
/-- `fcvt.f32.f16` (R114). -/
def execFcvtF32F16 (n : BitVec 1) (d a : BitVec 7) (s : State) : Out := widenOp n d a fp16 2 s
/-- `fcvt.bf16.f32` (R114). -/
def execFcvtBf16F32 (n : BitVec 1) (d a b : BitVec 7) (s : State) : Out := narrowOp n d [(a, 1), (b, 1)] bf16 s
/-- `fcvt.f32.bf16` (R114). -/
def execFcvtF32Bf16 (n : BitVec 1) (d a : BitVec 7) (s : State) : Out := widenOp n d a bf16 2 s
/-- `fcvt.e4m3.f32` (R114). -/
def execFcvtE4m3F32 (n : BitVec 1) (d a : BitVec 7) (s : State) : Out := narrowOp n d [(a, 4)] e4m3 s
/-- `fcvt.f32.e4m3` (R114). -/
def execFcvtF32E4m3 (n : BitVec 1) (d a : BitVec 7) (s : State) : Out := widenOp n d a e4m3 4 s
/-- `fcvt.e5m2.f32` (R114). -/
def execFcvtE5m2F32 (n : BitVec 1) (d a : BitVec 7) (s : State) : Out := narrowOp n d [(a, 4)] e5m2 s
/-- `fcvt.f32.e5m2` (R114). -/
def execFcvtF32E5m2 (n : BitVec 1) (d a : BitVec 7) (s : State) : Out := widenOp n d a e5m2 4 s
/-- `fcvt.e2m1.f32` (R114). -/
def execFcvtE2m1F32 (n : BitVec 1) (d a : BitVec 7) (s : State) : Out := narrowOp n d [(a, 4)] e2m1 s
/-- `fcvt.f32.e2m1` (R114). -/
def execFcvtF32E2m1 (n : BitVec 1) (d a : BitVec 7) (s : State) : Out := widenOp n d a e2m1 4 s
/-- `fcvt.bf16.f16` (R114). -/
def execFcvtBf16F16 (n : BitVec 1) (d a : BitVec 7) (s : State) : Out := repackOp n d a fp16 bf16 s
/-- `fcvt.f16.bf16` (R114). -/
def execFcvtF16Bf16 (n : BitVec 1) (d a : BitVec 7) (s : State) : Out := repackOp n d a bf16 fp16 s

/-! ## DL8 (R115) -/

/-- A word with one byte replaced. -/
def setByte (w : Word) (i c : Nat) : Word := (w &&& ~~~(0xFF#32 <<< (8 * i))) ||| (BitVec.ofNat 32 (c % 256) <<< (8 * i))

/-- `cvtdl.f32`: the binary decode of the selected byte (R64, R115). -/
def execCvtdlF32 (n : BitVec 1) (d a : BitVec 7) (s : State) : Out :=
  laneUnit { nw := n == 1#1, rm := true, x := 3, names := [(d, 1), (a, 1)] } (.regs d 1) (fun _ c G l =>
    onWords G l [(a.toNat, 1)] fun v => ([BitVec.ofNat 32 (dl8Decode (elemBits 8 (w0 v) (pfxX c)))], 0#5)) s

/-- `cvtdl.dl8`: b with the selected byte replaced (R65, R115). -/
def execCvtdlDl8 (n : BitVec 1) (d a b : BitVec 7) (s : State) : Out :=
  laneUnit { nw := n == 1#1, rm := true, x := 3, names := [(d, 1), (a, 1), (b, 1)] } (.regs d 1) (fun s c G l =>
    onWords G l [(a.toNat, 1), (b.toNat, 1)] fun v =>
      let r := dl8Encode (unitMode s G c) (f32 (s.ftz G) (w0 v))
      ([setByte (w1 v) (pfxX c) r.1], r.2)) s

/-! ## MX blocks (R61, R62, R118, R119) -/

/-- The element formats by the variant's number: E4M3, E5M2, E2M1, and none for INT8. -/
def mxFmt : Nat → Option Fmt
  | 0 => some e4m3
  | 1 => some e5m2
  | 2 => some e2m1
  | _ => none

/-- emax of an element format (R62). -/
def mxEmax : Nat → Int
  | 0 => 8
  | 1 => 15
  | 2 => 2
  | _ => 0

/-- floor(log2) of a nonzero finite magnitude. -/
def floorLog2 : FVal → Int
  | .fin _ m e => e + (bitLen m : Int) - 1
  | _ => 0

/-- The exponent of the shared scale: from the largest magnitude, or -127 for a block of zeros (R62). -/
def mxExp (f : Nat) (xs : List FVal) : Int :=
  match (xs.filter fun x => !x.isZero).map floorLog2 with
  | [] => -127
  | e :: es => max (-127) (min 127 (es.foldl max e - mxEmax f))

/-- The scale byte of a block; none when some element is NaN or infinite (R62). -/
def mxScale (f : Nat) (xs : List FVal) : Option Int := if xs.any (fun x => x.isNan || x.isInf) then none else some (mxExp f xs)

/-- One element quantised under a scale exponent: its code and whether it is inexact (R62). -/
def mxElem (f m : Nat) (xe : Int) : FVal → Nat × Bool
  | .fin n k e => match mxFmt f with
    | some F => let r := F.roundFin false m n k (e - xe) false
      (r.1, r.2.getLsbD 4)
    | none =>
      let r := roundInt m n k (e - xe + 6)
      let q := max (-127) (min 127 r.1)
      ((BitVec.ofInt 8 q).toNat, r.2 || q != r.1)
  | _ => (0, false)

/-- The width of an element. -/
def mxWidth (f : Nat) : Nat := if f = 2 then 4 else 8

/-- The two words that `mxq` writes in a lane whose block holds the values `xs` and whose own values are `own`. -/
def mxqVal (f m : Nat) (xs own : List FVal) : List Word × BitVec 5 := match mxScale f xs with
  | none => ([0#32, 0xFFFFFFFF#32], flagNV)
  | some xe =>
    let rs := own.map (mxElem f m xe)
    let p := packCodes (mxWidth f) (rs.map fun r => (r.1, if r.2 then flagNX else 0#5))
    let sc := (xe + 127).toNat
    ([BitVec.ofNat 32 p.1, BitVec.ofNat 32 (sc * 0x01010101)], p.2)

/-- The lanes of an MX block of eight lanes that a set of lanes holds. -/
def blockLanes (run : BitVec 64) (l : Nat) : List Nat := (List.range 8).filterMap fun i =>
  if run.getLsbD (l / 8 * 8 + i) then some (l / 8 * 8 + i) else none

/-- `mxq` (R118). -/
def execMxq (n : BitVec 1) (f : BitVec 2) (d a : BitVec 7) (s : State) : Out :=
  laneUnit { nw := n == 1#1, rm := true, names := [(d, 2), (a, 4)] } (.regs d 2) (fun s c G l =>
    let z := s.ftz G
    let ws := (blockLanes (G.run c) l).map fun i => G.readWords i a.toNat 4
    if ws.any anyPoison then .consume
    else
      let val (w : List PWord) : List FVal := w.map fun p => f32 z p.val
      let r := mxqVal f.toNat (unitMode s G c) (ws.map val).flatten (val (G.readWords l a.toNat 4))
      .ok (r.1.map clean) r.2) s

/-- The value of a packed MX element (R61). -/
def mxValue (f c : Nat) : FVal := match mxFmt f with
  | some F => F.decode c
  | none => let q := (BitVec.ofNat 8 c).toInt
    .fin (decide (q < 0)) q.natAbs (-6)

/-- A value scaled by 2^k. -/
def FVal.scale (k : Int) : FVal → FVal
  | .fin n m e => .fin n m (e + k)
  | x => x

/-- A product of integer elements has no negative zero (R60). -/
def FVal.unsign : FVal → FVal
  | .fin _ 0 e => .fin false 0 e
  | x => x

/-- One dequantised element (R119). -/
def mxdqVal (f : Nat) (z : Bool) (m e c : Nat) : Nat × BitVec 5 :=
  let x := mxValue f c
  if e = 255 ∨ x.isNan = true then (0x7FC00000, 0#5) else fp32.round z m (x.scale ((e : Int) - 127))

/-- `mxdq` (R119). -/
def execMxdq (n : BitVec 1) (f : BitVec 2) (d a b : BitVec 7) (s : State) : Out :=
  laneUnit { nw := n == 1#1, rm := true, names := [(d, 4), (a, 1), (b, 1)] } (.regs d 4)
    (fpLane (fun _ => [(a.toNat, 1), (b.toNat, 1)]) fun z m v =>
      let rs := (List.range 4).map fun i => mxdqVal f.toNat z m ((w1 v).toNat % 256) (elemBits (mxWidth f.toNat) (w0 v) i)
      (rs.map fun r => BitVec.ofNat 32 r.1, rs.foldl (fun a r => a ||| r.2) 0#5)) s

/-! ## Dot products (R70, R116, R117) -/

/-- The products of paired elements; none when one is invalid. -/
def products (xs ys : List FVal) : List (Option FVal) := List.zipWith fmulExact xs ys

/-- The invalid cases of R70: an infinity times zero, or infinities of both signs among the products and acc, whatever else
stands beside them (log entry 21). -/
def dotInvalid (acc : FVal) (ps : List (Option FVal)) : Bool :=
  let vs := acc :: ps.filterMap id
  ps.any (·.isNone) || ((vs.any fun v => v.isInf && v.neg) && (vs.any fun v => v.isInf && !v.neg))

/-- acc plus the sum of products, rounded once, with NaN and NV as R70 gives; `sigs` are the operands whose signalling NaNs
raise NV, `dead` a scale of 0xFF. -/
def dotRound (z : Bool) (m : Nat) (acc : FVal) (ps : List (Option FVal)) (sigs : List FVal) (dead : Bool) : Nat × BitVec 5 :=
  if dotInvalid acc ps then (0x7FC00000, flagNV)
  else if dead then (0x7FC00000, sigFlag sigs)
  else fp32.finish z m sigs (fsumExact m (acc :: ps.filterMap id))

/-- The value of a floating-point dot product of a format. -/
def dotFVal (F : Fmt) (k : Nat) (z : Bool) (m : Nat) (a b c : Word) : Word × BitVec 5 :=
  let el (w : Word) : List FVal := (List.range k).map fun i => F.decodeFtz z (elemBits F.width w i)
  let acc := f32 z c
  asWord (dotRound z m acc (products (el a) (el b)) (acc :: el a ++ el b) false)

/-- The value of an integer dot product of k elements of w bits. -/
def dotIVal (w k : Nat) (a b c : Word) : Word :=
  let el (x : Word) (i : Nat) : Int := (BitVec.ofNat w (elemBits w x i)).toInt
  c + BitVec.ofInt 32 ((List.range k).map fun i => el a i * el b i).sum

/-- `dot4e.e4m3` and `dot4e.e5m2` (R116). -/
def execDot4e (n e : BitVec 1) (d a b : BitVec 7) (s : State) : Out :=
  fpTernary n d a b (dotFVal (if e = 0#1 then e4m3 else e5m2) 4) s
/-- `dot4i` (R116). -/
def execDot4i (n : BitVec 1) (d a b : BitVec 7) (s : State) : Out := ternaryOp n d a b (dotIVal 8 4) s
/-- `dot8q` (R116). -/
def execDot8q (n : BitVec 1) (d a b : BitVec 7) (s : State) : Out := ternaryOp n d a b (dotIVal 4 8) s
/-- `dot2b` (R116). -/
def execDot2b (n : BitVec 1) (d a b : BitVec 7) (s : State) : Out := fpTernary n d a b (dotFVal bf16 2) s

/-- The scale word of a lane: all ones when it holds no thread (R117). -/
def Group.scaleWord (G : Group) (c : Cur) (l : Nat) : PWord :=
  if G.liveLane l then G.readWord l (pfxC c).toNat else clean 0xFFFFFFFF#32

/-- A scaled dot product (R70, R117): `ea` and `eb` are the scale bytes. -/
def mxdotVal (f : Nat) (z : Bool) (m ea eb : Nat) (a b d : Word) : Word × BitVec 5 :=
  let el (w : Word) : List FVal := (List.range 4).map fun i => mxValue f (elemBits 8 w i)
  let acc := f32 z d
  let ps := products (el a) (el b)
  let k : Int := (ea : Int) - 127 + ((eb : Int) - 127)
  asWord (dotRound z m acc (ps.map fun p => p.map fun x => if f = 3 then (x.scale k).unsign else x.scale k) [acc] (ea == 255 || eb == 255))

/-- A dot product with block scales (R117). -/
def mxdotOp (f : Nat) (n : BitVec 1) (d a b : BitVec 7) : State → Out :=
  laneUnit { nw := n == 1#1, rm := true, c := 1, x := 3, names := [(d, 1), (a, 1), (b, 1)] } (.regs d 1) fun s c G l =>
    let sa := G.scaleWord c (l / 8 * 8)
    let sb := G.scaleWord c (l / 8 * 8 + 1)
    if sa.poison || sb.poison then .consume
    else onWords G l [(a.toNat, 1), (b.toNat, 1), (d.toNat, 1)] fun v =>
      let r := mxdotVal f (s.ftz G) (unitMode s G c) (elemBits 8 sa.val (pfxX c)) (elemBits 8 sb.val (pfxX c)) (w0 v) (w1 v) (w2 v)
      ([r.1], r.2)

/-- `mxdot.e4m3` and `mxdot.e5m2` (R117). -/
def execMxdot (n e : BitVec 1) (d a b : BitVec 7) (s : State) : Out := mxdotOp e.toNat n d a b s
/-- `mxi8dot` (R117). -/
def execMxi8dot (n : BitVec 1) (d a b : BitVec 7) (s : State) : Out := mxdotOp 3 n d a b s

end Sys2Proof.Machine
end

