-- ==== Sys2Proof/Machine/Matrix.lean ====
section
/-! DEFINITION. The matrix engine: ownership and the lease, majors 0x70 to 0x74, and the engine's own steps
(spec/14_asynchronous_engines.md R304 to R316; spec/15_engine_instructions.md R328 to R341; spec/03 R71). -/
namespace Sys2Proof.Machine

/-! ## Command instructions (R328, R316) -/

/-- A command instruction: its checks, then its effect with the lowest virtual lane of k0. -/
def cmdUnit (restricted handler : Bool) (names : List (BitVec 7 × Nat)) (s : State) (k : Cur → Group → Nat → State) : Out :=
  withUnit s fun c G =>
    if !handler && G.team.isNone then .next (s.trapUnit G c 0x01#8 0)
    else match teamChecks (ctlUnit false names) restricted c G with
    | some cause => .next (s.trapUnit G c cause 0)
    | none => .next (match lowest (G.k0 c) with
      | none => s.advance c
      | some l => k c G l)

/-- The issue of an engine command ends the eligibility of its team (R316). -/
def State.spoil (s : State) (G : Group) : State := match G.team with
  | some k => s.endEligible k
  | none => s

/-! ## Groups and teams of either context -/

/-- A group of the live or the shadow context by its `uid`. -/
def State.byUid (s : State) (u : Nat) : Option Group :=
  match s.live.groups.find? fun G => G.uid == u with
  | some G => some G
  | none => match s.shadow with
    | some x => x.groups.find? fun G => G.uid == u
    | none => none

/-- The group is in the live context. -/
def State.liveUid (s : State) (u : Nat) : Bool := s.live.groups.any fun G => G.uid == u

/-- A change of a team of either context. -/
def State.onTeam (s : State) (u : Nat) (k : Team → Team) : State :=
  let on (c : Ctx) : Ctx := { c with teams := c.teams.map fun T => if T.uid = u then k T else T }
  { s with live := on s.live, shadow := s.shadow.map on }

/-! ## Reads by engines (R234, R218) -/

/-- What an engine operation of a group may read for an aligned scratch word: its bytes now, or those before a lane store
that no `fence.or` of the group covers (R234). -/
def State.engWord (s : State) (uid a : Nat) : List Byte × State :=
  let now := memRead s.scr a 4
  let olds := (s.paths.scrOld.filter fun o => o.off == a && !o.marks.contains uid).map fun o => natLe 4 o.val.toNat
  if olds.all fun b => b == now then (now, s)
  else
    let (n, s1) := s.choose
    ((now :: olds).getD (n % (olds.length + 1)) now, s1)

/-- The scratch words of consecutive aligned addresses. -/
def State.engWords (s : State) (uid a : Nat) : Nat → List Byte × State
  | 0 => ([], s)
  | n + 1 =>
    let (b, s1) := s.engWord uid a
    let (bs, s2) := s1.engWords uid (a + 4) n
    (b ++ bs, s2)

/-- Scratch bytes read by an engine, at a core-physical offset. -/
def State.engRead (s : State) (uid a n : Nat) : List Byte × State :=
  let (bs, s1) := s.engWords uid (a / 4 * 4) ((a % 4 + n + 3) / 4)
  ((bs.drop (a % 4)).take n, s1)

/-- The R319 status of a fault. -/
def Flt.status (e : Flt) : Nat := if e.rank = 2 then 0x33 else if e.rank = 3 then 0x30 else if e.rank = 4 then 0x31 else 0x32

/-- The reads of a layout record's table walk, or of the record itself where the cache does not hold it, that banks hold (R287): the
command waits for them before it reads the record. -/
def State.recordHolds (s : State) (G : Group) (va : Nat) : List (Nat × Nat × Bool) :=
  if !s.busyBanks || decide (va % 64 ≠ 0 ∨ 2 ^ 56 ≤ va) then []
  else match (s.locate G .load 1 64 64 (.ea va)).1 with
    | .wait r => r
    | .at _ l => match l.base with
      | .dram f spa =>
        if (s.records.any fun r => r.f == s.fOf G && r.asid == s.asidOf G && r.va == va) || !s.bankHolds (s.holder G) f spa then []
        else [(f, spa, false)]
      | _ => []
    | _ => []

/-- A command goes on once no bank holds a read of its layout record (R287). -/
def State.recordThen (s : State) (c : Cur) (G : Group) (va : Nat) (go : State) : State := match s.recordHolds G va with
  | [] => go
  | r => (s.holdReqs (s.holder G) r).retryUnit c .engine

/-- A layout record read at a command's issue by a lane, with the status that its reading gives (R218, R318, R335, R338). The address is
translated at every use, cached record or not, and a translation that fails gives its status (DESIGN CHOICE, log entry 46). -/
def State.recordAt (s : State) (G : Group) (x : AgentId) (va : Nat) : BitVec 8 × List Byte × State :=
  if va % 64 ≠ 0 ∨ 2 ^ 56 ≤ va then (0x60#8, [], s)
  else match s.locate G .load 1 64 64 (.ea va) with
    | (.at ea l, s1) =>
      let (bs, bad, s2) := s1.readRecord G x va l
      let s3 := s2.accessed G .load 64 [(0, ea, l)]
      if bad then (0x40#8, bs, s3) else (0#8, bs, s3)
    | (.flt e, s1) => (BitVec.ofNat 8 e.status, [], s1)
    | (_, s1) => (0x30#8, [], s1)

/-! ## Accumulator slots (R307) -/

/-- A team's slot. -/
def Team.acc (T : Team) (n : Nat) : AccSlot := T.accs.getD n ⟨none, 0, false, []⟩

/-- A team with a slot replaced. -/
def Team.setAcc (T : Team) (n : Nat) (a : AccSlot) : Team := { T with accs := T.accs.set n a }

/-- The slot is held by a group other than this one. -/
def AccSlot.other (a : AccSlot) (uid : Nat) : Bool := match a.holder with
  | some u => u != uid
  | none => false

/-- A row of a slot. -/
def AccSlot.row (a : AccSlot) (m : Nat) : List PWord := ((a.rows.find? fun p => p.1 == m).map (·.2)).getD (List.replicate 128 pzero)

/-- Rows with one replaced, in ascending order. -/
def putRow : List (Nat × List PWord) → Nat → List PWord → List (Nat × List PWord)
  | [], m, r => [(m, r)]
  | (k, q) :: l, m, r => if m < k then (m, r) :: (k, q) :: l else if m = k then (m, r) :: l else (k, q) :: putRow l m r

/-- A slot with a row replaced. -/
def AccSlot.setRow (a : AccSlot) (m : Nat) (r : List PWord) : AccSlot := { a with rows := putRow a.rows m r }

/-- An uncorrectable error sets the poison bit of a slot's word (R307). -/
def AccSlot.spoil (a : AccSlot) (m n : Nat) : AccSlot := a.setRow m ((a.row m).mapIdx fun i w => if i = n then { w with poison := true } else w)

/-- An operation on a slot is over: the slot is freed if it has been given up meanwhile (R307). -/
def AccSlot.done (a : AccSlot) : AccSlot :=
  if a.users ≤ 1 ∧ a.leaving then ⟨none, 0, false, []⟩ else { a with users := a.users - 1 }

/-! ## Ownership and the lease (R308 to R312) -/

/-- The first queued group of the live context, another than the one given (R309). -/
def State.liveHead (s : State) (skip : Option Nat) : Option Nat := s.mx.fifo.find? fun u => s.liveUid u && decide (some u ≠ skip)

/-- The lease of a group's share (R312). -/
def State.leaseOf (s : State) (u : Nat) : Nat := match s.byUid u with
  | none => 64
  | some G => match s.share G.share with
    | some x => x.lease
    | none => 64

/-- The owner may have no further operation accepted: its lease is used up and another live group waits (R309). -/
def State.leaseOver (s : State) (u : Nat) : Bool := decide (s.mx.lease ≤ s.mx.count) && (s.liveHead (some u)).isSome

/-- A group asks for the engine (R308, R310): a free engine with nobody queued is swapped to it, else it queues. -/
def Matrix.ask (m : Matrix) (u : Nat) : Matrix :=
  if m.fifo.contains u then m
  else if m.st = .free ∧ m.fifo = [] then { m with st := .swap none (some u), leaving := false }
  else match m.st with
    | .swap _ (some y) => if y = u ∧ ¬ m.leaving = true then m else { m with fifo := m.fifo ++ [u] }
    | _ => { m with fifo := m.fifo ++ [u] }

/-- A group still waits for an engine. -/
def State.uidWaits (s : State) (u : Nat) : Bool :=
  s.live.groups.any fun G => G.uid == u && G.seqs.any fun q => decide (q.st = .run) && decide (q.wait = .engine)

/-- The groups that wait for a place in the queue before a group (R308). -/
def State.mxAhead (s : State) (u : Nat) : List (Nat × Nat) :=
  (s.mx.waiting.takeWhile fun p => p.2 != u).filter fun p => s.uidWaits p.2 && !s.mx.fifo.contains p.2

/-- The queue has no place for a group that is not in it, or only for groups that have waited longer. -/
def State.mxFull (s : State) (u : Nat) : Bool := decide (16 ≤ s.mx.fifo.length + (s.mxAhead u).length) && !s.mx.fifo.contains u

/-- A number with a key put into a list in ascending key order, after its equals. -/
def insertKey (p : Nat × Nat) : List (Nat × Nat) → List (Nat × Nat)
  | [] => [p]
  | q :: l => if p.1 < q.1 then p :: q :: l else q :: insertKey p l

/-- A group that found the queue full waits for a place, by the time at which it was ready (R308). -/
def State.mxWait (s : State) (c : Cur) (G : Group) : State :=
  if s.mx.waiting.any fun p => p.2 == G.uid then s
  else
    let at_ := ((G.seqs.find? fun q => c.seqs.contains q.id).map (·.ready)).getD s.now
    { s with mx := { s.mx with waiting := insertKey (at_, G.uid) s.mx.waiting } }

/-- A group asks for the engine, or waits for a place in its queue. -/
def State.mxAsk (s : State) (c : Cur) (G : Group) : State :=
  if s.mxFull G.uid then s.mxWait c G
  else { s with mx := { s.mx.ask G.uid with waiting := s.mx.waiting.filter fun p => p.2 != G.uid } }

/-- What becomes of a matrix operation that a group issues. -/
inductive Take where
  | go
  | ask
  | trap
deriving DecidableEq, Repr

/-- A matrix operation is accepted from the owner, unless it is giving the engine up; a group that has an area waits in the queue; any other
group traps (R308 to R310). -/
def State.take (s : State) (G : Group) : Take :=
  if !(s.mx.areas.any fun a => a.uid == G.uid) then .trap
  else if s.mx.st = .owned G.uid ∧ ¬ s.mx.leaving = true ∧ ¬ s.leaseOver G.uid = true then .go
  else .ask

/-- A matrix operation (R308, R328): accepted, or waiting for the engine, or the ownership trap. -/
def mxUnit (names : List (BitVec 7 × Nat)) (s : State) (k : Cur → Group → Team → Nat → State) : Out :=
  cmdUnit true false names s fun c G l => match s.teamOf G with
    | none => s.endUnit
    | some T => match s.take G with
      | .trap => s.trapEach G c 0x17#8 0 c.unitPc
      | .ask => (s.mxAsk c G).retryUnit c .engine
      | .go => k c G T l

/-- The scope of an operation's completion: that of the block for `mexec`, the team's for the others (R330, R338). -/
def MxCmd.scope : MxCmd → Nat
  | .mexec _ b => fld b 0x14 1 % 8
  | _ => 0

/-- The operation is accepted: its number, its place in the engine, its slot in use, and the unit over (R306, R309); the lease of the group's
share applies from it on (R312). -/
def State.mxIssue (s : State) (c : Cur) (G : Group) (T : Team) (cmd : MxCmd) (slot : Option Nat) (bad : BitVec 8) (rec : List Byte)
    (ranges : List (Nat × Nat × Bool)) : State :=
  let (seq, s1) := s.issueCmd G .mx cmd.scope
  let op : MxOp := ⟨G.gctx, G.uid, T.slot, T.uid, s.fOf G, s.asidOf G, seq, cmd, slot, bad, rec, ranges, false, 0#8, 0#5, [], none⟩
  let s2 := { s1 with mx := { s1.mx with
    count := s1.mx.count + 1
    lease := s1.leaseOf G.uid
    ops := s1.mx.ops ++ [op]
    fifo := s1.mx.fifo.filter fun u => u != G.uid } }
  let use (n : Nat) (U : Team) : Team := U.setAcc n { U.acc n with holder := some G.uid, users := (U.acc n).users + 1 }
  let s3 := match slot with
    | some n => s2.onTeam T.uid (use n)
    | none => s2
  (s3.spoil G).advance c

/-- A slot that is not FREE. -/
def AccSlot.held (a : AccSlot) : Bool := a.holder.isSome || decide (0 < a.users)

/-- The physical accumulator slots that the teams of a context hold (R307). -/
def Ctx.accs (x : Ctx) : Nat := (x.teams.map fun T => (T.accs.filter AccSlot.held).length).sum

/-- The physical slots in use, over both contexts (R307). -/
def State.accsHeld (s : State) : Nat := s.live.accs + (match s.shadow with
  | some x => x.accs
  | none => 0)

/-- An operation that names a slot: another group's slot traps; a slot that the group has given up while it is in use is
waited for, and so is a physical slot for a FREE one (R307, R329, R337, R340; log entry 27). -/
def State.slotThen (s : State) (c : Cur) (G : Group) (T : Team) (n : Nat) (k : State) : State :=
  let a := T.acc n
  if a.other G.uid then s.trapEach G c 0x16#8 0 c.unitPc
  else if a.leaving then s.retryUnit c .stall
  else if a.holder.isNone && decide (8 ≤ s.accsHeld) then s.retryUnit c .engine
  else k

/-! ## Major 0x70 (R331 to R334) -/

/-- A page of the save area checked as a store, with its place (R331); a remote leaf that names this device leads to the participant's
memory (R467). -/
def State.areaPages (s : State) (G : Group) (va : Nat) : List Nat → Option Flt × List (Nat × Nat) × State
  | [] => (none, [], s)
  | i :: is =>
    match s.spaceRes G .store 1 (va + 4096 * i) 4096 with
    | (.ok l, s1) =>
      let (e, ps, s2) := s1.areaPages G va is
      let home := match l with
        | .remote f dev ia => if dev = s.pkg.device then (remoteHere s f ia .store).getD l else l
        | _ => l
      (e, (match home.base with
        | .dram f spa => (f, spa)
        | .host a => (64, a)
        | _ => (65, 0)) :: ps, s2)
    | (.flt e, s1) =>
      let (e2, ps, s2) := s1.areaPages G va is
      (some (match e2 with
        | some g => if g.before e then g else e
        | none => e), ps, s2)
    | (.wait, s1) => s1.areaPages G va is

/-- The engine is being swapped to a group, or the group is queued for it. -/
def Matrix.wants (m : Matrix) (u : Nat) : Bool := m.fifo.contains u || (match m.st with
  | .owned x => x == u
  | .swap _ (some y) => y == u
  | _ => false)

/-- `macq` (R308, R331). It waits while banks hold reads of its table walks (R287). The area of a group that neither owns the engine nor is queued nor holds an image is recorded anew. -/
def execMacq (a : BitVec 7) (s : State) : Out :=
  cmdUnit true false [(a, 2)] s fun c G l => match G.ea 1 a.toNat l 0 with
    | .eat => s.consume G c (G.k0 c)
    | .flt e => s.faultAll G c e true
    | .ea va =>
      let rs := s.walksHeld (s.holder G) (s.view G) (((List.range (if va % 4096 = 0 then 35 else 36)).map (va / 4096 + ·)).filter fun p => decide (p < 2 ^ 44))
      if rs ≠ [] then (s.holdReqs (s.holder G) rs).retryUnit c .engine
      else
      let (e, ps, s1) := s.areaPages G va (List.range (if va % 4096 = 0 then 35 else 36))
      match e with
      | some e => s1.faultAll G c e true
      | none =>
        if va % 4096 ≠ 0 then s1.faultAll G c (fltAlign va) true
        else if s1.mx.st = .owned G.uid ∧ ¬ s1.mx.leaving = true then (s1.spoil G).advance c
        else if s1.mxFull G.uid then (s1.mxWait c G).retryUnit c .engine
        else
          let areas := if s1.mx.areas.any fun x => x.uid == G.uid && (x.image.isSome || s1.mx.wants G.uid) then s1.mx.areas
            else (s1.mx.areas.filter fun x => x.uid != G.uid) ++ [⟨G.uid, va, s1.fOf G, s1.asidOf G, ps, none, [], false⟩]
          let s2 := s1.mxAsk c G
          (({ s2 with mx := { s2.mx with areas := areas } } : State).spoil G).advance c

/-- `mrel` (R332). -/
def execMrel (e : BitVec 1) (m : BitVec 8) (s : State) : Out :=
  cmdUnit true false [] s fun c G _ => match s.teamOf G with
    | none => s.endUnit
    | some T =>
      let drop (n : Nat) (x : AccSlot) : AccSlot := if m.getLsbD n then x.drop G.uid else x
      let s1 := s.setTeam { T with accs := T.accs.mapIdx drop }
      let s2 := if e = 1#1 then { s1 with mx := s1.mx.leave G.uid } else s1
      (s2.spoil G).advance c

/-- `mswap` (R333). -/
def execMswap (s : State) : Out := mxUnit [] s fun c G T _ => s.mxIssue c G T .mswap none 0#8 [] []

/-- The format code of a plane (R334). -/
def Plane.code (p : Plane) : Nat := p.fmt.getD 15

/-- The word of `mstat` (R334). -/
def State.mstatWord (s : State) (G : Group) (sel : Nat) : Word :=
  let st (q : ClassSeq) : Nat := q.bad.toNat % 256
  match sel with
  | 1 => G.mx.upTo
  | 2 => G.tc.upTo
  | 3 => G.bk.upTo
  | 4 => BitVec.ofNat 32 (st G.mx + st G.tc * 256)
  | _ =>
    let owner := decide (s.mx.st = .owned G.uid)
    let image := (s.mx.areas.find? fun a => a.uid == G.uid).bind (·.image)
    let code := match s.mx.st with
      | .free => 0
      | .owned u => if u = G.uid then 1 else 2
      | .swap _ _ => 3
      | .clear => 4
    let fmts : Nat × Nat := if owner then (s.mx.active.code, s.mx.shadow.code) else match image with
      | some p => (p.1.code, p.2.code)
      | none => (15, 15)
    let pos := s.mx.fifo.findIdx fun u => u == G.uid
    let queued := s.mx.fifo.contains G.uid
    BitVec.ofNat 32 (code + (if queued then 8 + pos * 16 else 0) + (if owner then s.mx.count % 2048 * 256 else 0)
      + (if image.isSome then 2 ^ 19 else 0) + fmts.1 * 2 ^ 20 + fmts.2 * 2 ^ 24)

/-- `mstat` (R334). -/
def execMstat (d : BitVec 7) (sel : BitVec 3) (s : State) : Out :=
  cmdUnit true false [(d, 1)] s fun c G _ =>
    (s.setGroup (G.writeLanes d (G.k0 c) fun _ => [clean (s.mstatWord G sel.toNat)])).advance c

/-! ## Loading weights (R335, R336) -/

/-- The plane format of a record's FMT and SCM (R335). -/
def planeFmt (fmt scm : Nat) : Option Nat := match fmt, scm with
  | 1, 0 => some 0
  | 2, 0 => some 1
  | 1, 1 => some 2
  | 2, 1 => some 2
  | 3, 1 => some 3
  | 6, 0 => some 4
  | 0, 0 => some 5
  | 0, 1 => some 6
  | 8, 0 => some 7
  | _, _ => none

/-- KP (R304). -/
def planeDepth (f : Nat) : Nat := if f = 3 then 1024 else if f = 4 then 256 else 512

/-- The plane formats with scales. -/
def planeScaled (f : Nat) : Bool := f == 2 || f == 3 || f == 6

/-- The status of an `mlds` by its record and its team's allocation (R335). -/
def mldsStatus (bad : BitVec 8) (rec : List Byte) (off size : Nat) : Nat :=
  let r := tileRec rec
  if bad ≠ 0#8 then bad.toNat
  else if recordCheck rec ≠ 0 then 0x10 + recordCheck rec
  else match planeFmt r.fmt r.scm with
    | none => 0x52
    | some f => if 128 < r.tile1 ∨ planeDepth f < r.tile0 then 0x52 else if size < off + r.tile1 * r.pitch then 0x22 else 0

/-- `mlds` (R335). -/
def execMlds (a : BitVec 7) (o : BitVec 14) (s : State) : Out :=
  mxUnit [(a, 2)] s fun c G T l =>
    let ws := G.readWords l a.toNat 2
    if anyPoison ws then s.consume G c (G.k0 c)
    else
      let (bad, bs, s1) := s.recordAt G (s.laneAgent G l).id (pairVal ws).toNat
      let off := o.toNat * 64
      let r := tileRec bs
      let rg := if bad = 0#8 then [(T.scrBase + off, T.scrBase + off + r.tile1 * r.pitch, false)] else []
      s.recordThen c G (pairVal ws).toNat (s1.mxIssue c G T (.mlds off) none bad bs rg)

/-- The shadow plane's format, depth and columns as they will stand after the operations that are not yet done: the two
planes' shapes are followed through them (R336). -/
def shapesAfter (size : Nat) : List MxOp → (Option Nat × Nat × Nat) × (Option Nat × Nat × Nat) → (Option Nat × Nat × Nat) × (Option Nat × Nat × Nat)
  | [], p => p
  | o :: os, p => shapesAfter size os (if o.started then p else match o.cmd with
    | .mswap => (p.2, p.1)
    | .mlds off =>
      let r := tileRec o.recBytes
      if mldsStatus o.recBad o.recBytes off size = 0 then (p.1, (planeFmt r.fmt r.scm, r.tile0, r.tile1)) else p
    | _ => p)

/-- `mscl` (R336). -/
def execMscl (a : BitVec 7) (s : State) : Out :=
  mxUnit [(a, 1)] s fun c G T l =>
    let w := G.readWord l a.toNat
    if w.poison then s.consume G c (G.k0 c)
    else
      let sh (p : Plane) : Option Nat × Nat × Nat := (p.fmt, p.depth, p.cols)
      let q := (shapesAfter T.scrSize s.mx.ops (sh s.mx.active, sh s.mx.shadow)).2
      let o := w.val.toNat
      s.mxIssue c G T (.mscl o) none 0#8 [] [(T.scrBase + o, T.scrBase + o + q.2.2 * (q.2.1 / 32), false)]

/-! ## `mexec` and `macz` (R337 to R340) -/

/-- `mexec` (R337): the block is a lane load of 64 bytes. -/
def execMexec (f : BitVec 3) (a : BitVec 7) (s : State) : Out :=
  mxUnit [(a, 1)] s fun c G T l =>
    let (x, s1) := s.locate G .load 2 64 64 (G.ea 2 a.toNat l 0)
    match x with
    | .eat => s1.consume G c (G.k0 c)
    | .flt e => s1.faultAll G c e false
    | .wait r => (s1.holdReqs (s1.holder G) r).retryUnit c .engine
    | .at ea p => match s1.accessWaits c G .load 64 [(l, .at ea p)] with
      | some t => t
      | none =>
        let (b, _, s2) := s1.readLoc [(s1.laneAgent G l).id] p ea 64
        let n := fld b 0x13 1 % 8
        let (bad, bs, s3) := s2.recordAt G (s.laneAgent G l).id (fld b 0 8)
        let r := tileRec bs
        let m := fld b 0x10 2
        let ao := T.scrBase + fld b 0x08 4
        let so := T.scrBase + fld b 0x0C 4
        let rg := if bad ≠ 0#8 then []
          else (ao, ao + m * r.pitch, false) :: (if planeScaled f.toNat then [(so, so + m * (r.tile0 / 32), false)] else [])
        s2.slotThen c G T n (s2.recordThen c G (fld b 0 8) (s3.mxIssue c G T (.mexec f.toNat b) (some n) bad bs rg))

/-- `macz` (R340). -/
def execMacz (n : BitVec 3) (s : State) : Out :=
  mxUnit [] s fun c G T _ => s.slotThen c G T n.toNat (s.mxIssue c G T .macz (some n.toNat) 0#8 [] [])

/-! ## Accumulator ports (R341) -/

/-- A unit of `macrd` and `macwr`: poison of the row base, the slot conflict, the wait of R235, then the lanes. -/
def accUnit (u : Unit) (d : Dst) (k : BitVec 4) (n : Nat) (write : Bool)
    (act : Team → Group → List (Nat × Nat × Nat) → State → List (Nat × LaneOut) × State) (s : State) : Out :=
  cmdUnit true false u.names s fun c G _ => match s.teamOf G with
    | none => s.endUnit
    | some T =>
      let g := G.unif.getD k.toNat pzero
      if g.poison then s.consume G c (G.k0 c)
      else if (T.acc n).other G.uid then s.trapEach G c 0x16#8 0 c.unitPc
      else if 0 < (T.acc n).users then s.retryUnit c .stall
      else if write && (T.acc n).holder.isNone && decide (8 ≤ s.accsHeld) then s.retryUnit c .engine
      else
        let (addr, s0) := s.choose
        let at_ := (lanesOf G (G.k0 c)).map fun l => (l, g.val.toNat + l / 32, 4 * (l % 32))
        let bad := at_.filter fun p => decide (256 ≤ p.2.1)
        let gone := if bad.isEmpty then 0#64
          else parkPlan G (laneMask 64 fun l => bad.any fun p => p.1 == l) (G.issuing c) (64 - s.fragsUsed)
        let (outs, s1) := act T G (at_.filter fun p => decide (p.2.1 < 256) && !gone.getLsbD p.1) s0
        let s2 := if write then s1.spoil G else s1
        s2.retire G c u d write ((bad.map fun p => (p.1, LaneOut.flt (fltSpace (addr % 2 ^ 56)))) ++ outs)

/-- `macrd` (R341). -/
def execMacrd (a : BitVec 7) (k : BitVec 4) (n : BitVec 3) (s : State) : Out :=
  accUnit { pfx := false, latch := false, names := [(a, 4)] } (.regs a 4) k n.toNat false (fun T _ ps t =>
    (ps.map fun p => (p.1, LaneOut.ok ((((T.acc n.toNat).row p.2.1).drop p.2.2).take 4) 0#5), t)) s

/-- `macwr` (R341): in ascending lane order. -/
def execMacwr (a : BitVec 7) (k : BitVec 4) (n : BitVec 3) (s : State) : Out :=
  accUnit { pfx := false, latch := false, names := [(a, 4)] } .none k n.toNat true (fun T G ps t =>
    let put (x : AccSlot) (p : Nat × Nat × Nat) : AccSlot :=
      let ws := G.readWords p.1 a.toNat 4
      x.setRow p.2.1 ((x.row p.2.1).mapIdx fun i w => if p.2.2 ≤ i ∧ i < p.2.2 + 4 then ws.getD (i - p.2.2) pzero else w)
    let x := ps.foldl put { T.acc n.toNat with holder := some G.uid }
    (ps.map fun p => (p.1, LaneOut.ok [] 0#5), if ps.isEmpty then t else t.setTeam (T.setAcc n.toNat x))) s

/-! ## The arithmetic of R71 -/

/-- The exact value of an element of a layout format (R258): E4M3, E5M2, E2M1, BF16, DL8, and INT8 under MX scaling. -/
def elemVal (fmt c : Nat) : FVal := match fmt with
  | 1 => e4m3.decode c
  | 2 => e5m2.decode c
  | 3 => e2m1.decode c
  | 6 => bf16.decode c
  | 8 => fp32.decode (dl8Decode c)
  | _ => mxValue 3 c

/-- Element k of a row of packed elements of b bits (R57). -/
def elemCode (b : Nat) (row : List Byte) (k : Nat) : Nat :=
  if b = 4 then (row.getD (k / 2) 0#8).toNat / 16 ^ (k % 2) % 16
  else if b = 8 then (row.getD k 0#8).toNat
  else (row.getD (2 * k) 0#8).toNat + 256 * (row.getD (2 * k + 1) 0#8).toNat

/-- The element formats that `elemVal` reads as integers. -/
def elemInt (fmt : Nat) : Bool := !([1, 2, 3, 6, 8].contains fmt)

/-- One K block: the exact sum of its products rounded, then added to acc and rounded (R71), with the specials of R70; products of
integers (`int`) have no negative zero (R60). -/
def mexBlock (acc : Nat × BitVec 5) (xs ys : List FVal) (k : Int) (dead int : Bool) : Nat × BitVec 5 :=
  let a := fp32.decode acc.1
  let ps := (products xs ys).map fun p => p.map fun x => if int then (x.scale k).unsign else x.scale k
  if dead then (0x7FC00000, acc.2 ||| sigFlag (a :: xs ++ ys))
  else if dotInvalid a ps then (0x7FC00000, acc.2 ||| flagNV)
  else
    let t := fp32.finish false 0 (xs ++ ys) (fsumExact 0 (ps.filterMap id))
    let r := fp32.finish false 0 [a] (faddExact 0 a (fp32.decode t.1))
    (r.1, acc.2 ||| t.2 ||| r.2)

/-- An output element of a floating-point format over the blocks from `v` on; `n` blocks are left (R71). -/
def mexBlocks (fa fb kk : Nat) (xs ys : List Byte) (xsc ysc : List Byte) (scaled : Bool) : Nat → Nat → Nat × BitVec 5 → Nat × BitVec 5
  | 0, _, acc => acc
  | n + 1, v, acc =>
    let ks := (List.range (min 32 (kk - 32 * v))).map fun i => 32 * v + i
    let ea := (xsc.getD v 0x7F#8).toNat
    let eb := (ysc.getD v 0x7F#8).toNat
    let k : Int := if scaled then (ea : Int) - 127 + ((eb : Int) - 127) else 0
    let r := mexBlock acc (ks.map fun i => elemVal fa (elemCode (fmtBits fa) xs i)) (ks.map fun i => elemVal fb (elemCode (fmtBits fb) ys i)) k
      (scaled && (ea == 255 || eb == 255)) (elemInt fa && elemInt fb)
    mexBlocks fa fb kk xs ys xsc ysc scaled n (v + 1) r

/-- An output element of `.int8`: acc plus the exact sum, modulo 2^32 (R71). -/
def mexInt (kk : Nat) (xs ys : List Byte) (acc : Word) : Word :=
  acc + BitVec.ofInt 32 ((List.range kk).map fun k => (xs.getD k 0#8).toInt * (ys.getD k 0#8).toInt).sum

/-! ## The engine's own steps (R306, R313, R338) -/

/-- The first bytes of row m of a tile, in their order, from the row's bytes in scratch, by the swizzle (R335, R338). -/
def tileRow (r : TileRec) (row : List Byte) (m n : Nat) : List Byte :=
  (List.range n).map fun y => row.getD (((y / 16) ^^^ (m % r.group)) * 16 + y % 16) 0#8

/-- Cells of the bytes that are not zero, from a key on. -/
def cellsOf (k : Nat) (bs : List Byte) : List Host.Cell :=
  ((List.range bs.length).map fun i => (k + i, bs.getD i 0#8)).filter fun p => p.2 != 0#8

/-- `mlds` when it starts (R335): its status, the rows that it is to load, and the shadow plane with its shape and no weight. -/
def State.startMlds (s : State) (o : MxOp) (off : Nat) : Nat × List Nat × State := match s.teamUid o.tuid with
  | none => (0x60, [], s)
  | some T =>
    let st := mldsStatus o.recBad o.recBytes off T.scrSize
    if st ≠ 0 then (st, [], s)
    else
      let r := tileRec o.recBytes
      let p : Plane := ⟨planeFmt r.fmt r.scm, r.fmt, r.tile0, r.tile1, [], []⟩
      (0, List.range r.tile1, { s with mx := { s.mx with shadow := p } })

/-- A row of an `mlds` (R335): the weights of an output column. -/
def State.rowMlds (s : State) (o : MxOp) (T : Team) (off n : Nat) : State :=
  let r := tileRec o.recBytes
  let (bs, s1) := s.engRead o.uid (T.scrBase + off + n * r.pitch) r.pitch
  let p := s1.mx.shadow
  { s1 with mx := { s1.mx with shadow := { p with weights := p.weights ++ cellsOf (512 * n) (tileRow r bs n (r.tile0 * fmtBits r.fmt / 8)) } } }

/-- `mscl` when it starts (R336): its status and the columns whose scales it is to load. -/
def State.startMscl (s : State) (o : MxOp) (off : Nat) : Nat × List Nat := match s.teamUid o.tuid with
  | none => (0x60, [])
  | some T =>
    let p := s.mx.shadow
    if !planeScaled p.code then (0x52, [])
    else if T.scrSize < off + p.cols * (p.depth / 32) then (0x22, [])
    else (0, List.range p.cols)

/-- A row of an `mscl` (R336): the scales of an output column. -/
def State.rowMscl (s : State) (o : MxOp) (T : Team) (off n : Nat) : State :=
  let d := s.mx.shadow.depth / 32
  let (bs, s1) := s.engRead o.uid (T.scrBase + off + n * d) d
  let p := s1.mx.shadow
  { s1 with mx := { s1.mx with shadow := { p with scales := memPuts p.scales ((List.range d).map fun v => (32 * n + v, bs.getD v 0#8 ^^^ 0x7F#8)) } } }

/-- A field of a parameter block lies out of range (R337, R338). -/
def blockBad (f : Nat) (b : List Byte) : Bool :=
  let m := fld b 0x10 2
  let w := fld b 0x12 1
  fld b 0 8 % 64 != 0 || decide (2 ^ 56 ≤ fld b 0 8) || fld b 8 4 % 16 != 0 || (!planeScaled f && fld b 0x0C 4 != 0)
  || m == 0 || decide (256 < m) || w == 0 || decide (128 < w) || decide (16 ≤ fld b 0x13 1) || decide (16 ≤ fld b 0x14 1)
  || decide (6 ≤ fld b 0x14 1 % 8) || fld b 0x15 11 != 0 || fld b 0x28 24 != 0

/-- The status of an `mexec` before it computes (R338). -/
def State.mexecStatus (s : State) (o : MxOp) (T : Team) (f : Nat) (b : List Byte) : Nat :=
  let r := tileRec o.recBytes
  let m := fld b 0x10 2
  if blockBad f b then 0x60
  else if o.recBad ≠ 0#8 then o.recBad.toNat
  else if recordCheck o.recBytes ≠ 0 then 0x10 + recordCheck o.recBytes
  else if s.mx.active.fmt ≠ some f ∨ planeFmt r.fmt r.scm ≠ some f ∨ s.mx.active.depth < r.tile0 then 0x52
  else if r.tile1 < m then 0x20
  else if T.scrSize < fld b 8 4 + m * r.pitch ∨ (planeScaled f = true ∧ T.scrSize < fld b 0x0C 4 + m * (r.tile0 / 32)) then 0x22
  else 0

/-- An output element (R71, R338): the word with its poison, and the conditions met. -/
def mexElement (p : Plane) (f fmt kk n : Nat) (xs xsc : List Byte) (acc : PWord) : PWord × BitVec 5 :=
  let ys := memRead p.weights (512 * n) 512
  let ysc := (memRead p.scales (32 * n) 32).map fun x => x ^^^ 0x7F#8
  if f = 5 then (⟨mexInt kk xs ys acc.val, acc.poison⟩, 0#5)
  else
    let r := mexBlocks fmt p.elem kk xs ys xsc ysc (planeScaled f) ((kk + 31) / 32) 0 (acc.val.toNat, 0#5)
    (⟨BitVec.ofNat 32 r.1, acc.poison⟩, r.2)

/-- The outputs of a row of an `mexec`, into the slot, with the conditions met; `ecc` names a column whose outputs are poisoned (R319, R338). -/
def mexRow (p : Plane) (f : Nat) (r : TileRec) (w : Nat) (zero : Bool) (row scales : List Byte) (ecc : Option Nat) (m : Nat) (x : AccSlot) :
    AccSlot × BitVec 5 :=
  let xs := tileRow r row m (r.tile0 * fmtBits r.fmt / 8)
  let start (n : Nat) : PWord := if zero then clean (if f = 5 then 0#32 else 0x80000000#32) else (x.row m).getD n pzero
  let out := (List.range w).map fun n =>
    let e := mexElement p f r.fmt r.tile0 n xs scales (start n)
    ((if ecc = some n then { e.1 with poison := true } else e.1), e.2)
  (x.setRow m ((x.row m).mapIdx fun n v => match out[n]? with
    | some e => e.1
    | none => v), out.foldl (fun a e => a ||| e.2) 0#5)

/-- `mexec` when it starts (R338): its status and the rows that it is to do. -/
def State.startMexec (s : State) (o : MxOp) (f : Nat) (b : List Byte) (ecc : Option Nat) : Nat × List Nat × State :=
  match s.teamUid o.tuid with
  | none => (0x60, [], s)
  | some T =>
    if s.mx.plost then (0x50, [], { s with mx := { s.mx with plost := false } })
    else
      let st := s.mexecStatus o T f b
      if st ≠ 0 then (st, [], s) else ((if ecc.isSome then 0x51 else 0), List.range (fld b 0x10 2), s)

/-- A row of an `mexec` (R338): the conditions that it meets, and the state with the slot's row written. -/
def State.rowMexec (s : State) (o : MxOp) (T : Team) (f : Nat) (b : List Byte) (m : Nat) : BitVec 5 × State :=
  let r := tileRec o.recBytes
  let n := fld b 0x13 1 % 8
  let d := r.tile0 / 32
  let (row, s1) := s.engRead o.uid (T.scrBase + fld b 8 4 + m * r.pitch) r.pitch
  let (scales, s2) := if planeScaled f then s1.engRead o.uid (T.scrBase + fld b 0x0C 4 + m * d) d else ([], s1)
  let x := mexRow s.mx.active f r (fld b 0x12 1) (fld b 0x13 1 / 8 % 2 == 0) row scales o.ecc m (T.acc n)
  (x.2, s2.onTeam o.tuid fun U => U.setAcc n x.1)

/-- Replacement is requested with a cause, in a unit's ring (R401, R444): 1 jury columns, 2 banks, 3 link. -/
def State.replacement (s : State) (unit cause : Nat) : State :=
  (({ s with pkg := { s.pkg with replace := s.pkg.replace + 1 } } : State).recEvent unit 0x06 0x05 0 0 cause).raiseMsi 0 22

/-- A residue mismatch (R313, R314, R401): MISMATCH counts, the column is retired onto a jury column, or replacement is
asked for. -/
def State.residue (s : State) (column : Nat) : State :=
  let h := s.mx.health
  let jury := h.toNat % 8
  let h1 := satAdd64 h 48
  let retired := h1.toNat / 256 % 256
  let h2 := h1 + (if retired < 132 then 0x100#64 else 0#64)
  if jury = 0 then
    let s1 := { s with mx := { s.mx with health := h2 ||| 0x10000#64 } }
    (s1.recEvent s.coreNo 0x06 0x04 0 0 (column % 128)).replacement s.coreNo 1
  else
    let s1 := { s with mx := { s.mx with health := h2 - 1#64 } }
    s1.recEvent s.coreNo 0x06 0x04 0 0 (column % 128 + (jury - 1) * 128)

/-- The engine's head operation does a row (R306, R349): one of a halted slice stops. -/
def State.mxRow (s : State) (o : MxOp) (os : List MxOp) : State :=
  let put (t : State) (left : List Nat) (nf : BitVec 5) : State := { t with mx := { t.mx with ops := { o with left := left, nf := o.nf ||| nf } :: os } }
  match o.left, s.teamUid o.tuid with
  | m :: ms, some T =>
    if (s.slice o.f).halted then put s [] 0#5
    else match o.cmd with
      | .mlds off => put (s.rowMlds o T off m) ms 0#5
      | .mscl off => put (s.rowMscl o T off m) ms 0#5
      | .mexec f b => put (s.rowMexec o T f b m).2 ms (s.rowMexec o T f b m).1
      | .macz => put (s.onTeam o.tuid fun U => match o.slot with
          | some n => U.setAcc n { U.acc n with rows := (U.acc n).rows.filter fun p => p.1 != m }
          | none => U) ms 0#5
      | .mswap => put s [] 0#5
  | _, _ => put s [] 0#5

/-- What an operation comes to as it starts (R333, R335 to R340): its status and the rows that it is to do. -/
def State.mxBegin (s : State) (o : MxOp) (ecc : Option Nat) : Nat × List Nat × State := match o.cmd with
  | .mlds off => s.startMlds o off
  | .mswap => (0, [], { s with mx := { s.mx with active := s.mx.shadow, shadow := s.mx.active } })
  | .mscl off => ((s.startMscl o off).1, (s.startMscl o off).2, s)
  | .mexec f b => s.startMexec o f b ecc
  | .macz => (0, List.range 256, s)

/-- The engine starts the operation at its head, or does the next row of it (R306, R313, R335 to R340, R349): the conditions and the status
are kept for its completion. An operation of a halted slice does nothing and ends with 0x60 (R349). While a completion record is held at the
engine, no further operation starts (R321). -/
def execMatrixOpStart (upset : EngineUpset) (s : State) : Out := match s.mx.ops with
  | [] => .next s
  | o :: os =>
    if o.started then .next (if o.left.isEmpty then s else s.mxRow o os)
    else if s.held.any fun h => h.eng == Cls.mx.engine 0 then .next s
    else
      let ecc := match upset with
        | .planeEcc n => some (n % 128)
        | _ => none
      let s := match upset, o.slot with
        | .accEcc m n, some k => s.onTeam o.tuid fun U => U.setAcc k ((U.acc k).spoil (m % 256) (n % 128))
        | _, _ => s
      let r := if (s.slice o.f).halted then (0x60, [], s) else s.mxBegin o ecc
      let s1 := match upset, o.cmd with
        | .residue n, .mexec _ _ => if r.1 = 0 then r.2.2.residue n else r.2.2
        | _, _ => r.2.2
      .next { s1 with mx := { s1.mx with ops := { o with started := true, status := BitVec.ofNat 8 r.1, left := r.2.1, ecc := ecc } :: os } }

/-- The fields of `mx.fpx` counted up by the conditions of one operation (R315). -/
def fpxCount (x : BitVec 64) (fl : BitVec 5) : BitVec 64 :=
  let add (v : BitVec 64) (p : Nat × Nat) : BitVec 64 := if fl.getLsbD p.1 then satAdd64 v p.2 else v
  [(0, 0), (2, 16), (3, 32), (4, 48)].foldl add x

/-- The operation at the engine's head completes (R315, R320): its ranges and its slot are free, the exception counts of its
team, its sequence and its record. -/
def execMatrixOpComplete (s : State) : Out := match s.mx.ops with
  | [] => .next s
  | o :: os =>
    if !o.started || !o.left.isEmpty then .next s
    else
      let b := match o.cmd with
        | .mexec _ b => b
        | _ => []
      let st := if (s.slice o.f).halted then 0x60 else o.status.toNat
      let done (U : Team) : Team :=
        let V := { U with fpx := fpxCount U.fpx o.nf }
        match o.slot with
        | some n => V.setAcc n (V.acc n).done
        | none => V
      let s1 := ({ s with mx := { s.mx with ops := os }.settle } : State).onTeam o.tuid done
      let s2 := s1.completeCmd .mx o.gctx o.uid o.f o.asid o.seq st (fld b 0x14 1 % 8) (fld b 0x20 8) 0 (fld b 0x14 1 / 8 % 2 == 1)
      .next (s2.releaseEnded o.tuid)

/-- The lease hands over (R309, R310): all accepted operations are done, and the lease is used up with a live waiter, or
the owner's context is not live. A free engine is granted to the live head of its queue. -/
def execLeaseHandoff (s : State) : Out := match s.mx.st with
  | .owned x =>
    let y := s.liveHead (some x)
    if s.mx.ops.isEmpty ∧ ¬ s.mx.leaving = true ∧ (s.leaseOver x = true ∨ ¬ s.liveUid x = true) then
      let saved := s.mx.areas.any fun a => a.uid == x
      let m := { s.mx with st := .swap (some x) y, fifo := s.mx.fifo.filter fun u => some u != y }
      let num (u : Option Nat) : Nat := match u.bind s.byUid with
        | some G => G.gctx % 2048
        | none => 0
      let ev := num (some x) + num y * 2 ^ 11 + (if saved then 2 ^ 22 else 0)
      match s.byUid x with
      | some G => .next (({ s with mx := m } : State).recGroup G 0x05 0x03 ev)
      | none => .next { s with mx := m }
    else .next s
  | .free => match s.liveHead none with
    | some y => .next { s with mx := { s.mx with st := .swap none (some y), leaving := false, fifo := s.mx.fifo.filter fun u => u != y } }
    | none => .next s
  | _ => .next s

/-- The bytes of a save area's page as they stand in memory; none where a block of it is poisoned. -/
def State.areaBytes (s : State) (p : Nat × Nat) : Option (List Byte) :=
  if p.1 < 64 then (if spaPoisonRange s p.1 p.2 4096 then none else some (spaRead s p.1 p.2 4096))
  else if p.1 = 64 then some (memRead s.host p.2 4096) else none

/-- A save area's page written; every read then returns the engine's bytes (R311). The tags of the rows reached are verified (R213). -/
def State.areaWrite (s : State) (asid : BitVec 12) (p : Nat × Nat) (bs : List Byte) : State :=
  if p.1 < 64 then
    let t := (List.range 16).foldl (fun u i => u.noteTag asid p.1 (p.2 + 256 * i)) s
    { spaWrite t p.1 p.2 bs with paths := t.paths.forget (dramKey p.1 p.2) bs.length }
  else if p.1 = 64 then { s with host := memWrite s.host p.2 bs, paths := s.paths.forget (2 ^ 61 + p.2) bs.length } else s

/-- The outgoing group's planes go to its save area in their sealed form (R311). -/
def State.scanOut (s : State) (x : Nat) : State := match s.mx.areas.find? fun a => a.uid == x with
  | none => s
  | some a =>
    let (bs, s1) := s.chooseBytes (4096 * a.locs.length)
    let page (t : State) (i : Nat) : State := t.areaWrite a.asid (a.locs.getD i (65, 0)) ((bs.drop (4096 * i)).take 4096)
    let s2 := (List.range a.locs.length).foldl page s1
    let b := { a with image := some (s.mx.active, s.mx.shadow), bytes := bs, lost := s.mx.plost }
    { s2 with mx := { s2.mx with areas := s2.mx.areas.map fun z => if z.uid = x then b else z } }

/-- The incoming group's planes: its image if no byte of its area has changed, else zeros (R310, R311). A page in another
device's memory is taken as it was or as changed by a free choice; poison that the reads meet is counted (R215). A loss that no `mexec` has reported yet is still to be reported; a group that
has given the engine up meanwhile gives it up at once. -/
def State.scanIn (s : State) (y : Nat) : State :=
  let blank := { s.mx with st := .owned y, count := 0, lease := s.leaseOf y, plost := false, active := Plane.empty, shadow := Plane.empty }
  match s.mx.areas.find? fun a => a.uid == y with
  | none => { s with mx := blank.settle }
  | some a => match a.image with
    | none => { s with mx := blank.settle }
    | some p =>
      let (n, s0) := s.choose
      let s1 := a.locs.foldl (fun t p => if p.1 < 64 then t.noteRange a.asid p.1 p.2 4096 else t) s0
      let same (i : Nat) : Bool := match a.locs.getD i (65, 0) with
        | q => if q.1 = 65 then n % 2 == 1 else decide (s.areaBytes q = some ((a.bytes.drop (4096 * i)).take 4096))
      let good := (List.range a.locs.length).all same
      let areas := s.mx.areas.map fun z => if z.uid = y then { z with image := none, bytes := [], lost := false } else z
      let m := if good then { blank with active := p.1, shadow := p.2, areas := areas, plost := a.lost } else { blank with plost := true, areas := areas }
      { s1 with mx := m.settle }

/-- The number under which the accesses of a scan wait at banks. -/
def matrixHolder : Holder := ⟨2 ^ 39, []⟩

/-- The requests of a scan to the save areas of two groups. -/
def State.scanReqs (s : State) (x y : Option Nat) : List (Nat × Nat × Bool) :=
  let of (u : Option Nat) (write : Bool) : List (Nat × Nat × Bool) := (s.mx.areas.filter fun a => some a.uid == u && (write || a.image.isSome)).flatMap fun a =>
    a.locs.flatMap fun p => if p.1 < 64 then (List.range 16).map fun i => (p.1, p.2 + 256 * i, write) else []
  of x true ++ of y false

/-- A swap's scan is complete (R310, R311), once no bank holds an access of it (R287). -/
def execScanComplete (s : State) : Out := match s.mx.st with
  | .swap x y =>
    if s.busyBanks && s.reqsHeld matrixHolder (s.scanReqs x y) then .next (s.holdReqs matrixHolder (s.scanReqs x y))
    else
    let s := s.unhold matrixHolder
    let s1 := match x with
      | some u => s.scanOut u
      | none => s
    match y with
    | some u => .next (s1.scanIn u)
    | none => .next { s1 with mx := { s1.mx with st := .free, count := 0, leaving := false, plost := false, active := Plane.empty, shadow := Plane.empty } }
  | _ => .next s

/-- The planes are zeroed: the engine is free, or goes to the live head (R310). -/
def execClearComplete (s : State) : Out := match s.mx.st with
  | .clear =>
    let m := { s.mx with count := 0, plost := false, active := Plane.empty, shadow := Plane.empty }
    .next (match s.liveHead none with
      | some y => { s with mx := { m with st := .swap none (some y), leaving := false, fifo := m.fifo.filter fun u => u != y } }
      | none => { s with mx := { m with st := .free } })
  | _ => .next s

end Sys2Proof.Machine
end

