-- ==== Sys2Proof/Machine/TileCopy.lean ====
section
/-! DEFINITION. The tile-copy unit: `tcopy`, `tcopyr`, and the unit's own steps (spec/14_asynchronous_engines.md R317 to R319;
spec/15_engine_instructions.md R342). -/
namespace Sys2Proof.Machine

/-! ## Issue (R317, R342) -/

/-- The bytes of a tile's scales (R317). -/
def TileRec.scaleBytes (r : TileRec) : Nat := if r.scm = 1 then r.tile1 * (r.tile0 / 32) else if r.scm = 2 then r.tile1 / 32 * r.tile0 else 0

/-- `tcopy` and `tcopyr` (R317, R329, R342). -/
def tileCopy (back : Bool) (a : BitVec 7) (o : BitVec 14) (s : State) : Out :=
  cmdUnit true false [(a, 4)] s fun c G l => match s.teamOf G with
    | none => s.endUnit
    | some T =>
      if 32 ≤ s.tcs.length then s.retryUnit c .engine
      else
        let ws := G.readWords l a.toNat 4
        if anyPoison ws then s.consume G c (G.k0 c)
        else
          let va := (pairVal ws).toNat
          let p := (ws.getD 2 pzero).val.toNat
          let q := (ws.getD 3 pzero).val.toNat
          let odd := decide (2 ^ 28 ≤ p) || decide (2 ^ 24 ≤ q) || decide (6 ≤ bits p 26 24)
          let (bad, bs, s1) := if odd then (0x60#8, ([] : List Byte), s) else s.recordAt G (s.laneAgent G l).id va
          let r := tileRec bs
          let so := o.toNat * 64
          let b := T.scrBase + so
          let e := b + r.tile1 * r.pitch
          let rg := if bad ≠ 0#8 ∨ recordCheck bs ≠ 0 then [] else (b, e, !back) :: (if r.scm = 0 then [] else [(e, e + r.scaleBytes, !back)])
          let (seq, s2) := s1.issueCmd G .tc (bits p 26 24)
          let id := s2.tcs.foldl (fun m x => max m (x.id + 1)) 0
          let op : TcOp := ⟨id, G.gctx, G.uid, T.slot, T.uid, s.fOf G, s.asidOf G, decide (G.level = .U), seq, back, BitVec.ofNat 64 va,
            p % 2 ^ 24, q % 2 ^ 24, bits p 26 24, bitAt p 27, bad, bs, so, rg, false, 0#8, [], [], []⟩
          if odd then (({ s2 with tcs := s2.tcs ++ [op] } : State).spoil G).advance c
          else s.recordThen c G va ((({ s2 with tcs := s2.tcs ++ [op] } : State).spoil G).advance c)

/-- `tcopy` (R342). -/
def execTcopy (a : BitVec 7) (o : BitVec 14) (s : State) : Out := tileCopy false a o s
/-- `tcopyr` (R342). -/
def execTcopyr (a : BitVec 7) (o : BitVec 14) (s : State) : Out := tileCopy true a o s

/-! ## The copy (R317, R318) -/

/-- The view of memory of a tile copy's group. -/
def TcOp.view (o : TcOp) : View := ⟨o.f, o.asid, o.user, false⟩

/-- The number under which a tile copy's accesses are held at banks. -/
def TcOp.holder (o : TcOp) : Holder := ⟨opUid 2 o.seq o.uid, []⟩

/-- The agent that a tile copy is (R220, R223). -/
def TcOp.agent (o : TcOp) : AgentId := .op 2 o.uid o.seq

/-- The elements of a tile row that lie inside the array. -/
def TcOp.inside (o : TcOp) (r : TileRec) (m : Nat) : Nat := if r.dim1 ≤ o.i0 + m then 0 else min r.tile0 (r.dim0 - o.j0)

/-- The global address of a tile row. -/
def TcOp.rowVa (o : TcOp) (r : TileRec) (m : Nat) : Nat := r.base + (o.i0 + m) * r.stride1 + o.j0 * fmtBits r.fmt / 8

/-- The scale rows: global address, number of bytes inside the array, number of bytes (R317). -/
def TcOp.scaleRow (o : TcOp) (r : TileRec) (m : Nat) : Nat × Nat × Nat :=
  if r.scm = 1 then
    (r.sbase + (o.i0 + m) * r.sstride + o.j0 / 32, (o.inside r m + 31) / 32, r.tile0 / 32)
  else
    (r.sbase + (o.i0 / 32 + m) * r.sstride + o.j0, o.inside r (32 * m), r.tile0)

/-- The number of scale rows of a tile. -/
def TileRec.scaleRows (r : TileRec) : Nat := if r.scm = 1 then r.tile1 else if r.scm = 2 then r.tile1 / 32 else 0

/-- The checks of R318 up to the translations: the status of the first that fails, or 0. -/
def TcOp.check (o : TcOp) (size : Nat) : Nat :=
  let r := tileRec o.recBytes
  if o.recBad ≠ 0#8 then o.recBad.toNat
  else if recordCheck o.recBytes ≠ 0 then 0x10 + recordCheck o.recBytes
  else if (fmtBits r.fmt = 4 ∧ o.j0 % 2 = 1) ∨ (r.scm = 1 ∧ o.j0 % 32 ≠ 0) ∨ (r.scm = 2 ∧ o.i0 % 32 ≠ 0) then 0x21
  else if r.pad = 0 ∧ (r.dim1 < o.i0 + r.tile1 ∨ r.dim0 < o.j0 + r.tile0) then 0x20
  else if size < o.so + r.tile1 * r.pitch + r.scaleBytes then 0x22
  else 0

/-- The swizzled scratch offset of byte y of row m of a tile (R317). -/
def TileRec.place (r : TileRec) (m y : Nat) : Nat := m * r.pitch + ((y / 16) ^^^ (m % r.group)) * 16 + y % 16

/-- The ranges of global memory that a tile copy reaches. -/
def TcOp.ranges_ (o : TcOp) : List (Nat × Nat) :=
  let r := tileRec o.recBytes
  let rows := (List.range r.tile1).map fun m => (o.rowVa r m, (o.inside r m * fmtBits r.fmt + 7) / 8)
  let scales := if o.back then [] else (List.range r.scaleRows).map fun m => ((o.scaleRow r m).1, (o.scaleRow r m).2.1)
  (rows ++ scales).filter fun p => p.2 != 0

/-- Bytes with the poisoned blocks made zero, padded with a byte. -/
def padded (xs : List (List Byte × Bool)) (n : Nat) (pad : Byte) : List Byte :=
  let bs := xs.flatMap fun p => if p.2 then List.replicate p.1.length 0#8 else p.1
  bs ++ List.replicate (n - bs.length) pad

/-- Bytes that an engine writes into scratch (R233, R316): every read returns them from then on, and a rollback of the team keeps them. -/
def State.engPuts (s : State) (tuid : Nat) (puts : List Host.Cell) : State :=
  let on (x : Ctx) : Ctx := { x with snaps := x.snaps.map fun p => if p.team.uid = tuid then { p with scratch := memPuts p.scratch puts } else p }
  { s with
    scr := memPuts s.scr puts
    live := on s.live
    shadow := s.shadow.map on
    paths := puts.foldl (fun q c => q.dropOld (c.1 / 4 * 4) (c.1 / 4 * 4 + 4)) s.paths }

/-- A tile row moved into scratch as far as `on` says, with whether poison was met (R317, R318). -/
def State.pullRow (s : State) (o : TcOp) (r : TileRec) (b m : Nat) (on : Nat → Bool) : Bool × State :=
  let n := o.inside r m * fmtBits r.fmt
  let (xs, s1) := s.readCuts o.agent o.asid o.pages (if n = 0 then [] else blockCuts (o.rowVa r m) ((n + 7) / 8))
  let w := r.tile0 * fmtBits r.fmt / 8
  let bs0 := padded xs w 0#8
  let bs := if n % 8 = 4 then bs0.set (n / 8) (bs0.getD (n / 8) 0#8 &&& 0x0F#8) else bs0
  (xs.any (·.2), s1.engPuts o.tuid (((List.range w).map fun y => (b + r.place m y, bs.getD y 0#8)).filter fun c => on (c.1 / 8)))

/-- A scale row moved into scratch. -/
def State.pullScale (s : State) (o : TcOp) (r : TileRec) (b m : Nat) (on : Nat → Bool) : Bool × State :=
  let q := o.scaleRow r m
  let (xs, s1) := s.readCuts o.agent o.asid o.pages (if q.2.1 = 0 then [] else blockCuts q.1 q.2.1)
  let bs := padded xs q.2.2 0x7F#8
  (xs.any (·.2), s1.engPuts o.tuid (((List.range bs.length).map fun i => (b + m * q.2.2 + i, bs.getD i 0#8)).filter fun c => on (c.1 / 8)))

/-- A tile row moved back from scratch to global memory; a row that ends within a byte keeps that byte's other half. -/
def State.pushRow (s : State) (o : TcOp) (r : TileRec) (b m : Nat) : State :=
  let n := o.inside r m * fmtBits r.fmt
  let len := (n + 7) / 8
  let (row, s1) := s.engRead o.uid (b + m * r.pitch) r.pitch
  let bs0 := (List.range len).map fun y => row.getD (r.place m y - m * r.pitch) 0#8
  let last := o.rowVa r m + n / 8
  let (old, _, s2) := if n % 8 = 4 then s1.readLoc [o.agent] (Pages.at o.pages last) last 1 else ([0#8], false, s1)
  let bs := if n % 8 = 4 then bs0.set (n / 8) ((bs0.getD (n / 8) 0#8 &&& 0x0F#8) ||| (old.getD 0 0#8 &&& 0xF0#8)) else bs0
  if n = 0 then s2 else s2.writeCuts o.agent o.asid o.pages (o.rowVa r m) bs

/-- The range of global memory that a row of a tile copy reaches. -/
def TcOp.rowRange (o : TcOp) (r : TileRec) (m : Nat) : Nat × Nat :=
  if m < r.tile1 then (o.rowVa r m, (o.inside r m * fmtBits r.fmt + 7) / 8)
  else ((o.scaleRow r (m - r.tile1)).1, (o.scaleRow r (m - r.tile1)).2.1)

/-- The state with a tile copy replaced. -/
def State.setTc (s : State) (o : TcOp) : State := { s with tcs := s.tcs.map fun x => if x.id = o.id then o else x }

/-- A running tile copy moves a row, in no promised order (R317): all of it, or some of its units of 8 bytes first. It waits while a bank holds
the row (R287), and stops where its slice has halted (R349). -/
def State.tileRowStep (s : State) (o : TcOp) : State :=
  let (n, t) := s.choose
  match o.left[n % max 1 o.left.length]?, s.teamUid o.tuid with
  | some m, some T =>
    let r := tileRec o.recBytes
    let reqs := Pages.reqs o.pages o.back (o.rowRange r m).1 (o.rowRange r m).2
    if (s.slice o.f).halted then s.setTc { o with left := [] }
    else if s.portHolds o.f o.pages then s
    else if s.reqsHeld o.holder reqs then s.holdReqs o.holder reqs
    else
      let u := t.unhold o.holder
      let b := T.scrBase + o.so
      if o.back then (u.pushRow o r b m).setTc { o with left := o.left.filter (· ≠ m) }
      else
        let k := n / max 1 o.left.length
        let old := o.half.find? fun p => p.1 == m
        let part := decide (k % 2 = 1) && old.isNone
        let on (y : Nat) : Bool := match old with
          | some p => !bitAt p.2 (y % 512)
          | none => !part || bitAt (k / 2) (y % 512)
        let (bad, v) := if m < r.tile1 then u.pullRow o r b m on else u.pullScale o r (b + r.tile1 * r.pitch) (m - r.tile1) on
        v.setTc { o with
          left := if part then o.left else o.left.filter (· ≠ m)
          half := if part then (m, k / 2) :: o.half else o.half
          status := if bad then 0x40#8 else o.status }
  | _, _ => s.setTc { o with left := [] }

/-- A waiting tile copy starts (R317, R318): the checks in their order; its status is kept for its completion. Or a running one moves its next
row. One whose table walks meet a row held by a bank instance starts later (R287), and so does any while a completion record is held at the
unit (R321). -/
def execTileCopyStart (op : Nat) (s : State) : Out := match s.tcs.find? fun o => o.id == op with
  | none => .next s
  | some o =>
    if o.started then .next (if o.left.isEmpty then s else s.tileRowStep o)
    else if (s.tcs.find? fun x => !x.started).any (fun x => decide (x.id ≠ op)) = true ∨ 8 ≤ (s.tcs.filter (·.started)).length
        ∨ (s.held.any fun h => h.eng == Cls.tc.engine 0) = true then .next s
    else
      let fin (t : State) (st : Nat) : Out := .next (t.setTc { o with started := true, status := BitVec.ofNat 8 st })
      match s.teamUid o.tuid with
      | none => fin s 0x60
      | some T =>
        if (s.slice o.f).halted then fin s 0x60
        else if o.check T.scrSize ≠ 0 then fin s (o.check T.scrSize)
        else
          let r := tileRec o.recBytes
          let pages := (o.ranges_.flatMap fun p => pageNums p.1 p.2).dedup
          if s.walksHeld o.holder o.view pages ≠ [] then .next (s.holdReqs o.holder (s.walksHeld o.holder o.view pages))
          else
            let (ps, e, s0) := s.findPages o.view (if o.back then .store else .load) pages
            let s1 := s0.unhold o.holder
            match e with
            | some e => fin s1 e.status
            | none => .next (s1.setTc { o with started := true, pages := ps, left := List.range (r.tile1 + if o.back then 0 else r.scaleRows) })

/-- A tile copy completes (R317, R320, R342): its ranges are free, its sequence and its record. -/
def execTileCopyComplete (op : Nat) (s : State) : Out := match s.tcs.find? fun o => o.id == op && o.started && o.left.isEmpty with
  | none => .next s
  | some o =>
    let s1 := { s with tcs := s.tcs.filter fun x => x.id != op }
    let st := if (s.slice o.f).halted then 0x60 else o.status.toNat
    let s2 := s1.completeCmd .tc o.gctx o.uid o.f o.asid o.seq st o.scope o.record.toNat 0 o.post
    .next (s2.releaseEnded o.tuid)

end Sys2Proof.Machine
end

