-- ==== Sys2Proof/Machine/CopyEngine.lean ====
section
/-! DEFINITION. Bank-run commands, command chains and completions: `bkrun` and majors 0x79 and 0x7A, with the package copy
engines and the migration engines (spec/14_asynchronous_engines.md R320 to R326; spec/15_engine_instructions.md R343 to R348). -/
namespace Sys2Proof.Machine

/-! ## `bkrun` (R343) -/

/-- Where a group's runs issue from: its spar core while it is migrated, else its home core (R329). -/
def Group.sparAt (G : Group) : Option (Nat × Nat) := G.mig.bind fun m => m.core.map fun c => (m.stack, c)

/-- `bkrun` (R329, R343). -/
def execBkrun (a : BitVec 7) (p : BitVec 1) (sc : BitVec 3) (s : State) : Out :=
  cmdUnit false false [(a, 2)] s fun c G l => match s.teamOf G with
    | none => s.endUnit
    | some T =>
      if 64 ≤ (s.bank.runs.filter fun r => decide (r.spar = G.sparAt)).length then s.retryUnit c .engine
      else match G.ea 1 a.toNat l 0 with
        | .eat => s.consume G c (G.k0 c)
        | .flt e => s.faultAll G c e false
        | .ea va =>
          if 2 ^ 56 ≤ va then s.faultAll G c (fltSpace va) false
          else if va % 64 ≠ 0 then s.faultAll G c (fltAlign va) false
          else
            let (seq, s1) := s.issueCmd G .bk sc.toNat
            let g := match s.grid T.grid with
              | some g => g.entryVa.toNat
              | none => 0
            let r : Run := ⟨s1.bank.nextRun, G.gctx, G.uid, T.uid, G.share, s.fOf G, s.asidOf G, decide (G.level = .U), seq, sc.toNat, p == 1#1, va,
              G.sparAt, g, T.linear, false, 0#8, [], [], 0, [], [], false, 0#16⟩
            (({ s1 with bank := { s1.bank with runs := s1.bank.runs ++ [r], nextRun := s1.bank.nextRun + 1 } } : State).spoil G).advance c

/-! ## Chains (R323, R325, R345) -/

/-- The engine that a group's `ce.sel` names (R325). -/
def State.ceSel (s : State) (G : Group) : BitVec 10 := match s.teamOf G with
  | some T => T.cesel
  | none => G.sel

/-- The place, in the list of engines, of the one that `ce.sel` names and the group's slice owns. -/
def State.engOf (s : State) (G : Group) : Option Nat :=
  s.engs.findIdx? fun e => e.id == (s.ceSel G).toNat && e.f == s.fOf G

/-- An engine of the list. -/
def State.eng (s : State) (i : Nat) : Option ChainEng := s.engs[i]?

/-- The state with an engine replaced. -/
def State.setEng (s : State) (i : Nat) (e : ChainEng) : State := { s with engs := s.engs.set i e }

/-- The unit whose ring holds an engine's events (R398). -/
def ChainEng.unit (e : ChainEng) : Nat := if e.id < 0x200 then e.id else 0x100 + (e.id - 0x200)

/-- How an engine sees memory: at S, in the address space of `ce.ctl` (R322). -/
def ChainEng.view (e : ChainEng) : View := ⟨e.f, e.ctl.setWidth 12, false, false⟩

/-- The compute die of an engine (R223): a migration engine's stack is one of that die's three. -/
def ChainEng.die (e : ChainEng) : Nat := if e.id < 0x200 then e.id / 48 else (e.id - 0x200) / 3

/-- The die by whose countdown an engine meets slots (R422): a migration engine is at its stack's base die. -/
def ChainEng.base (e : ChainEng) : Nat := if e.id < 0x200 then e.id / 48 else 4 + (e.id - 0x200)

/-- The agent that the command of an engine's entry is (R220): it has the sequence that its completion gives. -/
def ChainEng.agent (e : ChainEng) : AgentId := .chain e.id e.f (e.seq + 1#32)

/-- The published part of a chain, with what `chtail` has released to it (R226). -/
def ChainEng.published (e : ChainEng) : AgentId := .tail e.id e.f

/-- A command starts (R223, R226, R227): it belongs to the instances of its own die, the package and the system, its completion releases
at the scope of its entry, and what was released to the chain is visible to it. -/
def State.startChain (s : State) (e : ChainEng) : State :=
  let X : Agent := ⟨e.agent, none, none, none, if e.die = s.die then 3 else 4⟩
  ({ s with paths := { s.paths with ops := ⟨e.agent, X, fld e.entry 9 1 % 8, true⟩ :: s.paths.ops } } : State).flow [e.published] [e.agent]

/-- An engine halts with a code (R323, R401, R444). -/
def State.haltEng (s : State) (i : Nat) (e : ChainEng) (err : Nat) : State :=
  let s1 := s.setEng i { e with st := 7, err := BitVec.ofNat 8 err }
  (s1.recEvent e.unit 0x05 0x04 (e.ctl.toNat % 4096) e.f (e.id + err * 2 ^ 10)).raiseMsi e.f 3

/-- After POST: the walk ends at the tail, else goes on at the entry's NEXT (R323); the NEXT of an entry that could not be read is read anew. -/
def ChainEng.onward (e : ChainEng) : ChainEng :=
  let next : BitVec 64 := BitVec.ofNat 64 (fld e.entry 0 8)
  if e.entry.isEmpty then { e with st := if e.cur = e.tail then 5 else 1, off := 1 }
  else if e.cur = e.tail then { e with st := 5, head := next } else { e with st := 1, head := next, off := 0 }

/-- Bytes written by an engine at a virtual address that lies in one page; none when the page fails. -/
def State.engStore (s : State) (x : AgentId) (v : View) (va : Nat) (bs : List Byte) (kind : WriteKind) : Except Flt State :=
  let (ps, e, s1) := s.findPages v .store [va / 4096]
  match e with
  | some f => .error f
  | none => .ok (s1.writeCuts x v.asid ps va bs kind)

/-- An entry is complete (R322, R323): the sequence, the completion word, which an acquire atomic that reads it pairs with (R233), then the
record, which may be held. A completion word that cannot be written halts the engine; one that a bank holds waits in POST (R287). -/
def State.postEntry (s : State) (i : Nat) (e : ChainEng) (status : Nat) : State :=
  let seq := e.seq + 1#32
  match (if e.cword = 0#64 then [] else s.rangesHeld e.holder e.view .store [(e.cword.toNat, 4)]) with
  | r :: rs => (s.setEng i { e with st := 3, status := BitVec.ofNat 8 status }).holdReqs e.holder (r :: rs)
  | [] =>
  let s := s.unhold e.holder
  let word := if e.cword = 0#64 then .ok s else s.engStore e.agent e.view e.cword.toNat (natLe 4 seq.toNat) { rels := s.opRels (· == e.agent) }
  match word with
  | .error f => s.haltEng i e f.status
  | .ok s1 =>
    let e1 := { e with seq := seq, status := BitVec.ofNat 8 status }
    let s2 := s1.recEvent e.unit 0x05 0x02 (e.ctl.toNat % 4096) e.f (3 + seq.toNat * 2 ^ 3 + status * 2 ^ 35)
    let fl := fld e.entry 9 1
    if bitAt fl 3 then
      let item : EvRecord := ⟨recordBits seq status 3 e.id (fld e.entry 0x38 8), 0, fl % 8⟩
      let s3 := s2.postRecord e.id (fld e.entry 0x0A 2) e.f item
      s3.setEng i (if s3.held.any fun h => h.eng == e.id && h.f == e.f then { e1 with st := 4 } else e1.onward)
    else s2.setEng i e1.onward

/-- A chain entry breaks no rule of R345. -/
def entryValid (s : State) (e : ChainEng) (b : List Byte) : Bool :=
  let x := s.slice e.f
  let kind := fld b 8 1
  let fl := fld b 9 1
  let n := fld b 0x0C 4 + 1
  let src := fld b 0x10 8
  let dst := fld b 0x18 8
  let rows := fld b 0x20 4
  let post := bitAt fl 3
  (if e.id < 0x200 then decide (kind ≤ 3) else decide (8 ≤ kind) && decide (kind ≤ 11))
  && decide (fl < 16) && decide (3 ≤ fl % 8) && decide (fl % 8 ≤ 5)
  && (if post then x.cores.any fun p => p.1 == fld b 0x0A 2 && p.2.1 != 0 else fld b 0x0A 2 == 0)
  && fld b 0x24 4 == 0
  && (if kind = 2 then rows != 0 && decide (rows ≤ 2 ^ 24) else rows == 0 && fld b 0x28 8 == 0 && fld b 0x30 8 == 0)
  && (kind != 3 || (n % 4 == 0 && dst % 4 == 0 && decide (src < 2 ^ 32)))
  && (!(kind == 8 || kind == 11) || src % 65536 == 0) && (!(kind == 9 || kind == 10 || kind == 11) || dst % 65536 == 0)
  && (kind != 8 || decide (dst < x.tierq.toNat)) && (kind != 9 || decide (src < x.tierq.toNat))

/-- Bytes of one page of a chain read by its engine; a failure gives its status, poison the status of a bad entry. -/
def State.engLoad (s : State) (e : ChainEng) (va n : Nat) : Except Nat (List Byte) × State := match s.engLoc e.view .load va with
  | (.error e, s1) => (.error e.status, s1)
  | (.ok l, s1) =>
    let ps : Pages := [(va / 4096, l.pageStart va)]
    let (xs, s2) := s1.readCuts e.published e.view.asid ps (blockCuts va n)
    (if xs.any (·.2) then .error 0x60 else .ok (xs.flatMap (·.1)), s2)

/-- The address of the entry that an engine in FETCH reads: `ce.head`, or the NEXT of its last entry, read anew (R323). -/
def State.fetchVa (s : State) (e : ChainEng) : Except Nat Nat × State :=
  if e.off = 0 then (.ok e.head.toNat, s)
  else match s.engLoad e e.cur.toNat 8 with
    | (.error st, s1) => (.error st, s1)
    | (.ok bs, s1) => (.ok (leNat bs), s1)

/-- A chain entry read in FETCH: its address, where it is known, and its bytes, or the code that halts the engine. -/
def State.fetchEntry (s : State) (e : ChainEng) : Option Nat × Except Nat (List Byte) × State := match s.fetchVa e with
  | (.error st, s1) => (none, .error st, s1)
  | (.ok va, s1) =>
    if va % 64 ≠ 0 ∧ va < 2 ^ 56 then (some va, .error 0x60, s1)
    else match s1.engLoad e va 64 with
      | (.error st, s2) => (some va, .error st, s2)
      | (.ok bs, s2) => (some va, .ok bs, s2)

/-- An engine whose entry cannot be read stands at it, where its address is known: RETRY fetches it again, SKIP goes past it (R323). -/
def ChainEng.unread (e : ChainEng) : Option Nat → ChainEng
  | some va => { e with cur := BitVec.ofNat 64 va, head := BitVec.ofNat 64 va, entry := [], off := 0 }
  | none => { e with entry := [] }

/-- A copy's rows: count, bytes, and the addresses of a row (R322). -/
structure Geometry where
  rows : Nat
  n : Nat
  src : Nat
  dst : Nat
  ss : Nat
  ds : Nat
deriving DecidableEq, Repr

/-- The geometry of an entry. -/
def geometry (b : List Byte) : Geometry where
  rows := if fld b 8 1 = 2 then fld b 0x20 4 else 1
  n := fld b 0x0C 4 + 1
  src := fld b 0x10 8
  dst := fld b 0x18 8
  ss := fld b 0x28 8
  ds := fld b 0x30 8

/-- The source address of a row. -/
def Geometry.srcOf (g : Geometry) (r : Nat) : Nat := (g.src + r * g.ss) % 2 ^ 64
/-- The destination address of a row. -/
def Geometry.dstOf (g : Geometry) (r : Nat) : Nat := (g.dst + r * g.ds) % 2 ^ 64

/-- Source and destination ranges overlap (R322). -/
def Geometry.overlap (g : Geometry) : Bool :=
  (List.range g.rows).any fun i => (List.range g.rows).any fun j => decide (g.srcOf i < g.dstOf j + g.n) && decide (g.dstOf j < g.srcOf i + g.n)

/-- The blocks that an `RCOPY` names overlap. -/
def blocksOverlap (b : List Byte) : Bool :=
  let n := (fld b 0x0C 4 + 1) * 65536
  decide (fld b 0x10 8 < fld b 0x18 8 + n) && decide (fld b 0x18 8 < fld b 0x10 8 + n)

/-- What an engine in FETCH reads: the NEXT of its last entry where it is read anew, and the entry. -/
def State.fetchRanges (s : State) (e : ChainEng) : List (Nat × Nat) :=
  (if e.off = 0 then [] else [(e.cur.toNat, 8)]) ++ match (s.fetchVa e).1 with
    | .ok va => [(va, 64)]
    | .error _ => []

/-- An engine in FETCH takes an entry of one kind (R323): it halts on one that it cannot read or that is invalid, a NOP
completes, and another goes to RUN, where overlapping ranges halt it. An entry of another kind is left to its own step. It waits while a bank
holds a read of it (R287). -/
def chainFetch (kind i : Nat) (s : State) : Out := match s.eng i with
  | none => .next s
  | some e =>
    if e.st ≠ 1 ∨ (s.slice e.f).halted = true then .next s
    else if s.rangesHeld e.holder e.view .load (s.fetchRanges e) ≠ [] then
      .next (s.holdReqs e.holder (s.rangesHeld e.holder e.view .load (s.fetchRanges e)))
    else match (s.unhold e.holder).fetchEntry e with
      | (va, .error st, s1) => .next (s1.haltEng i (e.unread va) st)
      | (at_, .ok b, s1) =>
        let va := at_.getD 0
        let run := if s1.drainedOn e.base then 6 else 2
        let e1 := { e with cur := BitVec.ofNat 64 va, head := BitVec.ofNat 64 va, entry := b, off := 0, status := 0#8, st := run }
        if !entryValid s1 e b then .next (s1.haltEng i e1 0x60)
        else if fld b 8 1 ≠ kind then .next s
        else if kind = 0 then .next ((s1.startChain e1).postEntry i e1 0)
        else if ((kind = 1 ∨ kind = 2) ∧ (geometry b).overlap = true) ∨ (kind = 11 ∧ blocksOverlap b = true) then .next (s1.haltEng i e1 0x61)
        else .next ((s1.startChain e1).setEng i e1)

/-- COPY (R322). -/
def execCopyEntry (engine : Nat) (s : State) : Out := chainFetch 1 engine s
/-- COPY2D (R322). -/
def execCopy2dEntry (engine : Nat) (s : State) : Out := chainFetch 2 engine s
/-- FILL (R322). -/
def execFillEntry (engine : Nat) (s : State) : Out := chainFetch 3 engine s
/-- NOP (R322). -/
def execNopEntry (engine : Nat) (s : State) : Out := chainFetch 0 engine s
/-- DOWN (R326). -/
def execTierDown (engine : Nat) (s : State) : Out := chainFetch 8 engine s
/-- UP (R326). -/
def execTierUp (engine : Nat) (s : State) : Out := chainFetch 9 engine s
/-- ZERO (R326). -/
def execZeroRows (engine : Nat) (s : State) : Out := chainFetch 10 engine s
/-- RCOPY (R326). -/
def execRowCopy (engine : Nat) (s : State) : Out := chainFetch 11 engine s

/-! ## Chunks of the package copy engines (R322, R324) -/

/-- The 16-byte blocks of DRAM that hold bytes of a range become poisoned. -/
def State.poisonRange (s : State) (ps : Pages) (va n : Nat) : State :=
  (blockCuts va n).foldl (fun t p => match (ps.at p.1).base with
    | .dram f spa =>
      let b := dramKey f spa / 16
      if t.eccBad.contains b then t else { t with eccBad := b :: t.eccBad }
    | _ => t) s

/-- The source cuts that were poisoned, as offsets and lengths from the chunk's start. -/
def badCuts (va : Nat) (cuts : List (Nat × Nat)) (xs : List (List Byte × Bool)) : List (Nat × Nat) :=
  (cuts.zip xs).filterMap fun p => if p.2.2 then some (p.1.1 - va, p.1.2) else none

/-- One chunk of COPY, COPY2D or FILL at the engine's offset, within one page on each side. -/
def State.copyChunk (s : State) (i : Nat) (e : ChainEng) : State :=
  let g := geometry e.entry
  let fill := fld e.entry 8 1 == 3
  let r := e.off / g.n
  let k := e.off % g.n
  let src := g.srcOf r + k
  let dst := g.dstOf r + k
  let left (a : Nat) : Nat := 4096 - a % 4096
  let len := min (g.n - k) (if fill then left dst else min (left src) (left dst))
  let (sp, e1, s1) := if fill then (([], none, s) : Pages × Option Flt × State) else s.findPages e.view .load [src / 4096]
  let (dp, e2, s2) := s1.findPages e.view .store [dst / 4096]
  match e1, e2 with
  | some f, some h => s2.haltEng i e (if h.before f then h else f).status
  | some f, none => s2.haltEng i e f.status
  | none, some h => s2.haltEng i e h.status
  | none, none =>
    let reqs := (if fill then [] else sp.reqs false src len) ++ dp.reqs true dst len
    if (sp ++ dp).any fun p => s2.revokedLoc p.2 then s2.postEntry i e 0x80
    else if s.portHolds e.f (sp ++ dp) then s
    else if s.walksHeld e.holder e.view [src / 4096, dst / 4096] ≠ [] then s.holdReqs e.holder (s.walksHeld e.holder e.view [src / 4096, dst / 4096])
    else if s2.reqsHeld e.holder reqs then s.holdReqs e.holder reqs
    else
      let cuts := blockCuts src len
      let (xs, s3) := if fill then ([((List.range len).map fun j => BitVec.ofNat 8 (g.src / 2 ^ (8 * ((k + j) % 4))), false)], s2)
        else s2.readCuts e.agent (e.ctl.setWidth 12) sp cuts
      let s4 := s3.writeCuts e.agent e.view.asid dp dst (xs.flatMap (·.1))
      let bad := if fill then [] else badCuts src cuts xs
      let s5 := (bad.foldl (fun t p => t.poisonRange dp (dst + p.1) p.2) s4).unhold e.holder
      let e3 := { e with off := e.off + len, status := if bad.isEmpty then e.status else 0x40#8 }
      if e3.off = g.rows * g.n then s5.postEntry i e3 e3.status.toNat else s5.setEng i e3

/-! ## Blocks of the migration engines (R216, R326) -/

/-- A page as a migration engine finds it: its place in the slice's memory, and whether a leaf has NR; a code otherwise. A
not-resident page is no failure here. -/
def State.migPage (s : State) (v : View) (write : Bool) (va : Nat) : Except Nat (Nat × Bool) × State :=
  if 2 ^ 56 ≤ va then (.error 0x33, s)
  else match xlate s v.f v.asid va with
    | (.fail _, s1) => (.error 0x30, s1)
    | (.ok l, s1) =>
      if l.cb.isSome then (.error 0x32, s1)
      else if l.host ∨ l.remote.isSome ∨ (write ∧ ¬ (l.w1 ∧ l.w2)) ∨ (write ∧ v.f = 0 ∧ frozenFor s1 .store l.spa = true) then (.error 0x31, s1)
      else (.ok (l.spa, l.nr1 || l.nr2), s1)

/-- The sixteen pages of a 64 KiB block, in order; the first code that fails. -/
def State.migPages (s : State) (v : View) (write : Bool) (va : Nat) : List Nat → Except Nat (List (Nat × Bool)) × State
  | [] => (.ok [], s)
  | i :: is => match s.migPage v write (va + 4096 * i) with
    | (.error n, s1) => (.error n, s1)
    | (.ok p, s1) => match s1.migPages v write va is with
      | (.error n, s2) => (.error n, s2)
      | (.ok ps, s2) => (.ok (p :: ps), s2)

/-- The poisoned rows of which a page holds stripes, with the stripes that migration engines have rewritten once the page is, too (R213). -/
def State.rowsRewritten (s : State) (f spa : Nat) : List (RowKey × List Nat) :=
  let x := s.slice f
  (List.range 16).foldl (fun l j =>
    let r := spaRow f x (spa + 256 * j)
    if !s.rowBad.contains r.1 then l
    else
      let done := ((l.find? fun p => p.1 == r.1).map (·.2)).getD []
      (r.1, if done.contains (r.2 / 256) then done else r.2 / 256 :: done) :: l.filter fun p => p.1 != r.1)
    (s.paths.rowPart.filter fun p => s.rowBad.contains p.1)

/-- A whole page rewritten by a migration engine: bytes, fresh codes and tags (R213, R214), then the poison carried. A poisoned row of which
the engines have so rewritten every stripe is whole again (log entry 46). -/
def State.migWrite (s : State) (w : AgentId) (f spa : Nat) (bs : List Byte) (poison : List Nat) : State :=
  let x := s.slice f
  let s1 := spaWrite (s.remember {} [(w, .dram f spa, bs)]) f spa bs
  let parts := s.rowsRewritten f spa
  let whole := (if spaResident x spa then [(spaRow f x spa).1, (spaRow f x (spa + 2048)).1] else [])
    ++ (parts.filter fun p => p.2.length == 8).map (·.1)
  let bad := poison.map fun j => dramKey f spa / 16 + j
  { s1 with
    rowBad := s1.rowBad.filter fun r => !whole.contains r
    eccBad := bad ++ s1.eccBad.filter fun b => !bad.contains b
    paths := { s1.paths with
      rowSeen := s1.paths.rowSeen.filter fun r => !whole.contains r
      rowPart := parts.filter fun p => !whole.contains p.1 } }

/-- The poisoned 16-byte blocks of a page, by number in the page. -/
def State.badIn (s : State) (f spa : Nat) : List Nat := (List.range 256).filter fun j => spaPoison s f (spa + 16 * j)

/-- Pages written from the bytes and poison of whole blocks. -/
def State.migFill (s : State) (w : AgentId) (f : Nat) (cells : List Host.Cell) (poison : List Nat) : List (Nat × Bool) → Nat → State
  | [], _ => s
  | p :: ps, i =>
    let bs := memRead cells (4096 * i) 4096
    (s.migWrite w f p.1 bs ((poison.filter fun j => j / 256 == i).map fun j => j % 256)).migFill w f cells poison ps (i + 1)

/-- The errors that the reads of a block's pages meet are counted and recorded (R213 to R215). -/
def State.migNote (s : State) (asid : BitVec 12) (f : Nat) (ps : List (Nat × Bool)) : State := ps.foldl (fun t p => t.noteRange asid f p.1 4096) s

/-- The bytes of pages as cells from zero on, with their poisoned blocks. -/
def State.migRead (s : State) (f : Nat) : List (Nat × Bool) → Nat → List Host.Cell × List Nat
  | [], _ => ([], [])
  | p :: ps, i =>
    let r := s.migRead f ps (i + 1)
    (cellsOf (4096 * i) (spaRead s f p.1 4096) ++ r.1, (s.badIn f p.1).map (fun j => 256 * i + j) ++ r.2)

/-- The requests of pages of a block, line by line. -/
def migReqs (e : ChainEng) (write : Bool) (ps : List (Nat × Bool)) : List (Nat × Nat × Bool) :=
  ps.flatMap fun p => (List.range 32).map fun j => (e.f, p.1 + 128 * j, write)

/-- A block's pages moved, unless a read of their table walks waits at a bank, or a page lies in a row that a running instance holds: then its
requests wait there (R287). -/
def State.migGate (s t : State) (e : ChainEng) (vas : List Nat) (reqs : List (Nat × Nat × Bool)) (go : State → State) : State :=
  let walks := s.walksHeld e.holder e.view (vas.flatMap fun va => (List.range 16).map fun i => va / 4096 + i)
  if walks ≠ [] then s.holdReqs e.holder walks
  else if t.reqsHeld e.holder reqs then s.holdReqs e.holder reqs else go (t.unhold e.holder)

/-- The tier blocks of the package with one replaced. -/
def State.setTier (s : State) (t : TierBlock) : State :=
  { s with pkg := { s.pkg with tier := t :: s.pkg.tier.filter fun u => !(u.f == t.f && u.block == t.block) } }

/-- One block of DOWN, UP, ZERO or RCOPY. -/
def State.migChunk (s : State) (i : Nat) (e : ChainEng) : State :=
  let kind := fld e.entry 8 1
  let src := fld e.entry 0x10 8
  let dst := fld e.entry 0x18 8
  let is := List.range 16
  let onward (t : State) (st : BitVec 8) : State :=
    let e1 := { e with off := e.off + 1, status := st }
    if kind = 8 ∨ kind = 9 ∨ e1.off = fld e.entry 0x0C 4 + 1 then t.postEntry i e1 st.toNat else t.setEng i e1
  match kind with
  | 8 => match s.migPages e.view false src is with
    | (.error n, s1) => s1.haltEng i e n
    | (.ok ps, s1) => s.migGate s1 e [src] (migReqs e false ps) fun s2 =>
      if ps.any fun p => !p.2 then onward s2 0x70#8
      else if (s2.pkg.tier.filter fun u => u.f == e.f).length ≥ (s2.slice e.f).tierq.toNat then onward s2 0x71#8
      else
        let r := s2.migRead e.f ps 0
        onward ((s2.migNote e.view.asid e.f ps).setTier ⟨e.f, dst, r.1, r.2, false⟩) (if r.2.isEmpty then 0#8 else 0x40#8)
  | 9 => match s.migPages e.view true dst is with
    | (.error n, s1) => s1.haltEng i e n
    | (.ok ps, s1) => s.migGate s1 e [dst] (migReqs e true ps) fun s2 =>
      match s2.pkg.tier.find? fun u => u.f == e.f && u.block == src && !u.bad with
      | some u => onward (s2.migFill e.agent e.f u.cells u.poison ps 0) (if u.poison.isEmpty then 0#8 else 0x40#8)
      | none =>
        let x := s2.slice e.f
        let rows := (ps.flatMap fun p => (List.range 16).map fun j => (spaRow e.f x (p.1 + 256 * j)).1).dedup
        onward { s2 with rowBad := rows ++ s2.rowBad.filter (fun r => !rows.contains r), paths := { s2.paths with rowPart := s2.paths.rowPart.filter fun p => !rows.contains p.1 } } 0x72#8
  | 10 => match s.migPages e.view true (dst + 65536 * e.off) is with
    | (.error n, s1) => s1.haltEng i e n
    | (.ok ps, s1) => s.migGate s1 e [dst + 65536 * e.off] (migReqs e true ps) fun s2 => onward (s2.migFill e.agent e.f [] [] ps 0) e.status
  | _ => match s.migPages e.view false (src + 65536 * e.off) is with
    | (.error n, s1) => s1.haltEng i e n
    | (.ok ps, s1) => match s1.migPages e.view true (dst + 65536 * e.off) is with
      | (.error n, s2) => s2.haltEng i e n
      | (.ok qs, s2) => s.migGate s2 e [src + 65536 * e.off, dst + 65536 * e.off] (migReqs e false ps ++ migReqs e true qs) fun s3 =>
        let r := s3.migRead e.f ps 0
        onward ((s3.migNote e.view.asid e.f ps).migFill e.agent e.f r.1 r.2 qs 0) (if r.2.isEmpty then e.status else 0x40#8)

/-- A chunk's bound in cycles (R324). -/
def ChainEng.bound (e : ChainEng) : Nat := if e.id < 0x200 then 752 else 7520

/-- How far a context of a migration engine stands from its turn: the functions follow that whose chunk was moved last, in ascending order
(R439; DESIGN CHOICE, log entry 46). -/
def State.turnOf (s : State) (e : ChainEng) : Nat := (e.f + 63 - ((s.turns.find? fun p => p.1 == e.id).map (·.2)).getD 63) % 64

/-- A context of a migration engine moves its chunk now: of the contexts with a chunk to move none is nearer to its turn. -/
def State.inTurn (s : State) (e : ChainEng) : Bool :=
  decide (e.id < 0x200) || (s.engs.filter fun x => x.id == e.id && x.st == 2 && !(s.slice x.f).halted).all fun x => decide (s.turnOf e ≤ s.turnOf x)

/-- The chunk that a context has moved was its turn. -/
def State.turnDone (s : State) (e : ChainEng) : State :=
  if e.id < 0x200 then s else { s with turns := (e.id, e.f) :: s.turns.filter fun p => p.1 != e.id }

/-- An engine in RUN moves its next chunk, if its bound ends by the drain point of the next slot (R324, R422); one whose completion word waits
at a bank tries again. -/
def execEngineChunk (engine : Nat) (s : State) : Out := match s.eng engine with
  | none => .next s
  | some e =>
    if e.st = 3 ∧ (s.slice e.f).halted = false then .next (s.postEntry engine e e.status.toNat)
    else if e.st ≠ 2 ∨ (s.slice e.f).halted = true ∨ s.drainedOn e.base = true ∨ ¬ s.inTurn e = true
        ∨ ((s.comingOn e.base).head?.any fun x => decide (s.startsIn e.base x < e.bound + 235)) = true then .next s
    else .next (if e.id < 0x200 then s.copyChunk engine e else s.turnDone e |>.migChunk engine e)

/-! ## RETRY, SKIP and held records (R321, R323, R325) -/

/-- RETRY in HALT: the same entry is fetched again. -/
def State.retryEng (s : State) (i : Nat) : State := match s.eng i with
  | none => s
  | some e => if e.st = 7 then s.setEng i { e with st := 1, err := 0#8, off := if e.entry.isEmpty then e.off else 0 } else s

/-- SKIP in HALT: POST with status SKIPPED, then as POST. -/
def State.skipEng (s : State) (i : Nat) : State := match s.eng i with
  | none => s
  | some e => if e.st = 7 then s.postEntry i { e with err := 0#8 } 0x62 else s

/-- RETRY (R323). -/
def execEngineRetry (engine : Nat) (s : State) : Out := .next (s.retryEng engine)
/-- SKIP (R323). -/
def execEngineSkip (engine : Nat) (s : State) : Out := .next (s.skipEng engine)

/-- The held record at a place in the list is posted once its partition has room, the oldest of its engine first (R321); a
chain engine in HOLD then goes on as from POST. -/
def execCompletionRecordPost (pos : Nat) (s : State) : Out := match s.held[pos]? with
  | none => .next s
  | some h =>
    if (s.held.take pos).any (fun g => g.eng == h.eng && (g.f == h.f || decide (0x400 ≤ h.eng))) ∨ s.partCap h.core ≤ (s.part h.core h.f).length then .next s
    else
      let s1 := { s with held := s.held.eraseIdx pos }.setPart h.core h.f (s.part h.core h.f ++ [h.item])
      .next (match s1.engs.findIdx? fun e => e.id == h.eng && e.f == h.f && e.st == 4 with
        | none => s1
        | some i => match s1.eng i with
          | none => s1
          | some e => s1.setEng i e.onward)

/-! ## `chtail` and `chseq` (R344) -/

/-- A chain's tail published: an engine in IDLE with a head, or in WAIT, goes to FETCH; in HALT only the tail changes (R323, R344). -/
def ChainEng.publish (e : ChainEng) (va : BitVec 64) : ChainEng :=
  let e1 := { e with tail := va, head := if e.head = 0#64 ∧ e.st ≠ 7 then va else e.head }
  if e.st = 0 ∧ e1.head ≠ 0#64 then { e1 with st := 1, off := 0 } else if e.st = 5 then { e1 with st := 1, off := 1 } else e1

/-- A unit of major 0x79: without an owned engine it is illegal (R325). -/
def chainUnit (names : List (BitVec 7 × Nat)) (s : State) (k : Cur → Group → Nat → Nat → ChainEng → State) : Out :=
  cmdUnit false true names s fun c G l => match s.engOf G with
    | none => s.trapUnit G c 0x01#8 0
    | some i => match s.eng i with
      | none => s.trapUnit G c 0x01#8 0
      | some e => k c G l i e

/-- `chtail` (R344): a release of what is visible to the group (R226, R232). -/
def execChtail (a : BitVec 7) (s : State) : Out :=
  chainUnit [(a, 2)] s fun c G l i e => match G.ea 1 a.toNat l 0 with
    | .eat => s.consume G c (G.k0 c)
    | .flt f => s.faultAll G c f false
    | .ea va =>
      if 2 ^ 56 ≤ va then s.faultAll G c (fltSpace va) false
      else if va % 64 ≠ 0 then s.faultAll G c (fltAlign va) false
      else (((s.setEng i (e.publish (BitVec.ofNat 64 va))).flow (s.allIds G) [e.published]).spoil G).advance c

/-- `chseq` (R344). -/
def execChseq (a : BitVec 7) (s : State) : Out :=
  chainUnit [(a, 1)] s fun c G _ _ e =>
    ((s.setGroup (G.writeLanes a (G.k0 c) fun _ => [clean e.seq])).spoil G).advance c

/-! ## `evpop`, `evwait` and `cbar` (R347, R348) -/

/-- The record's words (R347). -/
def recordWords (b : BitVec 128) : List PWord := (List.range 4).map fun i => clean (BitVec.ofNat 32 (b.toNat / 2 ^ (32 * i)))

/-- The TC sequence whose unreported poison a record of the group carries (R318, R347). -/
def EvRecord.poisonSeq (r : EvRecord) (G : Group) : Option (BitVec 32) :=
  let q : BitVec 32 := r.bits.setWidth 32
  if r.uid = G.uid ∧ r.bits.extractLsb' 40 3 = 2#3 ∧ r.bits.extractLsb' 32 8 = 0x40#8 ∧ G.unret.contains q then some q else none

/-- The agent that the operation of a record in a function's partition is (R220, R346). -/
def EvRecord.agent (r : EvRecord) (f : Nat) : AgentId :=
  if r.bits.extractLsb' 40 3 = 3#3 then .chain (r.bits.toNat / 2 ^ 48 % 65536) f (r.bits.setWidth 32)
  else .op (r.bits.toNat / 2 ^ 40 % 8) r.uid (r.bits.setWidth 32)

/-- `evpop` and `evwait` (R347): `wait` for the second. A record returned is an acquire of its operation's writes (R233). -/
def popRecord (wait : Bool) (a : BitVec 7) (s : State) : Out :=
  cmdUnit false true [(a, 4)] s fun c G _ =>
    let put (H : Group) (ws : List PWord) : Group := H.writeLanes a (H.k0 c) fun _ => ws
    match s.part s.coreNo (s.fOf G) with
    | [] => if wait then s.retryUnit c .engine else (s.setGroup (put G (List.replicate 4 pzero))).advance c
    | r :: rs => match r.poisonSeq G with
      | some q =>
        let H := { G with unret := G.unret.filter fun x => x != q }
        (s.setGroup H).consume H c (G.k0 c)
      | none =>
        let s1 := s.acquireOps G (· == r.agent (s.fOf G))
        (((s1.setPart s.coreNo (s.fOf G) rs).setGroup (put G (recordWords r.bits))).spoil G).advance c

/-- `evpop` (R347). -/
def execEvpop (a : BitVec 7) (s : State) : Out := popRecord false a s
/-- `evwait` (R347). -/
def execEvwait (a : BitVec 7) (s : State) : Out := popRecord true a s

/-- (c - s) mod 2^32 < 2^31 (R348). -/
def reached (c t : BitVec 32) : Bool := !(c - t).getLsbD 31

/-- The agent is one of a group's operations of a class up to a sequence (R348). -/
def AgentId.opTo (cls uid : Nat) (t : BitVec 32) : AgentId → Bool
  | .op c u q => c == cls && u == uid && reached t q
  | _ => false

/-- The agent is one of a chain's commands up to a sequence. -/
def AgentId.chainTo (eng f : Nat) (t : BitVec 32) : AgentId → Bool
  | .chain i g q => i == eng && g == f && reached t q
  | _ => false

/-- `cbar` on a class of the group (R348): it acquires the writes of the operations up to the sequence, and of no other (R233). -/
def State.cbarOn (s : State) (c : Cur) (G : Group) (cls : Nat) (q : ClassSeq) (tc : Bool) (t : BitVec 32) : State :=
  if t ≠ q.issued ∧ ¬ (t - q.issued).getLsbD 31 = true then s.trapUnit G c 0x01#8 0
  else if !reached q.upTo t then s.retryUnit c .engine
  else if tc && G.unret.any (reached t ·) then
    let H := { G with unret := G.unret.filter fun x => !reached t x }
    (s.setGroup H).consume H c (G.k0 c)
  else (s.acquireOps G (AgentId.opTo cls G.uid t)).advance c

/-- `cbar` (R348): a class of the group, or, for class 3, the engine that `ce.sel` names. -/
def execCbar (a : BitVec 7) (cl : BitVec 3) (s : State) : Out :=
  let named (k : Cur → Group → BitVec 32 → State) : Out := cmdUnit false true [(a, 1)] s fun c G l =>
    if cl = 3#3 ∧ s.engOf G = none then s.trapUnit G c 0x01#8 0
    else
      let w := G.readWord l a.toNat
      if w.poison then s.consume G c (G.k0 c) else k c G w.val
  named fun c G t => match cl.toNat with
    | 0 => s.cbarOn c G 0 G.bk false t
    | 1 => s.cbarOn c G 1 G.mx false t
    | 2 => s.cbarOn c G 2 G.tc true t
    | _ => match (s.engOf G).bind s.eng with
      | none => s.trapUnit G c 0x01#8 0
      | some e =>
        if reached e.seq t then (s.acquireOps G (AgentId.chainTo e.id e.f t)).advance c
        else s.retryUnit c .engine

end Sys2Proof.Machine
end

