-- ==== Sys2Proof/Machine/Migrate.lean ====
section
/-! DEFINITION. Wavefront migration: `mig`, `mret` and the arrival of a group that waited (spec/12_near_bank_compute.md R289 to
R295). -/
namespace Sys2Proof.Machine

/-- The context store that a migrated group takes, in bytes: for each thread the registers that R291 ships, w0 to w7 and the four latches
(R296, R300). -/
def Group.shipped (G : Group) : Nat := ((G.threads.filter (·.live)).map fun t => 4 * (min (G.winb + 96) t.regs.length - G.winb + 12)).sum

/-- The groups on a spar core. -/
def State.onSpar (s : State) (stack core : Nat) : List Group :=
  let on (G : Group) : Bool := match G.mig with
    | some m => m.stack == stack && m.core == some core
    | none => false
  s.live.groups.filter on ++ (match s.shadow with
    | some x => x.groups.filter on
    | none => [])

/-- The free context store of a spar core, if it can take another group (R289). -/
def State.sparFree (s : State) (stack core : Nat) : Option Nat :=
  let gs := s.onSpar stack core
  if 8 ≤ gs.length then none else some (196608 - (gs.map Group.shipped).sum)

/-- The spar cores of a stack on which a slice has a share, ascending. -/
def State.sparShares (s : State) (f stack : Nat) : List Nat :=
  (List.range 8).filter fun k => (s.slice f).spar.any fun p => p.1 == 8 * stack + k && p.2 != 0

/-- The spar core that a group is shipped to: of those with a share and room for the group, the one with the most free context store, the
lowest of equals (R290). -/
def State.sparChoice (s : State) (G : Group) (stack : Nat) : Option Nat :=
  (s.sparShares (s.fOf G) stack).foldl (fun b k => match s.sparFree stack k with
    | none => b
    | some n =>
      if n < G.shipped then b
      else match b with
        | none => some k
        | some j => if (s.sparFree stack j).getD 0 < n then some k else b) none

/-- A group of either context waits in a stack's FIFO. -/
def State.waitsFor (s : State) (stack u : Nat) : Bool := (s.live.groups ++ (s.shadow.getD Ctx.empty).groups).any fun H => H.uid == u && (match H.mig with
  | some n => n.stack == stack && n.core.isNone
  | none => false)

/-- A group placed on a spar core, with its event (R290, R401). -/
def State.settleOn (s : State) (G : Group) (m : Mig) (core : Nat) : State :=
  (s.setGroup { G with mig := some { m with core := some core } }).recGroup G 0x07 0x05 (G.gctx % 2048 + core * 2 ^ 11 + m.stack * 2 ^ 14)

/-- The group is shipped to a stack, or waits in the stack's FIFO, behind those that wait there already (R290, R291): a group switch. -/
def State.ship (s : State) (G : Group) (stack : Nat) : State :=
  let back (t : Thread) : Thread := if t.live then t.redirect else t
  let m : Mig := ⟨stack, none, s.fpmode G, 0#5, s.readFlags G⟩
  let H := { G with threads := G.threads.map back, mig := some m }
  let queue := s.bank.arrivals.filter fun u => u != G.uid
  match if queue.any (s.waitsFor stack) then none else s.sparChoice G stack with
  | some k => s.settleOn H m k
  | none => { s.setGroup H with bank := { s.bank with arrivals := queue ++ [G.uid] } }

/-- `mig` (R290): a collective. A page that is no memory of the slice has no stack, and the group stays home. -/
def execMig (a : BitVec 7) (s : State) : Out :=
  teamCollective [(a, 2)] true s fun c G => match lowest (G.k0 c) with
    | none => s.advance c
    | some l =>
      let s0 := s.spoil G
      match s0.locate G .load 1 1 1 (G.ea 1 a.toNat l 0) with
      | (.eat, s1) => s1.consume G c (G.k0 c)
      | (.flt e, s1) => s1.faultAll G c e false
      | (.wait r, s1) => (s1.holdReqs (s1.holder G) r).retryUnit c .engine
      | (.at ea p, s1) => match p with
        | .remote _ _ _ => s1.faultAll G c (fltSpace ea) false
        | .via _ _ _ => s1.faultAll G c (fltSpace ea) false
        | .dram f spa =>
          if f ≠ s1.fOf G then s1.faultAll G c (fltSpace ea) false
          else
          let st := (spaRow f (s1.slice f) spa).1.stack
          if (s1.sparShares (s1.fOf G) st).isEmpty then s1.advance c else (s1.ship G st).advance c
        | _ => s1.advance c

/-- The group is away and all its live quads and fragments wait at an `mret` (R294). -/
def Group.allHome (G : Group) : Bool := G.mig.isSome && !G.liveSeqs.isEmpty && G.liveSeqs.all fun q => decide (q.wait = .home)

/-- A group whose quads all wait at an `mret` comes home (R291, R294, R401). -/
def State.returnHome (s : State) (g : Nat) : State := match s.group g with
  | none => s
  | some G => match G.mig with
    | none => s
    | some m =>
      if G.allHome then
        (s.recGroup G 0x07 0x06 (G.gctx % 2048 + m.core.getD 0 * 2 ^ 11 + m.stack * 2 ^ 14)).comeHome g
      else s

/-- `mret` (R294): away from home each quad waits after it for the others, and until the home context is live (R295); at home it
does nothing. -/
def execMret (s : State) : Out :=
  withUnit s fun c G => match (ctlUnit false []).check G c with
    | some cause => .next (s.trapUnit G c cause 0)
    | none => .next (if G.mig.isSome ∧ G.k0 c ≠ 0#64 then (
      if c.away then s.holdAt c (c.pc + 4#56) .home else (s.holdAt c (c.pc + 4#56) .home).returnHome c.gctx) else s.advance c)

/-- A group at the head of its stack's FIFO is taken by a spar core that has room (R290), whichever context is its home. -/
def execMigrationArrival (gctx : Nat) (s : State) : Out := match s.group gctx with
  | none => .next s
  | some G => match G.mig with
    | none => .next s
    | some m =>
      if m.core.isNone ∧ s.bank.arrivals.find? (s.waitsFor m.stack) = some G.uid then
        match s.sparChoice G m.stack with
        | some k => .next ({ s with bank := { s.bank with arrivals := s.bank.arrivals.filter fun u => u != G.uid } }.settleOn G m k)
        | none => .next s
      else .next s

end Sys2Proof.Machine
end

