-- ==== Sys2Proof/Machine/Launch.lean ====
section
/-! DEFINITION. The grid dispatcher: launch entries, their checks, the queue's registers, dependences and placement
(spec/06_parallel_execution.md R124 to R138; spec/02_encoding_and_assembler.md R52 to R54). -/
namespace Sys2Proof.Machine

/-! ## The launch queue (R129, R134) -/

/-- The launch queue of a function on a die. -/
def State.queue (s : State) (f die : Nat) : LaunchQ := (s.slice f).gd.getD die LaunchQ.empty

/-- The state with a launch queue replaced. -/
def State.setQueue (s : State) (f die : Nat) (q : LaunchQ) : State :=
  let x := s.slice f
  s.setSlice f { x with gd := x.gd.set die q }

/-- The queue is walking (R129). -/
def LaunchQ.walking (q : LaunchQ) : Bool := !q.halted && q.done != q.qpost

/-- Entries are published (R129, R446). -/
def State.publish (s : State) (f die : Nat) (count : BitVec 16) : State := s.setQueue f die { s.queue f die with qpost := count }

/-- RETRY: the head entry is read and checked again (R134). -/
def State.retryQueue (s : State) (f die : Nat) : State :=
  let q := s.queue f die
  if q.halted then s.setQueue f die { q with halted := false, reason := 0#8, nextUnread := false } else s

/-- SKIP and SKIPT: the refused entry is consumed; `trigger` for its counter's write (R134). -/
def State.skipQueue (s : State) (f die : Nat) (trigger : Bool) : State :=
  let q := s.queue f die
  if !q.halted then s
  else
    let r := { q with halted := false, reason := 0#8, nextUnread := false, done := q.done + 1#16, qhead := if q.nextUnread then q.qhead else q.next &&& 0xFFFFFFFFFFFFC0#64 }
    let s1 := s.setQueue f die r
    if trigger && !q.nextUnread then s1.writeCounter f (q.qcfg.setWidth 12) q.trigt [] else s1

/-- `gd.qpost` written by a group or through the VF's window (R129). -/
def execGdQpostWrite (f : Nat) (count : BitVec 16) (s : State) : Out := .next (s.publish f s.die count)
/-- `gd.qpost` written by the host (R446), in RUN in a request with the T bit (R453). -/
def execHostQpostWrite (f : Nat) (count : BitVec 16) (s : State) : Out :=
  .next (if s.bar0Open f 0 true then (s.publish f s.die count).flow [.host] [.dispatcher s.die] else s)
/-- RETRY (R134). -/
def execRetryHead (f : Nat) (s : State) : Out := .next (s.retryQueue f s.die)
/-- SKIP (R134). -/
def execSkipHead (f : Nat) (s : State) : Out := .next (s.skipQueue f s.die false)
/-- SKIPT (R134). -/
def execSkipHeadTrigger (f : Nat) (s : State) : Out := .next (s.skipQueue f s.die true)

/-! ## The entry and the descriptor (R52, R54, R131) -/

/-- A role record (R54): entry offset, width, groups and registers per thread. -/
abbrev Role := Nat × Nat × Nat × Nat

/-- Role j of a descriptor, with the group count of the entry's RGROUPS (R131). -/
def roleOf (d e : List Byte) (j : Nat) : Role :=
  let o := 0x40 + 16 * j
  let n := if fld e (0x24 + j) 1 = 0 then fld d (o + 5) 1 else fld e (0x24 + j) 1
  (fld d o 4, 8 * 2 ^ fld d (o + 4) 1, n, 8 * (fld d (o + 6) 1 + 1))

/-- The roles of a launch. -/
def rolesOf (d e : List Byte) : List Role := (List.range (fld d 0x3C 1)).map (roleOf d e)

/-- The threads of a list of roles. -/
def roleThreads (rs : List Role) : Nat := (rs.map fun r => r.2.1 * r.2.2.1).sum

/-- The main registers of a list of roles. -/
def roleRegs (rs : List Role) : Nat := (rs.map fun r => r.2.1 * r.2.2.1 * r.2.2.2).sum

/-- The channel depths of a descriptor. -/
def depthsOf (d : List Byte) : List Nat := (List.range 48).map fun n => fld d (0x80 + n) 1

/-- The scratch allocation of a launch (R53, R131). -/
def scratchOf (d e : List Byte) : Nat := if fld e 0x20 2 = 0 then fld d 0x18 4 + fld d 0x1C 4 else 256 * fld e 0x20 2

/-- Some byte of a range is not zero. -/
def anyByte (b : List Byte) (off n : Nat) : Bool := ((b.drop off).take n).any fun x => x != 0#8

/-- A role record breaks R54. -/
def roleBad (d : List Byte) (j : Nat) : Bool :=
  let o := 0x40 + 16 * j
  fld d o 4 % 4 != 0 || decide (4 ≤ fld d (o + 4) 1) || fld d (o + 5) 1 == 0 || decide (128 < fld d (o + 5) 1)
  || decide (32 ≤ fld d (o + 6) 1)

/-- A dependence names an engine outside R132, or a copy engine that the slice does not own. -/
def depBad (x : Slice) (v : Nat) : Bool :=
  let e := bits v 47 32
  !(e == 0xFFFF || (decide (0x100 ≤ e) && decide (e ≤ 0x10F)) || (decide (e < 0xC0) && x.ceng.contains e))

/-- The checks of R134 that need only the entry and the descriptor, codes 0x02 to 0x09, in order. A byte that is not zero in a role
record beyond ROLES counts as a reserved byte, code 0x02 (DESIGN CHOICE, log entry 46). -/
def launchCheck (x : Slice) (d e : List Byte) : Nat :=
  let rn := fld d 0x3C 1
  let rs := rolesOf d e
  let ds := depthsOf d
  let base := fld d 0x18 4 + fld d 0x1C 4
  if fld d 0 4 ≠ 0x4C454948 ∨ fld d 4 2 ≠ 1 ∨ 16 ≤ fld d 6 2 ∨ anyByte d 0x3D 3 = true ∨ anyByte d 0xBC 68 = true
      ∨ ((List.range 4).any fun j => if j < rn then anyByte d (0x47 + 16 * j) 1 else anyByte d (0x40 + 16 * j) 16) = true
      ∨ anyByte e 0x2E 2 = true ∨ anyByte e 0x36 2 = true ∨ anyByte e 0x3E 2 = true then 0x02
  else if rn = 0 ∨ 4 < rn ∨ ((List.range rn).any (roleBad d)) = true
      ∨ ((List.range 4).any fun j => decide (128 < fld e (0x24 + j) 1) || (decide (rn ≤ j) && fld e (0x24 + j) 1 != 0)) = true then 0x03
  else if fld e 0x1E 2 = 0 ∨ 1024 < fld e 0x1E 2 ∨ fld e 0x1E 2 ≠ roleThreads rs ∨ 65536 < roleRegs rs then 0x04
  else if fld d 0x18 4 % 256 ≠ 0 ∨ (ds.any fun n => decide (64 < n)) = true ∨ fld d 0x1C 4 ≠ 256 * ds.sum ∨ 786432 < scratchOf d e
      ∨ (fld e 0x20 2 ≠ 0 ∧ 256 * fld e 0x20 2 < base) then 0x05
  else if fld e 0x18 2 = 0 ∨ fld e 0x1A 2 = 0 ∨ fld e 0x1C 2 = 0 ∨ 2 ^ 24 < fld e 0x18 2 * fld e 0x1A 2 * fld e 0x1C 2 then 0x06
  else if fld e 0x22 1 = 0 ∨ 8 < fld e 0x22 1 ∨ fld e 0x18 2 % fld e 0x22 1 ≠ 0 then 0x07
  else if depBad x (fld e 0x28 8) ∨ depBad x (fld e 0x30 8)
      ∨ ¬ (fld e 0x3C 2 = 0xFFFF ∨ (0x100 ≤ fld e 0x3C 2 ∧ fld e 0x3C 2 ≤ 0x10F)) then 0x08
  else if 4 ≤ fld e 0x23 1 ∨ 4096 < fld d 0x2C 4 then 0x09
  else 0

/-! ## Room on a core (R125, R135) -/

/-- What is taken on a core: free team slots and register blocks, scratch intervals in use, and (row, position) pairs. -/
structure Room where
  slots : Nat
  blocks : Nat
  scr : List (Nat × Nat)
  cells : List (Nat × Nat)
deriving DecidableEq, Repr

/-- Where a team goes: the base of its scratch, and (role, group, row, position) for each group. -/
abbrev Layout := Nat × List (Nat × Nat × Nat × Nat)

/-- The lowest row, then the lowest aligned position, free for a width (R125). -/
def Room.spot (m : Room) (w : Nat) : Option (Nat × Nat) :=
  let k := w / 4
  ((List.range 32).flatMap fun r => (List.range (16 / k)).map fun i => (r, k * i)).find? fun p =>
    (List.range k).all fun i => !m.cells.contains (p.1, p.2 + i)

/-- Groups of a width placed one after the other. -/
def Room.groups (role w : Nat) : Nat → Nat → Room → Option (Room × List (Nat × Nat × Nat × Nat))
  | 0, _, m => some (m, [])
  | n + 1, g, m => match m.spot w with
    | none => none
    | some p =>
      match Room.groups role w n (g + 1) { m with cells := m.cells ++ (List.range (w / 4)).map fun i => (p.1, p.2 + i) } with
      | none => none
      | some (m2, l) => some (m2, (role, g, p.1, p.2) :: l)

/-- The groups of all roles, in order. -/
def Room.roles : Nat → List Role → Room → Option (Room × List (Nat × Nat × Nat × Nat))
  | _, [], m => some (m, [])
  | j, r :: rs, m => match Room.groups j r.2.1 r.2.2.1 0 m with
    | none => none
    | some (m1, l) => match Room.roles (j + 1) rs m1 with
      | none => none
      | some (m2, k) => some (m2, l ++ k)

/-- The lowest free scratch interval of a size: it starts at 0 or where an interval in use ends. -/
def Room.gap (m : Room) (size : Nat) : Option Nat :=
  let starts := (0 :: m.scr.map (·.2)).filter fun b => decide (b + size ≤ 786432) && m.scr.all fun p => decide (p.2 ≤ b) || decide (b + size ≤ p.1)
  starts.foldl (fun a b => match a with
    | none => some b
    | some c => some (min b c)) none

/-- A team placed on a core, if it fits (R135). -/
def Room.place (m : Room) (rs : List Role) (size : Nat) : Option (Room × Layout) :=
  if m.slots = 0 ∨ m.blocks < roleRegs rs / 8 then none
  else match m.gap size, Room.roles 0 rs m with
    | some b, some (m1, l) => some ({ m1 with slots := m.slots - 1, blocks := m.blocks - roleRegs rs / 8, scr := (b, b + size) :: m.scr }, (b, l))
    | _, _ => none

/-- n teams placed one after the other on one core. -/
def Room.placeMany (rs : List Role) (size : Nat) : Nat → Room → Option (Room × List Layout)
  | 0, m => some (m, [])
  | n + 1, m => match m.place rs size with
    | none => none
    | some (m1, l) => match Room.placeMany rs size n m1 with
      | none => none
      | some (m2, ls) => some (m2, l :: ls)

/-- How many of n teams fit on an empty core, one after the other. -/
def Room.count (rs : List Role) (size : Nat) : Nat → Room → Nat
  | 0, _ => 0
  | n + 1, m => match m.place rs size with
    | none => 0
    | some (m1, _) => 1 + Room.count rs size n m1

/-- The number of shares on a core. -/
def State.sharesAt (s : State) (core : Nat) : Nat := (s.slices.filter fun x => x.valid && x.cores.any fun p => p.1 == core && p.2.1 != 0).length

/-- An empty core (R124, R364). -/
def State.emptyRoom (s : State) (core : Nat) : Room := ⟨16, 8192 - 64 * s.sharesAt core, [], []⟩

/-- The cores of a slice on a die. -/
def Slice.coresOn (x : Slice) (die : Nat) : List Nat := (x.cores.filter fun p => p.1 / 48 == die && p.2.1 != 0).map (·.1)

/-- One cluster fits on the slice's cores of the die, were they empty (R134, code 0x0A). -/
def State.placeable (s : State) (f : Nat) (rs : List Role) (size c : Nat) : Bool :=
  decide (c ≤ (((s.slice f).coresOn s.die).map fun k => Room.count rs size c (s.emptyRoom k)).sum)

/-- The teams resident on the core, in both contexts. -/
def State.allTeams (s : State) : List Team := s.live.teams ++ (match s.shadow with
  | some x => x.teams
  | none => [])

/-- The room that the modelled core has now (R124, R135, R170, R377). A quad whose threads have exited holds its place until its group
exits (R125). -/
def State.room (s : State) : Room :=
  let ts := s.allTeams
  let away : List Nat := match s.shadow with
    | some x => x.spilled.map (·.1)
    | none => []
  let place (t : Thread) : Nat × Nat := (t.row, t.col / 4)
  let cells := (s.live.groups.filter fun G => G.team.isSome).flatMap fun G => (G.threads.filter fun t => t.live || t.regs != []).map place
  let binned := s.live.bins.flatMap fun b => match b with
    | some x => x.threads.map fun f => place f.thread
    | none => []
  ⟨16 - (ts.filter fun T => !T.ended).length, s.live.free - (s.live.claims.map (·.need)).sum,
    (ts.filter fun T => !away.contains T.uid).map (fun T => (T.scrBase, T.scrBase + T.scrSize)), (cells ++ binned).dedup⟩

/-! ## Steps 1 and 2 of the dispatcher (R133, R134) -/

/-- Bytes that the dispatcher reads in an address space; none when a page fails or a block is poisoned. -/
def State.dispatchRead (s : State) (v : View) (va n : Nat) : Option (List Byte) × State :=
  let (ps, e, s1) := s.findPages v .load (pageNums va n)
  if e.isSome then (none, s1)
  else
    let (xs, s2) := s1.readCuts (.dispatcher s.die) v.asid ps (if n = 0 then [] else blockCuts va n)
    if xs.any (·.2) then (none, s2) else (some (xs.flatMap (·.1)), s2)

/-- The number under which the dispatcher's reads for a function wait at banks. -/
def dispatchHolder (f : Nat) : Holder := ⟨2 ^ 36 + f, []⟩

/-- The queue halts on a refused entry (R134, R375, R401, R444). -/
def State.refuseLaunch (s : State) (f code : Nat) (entry : Option (List Byte)) : State :=
  let q := s.queue f s.die
  let e := entry.getD []
  let r := { q with
    halted := true
    reason := BitVec.ofNat 8 code
    nextUnread := entry.isNone
    next := BitVec.ofNat 64 (fld e 0 8)
    trigt := BitVec.ofNat 64 (fld e 0x38 8) }
  let s1 := (s.setQueue f s.die r).postFq f 1 0xFFFF code q.qhead.toNat q.qhead.toNat 0 s.now
  (s1.recEvent (48 * s.die) 0x02 0x01 (q.qcfg.toNat % 4096) f (code + q.done.toNat * 256)).raiseMsi f 2

/-- The grid of an entry that passed every check, held by the dispatcher (R131 to R133). -/
def State.gridFor (s : State) (f : Nat) (asid : BitVec 12) (entryVa : BitVec 64) (d e params : List Byte) : Grid where
  id := s.nextGrid
  f := f
  asid := asid
  entryVa := entryVa
  next := BitVec.ofNat 64 (fld e 0 8)
  code := BitVec.ofNat 64 (fld d 8 8)
  codeSize := fld d 0x10 4
  roles := rolesOf d e
  scr := scratchOf d e
  chanBase := fld d 0x18 4
  chans := depthsOf d
  gx := fld e 0x18 2
  gy := fld e 0x1A 2
  gz := fld e 0x1C 2
  csize := fld e 0x22 1
  prio := fld e 0x23 1 % 4
  deps := [BitVec.ofNat 64 (fld e 0x28 8), BitVec.ofNat 64 (fld e 0x30 8)]
  trigt := BitVec.ofNat 64 (fld e 0x38 8)
  const := cellsOf 0 params
  nextCluster := 0
  placing := true
  triggeredTeams := 0
  triggerWritten := false
  endedTeams := 0
  killed := false

/-- The reads of step 1 that need the descriptor: code 0x01, or the parameter block's bytes. -/
def State.launchReads (s : State) (v : View) (d e : List Byte) : Option (List Byte) × State :=
  let n := min (fld d 0x2C 4) 4096
  let (params, s1) := s.dispatchRead v (fld e 0x10 8) n
  let code := pageNums (fld d 8 8) (fld d 0x10 4)
  let (_, e1, s2) := s1.findPages v .load code
  let (_, e2, s3) := s2.findPages v .fetch code
  if e1.isSome || e2.isSome then (none, s3) else (params, s3)

/-- What the dispatcher reads for the entry at the head of a queue: the entry, its descriptor and its parameters. -/
def State.launchRanges (s : State) (v : View) (va : Nat) : List (Nat × Nat) :=
  (va, 64) :: match (s.dispatchRead v va 64).1 with
    | none => []
    | some e => (fld e 8 8, 256) :: match (s.dispatchRead v (fld e 8 8) 256).1 with
      | none => []
      | some d => [(fld e 0x10 8, min (fld d 0x2C 4) 4096)]

/-- The dispatcher reads and checks the entry at `gd.qhead` (R133 step 1, R134). The parameter block is kept as this step reads it, for
step 3 to copy, and each slice's queue of a die may hold one entry of its own at a time (DESIGN CHOICE, log entry 46). It waits while a bank holds a read
of it (R287). -/
def execReadLaunchEntry (f : Nat) (s : State) : Out :=
  let x := s.slice f
  let q := s.queue f s.die
  if !x.valid || x.halted || x.trCtl.getLsbD 12 || !q.walking || q.grid.isSome then .next s
  else
    let asid : BitVec 12 := q.qcfg.setWidth 12
    let v : View := ⟨f, asid, false, false⟩
    let held := s.rangesHeld (dispatchHolder f) v .load (s.launchRanges v q.qhead.toNat)
    if held ≠ [] then .next (s.holdReqs (dispatchHolder f) held)
    else
    let (entry, s1) := (s.unhold (dispatchHolder f)).dispatchRead v q.qhead.toNat 64
    match entry with
    | none => .next (s1.refuseLaunch f 0x01 none)
    | some e =>
      let (desc, s2) := s1.dispatchRead v (fld e 8 8) 256
      match desc with
      | none => .next (s2.refuseLaunch f 0x01 (some e))
      | some d =>
        let (params, s3) := s2.launchReads v d e
        match params with
        | none => .next (s3.refuseLaunch f 0x01 (some e))
        | some p =>
          let c := launchCheck x d e
          if c ≠ 0 then .next (s3.refuseLaunch f c (some e))
          else if !s3.placeable f (rolesOf d e) (scratchOf d e) (fld e 0x22 1) then .next (s3.refuseLaunch f 0x0A (some e))
          else if fld e 0 8 % 64 ≠ 0 ∨ 2 ^ 56 ≤ fld e 0 8 then .next (s3.refuseLaunch f 0x0B (some e))
          else
            let g := s3.gridFor f asid q.qhead d e p
            .next (({ s3 with grids := s3.grids ++ [g], nextGrid := s3.nextGrid + 1 } : State).setQueue f s.die { q with grid := some g.id })

/-- A dependence is reached (R132). -/
def State.reachedDep (s : State) (f : Nat) (dep : BitVec 64) : Bool :=
  let e := bits dep.toNat 47 32
  let t : BitVec 32 := dep.setWidth 32
  if e = 0xFFFF then true
  else if 0x100 ≤ e then reached ((s.slice f).lcnt.getD (e - 0x100) 0#32) t
  else match s.engs.find? fun g => g.id == e && g.f == f with
    | some g => reached g.seq t
    | none => false

/-- The dispatcher's reads of a grid's dependences once they are reached (R132, R226, R239): an acquire at pkg scope of the counter writes
and the copy engines' completions that they observe, which the grid's operations happen after. -/
def State.observeDeps (s : State) (g : Grid) : State :=
  let X := s.dispatcher s.die
  let see (t : State) (dep : BitVec 64) : State :=
    let e := bits dep.toNat 47 32
    if e = 0xFFFF then t
    else if 0x100 ≤ e then t.flow [.counter g.f (e - 0x100)] [X.id]
    else match t.engs.find? fun x => x.id == e && x.f == g.f with
      | some x => t.acquire X 4 (t.opRels (AgentId.chainTo x.id x.f x.seq))
      | none => t
  (g.deps.foldl see s).flow [X.id] [.launch g.id]

/-! ## Step 3: placement (R126, R127, R135) -/

/-- A thread of a new team (R127). -/
def Thread.fresh (row col tix regs : Nat) : Thread :=
  ⟨row, col, tix, true, List.replicate regs pzero, List.replicate 8 pzero, List.replicate 4 ⟨pzero, 511#9, false⟩⟩

/-- The team channels of a grid (R53, R175): the depths, after the offset at which they begin. -/
def chansFrom (off : Nat) : List Nat → List (Option Chan)
  | [] => []
  | n :: ns => (if n = 0 then none else some ⟨n, off, 0, 0, List.replicate n 0#64⟩) :: chansFrom (off + 256 * n) ns

/-- The threads of the roles before role j (R126). -/
def Grid.before (g : Grid) (j : Nat) : Nat := roleThreads (g.roles.take j)

/-- The lowest resident-team slot that no team of either context holds (R377). -/
def State.freeSlot (s : State) : Nat := ((List.range 16).find? fun k => !(s.allTeams.any fun T => T.slot == k)).getD 0

/-- The share of a function on the core. -/
def State.shareOf (s : State) (f : Nat) : Option Nat := (List.range 4).find? fun i => match s.share i with
  | some x => x.f == f
  | none => false

/-- `ce.sel` at a launch (R325). -/
def State.firstEngine (s : State) (f : Nat) : BitVec 10 :=
  let own := s.engs.filter fun e => e.f == f && decide (e.id < 0xC0)
  if own.any fun e => e.id == s.coreNo then BitVec.ofNat 10 s.coreNo
  else match (List.range 0xC0).find? fun i => own.any fun e => e.id == i with
    | some i => BitVec.ofNat 10 i
    | none => 0x3FF#10

/-- A group of a new team (R125 to R127). -/
def State.newGroup (s : State) (T : Team) (g : Grid) (share : Nat) (p : Nat × Nat × Nat × Nat) : State :=
  let r := g.roles.getD p.1 (0, 8, 1, 8)
  let w := r.2.1
  let ts := (List.range w).map fun i => Thread.fresh p.2.2.1 (4 * p.2.2.2 + i) (g.before p.1 + p.2.1 * w + i) r.2.2.2
  let pc : BitVec 56 := (g.code + BitVec.ofNat 64 r.1).setWidth 56
  let word (n : Nat) : PWord := clean (BitVec.ofNat 32 n)
  let G : Group := {
    gctx := s.freeGctx
    uid := s.nextUid
    share := share
    team := some T.slot
    role := p.1
    index := p.2.1
    width := w
    reformed := false
    level := .U
    winb := 0
    unif := [word T.tx, word T.ty, word T.tz, word p.2.1] ++ List.replicate 12 pzero
    masks := List.replicate 7 0#64
    threads := ts
    seqs := seqsOf ts pc s.now
    timer := 0
    timerPend := false
    own := FpCtx.zero
    sel := 0#10
    mx := ClassSeq.empty
    tc := ClassSeq.empty
    bk := ClassSeq.empty
    unret := []
    mig := none
    serving := none }
  { s with nextUid := s.nextUid + 1, live := { s.live with groups := s.live.groups ++ [G] } }

/-- The kernel's code range leaves the instruction caches (R238). -/
def State.dropCode (s : State) (g : Grid) : State :=
  if s.icache.isEmpty then s
  else
    let lo := g.code.toNat
    let pages := (pageNums lo g.codeSize).filterMap fun p => match walk s g.f g.asid (4096 * p) with
      | .ok l => some (p, l.spa / 4096)
      | .fail _ => none
    let inside (w : IcWord) : Bool := w.f == g.f && pages.any fun p =>
      p.2 == w.spa / 4096 && decide (lo ≤ 4096 * p.1 + w.spa % 4096) && decide (4096 * p.1 + w.spa % 4096 < lo + g.codeSize)
    { s with icache := s.icache.filter fun w => !inside w }

/-- A team placed (R127, R135, R238, R372, R401); what was visible to its grid's launch is visible to its threads (R239). -/
def State.placeTeam (s : State) (g : Grid) (share linear : Nat) (lay : Layout) : State :=
  let x := linear % g.gx
  let T : Team := {
    slot := s.freeSlot
    uid := s.nextUid
    grid := g.id
    linear := linear
    tx := x
    ty := linear / g.gx % g.gy
    tz := linear / g.gx / g.gy
    cluster := linear / g.csize
    crank := x % g.csize
    csize := g.csize
    scrBase := lay.1
    scrSize := g.scr
    bars := List.replicate 16 ⟨0#16, 0, 0, none⟩
    chans := chansFrom g.chanBase g.chans
    accs := List.replicate 8 ⟨none, 0, false, []⟩
    fp := FpCtx.zero
    fpx := 0#64
    cesel := s.firstEngine g.f
    triggered := false
    eligible := true
    rollbacks := 0
    journal := []
    stopping := none
    blocked := 0
    blockedFree := s.live.rises
    ended := false
    killed := false }
  let s0 := s.dropCode g
  let s1 := { s0 with
    nextUid := s.nextUid + 1
    scr := memClear s.scr lay.1 (lay.1 + g.scr)
    live := { s.live with teams := s.live.teams ++ [T], free := s.live.free - roleRegs g.roles / 8 } }
  let s2 := lay.2.foldl (fun t p => t.newGroup T g share p) s1
  ((s2.flow [.launch g.id] ((List.range (roleThreads g.roles)).map (.thread T.uid))).startInterval T.slot).recEvent s.coreNo 0x02 0x02 g.asid.toNat g.f (T.slot + linear * 16)

/-- The teams of a cluster placed on the core, in ascending rank. -/
def State.placeTeams (s : State) (g : Grid) (share : Nat) : Nat → List Layout → State
  | _, [] => s
  | t, l :: ls => (s.placeTeam g share t l).placeTeams g share (t + 1) ls

/-- The cores of a list, each with its room, in ascending order: the lowest that can hold a team, where another core than `me` can hold
it only if a free bit says so (R135; log entry 2). -/
def pickCore (me : Nat) (rs : List Role) (size : Nat) (open_ : Nat → Bool) (rooms : List (Nat × Room)) : Option (Nat × Room × Layout) :=
  rooms.findSome? fun p => if p.1 ≠ me ∧ ¬ open_ p.1 = true then none else (p.2.place rs size).map fun q => (p.1, q.1, q.2)

/-- The teams of a cluster, in ascending rank, each on the lowest core that can hold it (R135): the core and the place of each. Bit
`192 r + k` of the free number says whether core k can hold the team of rank r. -/
def pickCores (me : Nat) (rs : List Role) (size free : Nat) : Nat → Nat → List (Nat × Room) → Option (List (Nat × Layout))
  | 0, _, _ => some []
  | n + 1, r, rooms => match pickCore me rs size (fun k => bitAt free (192 * r + k)) rooms with
    | none => none
    | some (k, m, l) => (pickCores me rs size free n (r + 1) (rooms.map fun p => if p.1 = k then (k, m) else p)).map ((k, l) :: ·)

/-- The teams of a cluster placed, in ascending rank: those on this core, and the others' numbers. -/
def State.placeSpread (s : State) (g : Grid) (share : Nat) : Nat → List (Nat × Layout) → State × List RemoteTeam
  | _, [] => (s, [])
  | t, (k, l) :: ls =>
    if k = s.coreNo then (s.placeTeam g share t l).placeSpread g share (t + 1) ls
    else
      let (u, rs) := s.placeSpread g share (t + 1) ls
      (u, ⟨t, k, false⟩ :: rs)

/-- The next cluster of a grid placed, if it fits: the state, and the teams that other cores took (R135). -/
def State.placeCluster (s : State) (f : Nat) (g : Grid) : Option (State × List RemoteTeam) :=
  let cores := (List.range 192).filter ((s.slice f).coresOn s.die).contains
  let first := g.nextCluster * g.csize
  if cores.all (· == s.coreNo) then match s.shareOf f, Room.placeMany g.roles g.scr g.csize s.room with
    | some sh, some (_, ls) => some (s.placeTeams g sh first ls, [])
    | _, _ => none
  else
    let (n, t) := s.choose
    match pickCores s.coreNo g.roles g.scr n g.csize 0 (cores.map fun k => (k, if k = s.coreNo then s.room else s.emptyRoom k)) with
    | some ls => some (t.placeSpread g ((s.shareOf f).getD 0) first ls)
    | none => none

/-- Steps 2 to 4 (R133, R135): once its dependences have been reached the grid's next cluster is placed whole if it fits, and after
the last one the entry is consumed. -/
def execPlacement (f : Nat) (s : State) : Out :=
  let q := s.queue f s.die
  match q.grid.bind s.grid with
  | none => .next s
  | some g =>
    if (s.slice f).halted ∨ (s.slice f).trCtl.getLsbD 12 = true ∨ ¬ (g.released || g.deps.all (s.reachedDep f)) = true then .next s
    else
      let s0 := if g.released then s else s.observeDeps g
      match s0.placeCluster f g with
      | none => .next (s0.setGrid { g with released := true })
      | some (s1, rs) =>
        let g1 := { g with nextCluster := g.nextCluster + 1, released := true, remote := g.remote ++ rs }
        if g1.nextCluster * g.csize < g.teams then .next (s1.setGrid g1)
        else .next ((s1.setGrid { g1 with placing := false }).setQueue f s.die { q with grid := none, qhead := g.next, done := q.done + 1#16 })

end Sys2Proof.Machine
end

