-- ==== Sys2Proof/Machine/Recorder.lean ====
section
/-! DEFINITION. The event recorder and the geode: `evmark` and `caps`, the halt of a slice, the freeze controller's steps, the
capsule's bytes and its retrieval (spec/19_event_recorder.md R397 to R415; spec/17 R374; spec/22 R458). -/
namespace Sys2Proof.Machine

/-! ## Privileged units of major 0x7C (R19, R28) -/

/-- The level of a group is at least a level (R19). -/
def Level.atLeast (l m : Level) : Bool := decide (m.code ≤ l.code)

/-- The checks of a system instruction: its encoding, its level, its window (R28). -/
def sysChecks (u : Unit) (enc : Bool) (lvl : Level) (c : Cur) (G : Group) : Option (BitVec 8) :=
  if !u.prefixOk c || !enc then some 0x01#8
  else if !G.level.atLeast lvl then some 0x02#8
  else u.check G c

/-- A system instruction that is no collective: its checks, then its effect. -/
def sysUnit (u : Unit) (enc : Bool) (lvl : Level) (s : State) (k : Cur → Group → State) : Out :=
  withUnit s fun c G => match sysChecks u enc lvl c G with
    | some cause => .next (s.trapUnit G c cause 0)
    | none => .next (if G.k0 c = 0#64 then s.advance c else k c G)

/-! ## Marks (R397, R403) -/

/-- The parts that share a unit's mark area (R397): a slice's share of the core, or one of its shares on a spar core of the stack. Slice f
has the numbers from 8 f on. -/
def State.markParts (s : State) (u : Nat) : List Nat :=
  (List.range s.slices.length).flatMap fun f =>
    let x := s.slice f
    if ¬ x.valid = true then []
    else if u < 0x100 then (if x.cores.any fun p => p.1 == u && p.2.1 != 0 then [8 * f] else [])
    else (x.spar.filter fun p => p.1 / 8 == u - 0x100 && p.2 != 0).map fun p => 8 * f + p.1 % 8

/-- The capacity of a unit's mark area (R397). -/
def markCap (u : Nat) : Nat := if u < 0x100 then 512 else if u < 0x200 then 256 else 0

/-- An event appended to a part of a unit's mark area (R397, R404). The other parts keep to their capacity, which the shares of now give,
and a part whose share is gone gives its place up. -/
def State.recMark (s : State) (u part : Nat) (ev : BitVec 128) : State :=
  let r := s.ring u
  let parts := s.markParts u
  let cap := markCap u / max 1 parts.length
  let old := ((r.marks.find? fun p => p.1 == part).map (·.2)).getD []
  let others := (r.marks.filter fun p => p.1 != part && parts.contains p.1).map fun p => (p.1, newest cap p.2)
  s.setRing u (if r.frozen then r.drop
    else { r with produced := r.produced + 1, marks := (part, newest cap (old ++ [ev])) :: others })

/-- Where a group's marks go: its core's area, or its base die's while it is migrated, with the part that is its slice's
share (R403). -/
def State.markPlace (s : State) (G : Group) : Nat × Nat := match G.mig with
  | some m => (0x100 + m.stack, s.fOf G * 8 + m.core.getD 0)
  | none => (s.coreNo, s.fOf G * 8)

/-- The mark event of a group (R403). -/
def State.markOf (s : State) (G : Group) (kind : Nat) (v : Word) : BitVec 128 :=
  let f := s.fOf G
  eventOf 0x09 kind (if f = 0 then 0 else (s.asidOf G).toNat) f (unitCycles s (s.markPlace G).1)
    (v.toNat + G.gctx % 2048 * 2 ^ 32 + G.team.getD 0 % 16 * 2 ^ 43)

/-- `evmark` (R403). -/
def execEvmark (a : BitVec 7) (kind : BitVec 6) (s : State) : Out :=
  withUnit s fun c G => match sysChecks (ctlUnit false [(a, 1)]) (kind != 0#6 && decide (G.level ≠ .M)) .U c G with
    | some cause => .next (s.trapUnit G c cause 0)
    | none =>
      if G.k0 c = 0#64 then .next (s.advance c)
      else
        let v := G.lowWord c a
        if v.poison then .next (s.consume G c (G.k0 c))
        else .next ((s.recMark (s.markPlace G).1 (s.markPlace G).2 (s.markOf G kind.toNat v.val)).advance c)

/-! ## Stubs (R402, R411) -/

/-- The function of an event. -/
def eventVf (ev : BitVec 128) : Nat := bits ev.toNat 103 98

/-- The stub of an event (R411). -/
def stubOf (ev : BitVec 128) : BitVec 128 :=
  BitVec.ofNat 128 (bits ev.toNat 127 122 * 2 ^ 122 + bits ev.toNat 97 50 * 2 ^ 50)

/-- An event as the capsule's sections hold it (R410). -/
def redact (ev : BitVec 128) : BitVec 128 := if eventVf ev = 0 then ev else stubOf ev

/-- An event rewritten as its stub if it is a function's (R402). -/
def stubIf (f : Nat) (ev : BitVec 128) : BitVec 128 := if eventVf ev = f ∧ f ≠ 0 then stubOf ev else ev

/-- The controller's own events of a function as stubs (log entry 24). -/
def Freeze.stub (c : Freeze) (f : Nat) : Freeze :=
  { c with
    fault := stubIf f c.fault
    secondary := c.secondary.map fun p => (stubIf f p.1, p.2)
    again := c.again.map fun p => (stubIf f p.1, p.2) }

/-- Every ring rewrites a function's events as stubs (R402), and so does the freeze controller. The retention SRAM keeps its copy, with the
points that were registered when it was made. -/
def State.stubEvents (s : State) (f : Nat) : State :=
  { s with
    rings := s.rings.map fun p =>
      (p.1, { p.2 with main := p.2.main.map (stubIf f), marks := p.2.marks.map fun q => (q.1, q.2.map (stubIf f)) })
    fc := s.fc.stub f }

/-! ## The halt of a slice (R349, R374, R458) -/

/-- A slice's TDISP state changes, which is recorded in IO0's ring; an entry into ERROR tells function 0 (R444, R449). -/
def State.tdiTo (s : State) (f : Nat) (st : BitVec 2) : State :=
  let s1 := (s.setSlice f { s.slice f with tdi := st }).recEvent 0x200 0x0A 0x01 0 0 (f + st.toNat * 64)
  if st = 3#2 then s1.raiseMsi 0 21 else s1

/-- A grid that ends with its slice: no team of it is placed any more, and its counter is not written (R458). -/
def Grid.stop (g : Grid) : Grid :=
  let rest := (if g.placing then g.teams - g.nextCluster * g.csize else 0) + g.remote.length
  { g with
    killed := true
    placing := false
    triggerWritten := true
    remote := []
    triggeredTeams := g.triggeredTeams + rest - (g.remote.filter (·.triggered)).length
    endedTeams := g.endedTeams + rest }

/-- The teams and the handler group of a function in the live context are killed, with no further write. -/
def State.killSlice (s : State) (f : Nat) : State :=
  let mine (i : Nat) : Bool := (s.grid i).any fun g => g.f == f
  let slots := (s.live.teams.filter fun T => !T.ended && mine T.grid).map (·.slot)
  let s1 := slots.foldl (fun t k => t.killTeam k 3 0 false) s
  let hs := s1.live.groups.filter fun G => G.team.isNone && s1.fOf G == f
  let s2 := hs.foldl (fun t G => t.groupGone G) s1
  { s2 with live := { s2.live with frames := s2.live.frames.filter fun (x : Frame) => !(s2.share x.share).any fun y => y.f == f } }

/-- A chain halts with its slice (R349). -/
def State.haltChain (s : State) (f i : Nat) : State := match s.eng i with
  | some e => if e.f = f ∧ e.st ≠ 0 ∧ e.st ≠ 7 then s.haltEng i e 0x60 else s
  | none => s

/-- A slice halts (R349, R374, R458): its dispatchers stop, its teams are killed with no further write, its operations and runs end
halted, its chains halt. Other slices run on. -/
def State.haltSlice (s : State) (f : Nat) : State :=
  let x := s.slice f
  if x.halted then s
  else
    let s1 := s.setSlice f { x with halted := true, gd := x.gd.map fun q => { q with grid := none } }
    let s2 := { s1 with grids := s1.grids.map fun (g : Grid) => if g.f = f then g.stop else g }
    let s3 := ((s2.killSlice f).exchange.killSlice f).exchange
    let s4 := s3.haltRuns f
    let s5 := (List.range s4.engs.length).foldl (fun t i => t.haltChain f i) s4
    { s5 with grids := s5.grids.filter fun (g : Grid) => !(g.f == f && decide (g.teams ≤ g.endedTeams)) }

/-- A locked or running interface goes to ERROR, and its slice halts (R449, R458, R460). -/
def State.toError (s : State) (f : Nat) : State :=
  let x := s.slice f
  if x.tdi = 1#2 ∨ x.tdi = 2#2 then
    ((s.setSlice f { x with trust := { x.trust with move := none } }).haltSlice f).tdiTo f 3#2
  else s

/-- A response stands in the function's mailbox, and MBSTAT[0] becomes 1 (R443, R444). -/
def State.respond (s : State) (f : Nat) (bs : List Byte) : State :=
  let x := s.slice f
  let s1 := s.setSlice f { x with trust := { x.trust with response := bs, mbStat := BitVec.ofNat 32 (1 + bs.length * 65536) } }
  if x.trust.mbStat.getLsbD 0 then s1 else s1.raiseMsi f 1

/-- A response of Nimzil's; in recovery there is none (R475). -/
def State.answer (s : State) (f : Nat) (bs : List Byte) : State := if s.pkg.boot.recovery then s else s.respond f bs

/-- A response stands in the function's DOE mailbox, which carries SPDM before a session, and IDE_KM (R461). -/
def State.respondDoe (s : State) (f : Nat) (bs : List Byte) : State :=
  let x := s.slice f
  s.setSlice f { x with trust := { x.trust with doe := bs } }

/-- A change that a contained-error ends without effect (R460); a revocation, which is none of the changes of R460, goes on. -/
def Change.ends : Change → Bool
  | .revoke _ _ _ => false
  | _ => true

/-- The change of a slice in progress ends without effect; its request is answered with an error (R460; log entry 26). -/
def State.dropChange (s : State) (f : Nat) : State :=
  let x := s.slice f
  match x.trust.change with
  | some c => if c.ends then
      let t := s.setSlice f { x with trust := { x.trust with change := none } }
      match c with
      | .clear _ => t
      | _ => t.answer f [0x7F#8]
    else s
  | none => s

/-- A slice contained-error (R374, R375, R404, R448, R449, R460): its fault event, its fault-queue record, the halt, ERROR. -/
def State.containSlice (s : State) (unit f code : Nat) (ev : BitVec 128) : State :=
  let s1 := (s.postFq f 7 0xFFFF code 0 0 0 s.now).fatal unit ev false f
  ((s1.haltSlice f).dropChange f).toError f

/-- `FATAL_SIGNAL` (R404): a unit finds a slice-fatal or a device-fatal fault. Which address space the work was for that met it is free
(R400). -/
def execFatalSignal (unit : Nat) (device : Bool) (f : Nat) (code : BitVec 8) (s : State) : Out :=
  if !allUnits.contains unit then .next s
  else if device then
    let t := s.deviceFatalAt unit code.toNat
    .next (if unit = 0x200 then { t with pkg := { t.pkg with manager := { t.pkg.manager with second := true } } } else t)
  else if f < 64 ∧ (s.slice f).valid = true then
    let (asid, t) := s.choose
    .next (t.containSlice unit f code.toNat (eventOf 0x04 0x04 (if f = 0 then 0 else asid) f (unitCycles s unit) code.toNat))
  else .next s

/-! ## `caps` (R414) -/

/-- `caps` FREEZE (R414). -/
def execCapsFreeze (a : BitVec 7) (s : State) : Out :=
  sysUnit (ctlUnit false [(a, 1)]) true .M s fun c G =>
    let w := G.lowWord c a
    if w.poison then s.consume G c (G.k0 c)
    else if w.val.extractLsb' 7 25 ≠ 0#25 then s.trapUnit G c 0x01#8 0
    else
      let dev := w.val.getLsbD 0
      let f := bits w.val.toNat 6 1
      let ev := eventOf 0x0B 0x01 0 (if dev then 0 else f) (unitCycles s s.coreNo) 0
      if dev then ({ (s.advance c).fatal s.coreNo ev true 0 with device := true } : State)
      else (s.advance c).containSlice s.coreNo f 5 ev

/-- `caps` EVENT (R414). -/
def execCapsEvent (a : BitVec 7) (s : State) : Out :=
  sysUnit (ctlUnit false [(a, 4)]) true .M s fun c G => match lowest (G.k0 c) with
    | none => s.advance c
    | some l =>
      let ws := G.readWords l a.toNat 4
      let n := leNat (ws.flatMap fun w => natLe 4 w.val.toNat)
      if anyPoison ws then s.consume G c (G.k0 c)
      else if bits n 127 122 ≠ 0x0B ∨ bits n 121 116 = 0 then s.trapUnit G c 0x01#8 0
      else (s.recRaw s.coreNo (BitVec.ofNat 128 (n / 2 ^ 98 * 2 ^ 98 + (unitCycles s s.coreNo).toNat * 2 ^ 50 + n % 2 ^ 50))).advance c

/-! ## The capsule (R405, R408 to R412) -/

/-- The point P of a function (R408): from its slice key. -/
def geodePoint (key : BitVec 128) (f : Nat) : BitVec 512 :=
  let k : BitVec 256 := Config.sm2Kdf 256 (natLe 16 key.toNat ++ [0x44#8, 0x54#8, 0x39#8, 0x47#8, 0x45#8, 0x4F#8, 0x44#8, 0x45#8] ++ natLe 1 f)
  Config.sm2Base (1 + k.toNat % (Config.sm2Order - 1))

/-- Two areas' events joined, the earlier of their heads first (R409); at most n events. -/
def joinEvents : Nat → List (BitVec 128) → List (BitVec 128) → List (BitVec 128)
  | n + 1, x :: xs, y :: ys =>
    if bits x.toNat 97 50 ≤ bits y.toNat 97 50 then x :: joinEvents n xs (y :: ys) else y :: joinEvents n (x :: xs) ys
  | _, xs, ys => xs ++ ys

/-- A unit's section in the ring copy (R409): its main area, which ends with the freeze mark, then its mark area, oldest first over all its
shares' parts. -/
def State.sectionOf (s : State) (u : Nat) : Section :=
  let r := s.ring u
  ⟨u, r.main ++ (r.marks.map (·.2)).foldr (fun l m => joinEvents (l.length + m.length) l m) [], r.produced, BitVec.ofNat 48 r.since, r.lastSlot, r.unheard⟩

/-- A section's bytes (R409, R410): an event dropped while the ring was frozen was not overwritten. -/
def Section.bytes (x : Section) : List Byte :=
  natLe 8 x.produced ++ natLe 4 x.events.length ++ natLe 4 (x.produced - x.unheard - x.events.length) ++ x.events.flatMap fun e => natLe 16 (redact e).toNat

/-- A section's directory entry (R409). -/
def Section.entry (x : Section) (off : Nat) : List Byte :=
  natLe 2 x.unit ++ natLe 2 0 ++ natLe 4 off ++ natLe 6 x.markCycle.toNat ++ natLe 2 x.lastSlot.toNat

/-- The directory of consecutive sections. -/
def directory : Nat → List Section → List Byte
  | _, [] => []
  | off, x :: xs => x.entry off ++ directory (off + 16 + 16 * x.events.length) xs

/-- A tenant record (R410). -/
def tenantRecord (unit index : Nat) (ev : BitVec 128) : List Byte :=
  natLe 2 unit ++ natLe 2 0 ++ natLe 4 index ++ natLe 8 0 ++ natLe 16 ev.toNat

/-- The records of a function: those of the sections, then the header's (R410). -/
def tenantRecords (c : Freeze) (xs : List Section) (f : Nat) : List (List Byte) :=
  (xs.flatMap fun x => (x.events.mapIdx fun i e => (i, e)).filterMap fun p =>
    if eventVf p.2 = f then some (tenantRecord x.unit p.1 p.2) else none)
  ++ (((c.fault, c.unit) :: c.secondary).mapIdx fun n p => (n, p)).filterMap fun p =>
    if eventVf p.2.1 = f then some (tenantRecord p.2.2 (0xFFFFFF00 + p.1) p.2.1) else none

/-- A function's tenant block (R410), with the scalar e that is drawn for it. -/
def tenantBlock (c : Freeze) (f e : Nat) (P : BitVec 512) (rs : List (List Byte)) : List Byte :=
  let head := natLe 1 f ++ natLe 3 0 ++ natLe 4 (16 + 64 + 16 + 32 * rs.length + 16) ++ natLe 4 rs.length ++ natLe 4 0
  let iv := natLe 4 c.seq ++ natLe 1 f ++ natLe 7 0
  let key : BitVec 128 := Config.sm2Kdf 128 (natLe 64 (Config.sm2Mul e P).toNat ++ natLe 4 c.seq ++ natLe 1 f)
  head ++ natLe 64 (Config.sm2Base e).toNat ++ iv ++ natLe 4 0
    ++ (List.range (32 * rs.length + 16)).map (Config.sm4Gcm key iv head rs.flatten)

/-- The point of a function in a list. -/
def pointOf (l : List (Nat × BitVec 512)) (f : Nat) : Option (BitVec 512) := (l.find? fun p => p.1 == f).map (·.2)

/-- The controller as the capsule's blocks take it: an event that it learned under another point than that of the copy is a stub (R402). -/
def State.blockFc (s : State) : Freeze :=
  (List.range 64).foldl (fun c f => if pointOf c.points f = pointOf s.points f then c else c.stub f) s.fc

/-- The functions that get a tenant block: those with a point registered at the copy and an event (R408, R410). -/
def State.geodeTenants (s : State) (xs : List Section) : List Nat :=
  (List.range 64).filter fun f => f != 0 && (pointOf s.fc.points f).isSome && !(tenantRecords s.blockFc xs f).isEmpty

/-- The capsule's header (R409). -/
def capsuleHeader (c : Freeze) (xs : List Section) (tenants size : Nat) (fw : BitVec 256) : List Byte :=
  natLe 4 0x444F4547 ++ natLe 2 1 ++ natLe 1 c.kind ++ natLe 1 (if c.kind = 1 then c.haltVf else 0) ++ natLe 4 c.seq ++ natLe 4 size
  ++ natLe 2 206 ++ natLe 2 tenants ++ natLe 1 c.nsec ++ natLe 1 c.droppedAt ++ natLe 10 0
  ++ natLe 16 Config.devId.toNat ++ natLe 64 Config.idKey.toNat ++ natLe 32 fw.toNat
  ++ natLe 16 (redact c.fault).toNat ++ natLe 2 c.unit ++ natLe 14 0
  ++ ((List.range 8).flatMap fun i => match (c.secondary[i]? : Option (BitVec 128 × Nat)) with
    | some p => natLe 16 (redact p.1).toNat
    | none => natLe 16 0)
  ++ natLe 208 0 ++ directory 4096 xs ++ natLe 288 0

/-- FWDIG: the hash over measurement blocks 1 to 6 (R454). -/
def State.fwDig (s : State) : BitVec 256 := Config.sm3 (s.pkg.boot.meas.flatMap fun m => natLe 32 m.toNat)

/-- The capsule of a ring copy (R409 to R412): each tenant block's scalar and the signature's random value are drawn. -/
def State.buildCapsule (s : State) (xs : List Section) : List Byte × State :=
  let fs := s.geodeTenants xs
  let (blocks, s1) := fs.foldl (fun (acc : List Byte × State) f =>
    let (e, t) := acc.2.choose
    let P := (pointOf s.fc.points f).getD 0#512
    (acc.1 ++ tenantBlock s.fc f e P (tenantRecords s.blockFc xs f), t)) ([], s)
  let secs := xs.flatMap Section.bytes
  let size := 4096 + secs.length + blocks.length + 64
  let body := capsuleHeader s.fc xs fs.length size s.fwDig ++ secs ++ blocks
  let (r, s2) := s1.choose
  (body ++ natLe 64 (Config.sm2Sign body r).toNat, s2)

/-! ## The steps of the controller (R405, R406) -/

/-- `RING_COPY` (R405): from FREEZING, with every mark written, the rings are copied, or the copy is skipped while the retention
SRAM holds a capsule not yet in flash; from COPYING, the copy is done and the rings thaw, unless the fault was device-fatal. -/
def execRingCopy (s : State) : Out :=
  let c := s.fc
  match c.st with
  | .freezing =>
    if c.copy.isSome then .next { s with fc := { c with st := .copying, skip := true, dropped := min 255 (c.dropped + 1) } }
    else .next { s with fc := { c with st := .copying, copy := some (allUnits.map s.sectionOf), points := s.points } }
  | .copying =>
    let s1 := { s with fc := { c with st := .building } }
    .next (if c.kind = 1 then s1.thawAll else s1)
  | _ => .next s

/-- `CAPSULE_BUILD` (R405). -/
def execCapsuleBuild (s : State) : Out :=
  let c := s.fc
  match c.st with
  | .building =>
    if c.skip then .next { s with fc := { c with st := .flushing } }
    else
      let (bytes, s1) := s.buildCapsule (c.copy.getD [])
      .next { s1 with fc := { c with st := .flushing, capsule := bytes } }
  | _ => .next s

/-- The flash keeps the 8 newest capsules (R413). -/
def keepCapsules (l : List Capsule) (c : Capsule) : List Capsule := newest 8 (l ++ [c])

/-- After FLUSHING (R405, R406): a second capsule passes through COPYING, else IDLE or STOPPED. -/
def State.afterFlush (s : State) : State :=
  let c := { s.fc with copy := if s.fc.skip then s.fc.copy else none, capsule := [], skip := false }
  match c.again with
  | some (ev, unit) =>
    let d := { c with
      st := .copying
      seq := c.seq + 1
      kind := 2
      haltVf := 0
      fault := ev
      unit := unit
      secondary := []
      nsec := 0
      droppedAt := c.dropped
      again := none
      copy := some (allUnits.map s.sectionOf)
      points := s.points }
    { s with fc := d }
  | none => { s with fc := { c with st := if c.kind = 1 then .idle else .stopped } }

/-- `CAPSULE_FLUSH` (R405, R413): the capsule is in flash, and its functions are told (R444). -/
def execCapsuleFlush (s : State) : Out :=
  let c := s.fc
  match c.st with
  | .flushing =>
    if c.skip then .next s.afterFlush
    else
      let fs := (List.range 64).filter fun f => (c.kind == 1 && f == c.haltVf) || (s.geodeTenants (c.copy.getD [])).contains f
      let s1 := { s with flash := keepCapsules s.flash ⟨c.seq, c.kind, if c.kind = 1 then c.haltVf else 0, c.capsule⟩ }
      .next (fs.foldl (fun t f => t.raiseMsi f 20) s1.afterFlush)
  | _ => .next s

/-! ## Retrieval (R415) -/

/-- The capsules that a request sees: those in flash, and one being flushed (R415). -/
def State.capsules (s : State) : List Capsule :=
  let c := s.fc
  s.flash ++ (if c.st = .flushing ∧ ¬ c.skip = true then [⟨c.seq, c.kind, if c.kind = 1 then c.haltVf else 0, c.capsule⟩] else [])

/-- The response to LIST (R415). -/
def State.listCapsules (s : State) : List Byte :=
  natLe 1 0 ++ natLe 1 s.capsules.length ++ s.capsules.flatMap fun c =>
    natLe 4 c.seq ++ natLe 4 c.bytes.length ++ natLe 1 c.kind ++ natLe 1 c.haltVf ++ natLe 2 0

/-- The current capsule is still being built. -/
def Freeze.pending (c : Freeze) (seq : Nat) : Bool :=
  c.seq == seq && !c.skip && (decide (c.st = .freezing) || decide (c.st = .copying) || decide (c.st = .building))

/-- The response to READ (R415). -/
def State.readCapsule (s : State) (seq off len : Nat) : List Byte :=
  if off % 16 ≠ 0 ∨ len < 16 ∨ 4096 < len ∨ len % 16 ≠ 0 then natLe 1 0x03
  else match s.capsules.find? fun c => c.seq == seq with
    | some c => if c.bytes.length ≤ off then natLe 1 0x02 else natLe 1 0x00 ++ (c.bytes.drop off).take len
    | none => if s.fc.pending seq then natLe 1 0x04 else natLe 1 0x01

/-- `LIST_CAPSULES` (R415). -/
def execListCapsules (f : Nat) (s : State) : Out := .next (s.answer f s.listCapsules)

/-- `READ_CAPSULE` (R415). -/
def execReadCapsule (f : Nat) (seq : BitVec 32) (off len : Nat) (s : State) : Out := .next (s.answer f (s.readCapsule seq.toNat off len))

end Sys2Proof.Machine
end

