-- ==== Sys2Proof/Machine/System.lean ====
section
/-! DEFINITION. Major 0x7C: control registers, `eret`, timers, the calendar, `ctxsw`, the divergence stack of a trapped quad, and
the flags (spec/01_sequential_machine.md R20 to R27; spec/17 R362 to R382; spec/20 R420, R421; spec/05 R120, R121). -/
namespace Sys2Proof.Machine

/-! ## Numbers (R20, R21) -/

/-- How a number reads and writes: a 32-bit register, a 64-bit register at its even number, or the high half of one. -/
inductive Cr where
  | word (n : Nat)
  | full (n : Nat)
  | high (n : Nat)
deriving DecidableEq, Repr

/-- The 32-bit registers. -/
def crWords : List Nat :=
  [0x000, 0x001, 0x002, 0x003, 0x080, 0x081, 0x0C2, 0x404, 0x40A, 0x440, 0x441, 0x442, 0x443, 0x446, 0x447, 0x470, 0x478, 0x479,
    0x47A, 0x47B, 0x480, 0x486, 0x48A, 0x800] ++ (List.range 16).map (0x450 + ·)

/-- The 64-bit registers, by their even numbers. -/
def crFulls : List Nat :=
  [0x040, 0x042, 0x044, 0x046, 0x0C0, 0x400, 0x402, 0x408, 0x444, 0x460, 0x462, 0x468, 0x472, 0x474, 0x47C, 0x47E, 0x482, 0x484, 0x488]

/-- The register of a number, none for an unassigned one (R20). -/
def crOf (n : Nat) : Option Cr :=
  if crWords.contains n then some (.word n)
  else if crFulls.contains n then some (.full n)
  else if 0 < n ∧ crFulls.contains (n - 1) = true then some (.high (n - 1))
  else none

/-- The lowest level that may read a number (R20). -/
def crLevel (n : Nat) : Level := match n / 1024 with
  | 0 => .U
  | 1 => .S
  | _ => .M

/-- The bits of a register that are not reserved (R7, and the registers' own tables). -/
def crBits : Nat → Nat
  | 0x000 => 0x3
  | 0x001 => 0x1F1F
  | 0x002 => 0x07E7FF1F
  | 0x003 => 0xFFF
  | 0x046 => 2 ^ 39 - 1
  | 0x080 => 0xF
  | 0x081 => 0x1F1F
  | 0x0C0 => 2 ^ 50 - 1
  | 0x0C2 => 0x1FF
  | 0x400 => 2 ^ 56 - 4
  | 0x402 => 2 ^ 56 - 2 ^ 12
  | 0x404 => 0x1FFF
  | 0x408 => 2 ^ 56 - 2 ^ 13
  | 0x40A => 0xFFFFFF
  | 0x440 => 0x07FF00FF
  | 0x441 => 0xFFFF
  | 0x442 => 0xFFFF
  | 0x443 => 0xFF0FFFFF
  | 0x444 => 2 ^ 56 - 2 ^ 6
  | 0x446 => 0xFFF
  | 0x447 => 0x0FFF3FFF
  | 0x460 => 2 ^ 48 - 2 ^ 16
  | 0x462 => 2 ^ 40 - 2 ^ 12 + 1
  | 0x470 => 0x7FF
  | 0x472 => 0xFFFF00000001FF07
  | 0x478 => 0x3FF
  | 0x479 => 0xFFF
  | 0x47A => 0xFF0C000F
  | 0x47C => 2 ^ 56 - 2 ^ 6
  | 0x47E => 2 ^ 56 - 2 ^ 2
  | 0x480 => 0xFFF03FFF
  | 0x482 => 2 ^ 56 - 2 ^ 12
  | 0x484 => 2 ^ 56 - 2 ^ 12
  | 0x486 => 0xFF03000F
  | 0x800 => 0xF0FFFFFF
  | _ => 2 ^ 64 - 1

/-- A value sets a reserved bit of a register (R7). -/
def crReserved (n v : Nat) : Bool := v &&& crBits n != v

/-! ## Registers of a slice (R129, R130, R204, R215, R362, R375): the same for every core, and for the host's window -/

/-- A slice's register as a group of the slice on a die reads it. -/
def State.sliceReg (s : State) (f die n : Nat) : Option Nat :=
  let x := s.slice f
  let q := s.queue f die
  if 0x450 ≤ n ∧ n ≤ 0x45F then some (x.lcnt.getD (n - 0x450) 0#32).toNat
  else match n with
  | 0x400 => some x.trVec.toNat
  | 0x402 => some x.trFbase.toNat
  | 0x404 => some x.trCtl.toNat
  | 0x408 => some x.fqBase.toNat
  | 0x40A => some x.fqIdx.toNat
  | 0x442 => some q.qpost.toNat
  | 0x443 => some (q.done.toNat + (if q.halted then 2 ^ 16 + q.reason.toNat * 2 ^ 24 else 0))
  | 0x444 => some q.qhead.toNat
  | 0x446 => some q.qcfg.toNat
  | 0x460 => some x.asbase.toNat
  | 0x462 => some x.s2root.toNat
  | 0x468 => some x.errs.toNat
  | _ => none

/-- RETRY, SKIP and SKIPT of `gd.qstat`: one of them, on a halted queue (R129, R134). -/
def State.queueControl (s : State) (f die v : Nat) : State :=
  if bits v 19 17 = 1 then s.retryQueue f die
  else if bits v 19 17 = 2 then s.skipQueue f die false
  else if bits v 19 17 = 4 then s.skipQueue f die true
  else s

/-- `tr.ctl` written: ASID is set, and a 1 in BOOT clears it (R6, R362, R452). -/
def Slice.writeTrCtl (x : Slice) (v : Nat) : Slice :=
  let boot := x.trCtl.getLsbD 12 && !bitAt v 12
  { x with trCtl := BitVec.ofNat 32 (v % 4096 + (if boot then 4096 else 0)) }

/-- A slice's register written, with no reserved bit set; none where the write is refused (R129, R445). -/
def State.setSliceReg (s : State) (f die n v : Nat) : Option State :=
  let x := s.slice f
  let q := s.queue f die
  let w : BitVec 64 := BitVec.ofNat 64 v
  match n with
  | 0x400 => some (s.setSlice f { x with trVec := w })
  | 0x402 => some (s.setSlice f { x with trFbase := w })
  | 0x404 => some (s.setSlice f (x.writeTrCtl v))
  | 0x408 => some (s.setSlice f { x with fqBase := w })
  | 0x40A => some (s.setSlice f { x with fqIdx := BitVec.ofNat 32 (bits x.fqIdx.toNat 23 16 * 65536 + v % 65536) })
  | 0x442 => some (s.publish f die (BitVec.ofNat 16 v))
  | 0x443 => some (s.queueControl f die v)
  | 0x444 => if q.walking then none else some (s.setQueue f die { q with qhead := w })
  | 0x446 => if q.walking then none else some (s.setQueue f die { q with qcfg := BitVec.ofNat 32 v })
  | 0x460 => some (s.setSlice f { x with asbase := w })
  | 0x468 => some (s.setSlice f { x with errs := w })
  | _ => some s

/-! ## Registers of a group, a team or the core -/

/-- Two's complement of an integer in n bits, as a number. -/
def intBits (n : Nat) (i : Int) : Nat := (i % (2 ^ n : Int)).toNat

/-- `th.place` (R128). -/
def State.placeWord (s : State) (G : Group) : Nat :=
  let (cr, cs) := match s.teamOf G with
    | some T => (T.crank, T.csize - 1)
    | none => (0, 0)
  cr % 8 * 2 ^ 24 + cs % 8 * 2 ^ 21 + G.index % 2048 * 2 ^ 8 + (if G.reformed then 16 else 0)
    + (Nat.log2 G.width - 3) % 4 * 4 + G.role % 4

/-- `slot.next` of a die (R421): zero until the die has received a beacon (R8). -/
def State.slotNext (s : State) (d : Nat) : Nat :=
  let x := (s.comingOn d).head?.getD s.cal.next
  if s.cal.heard.contains d then
    s.startsIn d x % 2 ^ 32 + x.num % 65536 * 2 ^ 32 + (if x.major then 2 ^ 48 else 0) + (if x.doubled then 2 ^ 49 else 0)
  else 0

/-- Beacons missed on a die in all (R421). -/
def State.missedOn (s : State) (die : Nat) : Nat := ((s.cal.missed.find? fun p => p.1 == die).map (·.2.1)).getD 0

/-- STATE of `cx.stat` (R380). -/
def CxRegs.state (c : CxRegs) : Nat := if c.spill then 2 else if c.load then 3 else 0

/-- The state's code in `rec.stat` (R405). -/
def FcSt.code : FcSt → Nat
  | .idle => 0
  | .freezing => 1
  | .copying => 2
  | .building => 3
  | .flushing => 4
  | .stopped => 5

/-- `mx.health` as it reads: its cfg fields are zero until the health record is loaded (R8, R314). -/
def Matrix.healthWord (m : Matrix) : Nat := if m.healthLoaded then m.health.toNat else m.health.toNat / 2 ^ 48 * 2 ^ 48

/-- A register of the group, its team, its share, its core or its engine; `l` is the reading lane. DESIGN CHOICE (log entry 46): for a
migrated group `ctl.fpstat` gives its team's sets as they stand, without the flags that the group still carries (R75, R77, R292). -/
def State.coreReg (s : State) (G : Group) (l n : Nat) : Nat :=
  let c := s.fp G
  let x := s.share G.share
  match n with
  | 0x000 => G.level.code
  | 0x001 => (match G.thread l with
    | some t => (t.regs.length / 8 - 1) % 32 * 2 ^ 8
    | none => 0) + G.winb / 8 % 32
  | 0x002 => s.placeWord G
  | 0x003 => (s.asidOf G).toNat
  | 0x040 => s.dieCycles.toNat
  | 0x042 => c.cycles.toNat
  | 0x044 => c.wall.toNat
  | 0x046 => G.timer
  | 0x080 => c.mode.toNat
  | 0x081 => c.pending.toNat * 256 + c.committed.toNat
  | 0x0C0 => s.slotNext (s.dieOf G)
  | 0x0C2 => min 255 (s.missedOn (s.dieOf G)) + (if s.inSlotOn (s.dieOf G) then 256 else 0)
  | 0x440 => (match x with
    | some y => y.weight % 256 + intBits 9 y.deficit * 2 ^ 16
    | none => 0) + G.share % 4 * 2 ^ 25
  | 0x441 => s.reformAge.toNat
  | 0x447 => min 2047 s.live.claims.length * 2 ^ 16 + s.live.free % 2 ^ 14
  | 0x470 => (match x with
    | some y => y.lease
    | none => 0)
  | 0x472 => s.mx.healthWord
  | 0x474 => (match s.teamOf G with
    | some T => T.fpx.toNat
    | none => 0)
  | 0x478 => (s.ceSel G).toNat
  | 0x480 => s.cx.ctl.toNat
  | 0x482 => s.cx.sva.toNat
  | 0x484 => s.cx.rva.toNat
  | 0x486 => s.cx.err.toNat * 2 ^ 24 + (if s.cx.late then 2 ^ 17 else 0) + (if s.shadow.isSome then 2 ^ 16 else 0) + s.cx.state
  | 0x488 => (match x with
    | some y => y.cover.toNat
    | none => 0)
  | 0x48A => (match x with
    | some y => y.events.toNat
    | none => 0)
  | 0x800 => s.fc.st.code * 2 ^ 29 + (if s.fc.copy.isSome then 2 ^ 28 else 0) + s.fc.dropped % 256 * 2 ^ 16 + (if s.mx.healthLoaded then s.fc.seq % 65536 else 0)
  | _ => match (s.engOf G).bind s.eng with
    | none => 0
    | some e => match n with
      | 0x479 => e.ctl.toNat
      | 0x47A => e.err.toNat * 2 ^ 24 + e.st
      | 0x47B => e.seq.toNat
      | 0x47C => e.head.toNat
      | 0x47E => e.cword.toNat
      | _ => 0

/-- A control register as a lane of a group reads it (R20, R22). -/
def State.readCr (s : State) (G : Group) (l n : Nat) : Nat := (s.sliceReg (s.fOf G) s.die n).getD (s.coreReg G l n)

/-- `ce.sel` of a group's team, or of a handler group (R325). -/
def State.setCeSel (s : State) (G : Group) (v : BitVec 10) : State := match s.teamOf G with
  | some T => s.setTeam { T with cesel := v }
  | none => s.setGroup { G with sel := v }

/-- A register of the engine that `ce.sel` names, written (R323, R325). -/
def State.setEngReg (s : State) (G : Group) (n v : Nat) : Option State := match s.engOf G with
  | none => none
  | some i => match s.eng i with
    | none => none
    | some e =>
      let quiet := e.st == 0 || e.st == 5 || e.st == 7
      match n with
      | 0x479 => if quiet then some (s.setEng i { e with ctl := BitVec.ofNat 32 v }) else none
      | 0x47A => if e.st = 7 ∧ bits v 19 18 = 1 then some (s.retryEng i) else if e.st = 7 ∧ bits v 19 18 = 2 then some (s.skipEng i) else some s
      | 0x47C => if quiet then some (s.setEng i { e with head := BitVec.ofNat 64 v }) else none
      | 0x47E => if quiet then some (s.setEng i { e with cword := BitVec.ofNat 64 v }) else none
      | _ => some s

/-- The bins whose oldest thread has waited for the limit are drawn (R151, R153). -/
def State.drawAged (s : State) : State :=
  (List.range 32).foldl (fun t i => match t.live.bins.getD i none with
    | some b => if b.oldest + t.reformAge.toNat ≤ t.now then t.drawBin i true else t
    | none => t) s

/-- The context registers written while nothing is in progress (R380). -/
def State.setCxReg (s : State) (G : Group) (n v : Nat) : Option State :=
  if s.cx.state ≠ 0 then none
  else match n with
    | 0x480 => some { s with cx := { s.cx with ctl := BitVec.ofNat 32 v, f := s.fOf G } }
    | 0x482 => some { s with cx := { s.cx with sva := BitVec.ofNat 64 v } }
    | 0x484 => some { s with cx := { s.cx with rva := BitVec.ofNat 64 v } }
    | _ => some s

/-- A share's field changed. -/
def State.onShare (s : State) (i : Nat) (f : Share → Share) : State := match s.share i with
  | some x => s.setShare i (f x)
  | none => s

/-- A control register written by a group, with no reserved bit set; none where the write is refused with the
illegal-instruction trap (R6, R22 and the registers' own entries). -/
def State.writeCr (s : State) (G : Group) (n v : Nat) : Option State :=
  if (s.sliceReg (s.fOf G) s.die n).isSome then s.setSliceReg (s.fOf G) s.die n v
  else if 0x479 ≤ n ∧ n ≤ 0x47E then s.setEngReg G n v
  else if 0x480 ≤ n ∧ n ≤ 0x486 then s.setCxReg G n v
  else match n with
  | 0x080 => if 4 < v % 8 then none else some (s.setFp G { s.fp G with mode := BitVec.ofNat 32 v })
  | 0x441 => if v < 16 then none else some ({ s with reformAge := BitVec.ofNat 32 v }).drawAged
  | 0x470 => if v = 0 ∨ 1024 < v then none else some (s.onShare G.share fun x => { x with lease := v })
  | 0x472 => some { s with mx := { s.mx with health := BitVec.ofNat 64 (v / 2 ^ 48 * 2 ^ 48 + s.mx.health.toNat % 2 ^ 48) } }
  | 0x474 => some (match s.teamOf G with
    | some T => s.setTeam { T with fpx := BitVec.ofNat 64 v }
    | none => s)
  | 0x478 => if v = 0x3FF ∨ (s.engs.any fun e => e.id == v && e.f == s.fOf G) = true then some (s.setCeSel G (BitVec.ofNat 10 v)) else none
  | 0x488 => some (s.onShare G.share fun x => { x with cover := BitVec.ofNat 64 v })
  | 0x48A => some (s.onShare G.share fun x => { x with events := BitVec.ofNat 32 v })
  | 0x800 => some { s with fc := { s.fc with dropped := bits v 23 16 } }
  | _ => some s

/-! ## `crd` and `cwr` (R22) -/

/-- The number of registers that an access names. -/
def Cr.words : Cr → Nat
  | .full _ => 2
  | _ => 1

/-- The register-field code of an access: main, operand, uniform or 0x7C, even for 64 bits; a 32-bit source may be a latch. -/
def crCode (write : Bool) (r : Cr) (a : BitVec 7) : Bool := match r with
  | .full _ => pairCode a
  | _ => if write then decide (a.toNat ≤ 124) else wd a

/-- The checks of an access to a number (R20, R22, R28): the number and the code, the level, the window. -/
def crChecks (write : Bool) (n : Nat) (a : BitVec 7) (c : Cur) (G : Group) : Except (BitVec 8) Cr := match crOf n with
  | none => .error 0x01#8
  | some r =>
    match sysChecks (ctlUnit false [(a, r.words)]) (crCode write r a) (crLevel n) c G with
    | some cause => .error cause
    | none => .ok r

/-- The words that a read gives. -/
def State.crWordsOf (s : State) (G : Group) (r : Cr) (l : Nat) : List PWord := match r with
  | .word n => [clean (BitVec.ofNat 32 (s.readCr G l n))]
  | .high n => [clean (BitVec.ofNat 32 (s.readCr G l n / 2 ^ 32))]
  | .full n => (split64 (BitVec.ofNat 64 (s.readCr G l n))).map clean

/-- `crd` (R22): one value for the group, that of its lowest lane where lanes differ (R170), in every active lane, or in a uniform
register once whatever the mask (R14). A read of `fq.idx` acquires the records before its TAIL (R375). -/
def execCrd (a : BitVec 7) (n : BitVec 12) (s : State) : Out :=
  withUnit s fun c G => match crChecks false n.toNat a c G with
    | .error cause => .next (s.trapUnit G c cause 0)
    | .ok r =>
      let low := (lowest (G.k0 c)).getD 0
      let H := if isUnif a.toNat then G.writeUnif a.toNat (s.crWordsOf G r low)
        else G.writeLanes a (G.k0 c) fun _ => s.crWordsOf G r low
      let s2 := if n = 0x40A#12 then s.flow [.faults (s.fOf G)] (s.laneIds G (G.k0 c)) else s
      .next ((s2.setGroup H).advance c)

/-- `cwr` (R22): the source of the lowest active lane, and the write, or the illegal-instruction trap. The trap of a write through
n + 1 (R21) comes after the privilege check and after the consumption of a poisoned source: the spec does not rank them (DESIGN
CHOICE, log entry 46). A write of `gd.qpost` releases what is visible to the group to the dispatcher (R129, R226). -/
def execCwr (a : BitVec 7) (n : BitVec 12) (s : State) : Out :=
  withUnit s fun c G => match crChecks true n.toNat a c G with
    | .error cause => .next (s.trapUnit G c cause 0)
    | .ok r => match lowest (G.k0 c) with
      | none => .next (s.advance c)
      | some l =>
        let ws := G.readWords l a.toNat r.words
        let v := leNat (ws.flatMap fun w => natLe 4 w.val.toNat)
        if anyPoison ws then .next (s.consume G c (G.k0 c))
        else match r with
          | .high _ => .next (s.trapUnit G c 0x01#8 0)
          | .word m | .full m =>
            if crReserved m v then .next (s.trapUnit G c 0x01#8 0)
            else match s.writeCr G m v with
              | some t => .next ((if m = 0x442 then t.flow (s.allIds G) [.dispatcher s.die] else t).advance c)
              | none => .next (s.trapUnit G c 0x01#8 0)

/-! ## `eret` (R365) -/

/-- The pending frame that a handle names for a group: its share's at S, the monitor's frames by position at M (log entry 25). -/
def State.frameFor (s : State) (G : Group) (h : Word) : Option Frame := match G.level with
  | .M => (s.live.frames.filter (·.monitor))[h.toNat]?
  | _ => s.live.frames.find? fun f => f.share == G.share && !f.monitor && f.handle == some (h.setWidth 14)

/-- A frame is ended by `eret` with an action: its event, and its handle freed (R364, R365, R401). -/
def State.endFrame (s : State) (f : Frame) (act : Nat) : State :=
  let s1 := s.recEvent s.coreNo 0x01 0x3E (f.ids.setWidth 12).toNat (bits f.ids.toNat 17 12) (f.payload + act * 2 ^ 29)
  let s2 := s1.freeHandle f
  { s2 with live := { s2.live with frames := s2.live.frames.filter fun g => g ≠ f } }

/-- Action 0: the frame's sequencers go on at an address; one that waits for a refill pops (R101, R149, R365). An address past
2^56 faults at its fetch (R96). -/
def State.resumeAt (s : State) (f : Frame) (v : Nat) : State :=
  let pc : BitVec 56 := BitVec.ofNat 56 v
  let s1 := s.resumeFrame f pc
  match s1.group f.gctx with
  | none => s1
  | some G =>
    if 2 ^ 56 ≤ v then
      let qs := G.seqs.filter fun q => f.seqs.contains q.id
      let m := laneMask G.threads.length fun l => qs.any fun q => G.activeIn q l
      s1.takeTrap G qs m false ⟨0x04#8, false, 0x40#8, v, m, 0, pc, 0#32⟩
    else
      let pops := (G.seqs.filter fun q => f.seqs.contains q.id && q.popNext).map (·.id)
      (pops.foldl (fun t i => t.resumePop f.gctx i false pc f.word) s1).settleGroup f.gctx

/-- The threads of a group context. -/
def State.idsAt (s : State) (g : Nat) : List AgentId := match s.group g with
  | some G => s.allIds G
  | none => []

/-- The end of a frame, by action (R365, R374); what is visible to the handler is visible to the operations resumed. -/
def State.eretFrame (s : State) (c : Cur) (f : Frame) (act v : Nat) : State :=
  let s1 := (s.endFrame f act).advance c
  match act with
  | 0 => (s1.flow (s.idsAt c.gctx) (s1.idsAt f.gctx)).resumeAt f v
  | 1 => (match f.team with
    | some k => s1.killTeam k 1 f.cause.toNat true
    | none => s1)
  | _ => (match f.team.bind s1.team with
    | some T => s1.killGrid T.grid
    | none => s1)

/-- `eret` (R365). -/
def execEret (a : BitVec 7) (x : BitVec 14) (s : State) : Out :=
  let u := ctlUnit false [(a, 1)]
  sysUnit u (decide (x.toNat ≤ 2)) .S s fun c G => match lowest (G.k0 c) with
    | none => s.advance c
    | some l =>
      let w := G.readWord l a.toNat
      if w.poison then s.consume G c (G.k0 c)
      else if w.val.extractLsb' 14 18 ≠ 0#18 then s.trapUnit G c 0x01#8 0
      else match s.frameFor G w.val with
        | none => s.advance c
        | some f =>
          if x ≠ 0#14 then s.eretFrame c f x.toNat 0
          else if f.monitor then s.eretFrame c f 0 f.pc.toNat
          else
            let va := (s.slice (s.fOf G)).trFbase.toNat + 4096 * s.coreNo + 64 * (w.val.toNat % 64)
            match s.locate G .load 1 8 8 (.ea va) with
            | (.flt e, s1) => s1.retire G c u .none false [(l, .flt e)]
            | (.eat, s1) => s1.retire G c u .none false [(l, .consume)]
            | (.wait r, s1) => (s1.holdReqs (s1.holder G) r).retryUnit c .engine
            | (.at ea p, s1) => match s1.accessWaits c G .load 8 [(l, .at ea p)] with
              | some t => t
              | none =>
                let (bs, bad, s2) := s1.readLoc [(s1.laneAgent G l).id] p ea 8
                if bad then s2.retire G c u .none false [(l, .consume)]
                else s2.eretFrame c f 0 (leNat bs)

/-! ## Timers (R382) -/

/-- The timer loaded with a count. -/
def State.setTimer (s : State) (c : Cur) (G : Group) (n : Nat) : State := (s.setGroup { G with timer := n }).advance c

/-- `tset n` (R382). -/
def execTsetImm (i : BitVec 14) (s : State) : Out :=
  withUnit s fun c G => match (ctlUnit true []).check G c with
    | some cause => .next (s.trapUnit G c cause 0)
    | none =>
      let n := (immS c i).toInt
      .next (if n < 0 then s.trapUnit G c 0x01#8 0 else s.setTimer c G n.toNat)

/-- `tset a` (R382), which accepts a LIMM like its other form; the count is the register alone, so the immediate is zero, with its LIMM
part (R39, R41). -/
def execTsetReg (a : BitVec 7) (s : State) : Out :=
  withUnit s fun c G => match (ctlUnit true [(a, 1)]).check G c with
    | some cause => .next (s.trapUnit G c cause 0)
    | none =>
      if immS c 0#14 ≠ 0#64 then .next (s.trapUnit G c 0x01#8 0)
      else
        let w := G.lowWord c a
        .next (if w.poison then s.consume G c (G.k0 c) else s.setTimer c G w.val.toNat)

/-! ## The calendar (R420) -/

/-- The four words of `mslot` for a slot, by a die's countdown. -/
def State.mslotWords (s : State) (d : Nat) (x : SlotRec) : List PWord :=
  [s.startsIn d x,
    x.length + (if x.major then 2 ^ 16 else 0) + (if x.doubled then 2 ^ 17 else 0) + (if x.rate then 2 ^ 18 else 0),
    x.num % 65536,
    match s.slotOn d with
      | some (_, e) => (e - s.now).toNat
      | none => 0].map fun n => clean (BitVec.ofNat 32 n)

/-- `mslot` (R420): the first slot that starts after the issue, or the one after it, by the countdown of the group's die. -/
def execMslot (d : BitVec 7) (w : BitVec 1) (s : State) : Out :=
  withUnit s fun c G => match sysChecks (ctlUnit false []) (d == 108#7 || d == 112#7 || d == 116#7 || d == 120#7) .U c G with
    | some cause => .next (s.trapUnit G c cause 0)
    | none =>
      let x := ((s.comingOn (s.dieOf G))[w.toNat]?).getD s.cal.next
      .next ((s.setGroup (G.writeUnif d.toNat (s.mslotWords (s.dieOf G) x))).advance c)

/-! ## `ctxsw` (R378) -/

/-- Every team of a context belongs to a function (R377). -/
def State.ownedBy (s : State) (x : Ctx) (f : Nat) : Bool := x.teams.all fun T => (s.grid T.grid).any fun g => g.f == f

/-- The scratch bytes of a context's teams (R378). -/
def Ctx.scratch (x : Ctx) : Nat := (x.teams.map (·.scrSize)).sum

/-- A swap that a group at S may not ask for (R378). -/
def State.swapBarred (s : State) (G : Group) : Bool :=
  let f := s.fOf G
  let y := s.shadow.getD Ctx.empty
  !s.ownedBy s.live f || !s.ownedBy y f || (decide (786432 < s.live.scratch + y.scratch) && s.cx.sva == 0#64)

/-- `ctxsw` (R378): the swap is requested. -/
def execCtxsw (s : State) : Out :=
  sysUnit (ctlUnit false []) true .S s fun c G =>
    if G.level = .S ∧ s.swapBarred G = true then s.trapEach G c 0x30#8 0 c.unitPc
    else ({ s with cx := { s.cx with swap := true, mon := s.cx.swap && s.cx.mon, f := s.fOf G } }).advance c

/-! ## The divergence stack of a trapped quad (R367) -/

/-- The quad or fragment of a pending frame, in TRAP (R367). -/
def State.trapped (s : State) (G : Group) (h : Word) : Option (Group × Seq) :=
  if h.extractLsb' 14 18 ≠ 0#18 then none
  else match s.frameFor G h with
    | none => none
    | some f => match s.group f.gctx with
      | none => none
      | some H => (H.seqs.find? fun q => f.seqs.contains q.id && decide (q.st = .trap)).map fun q => (H, q)

/-- The word that says how a request ended (R367). -/
def stackWord (ok : Bool) (q : Option Seq) : PWord := match q with
  | some r => clean (BitVec.ofNat 32 (r.stack.length + (if ok then 32 else 0) + r.spill * 65536))
  | none => pzero

/-- The results written to the run's registers from the second on, in every lane of k0. -/
def State.putRun (s : State) (c : Cur) (g a : Nat) (k0 : BitVec 64) (ws : List PWord) : State := match s.group g with
  | some G => (s.setGroup (G.writeLanes (BitVec.ofNat 7 (a + 1)) k0 fun _ => ws)).advance c
  | none => s.endUnit

/-- A request about a trapped quad's stack (R367): `ask` gives, for the live columns at the
quad's position, the quad after it and the words after the first result, or that it fails. -/
def stackUnit (a : BitVec 7) (srcs : Nat) (s : State) (ask : BitVec 4 → Seq → List PWord → Option (Seq × List PWord)) : Out :=
  sysUnit (ctlUnit false [(a, 4)]) (rd a) .S s fun c G => match lowest (G.k0 c) with
    | none => s.advance c
    | some l =>
      let ws := G.readWords l a.toNat 4
      if (ws.getD 0 pzero).poison ∨ (srcs = 4 ∧ anyPoison (ws.drop 2)) then s.consume G c (G.k0 c)
      else
        let put (t : State) (xs : List PWord) : State := if a = 124#7 then t.advance c else t.putRun c G.gctx a.toNat (G.k0 c) xs
        match s.trapped G (ws.getD 0 pzero).val with
        | none => put s [stackWord false none]
        | some (H, q) => match ask (H.liveCols q.pos) q ws with
          | none => put s [stackWord false (some q)]
          | some (r, more) => put (s.setGroup (H.setSeq r)) (stackWord true (some r) :: more)

/-- `dsrd` (R367): the bottom entry leaves the quad's stack. -/
def execDsrd (a : BitVec 7) (s : State) : Out :=
  stackUnit a 1 s fun _ q _ => match q.stack.getLast? with
    | none => none
    | some e => if 65535 ≤ q.spill then none
      else some ({ q with stack := q.stack.dropLast, spill := q.spill + 1 }, (split64 e).map clean)

/-- `dswr` (R367): an entry enters the quad's stack below its bottom, without the lanes that have exited (R97). -/
def execDswr (a : BitVec 7) (s : State) : Out :=
  stackUnit a 4 s fun live q ws =>
    let e := keepLanes live (pairVal (ws.drop 2))
    if q.stack.length < 16 ∧ 0 < q.spill ∧ entryOk (pairVal (ws.drop 2)) = true then some ({ q with stack := q.stack ++ [e], spill := q.spill - 1 }, [])
    else none

/-! ## The flags (R120, R121) -/

/-- The other sequencers of a group whose unit has issued earlier and has not retired: they wait in a channel, for an engine, at a range of
one or at an earlier `flgrd` (R120, R139). -/
def Group.holding (G : Group) (c : Cur) : List Seq := G.seqs.filter fun q =>
  !c.seqs.contains q.id && decide (q.st = .run) && (decide (q.wait = .chan) || q.wait.retries || q.wait.isFlags)

/-- The unit has waited for the earlier ones of its group, and is run again since they are over. -/
def Group.flagsDue (G : Group) (c : Cur) : Bool := G.seqs.any fun q => c.seqs.contains q.id && q.wait.isFlags

/-- The sequencers of a unit no longer wait at a `flgrd`. -/
def Group.unflag (G : Group) (c : Cur) : Group :=
  { G with seqs := G.seqs.map fun q => if c.seqs.contains q.id && q.wait.isFlags then { q with wait := .none } else q }

/-- The team's flags have an entry in the barrier journal (R121, R371). -/
def State.noteFlags (s : State) (G : Group) : State := match s.teamOf G with
  | some T => if T.eligible && !T.journal.contains .flags then s.setTeam { T with journal := T.journal ++ [.flags] } else s
  | none => s

/-- `flgrd` (R120): it waits until every unit of its group that issued earlier has retired, each where it stands. -/
def execFlgrd (a : BitVec 7) (s : State) : Out :=
  withUnit s fun c G => match sysChecks (ctlUnit false [(a, 1)]) (wd a) .U c G with
    | some cause => .next (s.trapUnit G c cause 0)
    | none =>
      if G.flagsDue c || (G.holding c).isEmpty then
        .next ((s.setGroup ((G.unflag c).writeLanes a (G.k0 c) fun _ => [clean ((s.readFlags G).setWidth 32)])).advance c)
      else .next (s.retryUnit c (.flags ((G.holding c).map fun q => (q.id, q.pc))))

/-- `flgclr` (R121). -/
def execFlgclr (m : BitVec 5) (s : State) : Out :=
  withUnit s fun c G => match (ctlUnit false []).check G c with
    | some cause => .next (s.trapUnit G c cause 0)
    | none =>
      if G.mig.isSome then .next (s.trapUnit G c 0x13#8 0)
      else .next ((if G.k0 c = 0#64 then s else (s.clearFlags G m).noteFlags G).advance c)

/-! ## The same registers outside a unit (R6, R153, R445, R452) -/

/-- `TS_REFORM_WRITE` (R153): the bin age limit; a value below 16 changes nothing. -/
def execTsReformWrite (v : BitVec 32) (s : State) : Out :=
  if v.toNat < 16 ∨ 65535 < v.toNat then .next s else .next ({ s with reformAge := v }).drawAged

/-- `BOOT_END` (R452): a 1 written to `tr.ctl` BOOT. -/
def execBootEnd (f : Nat) (s : State) : Out :=
  .next (s.setSlice f ((s.slice f).writeTrCtl ((s.slice f).trCtl.toNat % 4096 + 4096)))

end Sys2Proof.Machine
end

