-- ==== Sys2Proof/Machine/Handler.lean ====
section
/-! DEFINITION. Trap frames that wait for a handle, the handler groups, the supervisor's boot group, and the checks of redundant
execution (spec/17_faults_and_preemption.md R364, R369, R370, R373, R382; spec/22 R452). -/
namespace Sys2Proof.Machine

/-! ## Handler groups (R124, R364, R478) -/

/-- A thread of a handler group: it stands in the handler row, in the columns of its share's two positions. -/
def handlerThread (share lane : Nat) : Thread := Thread.fresh 32 (8 * share + lane) lane 64

/-- The group context that the handler group of a share holds (R386). -/
def handlerGctx (share : Nat) : Nat := 2044 + share

/-- The handler group of a share starts at an address, at level S, in the state of R127 but for its first uniform registers; the frames posted
so far are visible to it. `served` is the team of the frame. -/
def State.startHandler (s : State) (share : Nat) (pc : BitVec 56) (g : List Word) (served : Option Nat) : State :=
  let ts := (List.range 8).map (handlerThread share)
  let f := match s.share share with
    | some x => x.f
    | none => 0
  let G : Group := {
    gctx := handlerGctx share
    uid := s.nextUid
    share := share
    team := none
    role := 0
    index := 0
    width := 8
    reformed := false
    level := .S
    winb := 0
    unif := (g ++ List.replicate (16 - g.length) 0#32).map clean
    masks := List.replicate 7 0#64
    threads := ts
    seqs := seqsOf ts pc s.now
    timer := 0
    timerPend := false
    own := FpCtx.zero
    sel := s.firstEngine f
    mx := ClassSeq.empty
    tc := ClassSeq.empty
    bk := ClassSeq.empty
    unret := []
    mig := none
    serving := served }
  ({ s with
    nextUid := s.nextUid + 1
    live := { s.live with groups := (s.live.groups.filter fun H => H.gctx != G.gctx) ++ [G] } } : State).flow [.faults f]
      ((List.range 8).map (.handler s.nextUid))

/-- The handler group of a share is idle in the live context. -/
def State.handlerIdle (s : State) (share : Nat) : Bool := !s.live.groups.any fun G => G.gctx == handlerGctx share

/-- A posted frame of a share that no handler has started. -/
def Frame.fresh (f : Frame) (share : Nat) : Bool := f.share == share && !f.monitor && f.handle.isSome && !f.started

/-- The function of a share serves frames: its slice neither boots nor is halted (R452, R458). -/
def State.serves (s : State) (share : Nat) : Bool := match s.share share with
  | some x => !(s.slice x.f).trCtl.getLsbD 12 && !(s.slice x.f).halted
  | none => false

/-- `HANDLER_GROUP_START` (R364): the idle handler group starts for the oldest posted frame that no handler has started. -/
def execHandlerGroupStart (share : Nat) (s : State) : Out :=
  match s.live.frames.find? fun f => f.fresh share with
  | none => .next s
  | some f =>
    if s.handlerIdle share ∧ s.serves share = true then
      let mark (g : Frame) : Frame := if g = f then { g with started := true } else g
      let served := f.team.bind fun k => (s.team k).map (·.uid)
      let s1 := { s with live := { s.live with frames := s.live.frames.map mark } }
      let pc : BitVec 56 := match s.share share with
        | some x => (s.slice x.f).trVec.setWidth 56
        | none => 0#56
      .next (s1.startHandler share pc [(f.handle.getD 0#14).setWidth 32, f.cause.setWidth 32] served)
    else .next s

/-- `FRAME_POST` (R364): a trap that waited for a handle index posts its frame once an index is free. -/
def execFramePost (share : Nat) (s : State) : Out :=
  match s.live.frames.find? fun f => f.share == share && !f.monitor && f.handle.isNone with
  | none => .next s
  | some f =>
    if s.serves share then
      match (List.range 64).find? fun i => !(s.usedHandles share).contains i with
      | none => .next s
      | some i => match s.frameHeld f i with
        | [] =>
          let s1 := { s with live := { s.live with frames := s.live.frames.filter fun g => g ≠ f } }
          .next (s1.postFrame f i)
        | rs => .next (s.holdReqs (frameHolder share) rs)
    else .next s

/-! ## The supervisor's first group (R452) -/

/-- The cores where a slice holds a share. -/
def Slice.shareCores (x : Slice) : List Nat := (x.cores.filter fun p => p.2.1 != 0).map (·.1)

/-- BOOT is set, and the boot group starts on the slice's lowest-numbered core (R452); another core's groups are not held here
(log entry 2). -/
def State.bootSlice (s : State) (f : Nat) : State :=
  let x := s.slice f
  let s1 := s.setSlice f { x with trCtl := BitVec.ofNat 32 (x.trCtl.toNat % 4096 + 4096) }
  if (List.range 192).find? (fun c => x.shareCores.contains c) = some s.coreNo then
    match s1.shareOf f with
    | some i => s1.startHandler i (x.sv.setWidth 56) [0xFFFFFFFF#32, 0#32, BitVec.ofNat 32 x.grans] none
    | none => s1
  else s1

/-! ## Timers (R382) -/

/-- `TIMER_TRAP` (R382): the group's timer reaches zero after its last live cycle, and a timer trap becomes pending. -/
def execTimerTrap (gctx : Nat) (s : State) : Out := match s.group gctx with
  | none => .next s
  | some G => if G.timer = 1 then .next (s.setGroup { G with timer := 0, timerPend := true }) else .next s

/-! ## Bins (R151) -/

/-- `BIN_DRAW_AGE` (R151): a bin whose oldest thread has waited AGE live cycles is drawn. -/
def execBinDrawAge (bin : Nat) (s : State) : Out := match s.live.bins.getD bin none with
  | some b => .next (if b.oldest + s.reformAge.toNat ≤ s.now then s.drawBin bin true else s)
  | none => .next s

/-! ## Redundant execution (R368 to R370) -/

/-- A field of the coverage register of a share counted up, saturating (R370). -/
def State.countCover (s : State) (i lo n : Nat) : State := s.onShare i fun x =>
  if bits x.cover.toNat (lo + n - 1) lo + 1 = 2 ^ n then x else { x with cover := x.cover + BitVec.ofNat 64 (2 ^ lo) }

/-- A unit enters the replay queue; of 16 entries the oldest leaves unchecked and counts as uncovered (R369, R370). -/
def State.enqueueReplay (s : State) (G : Group) : State :=
  let r : Replay := ⟨s.replaySerial, G.gctx, G.team, G.share⟩
  let s1 := match s.replays with
    | old :: rest => if 16 ≤ s.replays.length then
        ({ s with replays := rest } : State).countCover old.share 0 22 else s
    | [] => s
  { s1 with replays := s1.replays ++ [r], replaySerial := s1.replaySerial + 1 }

/-- The team barriers that waited for replay entries are looked at again (R369). -/
def State.recheckBars (s : State) : State :=
  (s.live.teams.filter fun T => T.bars.any fun b => b.owed.isSome).foldl (fun t T => t.checkBars T.slot) s

/-- A detected silent error of a team (R368, R370, R401); the payload but for the team: the group, and whether the unit was replayed, or the
error stood in the journal itself. -/
def State.silentError (s : State) (k share payload : Nat) : State := match s.team k with
  | none => s
  | some T =>
    let s1 := s.onShare share fun x => { x with events := satAdd x.events 16 16 }
    let s2 := match s.grid T.grid with
      | some r => s1.recEvent s.coreNo 0x04 0x02 r.asid.toNat r.f (payload + k * 2 ^ 11)
      | none => s1
    s2.contain k 0

/-- `REPLAY_CHECK` (R369): the oldest entry of the replay queue is re-executed and compared. -/
def execReplayCheck (mismatch : Bool) (s : State) : Out := match s.replays with
  | [] => .next s
  | r :: rest =>
    let s1 := (({ s with replays := rest } : State).countCover r.share 22 21)
    match r.team with
    | some k => .next ((if mismatch then s1.silentError k r.share (r.gctx % 2048 + 2 ^ 15) else s1).recheckBars)
    | none => .next s1.recheckBars

/-- `TEAM_ROLLBACK` (R373): the rollback that waited for the team's engine operations. -/
def execTeamRollback (team : Nat) (s : State) : Out := match s.team team with
  | none => .next s
  | some T => match T.stopping with
    | none => .next s
    | some a => .next (if s.opsInFlight T then s else s.rollbackTeam team a)

end Sys2Proof.Machine
end

