-- ==== Sys2Proof/Machine/SliceMap.lean ====
section
/-! DEFINITION. The slice map and the checks of VALID (spec/22_slices_and_attestation.md R438 to R442). -/
namespace Sys2Proof.Machine

/-! ## The slice map's bytes (R440, R441) -/

/-- A weighted entry set in an ascending list, or removed when it holds nothing. -/
def putKey {α : Type} (gone : Bool) (k : Nat) (v : α) : List (Nat × α) → List (Nat × α)
  | [] => if gone then [] else [(k, v)]
  | (j, w) :: r => if k < j then (if gone then (j, w) :: r else (k, v) :: (j, w) :: r)
    else if k = j then (if gone then r else (k, v) :: r) else (j, w) :: putKey gone k v r

/-- The weight and INDEX of a core's entry. -/
def Slice.coreEntry (x : Slice) (c : Nat) : Nat × Nat := ((x.cores.find? fun p => p.1 == c).map (·.2)).getD (0, 0)

/-- The weight of a spar core's entry. -/
def Slice.sparEntry (x : Slice) (k : Nat) : Nat := ((x.spar.find? fun p => p.1 == k).map (·.2)).getD 0

/-- A bit of a set as the map's bytes hold it. -/
def mapSetByte (l : List Nat) (j : Nat) : Nat := ((List.range 8).map fun i => if l.contains (8 * j + i) then 2 ^ i else 0).sum

/-- A set with the eight members of a byte replaced. -/
def putSetByte (l : List Nat) (j b : Nat) : List Nat :=
  (List.range 256).filter fun i => if i / 8 = j then bitAt b (i % 8) else l.contains i

/-- `sm.ctl` as it reads (R441). -/
def Slice.ctl (x : Slice) : Nat :=
  (if x.valid then 1 else 0) + x.band % 32 * 4 + (if x.nocomp then 128 else 0) + (if x.keyed then 256 else 0)
  + x.keyEpoch.toNat * 2 ^ 16 + x.grans * 2 ^ 24 + x.tdi.toNat * 2 ^ 32

/-- A byte of a slice-map block as it reads (R440). -/
def Slice.mapByte (x : Slice) (o : Nat) : Byte :=
  let b (v i : Nat) : Nat := v / 2 ^ (8 * i)
  BitVec.ofNat 8 (
    if o < 0x008 then b x.ctl o
    else if o < 0x010 then b x.sv.toNat (o - 0x008)
    else if o < 0x014 then b x.svlen.toNat (o - 0x010)
    else if o < 0x018 then b x.tierq.toNat (o - 0x014)
    else if o = 0x018 then x.err.toNat
    else if o < 0x020 then 0
    else if o < 0x028 then b x.s2root.toNat (o - 0x020)
    else if o < 0x040 then 0
    else if o < 0x080 then (match x.gran.getD (o - 0x040) none with
      | some g => g % 64 + 128
      | none => ((x.granOff.find? fun p => p.1 == o - 0x040).map (·.2)).getD 0)
    else if o < 0x200 then (let e := x.coreEntry ((o - 0x080) / 2)
      if o % 2 = 0 then e.1 else e.2)
    else if o < 0x260 then x.sparEntry (o - 0x200)
    else if o < 0x278 then mapSetByte x.ceng (o - 0x260)
    else if o < 0x27A then mapSetByte x.meng (o - 0x278)
    else if 0x800 ≤ o ∧ o < 0xC00 then (memGet x.offer (o - 0x800)).toNat
    else 0)

/-- The bits of a byte of the block that are not reserved (R7, R440). -/
def mapMask (o : Nat) : Nat :=
  if o < 0x008 then (if o = 0 then 0xFD else if o = 1 then 0x01 else if o = 4 then 0x03 else if o = 2 ∨ o = 3 then 0xFF else 0)
  else if o < 0x010 then (if o = 0x009 then 0xF0 else if 0x00A ≤ o ∧ o ≤ 0x00C then 0xFF else 0)
  else if o < 0x018 then 0xFF
  else if o = 0x018 then 0xFF
  else if o < 0x020 then 0
  else if o < 0x028 then (if o = 0x020 then 0x01 else if o = 0x021 then 0xF0 else if 0x022 ≤ o ∧ o ≤ 0x024 then 0xFF else 0)
  else if o < 0x040 then 0
  else if o < 0x080 then 0xBF
  else if o < 0x200 then (if o % 2 = 0 then 0xFF else 0x03)
  else if o < 0x279 then 0xFF
  else if o = 0x279 then 0x0F
  else if 0x800 ≤ o ∧ o < 0xC00 then 0xFF
  else 0

/-- A byte of a register replaced. -/
def putByte {n : Nat} (w : BitVec n) (i b : Nat) : BitVec n :=
  BitVec.ofNat n (w.toNat - w.toNat / 2 ^ (8 * i) % 256 * 2 ^ (8 * i) + b % 256 * 2 ^ (8 * i))

/-- A byte of the block written, but for VALID, the read-only fields and the reserved bits. -/
def Slice.putMapByte (x : Slice) (o b : Nat) : Slice :=
  if o = 0 then { x with band := bits b 6 2, nocomp := bitAt b 7 }
  else if o < 0x008 then x
  else if o < 0x010 then { x with sv := putByte x.sv (o - 0x008) b }
  else if o < 0x014 then { x with svlen := putByte x.svlen (o - 0x010) b }
  else if o < 0x018 then { x with tierq := putByte x.tierq (o - 0x014) b }
  else if o < 0x020 then x
  else if o < 0x028 then { x with s2root := putByte x.s2root (o - 0x020) b }
  else if o < 0x040 then x
  else if o < 0x080 then
    { x with
      gran := x.gran.set (o - 0x040) (if bitAt b 7 then some (b % 64) else none)
      granOff := putKey (bitAt b 7 || b % 64 == 0) (o - 0x040) (b % 64) x.granOff }
  else if o < 0x200 then
    let c := (o - 0x080) / 2
    let e := x.coreEntry c
    let v : Nat × Nat := if o % 2 = 0 then (b, e.2) else (e.1, b % 4)
    { x with cores := putKey (v == (0, 0)) c v x.cores }
  else if o < 0x260 then { x with spar := putKey (b == 0) (o - 0x200) b x.spar }
  else if o < 0x278 then { x with ceng := putSetByte x.ceng (o - 0x260) b }
  else if o < 0x27A then { x with meng := putSetByte x.meng (o - 0x278) b }
  else if 0x800 ≤ o ∧ o < 0xC00 then { x with offer := memPut x.offer (o - 0x800) (BitVec.ofNat 8 b) }
  else x

/-- Bytes of the block written from an offset on. -/
def Slice.putMap (x : Slice) (o : Nat) (bs : List Byte) : Slice := (List.range bs.length).foldl (fun y i => y.putMapByte (o + i) (bs.getD i 0#8).toNat) x

/-- A write of bytes sets a reserved bit (R7, R440). -/
def mapRefused (o : Nat) (bs : List Byte) : Bool :=
  (List.range bs.length).any fun i => (bs.getD i 0#8).toNat &&& mapMask (o + i) != (bs.getD i 0#8).toNat

/-! ## The checks of VALID (R442) -/

/-- The valid slices other than one. -/
def State.others (s : State) (f : Nat) : List Slice :=
  ((List.range 64).filter fun g => g != f).filterMap fun g => if (s.slice g).valid then some (s.slice g) else none

/-- A list without repeats. -/
def distinct : List Nat → Bool
  | [] => true
  | a :: l => !l.contains a && distinct l

/-- The code of the first check that a map fails, 0 for none (R442). -/
def State.mapCheck (s : State) (f : Nat) (x : Slice) : Nat :=
  let os := s.others f
  let gs := x.gran.filterMap id
  let n := gs.length
  if n = 0 ∨ ¬ (x.gran.take n).all (·.isSome) = true ∨ ¬ distinct gs = true
      ∨ (gs.any fun g => s.pkg.retired.contains g && !((s.slice f).valid && (s.slice f).gran.contains (some g))
          || os.any fun y => y.gran.contains (some g)) = true then 1
  else if 16 < x.band then 2
  else if x.cores.any fun p => (p.2.1 == 0 && p.2.2 != 0)
      || (p.2.1 != 0 && os.any fun y => (y.coreEntry p.1).1 != 0 && (y.coreEntry p.1).2 == p.2.2)
      || decide (4 ≤ (os.filter fun y => (y.coreEntry p.1).1 != 0).length) && p.2.1 != 0 then 3
  else if (x.spar.any fun p => decide (8 ≤ (os.filter fun y => y.sparEntry p.1 != 0).length))
      || (x.meng.any fun e => decide (8 ≤ (os.filter fun y => y.meng.contains e).length))
      || (x.ceng.any fun e => os.any fun y => y.ceng.contains e) then 4
  else if 25165824 < x.tierq.toNat + (os.map fun y => y.tierq.toNat).sum then 5
  else if x.svlen = 0#32 ∨ ¬ ((List.range x.svlen.toNat).all fun k => spaInWindow x (x.sv.toNat + 4096 * k)) = true then 6
  else 0

end Sys2Proof.Machine
end

