-- ==== Sys2Proof/Machine/Release.lean ====
section
/-! DEFINITION. How a slice comes to exist and how it is released, re-keyed or revoked (spec/22_slices_and_attestation.md R442, R447, R459,
R460; spec/23 R471). -/
namespace Sys2Proof.Machine

/-! ## The state that a slice brings (R364, R397, R439, R442) -/

/-- A share of the core is created, with its handler group's blocks reserved (R170, R364). Where fewer than 64 blocks are free the pool is
left with none, and the share's end gives 64 all the same; the spec does not speak of it (DESIGN CHOICE, log entry 46). -/
def State.addShare (s : State) (f : Nat) : State :=
  let e := (s.slice f).coreEntry s.coreNo
  if e.1 = 0 then s
  else
    let x : Share := ⟨f, e.1, 0, 0#64, 0#32, List.replicate 64 0#8, 64⟩
    let less (c : Ctx) : Ctx := { c with free := c.free - 64 }
    { s.setShare e.2 x with live := less s.live, shadow := s.shadow.map less }

/-- The share of a function on the core is gone. -/
def State.dropShare (s : State) (f : Nat) : State := match s.shareOf f with
  | none => s
  | some i =>
    let more (c : Ctx) : Ctx := { c with free := c.free + 64, rises := c.rises + 1 }
    ({ s with shares := s.shares.set i none, live := more s.live, shadow := s.shadow.map more } : State).grantClaims

/-- An engine given to a slice (R323, R325). -/
def freshEng (id f : Nat) : ChainEng := ⟨id, f, 0#32, 0#32, 0#64, 0#64, 0#64, 0, 0#8, 0#64, [], 0, 0#8⟩

/-- The engine numbers of a slice, ascending (R325). -/
def Slice.engines (x : Slice) : List Nat := x.ceng ++ x.meng.map (0x200 + ·)

/-- The engines of a slice that are not yet in the list. -/
def State.addEngines (s : State) (f : Nat) : State :=
  let new := (s.slice f).engines.filter fun id => !s.engs.any fun e => e.id == id && e.f == f
  { s with engs := s.engs ++ new.map fun id => freshEng id f }

/-- The transit key of a slice (R447): the first 128 bits of the KDF over the slice key, DT9XFER, f and EPOCH. -/
def transitKey (key : BitVec 128) (f : Nat) (epoch : BitVec 8) : BitVec 128 :=
  Config.sm2Kdf 128 (natLe 16 key.toNat ++ [0x44#8, 0x54#8, 0x39#8, 0x58#8, 0x46#8, 0x45#8, 0x52#8] ++ natLe 1 f ++ natLe 1 epoch.toNat)

/-- A slice key programmed with an owner key (R447): into the slice's key slot, with its check value and the transit key. -/
def State.setKey (s : State) (f : Nat) (key : BitVec 128) (owner : BitVec 512) : State :=
  let x := s.slice f
  s.setSlice f { x with
    keyed := true
    trust := { x.trust with key := key, owner := owner, check := Config.keyCheck key, transit := transitKey key f x.keyEpoch } }

/-- A slice comes to exist (R130, R442, R447, R452): VALID is set, its launch counters are 0, its shares and engines are there;
slice 0 gets a drawn key and boots. -/
def State.createSlice (s : State) (f : Nat) : State :=
  let x := s.slice f
  let s1 := s.setSlice f { x with valid := true, lcnt := List.replicate 16 0#32, halted := false }
  let s2 := (s1.addShare f).addEngines f
  if f = 0 then
    let (n, s3) := s2.choose
    ((s3.setKey 0 (BitVec.ofNat 128 n) (s3.slice 0).trust.owner)).bootSlice 0
  else s2

/-! ## Release (R402, R447, R459) -/

/-- The physical-address range of a slice in the model's DRAM. -/
def inSlice (f a : Nat) : Bool := a / 2 ^ 40 == f

/-- The banks of a slice's granules whose scrub counters showed errors that last are retired when the granules are scrubbed (R426): each granule
leaves the pool of free ones, and replacement is requested. -/
def State.retireBank (s : State) (f : Nat) : State :=
  (s.cal.worn.filter fun b => (s.slice f).gran.contains (some (b.2 / 32))).foldl (fun t b =>
    let g := b.2 / 32
    ({ t with
      pkg := { t.pkg with retired := if t.pkg.retired.contains g then t.pkg.retired else g :: t.pkg.retired }
      cal := { t.cal with worn := t.cal.worn.erase b } } : State).replacement (0x100 + b.1) 2) s

/-- Every operation of a slice that was in flight has completed (R459). -/
def State.opsOver (s : State) (f : Nat) : Bool :=
  !(s.mx.ops.any fun o => o.f == f) && !(s.tcs.any fun o => o.f == f) && !(s.bank.runs.any fun r => r.f == f)

/-- Step 2: every row and tier block of the slice is zero, its event-queue partitions are empty, and nothing of it stands in a cache. -/
def State.scrub (s : State) (f : Nat) : State :=
  ({ s with
    held := s.held.filter fun h => h.f != f
    evq := s.evq.filter fun p => p.1 % 64 != f
    dram := s.dram.filter fun c => !inSlice f c.1
    eccBad := s.eccBad.filter fun i => !inSlice f (i * 16)
    rowBad := s.rowBad.filter fun r => r.f != f
    tlb := s.tlb.filter fun e => e.f != f
    icache := s.icache.filter fun e => e.f != f
    records := s.records.filter fun e => e.f != f
    images := s.images.filter fun i => i.f != f
    paths := { s.paths.forget (dramKey f 0) (2 ^ 40) with
      rowSeen := s.paths.rowSeen.filter fun r => r.f != f
      linkBad := s.paths.linkBad.filter fun i => !inSlice f (i * 32)
      rowPart := s.paths.rowPart.filter fun p => p.1.f != f }
    pkg := { s.pkg with tier := s.pkg.tier.filter fun t => t.f != f } } : State).retireBank f

/-- Steps 3 and 4: the key slots are zeroised, the function's events become stubs, its point is forgotten. -/
def State.zeroise (s : State) (f : Nat) : State :=
  let x := s.slice f
  let t := { x.trust with key := 0#128, check := 0#128, transit := 0#128, owner := 0#512, move := none, change := none }
  let s2 := ((s.setSlice f { x with keyed := false, trust := t }).recEvent 0x200 0x0A 0x02 0 0 f).stubEvents f
  { s2 with points := s2.points.filter fun p => p.1 != f }

/-- Steps 2 to 6 of releasing a slice (R451, R459, R467), whose operations are over. -/
def State.release (s : State) (f : Nat) : State :=
  let s1 := (s.scrub f).zeroise f
  let x := s1.slice f
  let s2 := s1.setSlice f { x with valid := false, halted := false, trCtl := x.trCtl &&& 0xFFF#32 }
  let leave (e : Enclave) : Enclave := { e with members := e.members.filter fun m => m.2 != f }
  let s3 := { s2 with
    engs := s2.engs.filter fun e => e.f != f
    pkg := { s2.pkg with frozen := s2.pkg.frozen.filter (fun p => p.1 != f), enclaves := s2.pkg.enclaves.map leave } }
  s3.dropShare f

/-! ## Changes of a slice (R447, R459, R460, R471) -/

/-- The enclave moves to the epoch of a revocation once every function of the participant here is released (R471). -/
def State.endRevoke (s : State) (slot part : Nat) (epoch : BitVec 8) : State :=
  if s.slices.any fun x => decide (x.trust.change = some (.revoke slot part epoch)) then s
  else match s.enclave slot with
    | none => s
    | some d => s.setEnclave { d with epoch := epoch, grace := true, revoked := part :: d.revoked, counters := [] }

/-- What a change comes to when the slice's operations are over (R442, R447, R449, R459, R471). -/
def State.finishChange (s : State) (f : Nat) : Change → State
  | .clear bs => let t := s.release f; t.setSlice f ((t.slice f).putMap 0 bs)
  | .stop =>
    let t := s.release f
    (((t.setSlice f { t.slice f with pba := 0#64 }).tdiTo f 0#2).createSlice f).answer f []
  | .rekey key owner =>
    let t := (s.scrub f).zeroise f
    ((t.setSlice f { t.slice f with halted := false }).setKey f key owner).answer f []
  | .revoke slot part epoch => ((s.release f).recEvent 0x200 0x0A 0x03 0 0 f).endRevoke slot part epoch

/-- The change in progress ends, once the slice's operations in flight are over (R459 step 1). -/
def State.endChange (s : State) (f : Nat) : State := match (s.slice f).trust.change with
  | none => s
  | some c => if s.opsOver f then s.finishChange f c else s

/-- A change that releases or re-keys a slice begins with its halt (R459 step 1); a live move ends with it (R460). -/
def State.markChange (s : State) (f : Nat) (c : Change) : State :=
  let t := s.haltSlice f
  let x := t.slice f
  t.setSlice f { x with trust := { x.trust with move := none, change := some c } }

/-- A change begins, and ends at once where no operation is in flight. -/
def State.beginChange (s : State) (f : Nat) (c : Change) : State := (s.markChange f c).endChange f

end Sys2Proof.Machine
end

