-- ==== Sys2Proof/Machine/Slices.lean ====
section
/-! DEFINITION. Slices: the host's requests to a function, keys, the TDISP interface and its report, growth and granule moves
(spec/22_slices_and_attestation.md R440 to R460; spec/23 R462, R471). -/
namespace Sys2Proof.Machine

/-! ## Writes to the block (R440 to R442) -/

/-- A write discarded and counted in the physical function's error log (R7, R442, R445). -/
def State.counted (s : State) : State := { s with pkg := { s.pkg with pfLog := s.pkg.pfLog + 1 } }

/-- Something of a slice is resident, on whichever core, queued or in flight, so that VALID may not be cleared (R442). -/
def State.busy (s : State) (f : Nat) : Bool :=
  (s.allTeams.any fun T => (s.grid T.grid).any fun g => g.f == f) || (s.grids.any fun g => g.f == f && !g.remote.isEmpty)
  || (s.slice f).gd.any (fun q => q.done != q.qpost)
  || !s.opsOver f || s.engs.any (fun e => e.f == f && !(e.st == 0 || e.st == 5 || e.st == 7))

/-- One of the bytes written from an offset on lies in RL fields (R440). -/
def touchesRl (o n : Nat) : Bool := (List.range n).any fun i =>
  let a := o + i
  decide (a < 0x018) || (decide (0x020 ≤ a) && decide (a < 0x028)) || (decide (0x040 ≤ a) && decide (a < 0x27A))

/-- Bytes written to a function's block by MMIO (R440, R442). A write that sets a reserved bit is only discarded and
counted, even where it touches an RL field after the lock; a VALID write that the checks reject sets none of the fields that it
carries (DESIGN CHOICE, log entry 46). -/
def State.blockWrite (s : State) (f o : Nat) (bs : List Byte) : State :=
  let x := s.slice f
  let on := (bs.getD 0 0#8).getLsbD 0
  if mapRefused o bs then s.counted
  else if 0x800 ≤ o ∧ o + bs.length ≤ 0xC00 then s.setSlice f (x.putMap o bs)
  else if x.tdi ≠ 0#2 then (if touchesRl o bs.length then s.toError f else s)
  else if x.valid then
    if o = 0 ∧ bs ≠ [] ∧ ¬ on = true then (if s.busy f then s.counted else s.beginChange f (.clear bs)) else s.counted
  else
    let y := x.putMap o bs
    if o = 0 ∧ on = true ∧ s.pkg.boot.recovery = true then s
    else if o = 0 ∧ on = true then
      let code := s.mapCheck f y
      if code = 0 then (s.setSlice f y).createSlice f else s.setSlice f { x with err := BitVec.ofNat 8 code }
    else s.setSlice f y

/-- `VALID_SET` (R442). -/
def execValidSet (f : Nat) (ctl : BitVec 64) (s : State) : Out :=
  .next (if f < 64 ∧ s.pfOpen = true then s.blockWrite f 0 (natLe 8 ctl.toNat) else s)

/-- `VALID_CLEAR` (R442, R459). -/
def execValidClear (f : Nat) (s : State) : Out :=
  let x := s.slice f
  .next (if f < 64 ∧ s.pfOpen = true then s.blockWrite f 0 (natLe 8 (x.band % 32 * 4 + (if x.nocomp then 128 else 0))) else s)

/-! ## The configuration space (R450, R453, R461, R462) -/

/-- A function's BAR0 (R462): function 0 has its own, the virtual functions' follow one another from the base in the SR-IOV capability. -/
def State.bar0Of (s : State) (f : Nat) : Nat :=
  if f = 0 then s.pkg.bar0.toNat / 2 ^ 16 * 2 ^ 16 else s.pkg.sriov.vfBar0.toNat / 2 ^ 16 * 2 ^ 16 + 2 ^ 16 * (f - 1)

/-- A register of a function's configuration space as the host reads it (R461, R462; log entry 29): the virtual functions' own BARs read 0,
as PCIe has it. ATS, PRI and PASID have no capability. -/
def State.cfgRead (s : State) (f : Nat) : CfgReg → Nat
  | .bar0 => if f = 0 then s.pkg.bar0.toNat else 0
  | .bar2 => if f = 0 then s.pkg.bar2.toNat else 0
  | .msixControl => (s.slice f).msixControl.toNat
  | .totalVfs => if f = 0 then 63 else 0
  | .maxPayload => 512
  | .maxReadRequest => 4096
  | .tagBits => 10

/-- The pending vectors of a function that are not masked are sent, now that it may send (R444). -/
def State.sendPending (s : State) (f : Nat) : State :=
  let x := s.slice f
  let go (v : Nat) : Bool := x.pba.getLsbD v && !x.masked v
  let t := s.setSlice f { x with pba := x.pba &&& ~~~laneMask 64 go }
  { t with messages := t.messages ++ ((List.range 64).filter go).map fun v => (f, v) }

/-- A write of the host to a register of the configuration space (R444, R461, R462): the address of a 64-bit BAR of 64 or 256 KiB, MSI-X Enable
and Function Mask; the others are read-only. -/
def State.cfgWrite (s : State) (f v : Nat) : CfgReg → State
  | .bar0 => if f = 0 then { s with pkg := { s.pkg with bar0 := BitVec.ofNat 64 (v / 2 ^ 16 * 2 ^ 16 + 4) } } else s
  | .bar2 => if f = 0 then { s with pkg := { s.pkg with bar2 := BitVec.ofNat 64 (v / 2 ^ 18 * 2 ^ 18 + 4) } } else s
  | .msixControl =>
    let t := s.setSlice f { s.slice f with msixControl := BitVec.ofNat 16 (63 + bits v 15 14 * 2 ^ 14) }
    if (f = 0 ∧ s.pfOpen = true) ∨ (s.slice f).tdi = 2#2 then t.sendPending f else t
  | _ => s

/-! ## MMIO (R443 to R446, R453) -/

/-- A write of the host to a control register of a function on a die (R445). -/
def State.mmioReg (s : State) (f die n size v : Nat) (high : Bool) : State := match crOf n with
  | none => s
  | some (.high _) => s.counted
  | some r =>
    if (s.sliceReg f die n).isNone then s
    else
      let wide := match r with
        | .full _ => true
        | _ => false
      if high ∨ (wide = true ∧ size ≠ 8) ∨ crReserved n v = true then s.counted
      else match s.setSliceReg f die n v with
        | some t => t
        | none => s.counted

/-- The bytes of the mailbox's request area written (R443). -/
def putBytes (l : List Byte) (o : Nat) (bs : List Byte) : List Byte :=
  let l1 := l ++ List.replicate (o + bs.length - l.length) 0#8
  l1.take o ++ bs ++ l1.drop (o + bs.length)

/-- What a revocation certificate's signatures cover (R471). -/
def revokeText (enclave : BitVec 64) (part : Nat) (epoch : BitVec 8) : List Byte :=
  natLe 8 enclave.toNat ++ natLe 1 part ++ natLe 1 epoch.toNat

/-- The distinct participants whose signature on a certificate is valid. -/
def Enclave.signers (e : Enclave) (msg : List Byte) (sigs : List (Nat × BitVec 512)) : List Nat :=
  (List.range e.n).filter fun p => sigs.any fun g => g.1 == p && Config.sm2VerifyBy (e.digests.getD p 0#256) msg g.2

/-- The functions of a participant of an enclave on this device. -/
def Enclave.of (e : Enclave) (part : Nat) : List Nat := (e.members.filter fun m => m.1 == part).map (·.2)

/-- A revocation certificate that reaches the part through a function (R471): verified, it halts the participant's functions, whose release
goes on until their operations are over, and then come the epoch and its keys. One that fails changes nothing. -/
def State.revoke (s : State) (f : Nat) (enclave : BitVec 64) (part : Nat) (epoch : BitVec 8) (sigs : List (Nat × BitVec 512)) : State :=
  match s.pkg.enclaves.find? fun e => e.id == enclave with
  | none => s
  | some e =>
    if (e.signers (revokeText enclave part epoch) sigs).length < e.q ∨ epoch.toNat ≤ e.epoch.toNat then s
    else
      let fs := e.of part
      let s1 := fs.foldl (fun t g => t.markChange g (.revoke e.slot part epoch)) s
      ((if fs = [] then s1.endRevoke e.slot part epoch else fs.foldl State.endChange s1)).answer f []

/-- `REVOKE` (R471), of a participant, with the new epoch. -/
def execRevoke (f : Nat) (enclave : BitVec 64) (part : Nat × BitVec 8) (sigs : List (Nat × BitVec 512)) (s : State) : Out :=
  .next (s.revoke f enclave part.1 part.2 sigs)

/-- The request in the mailbox, as the sender gives its length. -/
def State.mailed (s : State) (f len : Nat) : List Byte := (s.slice f).trust.request.take len

/-- The signatures of a REVOKE request in the mailbox: participant and signature, one after the other (log entry 26). -/
def mailedSigs (r : List Byte) : List (Nat × BitVec 512) :=
  (List.range ((r.length - 11) / 65)).map fun i => (leNat ((r.drop (11 + 65 * i)).take 1), BitVec.ofNat 512 (leNat ((r.drop (12 + 65 * i)).take 64)))

/-- The request in the mailbox is sent (R415, R443, R471): the requests of R415 and a REVOKE are answered at once, any other message is a
secured message of the session. -/
def State.ring1 (s : State) (f len : Nat) : State :=
  let x := s.slice f
  let r := s.mailed f len
  let s1 := s.setSlice f { x with trust := { x.trust with mbStat := 0#32 } }
  match r with
  | [] => s1
  | b :: _ =>
    if b = 0x01#8 then s1.answer f (if r.length = 1 then s1.listCapsules else natLe 1 0x03)
    else if b = 0x02#8 then
      s1.answer f (if r.length = 13 then s1.readCapsule (fld r 1 4) (fld r 5 4) (fld r 9 4) else natLe 1 0x03)
    else if b = 0x13#8 then s1.revoke f (BitVec.ofNat 64 (fld r 1 8)) (fld r 9 1) (BitVec.ofNat 8 (fld r 10 1)) (mailedSigs r)
    else s1

/-- `DOORBELL` (R443), where the host's request for the mailbox is served (R453). -/
def execDoorbell (f len : Nat) (s : State) : Out := .next (if s.bar0Open f 0x8FF8 false ∧ len ≤ 0x800 then s.ring1 f len else s)

/-- A vector of the MSI-X table written; unmasking a pending vector sends its message (R443, R444). -/
def State.msixWrite (s : State) (f o : Nat) (bs : List Byte) : State :=
  let x := s.slice f
  let v := o / 16
  let e := x.msix.getD v 0#128
  let w : BitVec 128 := BitVec.ofNat 128 (leNat (putBytes (natLe 16 e.toNat) (o % 16) bs))
  let s1 := s.setSlice f { x with msix := x.msix.set v w }
  if x.pba.getLsbD v && !w.getLsbD 96 then
    (s1.setSlice f { s1.slice f with pba := x.pba &&& ~~~(1#64 <<< v) }).raiseMsi f v
  else s1

/-- A write to a function's BAR0, once it is accepted (R443, R445). -/
def State.bar0Write (s : State) (f off size v : Nat) : State :=
  let bs := natLe size v
  if off < 0x8000 then
    if off % size ≠ 0 ∨ (size ≠ 4 ∧ size ≠ 8) then s.counted
    else s.mmioReg f (off / 0x2000) (0x400 + off % 0x2000 / 8) size v (off % 8 != 0)
  else if off < 0x9000 then
    let o := off - 0x8000
    if o + size ≤ 0x800 then
      let x := s.slice f
      s.setSlice f { x with trust := { x.trust with request := putBytes x.trust.request o bs } }
    else if o = 0xFF8 ∧ v ≤ 0x800 then s.ring1 f v
    else s
  else if off < 0x9400 ∧ size ≤ 8 ∧ off % 16 + size ≤ 16 then s.msixWrite f (off - 0x9000) bs
  else s

/-- `MMIO_WRITE` (R443, R445, R453): `tee` for an IDE request with the T bit. -/
def execMmioWrite (f off size : Nat) (value : BitVec 64) (tee : Bool) (s : State) : Out :=
  if !s.bar0Open f off tee ∨ 0x10000 ≤ off ∨ size = 0 ∨ 8 < size then .next s
  else .next (s.bar0Write f off size (value.toNat % 2 ^ (8 * size)))

/-- A byte of a function's BAR0 as the host reads it (R443, R445): of a control register what a CRD at S gives, of the write-only request and
doorbell 0. -/
def State.bar0Byte (s : State) (f off : Nat) : Byte :=
  let x := s.slice f
  if off < 0x8000 then BitVec.ofNat 8 ((s.sliceReg f (off / 0x2000) (0x400 + off % 0x2000 / 8)).getD 0 / 2 ^ (8 * (off % 8)))
  else if off < 0x8800 then x.trust.request.getD (off - 0x8000) 0#8
  else if off < 0x8FF8 then x.trust.response.getD (off - 0x8800) 0#8
  else if off < 0x8FFC then 0#8
  else if off < 0x9000 then BitVec.ofNat 8 (x.trust.mbStat.toNat / 2 ^ (8 * (off - 0x8FFC)))
  else if off < 0x9400 then BitVec.ofNat 8 ((x.msix.getD ((off - 0x9000) / 16) 0#128).toNat / 2 ^ (8 * (off % 16)))
  else if 0xA000 ≤ off ∧ off < 0xA008 then BitVec.ofNat 8 (x.pba.toNat / 2 ^ (8 * (off - 0xA000)))
  else 0#8

/-- What a read of the host through a function's BAR0 returns; none where it completes with Unsupported Request (R453). -/
def State.bar0Read (s : State) (f off size : Nat) (tee : Bool) : Option (List Byte) :=
  if s.bar0Open f off tee then some ((List.range size).map fun i => s.bar0Byte f (off + i)) else none

/-- What a read of the host through BAR2 returns: bytes of a function's slice-map block (R440, R462). -/
def State.bar2Read (s : State) (f off size : Nat) : Option (List Byte) :=
  if s.pfOpen then some ((List.range size).map fun i => (s.slice f).mapByte (off + i)) else none

/-- `REGISTER_WRITE` (R6): a control register of a function on the core's die, bytes of its slice-map block, or a register of its configuration
space. -/
def execRegisterWrite (f : Nat) (reg : HostReg) (value : BitVec 64) (s : State) : Out := match reg with
  | .control n tee =>
    if n.toNat < 0x400 ∨ 0x800 ≤ n.toNat ∨ ¬ s.bar0Open f (0x2000 * s.die + 8 * (n.toNat - 0x400)) tee = true then .next s
    else
      let v := match crOf n.toNat with
        | some (.word _) => value.toNat % 2 ^ 32
        | _ => value.toNat
      .next (s.mmioReg f s.die n.toNat 8 v false)
  | .map off size =>
    .next (if f < 64 ∧ 1 ≤ size ∧ size ≤ 8 ∧ off + size ≤ 4096 ∧ s.pfOpen = true then s.blockWrite f off (natLe size value.toNat) else s)
  | .config r => .next (if f < 64 ∧ (f = 0 → s.pfOpen = true) then s.cfgWrite f value.toNat r else s)

/-! ## Keys (R447) -/

/-- The session that a request must come in (R449, R455). -/
def State.bound (s : State) (f : Nat) : Bool := decide (f < 64) && f != 0 && (s.slice f).trust.sess == 2

/-- The response to a request that fails (R449; log entry 26). -/
def errorResponse : List Byte := [0x7F#8]

/-- `KEYPROG` (R447): a slice that has a key is re-keyed. -/
def execKeyprog (f : Nat) (key : BitVec 128) (owner : BitVec 512) (s : State) : Out :=
  let x := s.slice f
  if !s.bound f ∨ ¬ x.valid = true ∨ x.tdi ≠ 0#2 then .next (s.answer f errorResponse)
  else if x.keyed then .next (s.beginChange f (.rekey key owner))
  else .next (((s.setSlice f { x with halted := false }).setKey f key owner).answer f [])

/-! ## Lock (R449 to R451) -/

/-- The stage-2 table pages reachable from a table of a level, root first and each table in ascending entry order; none if a page
lies outside slice 0 or an entry is malformed (R451). -/
def State.tablePages (s : State) (x : Slice) : Nat → Nat → Option (List Nat)
  | 0, _ => none
  | lvl + 1, t =>
    if !spaInWindow (s.slice 0) t then none
    else
      let entry (i : Nat) : Option (List Nat) :=
        let e := pteOf (leNat (spaRead s 0 (t + 8 * i) 8))
        if !e.v then some []
        else if e.t then (if lvl = 0 ∨ ¬ ptrOk e = true then none else s.tablePages x lvl e.frame)
        else if 2 ≤ lvl ∨ leafBad true lvl e = true ∨ leaf2Bad x e = true then none
        else some []
      let below := (List.range (if lvl = 4 then 1 else 512)).foldl (fun acc i => match acc, entry i with
        | some l, some m => some (l ++ m)
        | _, _ => none) (some [])
      below.map (t :: ·)

/-- The pages of a function's stage-2 tables, from `sm.s2root`. -/
def State.lockPages (s : State) (f : Nat) : Option (List Nat) :=
  let x := s.slice f
  if x.s2root.getLsbD 0 then s.tablePages x 5 (bits x.s2root.toNat 39 12 * 4096) else none

/-- The block's bytes 0x000 to 0x7FF as SMAPDIG takes them: STATE, `sm.err` and EPOCH are zero (R454). -/
def Slice.mapBytes (x : Slice) : List Byte :=
  let y := { x with tdi := 0#2, err := 0#8, keyEpoch := 0#8 }
  (List.range 0x800).map y.mapByte

/-- `LOCK_INTERFACE_REQUEST` (R449, R450). -/
def execLockInterfaceRequest (f : Nat) (s : State) : Out :=
  let x := s.slice f
  match s.bound f && x.valid && x.keyed && decide (x.tdi = 0#2) && x.offer.isEmpty, s.lockPages f with
  | true, some pages =>
    let (n, s1) := s.choose
    let t := { x.trust with
      nonce := BitVec.ofNat 256 n
      report := 1#32
      smapDig := Config.sm3 x.mapBytes
      svDig := Config.sm3 (spaRead s f x.sv.toNat (4096 * x.svlen.toNat))
      s2Dig := Config.sm3 (pages.flatMap fun p => spaRead s 0 p 4096)
      msixCtl := x.msixControl
      transit := transitKey x.trust.key f (x.keyEpoch + 1#8) }
    let s3 := s1.setSlice f { x with keyEpoch := x.keyEpoch + 1#8, trust := t }
    let s4 := { s3 with
      points := (f, geodePoint x.trust.key f) :: s3.points.filter (fun p => p.1 != f)
      pkg := { s3.pkg with frozen := s3.pkg.frozen ++ pages.map fun p => (f, p / 4096) } }
    .next ((s4.tdiTo f 1#2).answer f (natLe 32 t.nonce.toNat))
  | _, _ => .next (s.answer f errorResponse)

/-- `START_INTERFACE_REQUEST` (R449, R452). -/
def execStartInterfaceRequest (f : Nat) (nonce : BitVec 256) (s : State) : Out :=
  let x := s.slice f
  if s.bound f ∧ x.tdi = 1#2 ∧ x.trust.nonce = nonce then .next ((((s.tdiTo f 2#2).sendPending f).bootSlice f).answer f [])
  else .next (s.answer f errorResponse)

/-- `STOP_INTERFACE_REQUEST` (R449, R459): the release, and VALID set again with the map unchanged. -/
def execStopInterfaceRequest (f : Nat) (s : State) : Out :=
  .next (if s.bound f ∧ (s.slice f).tdi ≠ 0#2 then s.beginChange f .stop else s.answer f errorResponse)

/-- `GET_DEVICE_INTERFACE_STATE` (R449). -/
def execGetDeviceInterfaceState (f : Nat) (s : State) : Out :=
  .next (s.answer f (if s.bound f then natLe 1 (s.slice f).tdi.toNat else errorResponse))

/-! ## The report (R453, R454) -/

/-- The device-specific information (R454). -/
def State.deviceInfo (s : State) (f : Nat) : List Byte :=
  let x := s.slice f
  let cs := x.cores.filter fun p => p.2.1 != 0
  natLe 4 0x52443944 ++ natLe 2 1 ++ natLe 1 f ++ natLe 1 x.grans ++ natLe 4 x.trust.report.toNat ++ natLe 1 x.band
  ++ natLe 1 (if x.nocomp then 1 else 0) ++ natLe 1 x.keyEpoch.toNat ++ natLe 1 0
  ++ natLe 32 x.trust.smapDig.toNat ++ natLe 32 s.fwDig.toNat ++ natLe 32 x.trust.svDig.toNat
  ++ natLe 64 (((s.points.find? fun p => p.1 == f).map (·.2)).getD 0#512).toNat
  ++ natLe 32 (Config.sm3 (natLe 64 x.trust.owner.toNat)).toNat ++ natLe 4 x.tierq.toNat
  ++ natLe 2 cs.length ++ natLe 1 x.spar.length ++ natLe 1 x.engines.length
  ++ (List.range 64).map (fun o => match x.gran.getD o none with
    | some g => BitVec.ofNat 8 g
    | none => 0xFF#8)
  ++ natLe 32 x.trust.s2Dig.toNat
  ++ cs.flatMap (fun p => natLe 1 p.1 ++ natLe 1 p.2.1 ++ natLe 1 p.2.2 ++ natLe 1 0)
  ++ x.spar.flatMap (fun p => natLe 1 p.1 ++ natLe 1 p.2)
  ++ x.engines.flatMap fun e => natLe 2 e

/-- One MMIO range of the report, by the BAR0 base. -/
def mmioRange (base page n attr : Nat) : List Byte := natLe 8 (base / 4096 + page) ++ natLe 4 n ++ natLe 4 attr

/-- The interface report (R453). -/
def State.interfaceReport (s : State) (f : Nat) : List Byte :=
  let d := s.deviceInfo f
  natLe 2 0 ++ natLe 2 0 ++ natLe 2 (s.slice f).trust.msixCtl.toNat ++ natLe 2 0 ++ natLe 4 0 ++ natLe 4 4
  ++ mmioRange (s.bar0Of f) 0 8 0 ++ mmioRange (s.bar0Of f) 8 1 0x10000 ++ mmioRange (s.bar0Of f) 9 1 0x20001 ++ mmioRange (s.bar0Of f) 10 1 0x30002
  ++ natLe 4 d.length ++ d

/-- `GET_DEVICE_INTERFACE_REPORT` (R449, R453). -/
def execGetDeviceInterfaceReport (f : Nat) (s : State) : Out :=
  let x := s.slice f
  .next (s.answer f (if s.bound f ∧ (x.tdi = 1#2 ∨ x.tdi = 2#2) then s.interfaceReport f else errorResponse))

/-! ## Growth (R456) -/

/-- A byte of the offer. -/
def Slice.offerByte (x : Slice) (o : Nat) : Nat := (memGet x.offer o).toNat

/-- The map with the offer's additions (R456): granules at the ordinals after the last, shares and engines beside the old ones. -/
def Slice.merged (x : Slice) : Slice :=
  let more := ((List.range 64).map fun o => x.offerByte (0x040 + o)).filterMap fun b => if bitAt b 7 then some (b % 64) else none
  let n := x.grans
  let all := (x.gran.filter (·.isSome)) ++ more.map some
  let y := { x with gran := all ++ List.replicate (64 - n - more.length) none }
  (List.range (0x27A - 0x080)).foldl (fun z i =>
    let o := 0x080 + i
    let b := x.offerByte o
    if b = 0 then z
    else if 0x260 ≤ o then z.putMapByte o (b ||| (x.mapByte o).toNat)
    else z.putMapByte o b) y

/-- The offer changes nothing that the slice has, and holds nothing outside the places of additions (R456). -/
def Slice.offerOk (x : Slice) : Bool :=
  (x.offer.all fun c => decide (0x040 ≤ c.1) && decide (c.1 < 0x280) && c.2 &&& ~~~(BitVec.ofNat 8 (mapMask c.1)) == 0#8)
  && (List.range 192).all (fun c => let e := x.coreEntry c
      (e.1 == 0 && e.2 == 0) || (x.offerByte (0x080 + 2 * c) == 0 && x.offerByte (0x081 + 2 * c) == 0))
  && (List.range 96).all (fun k => x.sparEntry k == 0 || x.offerByte (0x200 + k) == 0)
  && decide (x.grans + ((List.range 64).filter fun o => bitAt (x.offerByte (0x040 + o)) 7).length ≤ 64)

/-- The 1,024 bytes of the offer. -/
def Slice.offerBytes (x : Slice) : List Byte := memRead x.offer 0 1024

/-- `GROW` (R456). -/
def execGrowSlice (f : Nat) (digest : BitVec 256) (sig : BitVec 512) (s : State) : Out :=
  let x := s.slice f
  let y := x.merged
  if s.bound f ∧ x.tdi = 2#2 ∧ Config.sm2Verify x.trust.owner (0x11#8 :: natLe 32 digest.toNat) sig = true
      ∧ Config.sm3 x.offerBytes = digest ∧ x.offerOk = true ∧ s.mapCheck f y = 0 then
    let s1 := s.setSlice f { y with offer := [], trust := { y.trust with report := y.trust.report + 1#32 } }
    let s2 := (if (s1.shareOf f).isSome then s1 else s1.addShare f).addEngines f
    .next (s2.answer f [])
  else .next (s.answer f errorResponse)

/-! ## Live granule moves (R457) -/

/-- An instance runs at a bank of a granule of the slice. -/
def State.instanceAt (s : State) (f bank granule : Nat) : Bool :=
  s.bank.insts.any fun i => i.f == f && i.started && i.stack == bank / 32 && i.bank == 32 * granule + bank % 32

/-- `LIVE_GRANULE_MOVE` (R457): the move begins, holding admission at the first bank; or the bank in turn is copied, once no instance runs there;
after the last one the map names the new granule, and the instances that wait at its banks wait at the new ones. -/
def execLiveGranuleMove (f ordinal granule : Nat) (s : State) : Out :=
  let x := s.slice f
  let free := decide (granule < 64) && !s.pkg.retired.contains granule && !(x.valid && x.gran.contains (some granule))
    && !(s.others f).any fun y => y.gran.contains (some granule)
  match x.gran.getD ordinal none with
  | none => .next s
  | some old =>
    let n := match x.trust.move with
      | some (o, g, k) => if o = ordinal ∧ g = granule then some k else none
      | none => some 0
    match n with
    | none => .next s
    | some k =>
      if ¬ free = true ∨ ¬ (x.tdi = 1#2 ∨ x.tdi = 2#2) ∨ x.trust.change.isSome = true then .next s
      else if x.trust.move.isNone then .next (s.setSlice f { x with trust := { x.trust with move := some (ordinal, granule, 0) } })
      else if s.drainedOn (4 + k / 32) = true ∨ s.instanceAt f k old = true then .next s
      else if k + 1 < 384 then .next (s.setSlice f { x with trust := { x.trust with move := some (ordinal, granule, k + 1) } })
      else
        let t := { x.trust with move := none, report := x.trust.report + 1#32 }
        let moved (i : Inst) : Inst := if i.f = f ∧ i.bank / 32 = old then { i with bank := 32 * granule + i.bank % 32 } else i
        .next (({ s with bank := { s.bank with insts := s.bank.insts.map moved } } : State).setSlice f
          { x with gran := x.gran.set ordinal (some granule), trust := t } |>.tdiTo f x.tdi)

/-! ## SR-IOV (R450) -/

/-- A write to an SR-IOV field, by its offset in the capability as PCIe lays it out (log entry 29): VF Enable and VF MSE, NumVFs, the halves of
the VF BAR0; none for another offset. -/
def SrIov.put (x : SrIov) (off v : Nat) : Option SrIov := match off with
  | 0x08 => some { x with enable := bitAt v 0, mse := bitAt v 3 }
  | 0x10 => some { x with numVfs := BitVec.ofNat 16 v }
  | 0x24 => some { x with vfBar0 := BitVec.ofNat 64 (x.vfBar0.toNat / 2 ^ 32 * 2 ^ 32 + v % 2 ^ 32 / 2 ^ 16 * 2 ^ 16 + 4) }
  | 0x28 => some { x with vfBar0 := BitVec.ofNat 64 (v % 2 ^ 32 * 2 ^ 32 + x.vfBar0.toNat % 2 ^ 32) }
  | _ => none

/-- `SR_IOV_CAPABILITY_WRITE` (R450): a field frozen by a lock sends every locked interface to ERROR. -/
def execSrIovCapabilityWrite (off : Nat) (value : BitVec 64) (s : State) : Out :=
  let locked := (List.range 64).filter fun f => (s.slice f).tdi == 1#2 || (s.slice f).tdi == 2#2
  match s.pkg.sriov.put off value.toNat with
  | some x => .next (if !s.pfOpen then s else if locked.isEmpty then { s with pkg := { s.pkg with sriov := x } } else locked.foldl (fun t f => t.toError f) s)
  | none => .next s

end Sys2Proof.Machine
end

