-- ==== Sys2Proof/Machine/Context.lean ====
section
/-! DEFINITION. Swapping, spilling and loading contexts (spec/17_faults_and_preemption.md R377 to R384; spec/01 R27). -/
namespace Sys2Proof.Machine

/-! ## Scratch between the contexts (R377, R379) -/

/-- The scratch of a context's teams relative to their places, with what is already spilled. -/
def State.scratchOf (s : State) (x : Ctx) : List (Nat × List Host.Cell) := x.teams.map fun T =>
  (T.uid, match x.spilled.find? fun p => p.1 == T.uid with
    | some p => p.2
    | none => (s.teamScratch T).map fun c => (c.1 - T.scrBase, c.2))

/-- A team moved to another place in the scratchpad. -/
def TeamSnap.move (base : Nat) (p : TeamSnap) : TeamSnap :=
  { p with team := { p.team with scrBase := base }, scratch := p.scratch.map fun c => (c.1 - p.team.scrBase + base, c.2) }

/-- A context's teams moved to the places that a function gives, with its scratch resident. -/
def Ctx.move (x : Ctx) (at_ : Nat → Nat) : Ctx :=
  { x with
    teams := x.teams.map fun T => { T with scrBase := at_ T.uid }
    snaps := x.snaps.map fun p => p.move (at_ p.team.uid)
    spilled := [] }

/-- Places for teams one after another. -/
def layout : Nat → List Team → List (Nat × Nat)
  | _, [] => []
  | b, T :: Ts => (T.uid, b) :: layout (b + T.scrSize) Ts

/-- A place of a layout. -/
def placeIn (l : List (Nat × Nat)) (u : Nat) : Nat := ((l.find? fun p => p.1 == u).map (·.2)).getD 0

/-- The scratch of the live context, and of the shadow context too if `both`, made resident; otherwise the shadow's is spilled to
its image. No engine operation is in flight. -/
def State.settleScratch (s : State) (both : Bool) : State :=
  let y := s.shadow.getD Ctx.empty
  let lv := s.scratchOf s.live
  let sv := s.scratchOf y
  let l := layout 0 (s.live.teams ++ (if both then y.teams else []))
  let cells (p : Nat × List Host.Cell) : List Host.Cell := p.2.map fun c => (c.1 + placeIn l p.1, c.2)
  { s with
    live := s.live.move (placeIn l)
    shadow := s.shadow.map fun x => if both then x.move (placeIn l) else { x with spilled := sv }
    scr := memPuts [] ((lv ++ (if both then sv else [])).flatMap cells)
    paths := s.paths.dropOld 0 786432 }

/-- The outgoing scratch is written to the scratch section of the image at `cx.sva` (R379). The place of the section and its bytes are a
form that only the engine reads, so both are free; the contents are kept in `Ctx.spilled`. Pages that do not translate take nothing (log
entry 28). -/
def State.writeScratch (s : State) (n : Nat) : State :=
  let (m, s1) := s.choose
  let va := s.cx.sva.toNat + 64 * (1 + m % 65536)
  match s1.findPages ⟨s.cx.f, s.cx.ctl.setWidth 12, false, false⟩ .store (pageNums va n) with
  | (ps, none, s2) =>
    let (bs, s3) := s2.chooseBytes n
    s3.writeCuts .core (s.cx.ctl.setWidth 12) ps va bs
  | (_, some _, s2) => s2

/-- No tile copy and no matrix operation is in flight on the core. -/
def State.quiet (s : State) : Bool := s.tcs.isEmpty && s.mx.ops.isEmpty

/-- The scratch of both contexts exceeds the scratchpad (R378, R379). -/
def State.overScratch (s : State) : Bool := decide (786432 < s.live.scratch + (s.shadow.getD Ctx.empty).scratch)

/-! ## The swap (R379) -/

/-- A context with nothing in it, with the register pool of a bank less the handler reservations (R170, R364). -/
def State.emptyCtx (s : State) : Ctx := { Ctx.empty with free := 8192 - 64 * (s.shares.filter (·.isSome)).length }

/-- Nothing belongs to a context. -/
def Ctx.bare (x : Ctx) : Bool := x.groups.isEmpty && x.teams.isEmpty && x.frames.isEmpty

/-- A context's bins, with the time for which it was not live left out of their ages (R383). -/
def Ctx.ageShift (x : Ctx) (n : Int) : Ctx :=
  { x with bins := x.bins.map fun b => b.map fun y => { y with threads := y.threads.map fun f => { f with since := f.since + n } } }

/-- A group whose context has just become live: its quads become ready now (R139). -/
def Group.arrive (now : Nat) (G : Group) : Group := { G with seqs := G.seqs.map fun q => { q with ready := now } }

/-- A group whose context leaves the live bank: a group switch (R17). A migrated group runs on where it is (R295). -/
def Group.depart (G : Group) : Group := if G.mig.isSome then G else { G with threads := G.threads.map fun t => if t.live then t.redirect else t }

/-- The function and the address space of a context's first team. -/
def State.ctxOwner (s : State) (x : Ctx) : Nat × Nat := match x.teams.findSome? fun T => s.grid T.grid with
  | some g => (g.f, g.asid.toNat)
  | none => (0, 0)

/-- The swap may begin: it was asked for, every replay entry is checked, and no engine works on scratch that has to move. -/
def State.swapReady (s : State) : Bool :=
  s.cx.swap && s.replays.isEmpty
  && (s.quiet || !(s.overScratch || (s.shadow.getD Ctx.empty).spilled != []))

/-- The queue of the matrix engine when a context leaves the live bank: its groups no longer wait (R309). -/
def Matrix.without (m : Matrix) (x : Ctx) : Matrix :=
  let mine (u : Nat) : Bool := x.groups.any fun G => G.uid == u
  { m with fifo := m.fifo.filter fun u => !mine u, waiting := m.waiting.filter fun p => !mine p.2 }

/-- `CONTEXT_SWAP` (R379). -/
def execContextSwap (s : State) : Out :=
  if !s.swapReady then .next s
  else
    let now := s.now
    let inc := s.shadow.getD s.emptyCtx
    let out : Ctx := { s.live with groups := s.live.groups.map Group.depart, left := now }
    let live : Ctx := { inc.ageShift ((now : Int) - inc.left) with groups := inc.groups.map (Group.arrive now) }
    let zero (x : Share) : Share := { x with deficit := 0 }
    let moved := s.overScratch
    let (size, s) := if s.cx.ctl.getLsbD 12 && !out.bare then s.choose else (s.cx.size, s)
    let s1 := { s with
      live := live
      shadow := if out.bare then none else some out
      shares := s.shares.map (Option.map zero)
      lastWinner := 3
      issues := []
      cur := none
      cx := { s.cx with swap := false, spill := s.cx.ctl.getLsbD 12 && !out.bare, load := s.cx.ctl.getLsbD 12 && s.cx.ctl.getLsbD 13, since := 0, size := size }
      mx := s.mx.without out }
    let s2 := if moved then (s1.settleScratch false).writeScratch out.scratch
      else if live.spilled != [] then s1.settleScratch true else s1
    let cycles := 96 + (if moved then max (out.scratch / 512) (live.scratch / 512) else 0)
    let (f, a) := s.ctxOwner s.live
    .next (s2.recEvent s.coreNo 0x07 0x01 a f ((if s.cx.mon then 1 else 0) + cycles % 4096 * 2))

/-- `PREEMPTION_REQUEST` (R378): Nimzil asks for a swap. -/
def execPreemptionRequest (s : State) : Out := .next { s with cx := { s.cx with swap := true, mon := true } }

/-! ## Saving (R349, R379, R381, R384) -/

/-- How the spill engine sees memory: in the address space of `cx.ctl` (R380). -/
def State.cxView (s : State) : View := ⟨s.cx.f, s.cx.ctl.setWidth 12, false, false⟩

/-- The register blocks of a context's teams (R381). -/
def State.ctxBlocks (s : State) (x : Ctx) : Nat := s.emptyCtx.free - x.free

/-- The fragments of a context (R147). -/
def Ctx.frags (x : Ctx) : Nat := (x.groups.map fun G => (G.seqs.filter fun q => q.frag && decide (q.st ≠ .done)).length).sum

/-- The filling bins of a context (R151). -/
def Ctx.filling (x : Ctx) : Nat := (x.bins.filter (·.isSome)).length

/-- The header of an image (R381): `chk` is CHECK. -/
def State.imageHeader (s : State) (x : Ctx) (f size chk : Nat) : List Byte :=
  natLe 4 0x58435444 ++ natLe 4 size ++ natLe 1 f ++ natLe 1 x.teams.length ++ natLe 2 (16 * x.teams.length)
  ++ natLe 2 (s.ctxBlocks x) ++ natLe 2 x.groups.length ++ natLe 4 x.scratch ++ natLe 1 x.frags ++ natLe 1 x.filling ++ natLe 1 x.accs
  ++ natLe 1 0 ++ natLe 8 (s.cal.next.num * 2 ^ 17 + (s.cal.next.start - s.now) % 2 ^ 17) ++ natLe 16 chk
  ++ natLe 4 s.cal.resets.toNat ++ natLe 12 0

/-- The matrix engine still holds planes of the context (R310). -/
def State.planesOf (s : State) (x : Ctx) : Bool :=
  let mine (u : Nat) : Bool := x.groups.any fun G => G.uid == u
  match s.mx.st with
  | .owned u => mine u
  | .swap (some u) _ => mine u
  | .swap none (some u) => mine u
  | _ => false

/-- Every migrated group of the shadow context comes home (R295). -/
def State.recall (s : State) : State :=
  let t := s.exchange
  (t.live.groups.foldl (fun u G => u.comeHome G.gctx) t).exchange

/-- An operation of the context is in flight (R349). -/
def State.opsOf (s : State) (x : Ctx) : Bool := x.teams.any fun T => s.inFlight T

/-- The size of the next image (R381): SIZE is a multiple of 4,096 that the engine gives (log entry 28). -/
def State.imageSize (s : State) : Nat := 4096 * (1 + s.cx.size % 1024)

/-- The stacks that hold bytes of the next image (R384). -/
def State.imageStacks (s : State) : List Nat :=
  ((s.findPages s.cxView .store (pageNums s.cx.sva.toNat s.imageSize)).1.flatMap fun p => match p.2.base with
    | .dram f spa => (List.range 16).map fun j => (spaRow f (s.slice f) (spa + 256 * j)).1.stack
    | _ => []).dedup

/-- The background spill engine writes an image (R381): its header, and a body that only the engine reads (log entry 28). -/
def State.writeImage (s : State) (x : Ctx) : Option State :=
  let (n, s1) := s.choose
  let size := s.imageSize
  let body := natLe (size - 64) n
  let f := (s.ctxOwner x).1
  let bytes := s.imageHeader x f size (Config.imageCheck body).toNat ++ body
  let va := s.cx.sva.toNat
  match s1.findPages s1.cxView .store (pageNums va size) with
  | (ps, none, s3) =>
    let y := { x with spilled := s3.scratchOf x }
    let s4 := s3.writeCuts .core (s.cx.ctl.setWidth 12) ps va bytes
    let paths := x.teams.foldl (fun m T => if x.spilled.any fun p => p.1 == T.uid then m else m.dropOld T.scrBase (T.scrBase + T.scrSize)) s4.paths
    some { s4 with shadow := none, paths := paths, images := ⟨f, s.now, s.cal.resets, y, s.shares, bytes, false⟩ :: s4.images }
  | _ => none

/-- The number under which the accesses of the context engine wait at banks. -/
def contextHolder : Holder := ⟨2 ^ 38, []⟩

/-- `CONTEXT_SPILL` (R379, R384): the shadow context is saved, once its operations are over. A save whose pages do not translate
leaves the context where it is (log entry 28). It waits while a bank holds an access of it (R287). -/
def execContextSpill (s : State) : Out := match s.shadow with
  | none => .next { s with cx := { s.cx with spill := false } }
  | some x =>
    if ¬ s.cx.spill = true ∨ s.opsOf x = true ∨ s.planesOf x = true then .next s
    else
      let t := s.recall
      match t.shadow with
      | none => .next s
      | some y => if s.rangesHeld contextHolder s.cxView .store [(s.cx.sva.toNat, s.imageSize)] ≠ [] then
          .next (s.holdReqs contextHolder (s.rangesHeld contextHolder s.cxView .store [(s.cx.sva.toNat, s.imageSize)]))
        else match (t.unhold contextHolder).writeImage y with
        | none => .next { t with cx := { t.cx with spill := false, load := false } }
        | some u =>
          let dl := bits s.cx.ctl.toNat 31 20
          let late := dl != 0 && decide (940 * dl < s.cx.since)
          let asid := s.cx.ctl.toNat % 4096
          let f := (s.ctxOwner y).1
          let u1 := ({ u with cx := { u.cx with spill := false, late := late } } : State).recEvent s.coreNo 0x07 0x02 asid f asid
          .next (if late then u1.recEvent s.coreNo 0x07 0x04 asid f asid else u1)

/-! ## Loading (R27, R381, R383) -/

/-- The renaming of resident-team slots by which a loaded context's teams take free ones (R377). -/
def slotMap : List Nat → List Nat → List (Nat × Nat)
  | k :: ks, j :: js => (k, j) :: slotMap ks js
  | _, _ => []

/-- A context with its teams' slots renamed. -/
def Ctx.rename (x : Ctx) (r : Nat → Nat) : Ctx :=
  let grp (G : Group) : Group := { G with team := G.team.map r }
  let wt (w : ChWait) : ChWait := { w with team := r w.team }
  let tm (T : Team) : Team := { T with slot := r T.slot }
  { x with
    groups := x.groups.map grp
    teams := x.teams.map tm
    snaps := x.snaps.map fun p => { p with team := tm p.team, groups := p.groups.map grp, waits := p.waits.map wt }
    frames := x.frames.map fun f => { f with team := f.team.map r }
    bins := x.bins.map fun b => b.map fun y => { y with team := r y.team }
    waits := x.waits.map wt }

/-- `ctx.wall` of a context that was saved for n cycles (R27). -/
def Ctx.wallOn (x : Ctx) (n : Nat) : Ctx :=
  let on (c : FpCtx) : FpCtx := { c with wall := c.wall + BitVec.ofNat 64 n }
  { x with groups := x.groups.map fun G => { G with own := on G.own }, teams := x.teams.map fun T => { T with fp := on T.fp } }

/-- The first check that a known image fails, 0 for none (R381, from 0x03 on). -/
def State.loadCheck (s : State) (h : List Byte) : Nat :=
  let live := (s.live.teams.filter fun T => !T.ended).length
  if (s.shareOf (fld h 8 1)).isNone then 3
  else if 16 - live < fld h 9 1 ∨ 256 - 16 * live < fld h 0x0A 2 then 4
  else if s.emptyCtx.free < fld h 0x0C 2 ∨ 2048 < fld h 0x0E 2 then 5
  else if 786432 < fld h 0x10 4 then 6
  else if 64 - s.fragsUsed < fld h 0x14 1 then 7
  else if 32 - s.live.filling < fld h 0x15 1 then 8
  else if 8 - s.accsHeld < fld h 0x16 1 then 9
  else 0

/-- The bytes of the image at `cx.rva`, or the code of a check that fails first: its translation, over the SIZE that its header gives, the
loader's function, then MAGIC and SIZE (R381). A header with poison fails its CHECK. -/
def State.readImage (s : State) : Except Nat (List Byte) × State :=
  let va := s.cx.rva.toNat
  match s.findPages s.cxView .load [va / 4096] with
  | (ps, none, s1) =>
    let (xs, s2) := s1.readCuts .core (s.cx.ctl.setWidth 12) ps (blockCuts va 64)
    let h := xs.flatMap (·.1)
    let size := fld h 4 4
    if xs.any (·.2) then (.error 2, s2)
    else if ¬ s.cx.mon = true ∧ fld h 8 1 ≠ s.cx.f then (.error 1, s2)
    else match s2.findPages s.cxView .load (pageNums va (max 1 size)) with
      | (qs, none, s3) =>
        if fld h 0 4 ≠ 0x58435444 ∨ size = 0 ∨ size % 4096 ≠ 0 then (.error 2, s3)
        else
          let (ys, s4) := s3.readCuts .core (s.cx.ctl.setWidth 12) qs (blockCuts va size)
          (if ys.any (·.2) then .error 2 else .ok (ys.flatMap (·.1)), s4)
      | (_, some _, s3) => (.error 1, s3)
  | (_, some _, s1) => (.error 1, s1)

/-- What a load reads: the header, and the image of the size that it gives. -/
def State.imageRanges (s : State) : List (Nat × Nat) :=
  let va := s.cx.rva.toNat
  let (ps, e, s1) := s.findPages s.cxView .load [va / 4096]
  let h := ((s1.readCuts .core (s.cx.ctl.setWidth 12) ps (blockCuts va 64)).1).flatMap (·.1)
  (va, 64) :: if e.isNone then [(va, fld h 4 4)] else []

/-- A load refused (R381, R401). -/
def State.refuseLoad (s : State) (code : Nat) : State :=
  ({ s with cx := { s.cx with load := false, err := BitVec.ofNat 8 code } } : State).recEvent s.coreNo 0x02 0x06 (s.cx.ctl.toNat % 4096) s.cx.f code

/-- The filling bins of a loaded context, in order, in bins that the live context does not fill (R151, R377). -/
def binsBeside (live loaded : List (Option Bin)) : List (Option Bin) :=
  let free := (List.range 32).filter fun i => (live.getD i none).isNone
  let mine := loaded.filterMap id
  (List.range 32).map fun i => match free.findIdx? (· == i) with
    | some j => mine[j]?
    | none => none

/-- An image enters the shadow bank (R27, R381, R383); it stays in memory as it was, so that it can be loaded again. Its pool is that of a
bank with the shares of now, less the blocks that its teams hold (R170, R364). -/
def State.enter (s : State) (i : Image) : State :=
  let used := s.live.teams.map (·.slot)
  let ks := (i.ctx.teams.map (·.slot)).filter (decide <| · < 16)
  let m := slotMap ks ((List.range 16).filter fun k => !used.contains k)
  let r (k : Nat) : Nat := ((m.find? fun p => p.1 == k).map (·.2)).getD k
  let gap := if i.boots = s.cal.resets then s.now - i.saved else 0
  let y0 := (i.ctx.rename r).wallOn gap
  let y := { y0 with
    bins := binsBeside s.live.bins y0.bins
    free := s.emptyCtx.free + i.ctx.free - (8192 - 64 * (i.shares.filter Option.isSome).length) }
  let gone (j : Image) : Image := if j.bytes = i.bytes then { j with loaded := true } else j
  let s1 := { s with images := s.images.map gone, shadow := some y, cx := { s.cx with load := false, err := 0#8 } }
  let s2 := if s1.overScratch then s1 else s1.settleScratch true
  s2.recEvent s.coreNo 0x07 0x03 (s.cx.ctl.toNat % 4096) i.f (s.cx.ctl.toNat % 4096)

/-- `CONTEXT_LOAD` (R381). It waits while a bank holds an access of it (R287). -/
def execContextLoad (s : State) : Out :=
  if ¬ s.cx.load = true ∨ s.cx.spill = true then .next s
  else if s.shadow.isSome then .next { s with cx := { s.cx with load := false } }
  else if s.rangesHeld contextHolder s.cxView .load s.imageRanges ≠ [] then
    .next (s.holdReqs contextHolder (s.rangesHeld contextHolder s.cxView .load s.imageRanges))
  else match (s.unhold contextHolder).readImage with
    | (.error code, t) => .next (t.refuseLoad code)
    | (.ok bs, t) => match t.images.find? fun i => i.bytes == bs with
      | none => .next (t.refuseLoad 2)
      | some i =>
        let code := t.loadCheck bs
        if code ≠ 0 then .next (t.refuseLoad code)
        else if ¬ t.quiet = true then .next s
        else .next (t.enter i)

end Sys2Proof.Machine
end

