-- ==== Sys2Proof/Machine/Calendar.lean ====
section
/-! DEFINITION. The reef-slot calendar: beacons, drain points, the start and the end of a slot with their housekeeping
(spec/20_reef_slots.md R416 to R426; spec/17 R384; spec/23 R465, R476). -/
namespace Sys2Proof.Machine

/-! ## Beacons (R419) -/

/-- The beacon of the next slot is due, and not sent yet. -/
def State.beaconDue (s : State) : Bool :=
  !s.cal.sent && s.cal.inSlot.isNone && decide (s.cal.next.start ≤ s.now + 5640)

/-- The unit whose ring takes a die's own events: the first unit of a compute die, the base die, the I/O die (R397, R398). -/
def dieUnit (d : Nat) : Nat := if d < 4 then 48 * d else if d < 16 then 0x100 + (d - 4) else 0x200 + (d - 16)

/-- A die's count of missed beacons: in all, in a row, and whether the beacon now due is one of them. -/
def Calendar.missedBy (c : Calendar) (d : Nat) : Nat × Nat × Bool := match c.missed.find? fun p => p.1 == d with
  | some p => (p.2.1, p.2.2 / 2, p.2.2 % 2 == 1)
  | none => (0, 0, false)

/-- A die's count replaced. -/
def Calendar.setMissed (c : Calendar) (d total row : Nat) (now : Bool) : Calendar :=
  { c with missed := putKey false d (total, 2 * row + (if now then 1 else 0)) c.missed }

/-- `BEACON_MISSED` (R419): the die keeps its own countdown, and says so; after four in a row it asks for replacement. -/
def execBeaconMissed (die : Nat) (s : State) : Out :=
  let (total, row, seen) := s.cal.missedBy die
  if !s.beaconDue || seen || decide (18 ≤ die) then .next s
  else
    let s1 := ({ s with cal := s.cal.setMissed die (total + 1) (row + 1) true } : State).recEvent (dieUnit die) 0x3F 0x01 0 0 0
    .next (if row + 1 = 4 then s1.replacement (dieUnit die) 3 else s1)

/-- A die's count once the beacon has passed: one that received it counts from 0 again. -/
def beaconPassed (p : Nat × Nat × Nat) : Nat × Nat × Nat := (p.1, p.2.1, if p.2.2 % 2 = 1 then p.2.2 / 2 * 2 else 0)

/-- The countdowns after a beacon (R419), from the modelled die's: those of the dies that received it lie within 38 cycles of each other, by
free choices; a die that missed it keeps its own, which moves away by at most 4 cycles. -/
def State.setCountdowns (s : State) (n : Nat) : List (Nat × Int) :=
  let (_, row, mine) := s.cal.missedBy s.die
  let r := if mine then row else 0
  let lo : Int := (n % (39 + 8 * r) : Nat) - (38 + 4 * r : Nat)
  ((List.range 18).filter (· ≠ s.die)).map fun d =>
    let m := n / 1024 / 64 ^ d
    (d, if (s.cal.missedBy d).2.2 then s.offOf d + (m % 9 : Nat) - 4 else lo + (m % 39 : Nat))

/-- `BEACON` (R419): the beacon of the next slot goes round; every die that does not miss it sets its countdown by it. -/
def execBeacon (s : State) : Out :=
  if !s.beaconDue then .next s
  else
    let (n, t) := s.choose
    let heard := (List.range 18).filter fun d => s.cal.heard.contains d || !(s.cal.missedBy d).2.2
    .next { t with cal := { t.cal with sent := true, heard := heard, offs := s.setCountdowns n, missed := t.cal.missed.map beaconPassed } }

/-! ## The drain point (R422) -/

/-- An engine at the drain point, or at a slot's end (R323). -/
def ChainEng.shift (a b : Nat) (e : ChainEng) : ChainEng := if e.st = a then { e with st := b } else e

/-- The engines of a die that run go to DRAIN once its drain point has passed, and those in DRAIN run on once its slot is over (R323). -/
def State.syncEngs (s : State) (d : Nat) : State :=
  let on := s.drainedOn d
  { s with engs := s.engs.map fun e => if e.base ≠ d then e else if on then e.shift 2 6 else e.shift 6 2 }

/-- `DRAIN_POINT` (R422): the next slot's drain point is reached by a die's countdown. -/
def execDrainPoint (die : Nat) (s : State) : Out :=
  if die = s.die then
    (if s.cal.drained = true ∨ s.cal.inSlot.isSome = true ∨ s.now + 235 < s.cal.next.start then .next s
     else .next (({ s with cal := { s.cal with drained := true } } : State).syncEngs die))
  else .next (if s.drainedOn die then s.syncEngs die else s)

/-! ## The calendar's course (R416 to R418, R425) -/

/-- A data-rate change that Nimzil may schedule with a major slot that is fixed now (R384, R425). -/
def State.askRate (s : State) (major : Bool) : State :=
  if major then
    let (n, t) := s.choose
    if n % 2 = 0 then t
    else { t with cal := { t.cal with asked := t.cal.asked ++ [(n / 2 % 12, [128, 112, 96].getD (n / 24 % 3) 128)] } }
  else s

/-- The calendar goes on: the slot that was next is in progress, and one more slot is fixed (R417). -/
def State.fixSlot (s : State) : State :=
  let x := s.cal.next
  let s1 := s.askRate ((s.cal.after.num + 1) % 2 ^ 47 % 512 == 0)
  { s1 with cal := { s1.cal with
    inSlot := some (x, x.start + x.length)
    drained := true
    sent := false
    last := some x
    next := s1.cal.after
    after := s1.cal.after.then s1.cal.doubling (!s1.cal.asked.isEmpty) } }

/-- A slot's entry or exit recorded by every unit in its own ring (R398, R401). -/
def State.recSlot (s : State) (kind : Nat) (x : SlotRec) : State :=
  allUnits.foldl (fun t u =>
    let t1 := t.recEvent u 0x08 kind 0 0 (x.num % 65536 + (if x.major then 65536 else 0))
    t1.setRing u { t1.ring u with lastSlot := BitVec.ofNat 16 x.num }) s

/-- The stacks to which a save with a deadline still has to stream (R384). -/
def State.streamsTo (s : State) : List Nat := if s.cx.spill && bits s.cx.ctl.toNat 31 20 != 0 then s.imageStacks else []

/-- The data-rate changes of a slot: those of a stack to which a save with a deadline streams move to the first later major slot in which
none does; the others are performed (R384). -/
def State.changeRates (s : State) (x : SlotRec) : State :=
  if !x.rate then s
  else
    let busy := s.streamsTo
    let later := s.cal.asked.filter fun p => busy.contains p.1
    let rates := (s.cal.asked.filter fun p => !busy.contains p.1).foldl (fun l p => l.set p.1 p.2) s.cal.rates
    let t : State := { s with cal := { s.cal with asked := later, rates := rates } }
    if later.isEmpty then t else t.recEvent 0x200 0x08 0x04 0 0 (x.num % 65536)

/-! ## Housekeeping (R418, R425, R426, R465, R476) -/

/-- Free temperatures of stacks. -/
def State.chooseTemps (s : State) : Nat → List Nat × State
  | 0 => ([], s)
  | n + 1 =>
    let (v, t) := s.choose
    let (l, u) := t.chooseTemps n
    (v % 128 :: l, u)

/-- The temperature sweep of a slot (R418): what the sensors read is free; a stack at 100 °C is device-fatal (R476). -/
def State.sweep (s : State) : State :=
  let (ts, s1) := s.chooseTemps 12
  let cool := if ts.all (decide <| · ≤ 80) then s1.cal.cool + 1 else 0
  let on := (ts.any (decide <| 85 < ·)) || (s1.cal.doubling && decide (cool < 512))
  let s2 := { s1 with cal := { s1.cal with temps := ts, cool := min 512 cool, doubling := on } }
  match ts.findIdx? (decide <| 100 ≤ ·) with
  | some i =>
    let (n, s3) := s2.choose
    s3.deviceFatalAt (0x100 + i) (n % 256)
  | none => s2

/-- The next lower pin rate (R425, R426). -/
def lowerRate (r : Nat) : Nat := if 112 < r then 112 else 96

/-- A sub-channel that has failed retraining in two consecutive major slots (R426): its stack moves to the next lower rate at the following
major slot, or at the lowest rate it is disabled; each step is recorded, with cause 2 where the spec names the cause, else with a free one. -/
def State.degrade (s : State) (c : Nat) : State :=
  let i := c / 64
  let r := s.cal.rates.getD i 128
  if r ≤ 96 then ({ s with cal := { s.cal with disabled := c :: s.cal.disabled, retrain := s.cal.retrain.erase c } } : State).replacement (0x100 + i) 2
  else
    let (m, u) := s.choose
    ({ u with cal := { u.cal with asked := u.cal.asked ++ [(i, lowerRate r)] } } : State).replacement (0x100 + i) (1 + m % 3)

/-- A scheduled sub-channel is retrained, and fails or not, by a free choice (R214, R425, R426): one that fails is retrained again in the next
major slot. -/
def State.retrainOne (before : List Nat) (s : State) (c : Nat) : State :=
  let (n, t) := s.choose
  if n % 2 = 0 then { t with cal := { t.cal with retrain := t.cal.retrain.erase c } }
  else if before.contains c then t.degrade c
  else { t with cal := { t.cal with failed := c :: t.cal.failed } }

/-- The scheduled sub-channels are retrained (R425). -/
def State.retrainChannels (s : State) : State :=
  s.cal.retrain.foldl (State.retrainOne s.cal.failed) { s with cal := { s.cal with failed := [] } }

/-- The sweep of the scrub counters of every stack (R425, R426): of the banks with uncorrectable blocks, those whose errors last are marked; how
long an error must last is a free choice. -/
def State.sweepScrub (s : State) : State :=
  if s.eccBad.isEmpty then s
  else
    let (n, t) := s.choose
    let bankOf (b : Nat) : Nat × Nat :=
      let f := 16 * b / 2 ^ 40
      let r := (spaRow f (s.slice f) (16 * b % 2 ^ 40)).1
      (r.stack, rowBank (s.slice f) r)
    let b := bankOf (s.eccBad.getD (n / 2 % s.eccBad.length) 0)
    if n % 2 = 0 ∨ t.cal.worn.contains b = true then t else { t with cal := { t.cal with worn := b :: t.cal.worn } }

/-- A port that went down retrains in a major slot, and fails or not (R465); which I/O die it stands on is free. -/
def State.retrainPort (s : State) (i : Nat) : State := match (s.pkg.ports[i]? : Option Port) with
  | none => s
  | some p =>
    if !p.retrain then s
    else
      let (n, t) := s.choose
      let q : Port := if n % 2 = 0 then { p with up := true, replays := 0, retrain := false } else { p with retrain := false }
      let u := { t with pkg := { t.pkg with ports := t.pkg.ports.set i q } }
      if n % 2 = 0 then u else u.replacement (0x200 + n / 2 % 2) 3

/-- The instances that a slot of their base die meets still running (R286, R424). -/
def State.overrunDue (s : State) : List Inst := s.bank.insts.filter fun i => i.started && !i.ended && s.inSlotOn i.die

/-- They stop, and are saved. -/
def State.overrunAll (s : State) : State := s.overrunDue.foldl (fun t i => match t.slotOn i.die with
  | some (x, _) => t.overrun (BitVec.ofNat 16 x.num) i
  | none => t) s

/-- `SLOT_START` (R422 to R425): the drains are over, instances still running stop, each by its own base die's countdown, the slot's entry is
recorded, the housekeeping runs. -/
def execSlotStart (s : State) : Out :=
  if s.cal.inSlot.isSome ∨ s.now < s.cal.next.start then .next s
  else
    let x := s.cal.next
    let s2 := s.fixSlot.overrunAll.syncEngs s.die
    let s3 := (s2.recSlot 0x01 x).changeRates x
    let s4 := if x.major then (List.range 18).foldl State.retrainPort s3.retrainChannels else s3
    .next s4.sweepScrub.sweep

/-- `SLOT_END` (R423): the slot's exit is recorded, and what waited goes on. -/
def execSlotEnd (s : State) : Out := match s.cal.inSlot with
  | none => .next s
  | some (x, e) =>
    if s.now < e then .next s
    else
      let s1 := ({ s with cal := { s.cal with inSlot := none, drained := false } } : State).syncEngs s.die
      .next (s1.recSlot 0x02 x)

end Sys2Proof.Machine
end

