-- ==== Sys2Proof/Machine/Compare.lean ====
section
/-! DEFINITION. Integer compares, select, byte permutation and bit fields: majors 0x18 to 0x1B and the integer part of 0x1E
and 0x1F (spec/04_scalar_and_control_instructions.md R90, R93 to R95). -/
namespace Sys2Proof.Machine

/-- The signed compares of majors 0x18 and 0x1A by fn (R90). -/
def icmpVal (f : Nat) (a b : Word) : Bool := match f with
  | 0 => a == b
  | 1 => a != b
  | 2 => decide (a.toInt < b.toInt)
  | 3 => decide (a.toInt ≤ b.toInt)
  | 4 => decide (b.toInt < a.toInt)
  | _ => decide (b.toInt ≤ a.toInt)

/-- The unsigned compares of majors 0x19 and 0x1B by fn (R90). -/
def icmpnVal (f : Nat) (a b : Word) : Bool := match f with
  | 2 => decide (a.toNat < b.toNat)
  | 3 => decide (a.toNat ≤ b.toNat)
  | 4 => decide (b.toNat < a.toNat)
  | _ => decide (b.toNat ≤ a.toNat)

/-- A condition as a mask bit's word. -/
def bitWord (b : Bool) : Word := if b then 1#32 else 0#32
/-- A condition as a register value (R90). -/
def condWord (b : Bool) : Word := if b then 0xFFFFFFFF#32 else 0#32

/-- A compare of two words into a mask register (R90). -/
def cmpMaskOp (k : BitVec 3) (a b : BitVec 7) (f : Word → Word → Bool) : State → Out :=
  laneUnit { names := [(a, 1), (b, 1)] } (.mask k.toNat) fun _ _ G l =>
    onWords G l [(a.toNat, 1), (b.toNat, 1)] fun v => ([bitWord (f (w0 v) (w1 v))], 0#5)

/-- `icmp`, signed and equality forms, to a mask (R90). -/
def execIcmp (f : BitVec 3) (k : BitVec 3) (a b : BitVec 7) (s : State) : Out := cmpMaskOp k a b (icmpVal f.toNat) s
/-- `icmp`, unsigned forms, to a mask (R90). -/
def execIcmpN (f : BitVec 3) (k : BitVec 3) (a b : BitVec 7) (s : State) : Out := cmpMaskOp k a b (icmpnVal f.toNat) s
/-- `icmpv`, signed and equality forms, to a register (R90). -/
def execIcmpv (n : BitVec 1) (f : BitVec 3) (d a b : BitVec 7) (s : State) : Out :=
  binaryOp n d a b (fun x y => condWord (icmpVal f.toNat x y)) s
/-- `icmpv`, unsigned forms, to a register (R90). -/
def execIcmpvN (n : BitVec 1) (f : BitVec 3) (d a b : BitVec 7) (s : State) : Out :=
  binaryOp n d a b (fun x y => condWord (icmpnVal f.toNat x y)) s

/-- `sel`: every lane of k0 takes a or b by the prefix's mask, with the chosen source's poison (R93). -/
def execSel (n : BitVec 1) (d a b : BitVec 7) (s : State) : Out :=
  laneUnit { nw := n == 1#1, zm := false, sel := true, names := [(d, 1), (a, 1), (b, 1)] } (.regs d 1) (fun _ c G l =>
    .ok [if (G.mask (G.k0 c) (pfxKm c)).getLsbD l then G.readWord l a.toNat else G.readWord l b.toNat] 0#5) s

/-- Byte i of `prmb` (R94). -/
def prmbByte (a b c : Word) (i : Nat) : Byte :=
  let s := bits c.toNat (4 * i + 3) (4 * i)
  let v : Byte := (b ++ a : BitVec 64).extractLsb' (8 * (s % 8)) 8
  if 8 ≤ s then (if v.getLsbD 7 then 0xFF#8 else 0#8) else v

/-- The word that `prmb` writes (R94). -/
def prmbVal (a b c : Word) : Word := prmbByte a b c 3 ++ prmbByte a b c 2 ++ prmbByte a b c 1 ++ prmbByte a b c 0

/-- `prmb` (R94). -/
def execPrmb (n : BitVec 1) (d a b : BitVec 7) (s : State) : Out := ternaryOp n d a b prmbVal s

/-- Position and length of a bit field (R95). -/
def fieldPos (b : Word) : Nat := b.toNat % 32
/-- The length, cut at bit 31. -/
def fieldLen (b : Word) : Nat := min (bits b.toNat 13 8) (32 - fieldPos b)
/-- The mask of the field's bits. -/
def fieldMask (b : Word) : Word := BitVec.ofNat 32 ((2 ^ fieldLen b - 1) * 2 ^ fieldPos b)

/-- `bfx` value. -/
def bfxVal (a b : Word) : Word := (a &&& fieldMask b) >>> fieldPos b
/-- `bfxs` value: the field sign-extended from its length. -/
def bfxsVal (a b : Word) : Word :=
  let x := bfxVal a b
  let n := fieldLen b
  if n = 0 then 0#32 else if x.getLsbD (n - 1) then x ||| ~~~(BitVec.ofNat 32 (2 ^ n - 1)) else x
/-- `bfi` value. -/
def bfiVal (a b c : Word) : Word := (c &&& ~~~(fieldMask b)) ||| ((a <<< fieldPos b) &&& fieldMask b)

/-- `bfx` (R95). -/
def execBfx (n : BitVec 1) (d a b : BitVec 7) (s : State) : Out := binaryOp n d a b bfxVal s
/-- `bfxs` (R95). -/
def execBfxs (n : BitVec 1) (d a b : BitVec 7) (s : State) : Out := binaryOp n d a b bfxsVal s
/-- `bfi` (R95). -/
def execBfi (n : BitVec 1) (d a b : BitVec 7) (s : State) : Out := ternaryOp n d a b bfiVal s

end Sys2Proof.Machine
end

