-- ==== Sys2Proof/Machine/HostPort.lean ====
section
/-! DEFINITION. The host port, the Vorif link, enclaves, SPDM, boot and the resets (spec/23_host_scale_up_and_enclaves.md R461 to
R477; spec/22 R455; spec/19 R413). -/
namespace Sys2Proof.Machine

/-! ## SPDM (R455, R475; log entry 26) -/

/-- The part answers a function's SPDM requests: in recovery function 0 alone (R475). -/
def State.responds (s : State) (f : Nat) : Bool := decide (f < 64) && (f == 0 || !s.pkg.boot.recovery)

/-- A response of Nimzil's over DOE; in recovery there is none (R461, R475). -/
def State.answerDoe (s : State) (f : Nat) (bs : List Byte) : State := if s.pkg.boot.recovery then s else s.respondDoe f bs

/-- `GET_VERSION` (R455, R475): SPDM 1.3. -/
def execGetVersion (f : Nat) (s : State) : Out := .next (if s.responds f then s.respondDoe f (natLe 1 0x13) else s)

/-- The capability flags of SPDM for CERT, CHAL, signed MEAS, ENCRYPT, MAC and KEY_EX (R455). -/
def spdmCaps : Nat := 0x2D6

/-- `GET_CAPABILITIES` (R455, R475). -/
def execGetCapabilities (f : Nat) (s : State) : Out := .next (if s.responds f then s.respondDoe f (natLe 4 spdmCaps) else s)

/-- A measurement block in the DMTF form: index, value type, digest (R455). -/
def measBlock (index type : Nat) (d : BitVec 256) : List Byte :=
  natLe 1 index ++ natLe 1 1 ++ natLe 2 35 ++ natLe 1 type ++ natLe 2 32 ++ natLe 32 d.toNat

/-- The measurement blocks that a function is given (R455). -/
def State.measurements (s : State) (f : Nat) : List Byte :=
  let x := s.slice f
  ((List.range 6).flatMap fun i => measBlock (i + 1) ([0, 1, 1, 1, 3, 2].getD i 0) (s.pkg.boot.meas.getD i 0#256))
  ++ measBlock (0x40 + f) 3 (if x.tdi = 0#2 then 0#256 else x.trust.svDig)

/-- `GET_MEASUREMENTS` (R455, R475): signed with the identity key, if there is one. -/
def execGetMeasurements (f : Nat) (s : State) : Out :=
  let m := s.measurements f
  if !s.responds f then .next s
  else if s.pkg.identity then
    let (r, t) := s.choose
    .next (t.respondDoe f (m ++ natLe 64 (Config.sm2Sign m r).toNat))
  else .next (s.respondDoe f m)

/-- `NEGOTIATION` (R455). -/
def execNegotiation (f : Nat) (sm3 sm2 sm4 : Bool) (s : State) : Out :=
  let x := s.slice f
  if ¬ f < 64 then .next s
  else if sm3 && sm2 && sm4 && !s.pkg.boot.recovery then
    .next ((s.setSlice f { x with trust := { x.trust with sess := max 1 x.trust.sess } }).answerDoe f [])
  else .next (s.answerDoe f errorResponse)

/-- `KEY_EX` (R455). -/
def execKeyEx (f : Nat) (s : State) : Out :=
  let x := s.slice f
  if f < 64 ∧ 1 ≤ x.trust.sess then .next ((s.setSlice f { x with trust := { x.trust with sess := 2 } }).answerDoe f [])
  else .next (s.answerDoe f errorResponse)

/-! ## The host port (R461 to R464) -/

/-- `LINK_TRAINING` (R461): the speeds and widths that the port trains to. -/
def execLinkTraining (speed width : Nat) (s : State) : Out :=
  if (speed = 128 ∨ speed = 64 ∨ speed = 32) ∧ (width = 16 ∨ width = 8) then
    .next { s with pkg := { s.pkg with linkSpeed := speed, linkWidth := width } }
  else .next s

/-- `IDE_KM` (R464). -/
def execIdeKm (f : Nat) (key : BitVec 256) (s : State) : Out :=
  let x := s.slice f
  if f < 64 ∧ x.trust.sess = 2 then .next ((s.setSlice f { x with trust := { x.trust with ide := 1, ideKey := key } }).answerDoe f [])
  else .next (s.answerDoe f errorResponse)

/-- `IDE_INTEGRITY_FAILURE` (R464). -/
def execIdeIntegrityFailure (f : Nat) (s : State) : Out :=
  let x := s.slice f
  if f < 64 ∧ x.trust.ide = 1 then
    let s1 := s.setSlice f { x with trust := { x.trust with ide := 2 } }
    .next (if f = 0 then s1.recEvent 0x200 0x0A 0x01 0 0 (x.tdi.toNat * 64) else s1.toError f)
  else .next s

/-- `HOST_READ_TIMEOUT` (R463): the completion of the next read of the address does not arrive in time. -/
def execHostReadTimeout (addr : Nat) (s : State) : Out := .next { s with paths := { s.paths with hostLate := addr :: s.paths.hostLate } }

/-! ## The Vorif link (R465, R466) -/

/-- A step of the CRC of a flit (R465): the most significant bit of each byte first (log entry 49). -/
def crcStep (r : BitVec 64) (b : Byte) : BitVec 64 :=
  (List.range 8).foldl (fun q _ => if q.getLsbD 63 then q <<< 1 ^^^ 0x42F0E1EBA9EA3693#64 else q <<< 1) (r ^^^ (b.setWidth 64 <<< 56))

/-- The CRC-64 of a flit's bytes 0 to 247 (R465). -/
def flitCrc (bs : List Byte) : BitVec 64 := bs.foldl crcStep (BitVec.allOnes 64)

/-- A flit of a type with its numbers and payload, as it is sent (R465). -/
def mkFlit (seq : BitVec 12) (kind : Nat) (ack : BitVec 12) (payload : List Byte) : List Byte :=
  let b := natLe 2 (seq.toNat + kind * 2 ^ 12) ++ natLe 2 ack.toNat ++ payload
  b ++ natLe 8 (flitCrc b).toNat

/-- A flit is whole, of a type that is not reserved, and passes its CRC (R465). -/
def flitGood (flit : List Byte) : Bool :=
  flit.length == 256 && decide (fld flit 0 2 / 2 ^ 12 < 3) && fld flit 248 8 == (flitCrc (flit.take 248)).toNat

/-- How far a number lies ahead of another modulo 4,096. -/
def ahead (a b : BitVec 12) : Nat := (a - b).toNat

/-- The number of the oldest flit that waits for its acknowledgement. -/
def Port.oldest (p : Port) : BitVec 12 := p.tx - BitVec.ofNat 12 p.buffer.length

/-- An acknowledgement frees the flits up to the one it names (R465). -/
def Port.freed (p : Port) (ack : BitVec 12) : Port :=
  let n := ahead ack p.oldest + 1
  if n ≤ p.buffer.length then { p with buffer := p.buffer.drop n, replays := 0 } else p

/-- A flit comes in at a port (R465): one that is not good, or not the next in sequence, is discarded. -/
def Port.receive (p : Port) (flit : List Byte) : Port :=
  if !p.up || !flitGood flit || decide (fld flit 0 2 % 2 ^ 12 ≠ p.rx.toNat) then p
  else { p.freed (BitVec.ofNat 12 (fld flit 2 2)) with rx := p.rx + 1#12 }

/-- The port sends its next flit, which stays in the replay buffer; there is room for 2,048. -/
def Port.transmit (p : Port) (kind : Nat) (payload : List Byte) : Port :=
  if p.up && decide (p.buffer.length < 2048) then
    { p with tx := p.tx + 1#12, buffer := p.buffer ++ [mkFlit p.tx kind (p.rx - 1#12) payload] }
  else p

/-- The port sends the flits of its replay buffer again; when it has sent one 16 times again it goes down. -/
def Port.replay (p : Port) : Port :=
  if !p.up || p.buffer.isEmpty then p
  else if 16 ≤ p.replays + 1 then { p with up := false, replays := p.replays + 1, retrain := true }
  else { p with replays := p.replays + 1 }

/-- A port of the part changed. -/
def State.onPort (s : State) (i : Nat) (f : Port → Port) : State := match (s.pkg.ports[i]? : Option Port) with
  | none => s
  | some p => { s with pkg := { s.pkg with ports := s.pkg.ports.set i (f p) } }

/-- The bytes of a flit from its first fields and the rest, payload and CRC (R465). -/
def flitBytes (seq : BitVec 12) (kind : BitVec 4) (ack : BitVec 16) (rest : List Byte) : List Byte :=
  natLe 2 (seq.toNat + kind.toNat * 2 ^ 12) ++ natLe 2 ack.toNat ++ rest

/-- `FLIT_RECEIVED` (R465). -/
def execFlitReceived (port : Nat) (seq : BitVec 12) (kind : BitVec 4) (ack : BitVec 16) (rest : List Byte) (s : State) : Out :=
  .next (s.onPort port fun p => p.receive (flitBytes seq kind ack rest))

/-- The other direction of a port (R465): a flit whose type and payload are free is sent. -/
def State.sendFlit (s : State) (port : Nat) : State :=
  let (n, t) := s.choose
  t.onPort port fun p => p.transmit (n % 3) ((List.range 244).map (Config.freeByte n))

/-! ## Remote requests (R467 to R472) -/

/-- A packet of a participant under an epoch is accepted (R470 to R472). -/
def Enclave.accepts (e : Enclave) (src : Nat) (epoch : BitVec 8) : Bool :=
  decide (src < e.n) && !e.revoked.contains src && (epoch == e.epoch || (e.grace && epoch + 1#8 == e.epoch))

/-- The key of the direction from a device to another (R470). -/
def Enclave.linkKey (e : Enclave) (a b : Nat) (epoch : BitVec 8) : BitVec 128 :=
  Config.sm2Kdf 128 (natLe 16 e.secret.toNat ++ [0x44#8, 0x54#8, 0x39#8, 0x4C#8, 0x49#8, 0x4E#8, 0x4B#8] ++ natLe 2 a ++ natLe 2 b ++ natLe 1 epoch.toNat)

/-- An operation's byte in the header (log entry 49). -/
def linkCode : LinkOp → Nat
  | .read => 0
  | .write => 1
  | .atomic y => 16 + y.toNat

/-- The 16-byte header of a packet (R470; log entry 49): source and destination device, enclave slot, epoch, operation, length, and what the
request carries beside its data, the issuing participant and the IA (R467). -/
def linkHeader (p : LinkPacket) : List Byte :=
  natLe 2 p.src ++ natLe 2 p.dst ++ natLe 1 p.slot ++ natLe 1 p.epoch.toNat ++ natLe 1 (linkCode p.op) ++ natLe 2 p.size ++ natLe 1 p.part ++ natLe 6 p.ia.toNat

/-- The nonce of a packet (R470). -/
def linkNonce (p : LinkPacket) : List Byte := natLe 2 p.src ++ natLe 1 p.slot ++ natLe 1 p.epoch.toNat ++ natLe 8 p.counter.toNat

/-- A packet is the seal of its request under the key of its direction (R470): its cipher text and tag are those of SM4-GCM. -/
def Enclave.opens (e : Enclave) (p : LinkPacket) : Bool :=
  p.sealed == (List.range (p.data.length + 16)).map (Config.sm4Gcm (e.linkKey p.src p.dst p.epoch) (linkNonce p) (linkHeader p) p.data)

/-- The data that a request carries (log entry 49): none of a read, the bytes of a write, the operand of an atomic of 4 or 8 bytes and, for
`cas`, the value after it. -/
def linkFits (p : LinkPacket) : Bool :=
  decide (1 ≤ p.size) && decide (p.size ≤ 256) && decide (p.ia.toNat % 4096 + p.size ≤ 4096) && (match p.op with
    | .read => p.data.isEmpty
    | .write => p.data.length == p.size
    | .atomic y => (p.size == 4 || p.size == 8) && p.ia.toNat % p.size == 0 && p.data.length == (if y = 9#4 then 2 * p.size else p.size))

/-- What an operation asks of a page. -/
def linkAcc : LinkOp → Acc
  | .read => .load
  | .write => .store
  | .atomic _ => .atomic

/-- The place that a remote request names (R467). -/
def State.remotePlace (s : State) (p : LinkPacket) : Option Loc := (s.enclave p.slot).bind fun e => s.enclaveLoc e p.ia.toNat (linkAcc p.op)

/-- The holder of a request that came over the link. -/
def linkHolder (p : LinkPacket) : Holder := ⟨2 ^ 33, [p.src + 2 ^ 16 * (p.slot + 2 ^ 8 * (p.epoch.toNat + 2 ^ 8 * p.counter.toNat))]⟩

/-- The requests to a base die that a remote request comes to. -/
def State.remoteReqs (s : State) (p : LinkPacket) : List (Nat × Nat × Bool) := match s.remotePlace p with
  | some (.dram f a) => (blockCuts p.ia.toNat p.size).map fun q => (f, a + (q.1 - p.ia.toNat), decide (p.op ≠ .read))
  | _ => []

/-- A request that arrives over the link waits at the base die: in a slot, or at a bank that an instance holds (R287, R422). -/
def State.remoteWaits (s : State) (p : LinkPacket) : Bool := (s.remoteReqs p).any fun q => s.accessHolds (linkHolder p) q.1 q.2.1 !q.2.2

/-- A request of the link enters the list of the bank that holds it. -/
def State.remoteHold (s : State) (p : LinkPacket) : State := s.holdReqs (linkHolder p) (s.remoteReqs p)

/-- An answer to a packet goes out, and is counted (R470). -/
def State.replyTo (s : State) (e : Enclave) (p : LinkPacket) (status : BitVec 8) (data : List (Byte × Bool)) : State :=
  let t := s.setEnclave (e.count s.pkg.device p.src)
  { t with pkg := { t.pkg with replies := t.pkg.replies ++ [⟨p.slot, p.src, status, data⟩] } }

/-- A remote request's accesses are served at their banks, and poisoned blocks that it reads are counted (R214, R287). -/
def State.remoteServe (s : State) (p : LinkPacket) : State :=
  (s.remoteReqs p).foldl (fun u q =>
    let v := u.bankServe q.1 q.2.1 q.2.2
    if decide (p.op ≠ .write) && spaPoison v q.1 q.2.1 then v.noteBad 0#12 q.1 (q.2.1 / 16 * 16) else v) (s.unhold (linkHolder p))

/-- A remote request performed at its place under the participant's slice (R467): what it answers with, and the state after. An atomic reads the
newest value, and a poisoned location is not written (R253). -/
def State.remotePerform (s : State) (p : LinkPacket) (l : Loc) : List (Byte × Bool) × State :=
  let x : AgentId := .device p.src
  let ia := p.ia.toNat
  match p.op with
  | .read =>
    let r := (blockCuts ia p.size).foldl (fun (acc : List (Byte × Bool) × State) q =>
      let (bs, bad, t) := acc.2.readLoc [x] (l.add (q.1 - ia)) q.1 q.2
      (acc.1 ++ bs.map fun b => (b, bad), t)) ([], s)
    r
  | .write => ([], s.writeBy {} ((blockCuts ia p.size).map fun q => (x, l.add (q.1 - ia), (p.data.drop (q.1 - ia)).take q.2)))
  | .atomic y =>
    let (bs, bad, s1) := s.readLoc [] l ia p.size
    let s2 := s1.sawNow x l p.size
    let old := bs.map fun b => (b, bad)
    if bad then (old, s2)
    else match atomVal y.toNat (8 * p.size) (leNat bs) (leNat (p.data.take p.size)) (leNat (p.data.drop p.size)) with
      | none => (old, s2)
      | some v => (old, s2.writeBy { atomic := true } [(x, l, natLe p.size v)])

/-- A request over the link (R467, R470 to R472): a packet that is not for this device, does not open or is not accepted is dropped and counted. A
request for a revoked participant is answered with status 0x80; otherwise it is served at its place, and where there is none a read gets
poisoned words and a write or an atomic no answer. -/
def State.remoteRequest (s : State) (p : LinkPacket) : Out :=
  let drop : State := { s with pkg := { s.pkg with dropped := s.pkg.dropped + 1 } }
  match s.enclave p.slot with
  | none => .next drop
  | some e =>
    if p.dst ≠ s.pkg.device ∨ ¬ e.accepts p.part p.epoch = true ∨ ¬ e.opens p = true ∨ ¬ linkFits p = true then .next drop
    else if e.revoked.contains (p.ia.toNat / 2 ^ 42) then .next (s.replyTo e p 0x80#8 [])
    else match s.remotePlace p with
      | none => .next (if p.op = .read then s.replyTo e p 0#8 ((List.range p.size).map fun i => (Config.freeByte s.free i, true)) else s)
      | some l =>
        let (data, t) := (s.remoteServe p).remotePerform p l
        .next (t.replyTo e p 0#8 data)

/-- `REMOTE_ACCESS` (R467, R470 to R472). -/
def execRemoteAccess (slot src : Nat) (epoch : BitVec 8) (ia : BitVec 48) (op : LinkOp) (body : LinkBody) (s : State) : Out :=
  s.remoteRequest ⟨body, slot, src, epoch, ia, op⟩

/-- `REMOTE_TIMEOUT` (R468): a store or atomic that was never acknowledged counts as a consumption by its lanes. What a read
loads was settled when it was performed. -/
def execRemoteTimeout (gctx : Nat) (lanes : BitVec 64) (write : Bool) (s : State) : Out := match s.group gctx with
  | none => .next s
  | some G =>
    let late := laneMask 64 fun l => write && lanes.getLsbD l && s.paths.unacked.contains (s.laneAgent G l).id
    if late = 0#64 then .next s
    else
      let ids := (lanesOf G late).map fun l => (s.laneAgent G l).id
      let t : State := { s with paths := { s.paths with unacked := s.paths.unacked.filter fun x => !ids.contains x } }
      let (a, u) := t.tellConsumption G
      match G.team, G.seqs.filter fun q => (lanesOf G late).any fun l => G.activeIn q l with
      | some k, _ => .next (u.contain k a)
      | none, [] => .next u
      | none, q :: qs => .next (u.consumeTrap G ⟨false, gctx, (q :: qs).map (·.id), q.pc, q.pc, 0#32, none, none, 0⟩ late)

/-- A store or atomic of a lane is acknowledged (R468). -/
def State.acknowledged (s : State) (k : Nat) : State := { s with paths := { s.paths with unacked := s.paths.unacked.eraseIdx k } }

/-! ## Enclaves (R469 to R472) -/

/-- The digest of a function's owner key (R454). -/
def Slice.ownDig (x : Slice) : BitVec 256 := Config.sm3 (natLe 64 x.trust.owner.toNat)

/-- `ENCJOIN` (R469). -/
def execEncjoin (f part n q : Nat) (enclave : BitVec 64) (secret : BitVec 128) (digests : List (BitVec 256)) (s : State) : Out :=
  let x := s.slice f
  let fits := decide (2 ≤ n) && decide (n ≤ 64) && decide (n / 2 < q) && decide (q ≤ n) && decide (part < n) && digests.length == n
  if !s.bound f ∨ x.tdi ≠ 2#2 ∨ ¬ fits = true ∨ digests.getD part 0#256 ≠ x.ownDig then .next (s.answer f errorResponse)
  else match s.pkg.enclaves.find? fun e => e.id == enclave with
    | some e =>
      if e.secret ≠ secret ∨ (e.members.any fun m => m.1 == part) = true then .next (s.answer f errorResponse)
      else .next ((s.setEnclave { e with members := e.members ++ [(part, f)], epoch := 0#8 }).answer f [])
    | none => match (List.range 8).find? fun i => (s.enclave i).isNone with
      | none => .next (s.answer f errorResponse)
      | some i =>
        let e : Enclave := ⟨i, enclave, secret, n, q, digests, [(part, f)], [], 0#8, false, []⟩
        .next (({ s with pkg := { s.pkg with enclaves := s.pkg.enclaves ++ [e] } } : State).answer f [])

/-- `ENCLAVE_REKEY` (R470). -/
def execEnclaveRekey (slot : Nat) (s : State) : Out := match s.enclave slot with
  | none => .next s
  | some e => .next (s.setEnclave e.rekey)

/-- `EPOCH_GRACE_END` (R472). -/
def execEpochGraceEnd (slot : Nat) (s : State) : Out := match s.enclave slot with
  | none => .next s
  | some e => .next (s.setEnclave { e with grace := false })

/-! ## Boot (R474, R475) -/

/-- extend (R474). -/
def extend (m d : BitVec 256) : BitVec 256 := Config.sm3 (natLe 32 m.toNat ++ natLe 32 d.toNat)

/-- A signature over a digest (R474). -/
def digestOk (key : BitVec 512) (d : BitVec 256) (sig : BitVec 512) : Bool := Config.sm2Verify key (natLe 32 d.toNat) sig

/-- The images of the flash directory, in its order (R474; log entry 48). -/
inductive FlashImage where
  | firstStage | management | monitor | config
deriving DecidableEq, Repr

/-- An image's place in the directory. -/
def FlashImage.index : FlashImage → Nat
  | .firstStage => 0
  | .management => 1
  | .monitor => 2
  | .config => 3

/-- An image and its signature, as the directory at offset 0 of the flash lists them: 72 bytes an entry, offset, length and signature (R474; log
entry 48). The flash has 64 MiB (R473). -/
def flashImage (flash : Memory) (x : FlashImage) : List Byte × BitVec 512 :=
  let e := 72 * x.index
  let off := leNat (memRead flash e 4)
  let len := min (leNat (memRead flash (e + 4) 4)) (2 ^ 26 - off)
  (memRead flash off len, BitVec.ofNat 512 (leNat (memRead flash (e + 8) 64)))

/-- The vendor root public key, from the first-stage header (R474; log entry 48): its first 64 bytes. -/
def rootKey (img : List Byte) : BitVec 512 := BitVec.ofNat 512 (leNat (img.take 64))

/-- The health record (R313, R426; log entry 48): the weight buffers' disabled lanes, the retired banks' granules, the pin rates, the disabled
sub-channels and the banks to be retired. -/
def State.healthRecord (s : State) : List Byte :=
  natLe 8 s.mx.health.toNat ++ natLe 2 s.pkg.retired.length ++ s.pkg.retired.flatMap (natLe 1 ·) ++ s.cal.rates.flatMap (natLe 1 ·)
  ++ natLe 2 s.cal.disabled.length ++ s.cal.disabled.flatMap (natLe 2 ·) ++ s.cal.worn.flatMap fun b => natLe 1 b.1 ++ natLe 2 b.2

/-- The first stage's loop (R474): the blocks it has measured so far, the measurement register, and whether every image passed. -/
def firstStage (key : BitVec 512) : List (List Byte × BitVec 512) → List (BitVec 256) → BitVec 256 → List (BitVec 256) × BitVec 256 × Bool
  | [], meas, m => (meas, m, true)
  | (img, sig) :: rest, meas, m =>
    let d := Config.sm3 img
    if digestOk key d sig then firstStage key rest (meas ++ [d]) (extend m d) else (meas ++ [d], m, false)

/-- Boot in recovery: the failing image's digest in its block, every later block zero (R475). -/
def Boot.recover (meas : List (BitVec 256)) (m : BitVec 256) : Boot := ⟨meas ++ List.replicate (6 - meas.length) 0#256, m, true, false⟩

/-- The ROM and the first stage (R474), from the flash and the health record. -/
def bootOf (flash : Memory) (health : List Byte) : Boot :=
  let d1 := Config.sm3 Config.rom
  let first := flashImage flash .firstStage
  let key := rootKey first.1
  let d2 := Config.sm3 first.1
  if Config.sm3 (natLe 64 key.toNat) ≠ Config.romRootHash ∨ ¬ digestOk key d2 first.2 = true then Boot.recover [d1, d2] 0#256
  else
    let r := firstStage key ([FlashImage.management, .monitor, .config].map (flashImage flash)) [d1, d2] (extend (extend 0#256 d1) d2)
    if r.2.2 then
      let d6 := Config.sm3 health
      ⟨r.1 ++ [d6], extend r.2.1 d6, false, true⟩
    else Boot.recover r.1 r.2.1

/-- What a cold reset leaves of the calendar (R418, R426): its cold resets count one more, and the degraded state, the pin
rates, disabled sub-channels and worn banks, is reapplied from the health record. -/
def Calendar.cold (c : Calendar) : Calendar := { Calendar.reset with resets := c.resets + 1#32, rates := c.rates, disabled := c.disabled, worn := c.worn }

/-- The grids that saved contexts belong to. -/
def State.savedGrids (s : State) : List Grid := s.grids.filter fun g => s.saved.any fun i => i.ctx.teams.any fun T => T.grid == g.id

/-- A device number (R466). -/
def deviceNo (n : Nat) : Nat := n % 16384

/-- `COLD_RESET` (R8, R27, R313, R413, R426, R474): the part in its reset state, with what flash, the health record, the host and the sealed
images outside it keep; then it boots from the flash. `heat` is what the sensors of the compute dies read as the part comes up (R476); a die
of which it says nothing reads as before. -/
def execColdReset (heat : List Nat) (s : State) : Out :=
  let b := bootOf s.pkg.firmware s.healthRecord
  let config := (flashImage s.pkg.firmware .config).1
  let mx := { Matrix.empty with health := BitVec.ofNat 64 (s.mx.health.toNat % 2 ^ 48), healthLoaded := b.up }
  let pkg := { Package.reset with
    retired := s.pkg.retired
    replace := s.pkg.replace
    firmware := s.pkg.firmware
    device := if b.up then deviceNo (Config.recordDevice config) else 0
    routes := if b.up then (Config.recordRoutes config).map fun r => (deviceNo r.1, r.2) else []
    boot := b
    identity := b.up }
  .next (({ State.reset with
    coreNo := s.coreNo
    grids := s.savedGrids
    nextGrid := s.nextGrid
    nextUid := s.nextUid
    images := s.saved
    mx := mx
    cal := s.cal.cold
    pkg := pkg
    host := s.host
    fc := { State.reset.fc with seq := s.fc.seq }
    flash := s.flash
    messages := s.messages
    inputs := s.inputs
    free := s.free } : State).readDies ((List.range 4).map fun d => heat.getD d (s.pkg.dieTemps.getD d 25)))

/-- `FLASH_UPDATE` (R475): in recovery an image of the flash with the vendor's signature is accepted, and the next cold reset boots from it. -/
def execFlashUpdate (image : List Byte) (sig : BitVec 512) (s : State) : Out :=
  if s.pkg.boot.recovery && Config.sm2Verify Config.vendorKey image sig then
    .next { s with pkg := { s.pkg with firmware := memWrite s.pkg.firmware 0 (image.take (2 ^ 26)) } }
  else .next s

/-! ## The other resets (R8, R405, R413, R444, R461) -/

/-- A reset that interrupts BUILDING or FLUSHING: the capsule is built again from the retention SRAM and reaches flash before any
request is served (R413). -/
def State.rebuildCapsule (s : State) : State :=
  let c := s.fc
  if decide (c.st ≠ .building) && decide (c.st ≠ .flushing) then s
  else if c.skip then s.afterFlush
  else
    let (bytes, s1) := s.buildCapsule (c.copy.getD [])
    match execCapsuleFlush { s1 with fc := { c with st := .flushing, capsule := bytes } } with
    | .next t => t
    | _ => s1

/-- A stopped part runs again after a reset, with its rings thawed (R405). -/
def State.restart (s : State) : State :=
  if s.fc.st = .stopped then ({ s with fc := { s.fc with st := .idle }, device := false } : State).thawAll else s

/-- A function's MSI-X and IDE state after a reset of the function, by the PCIe rules (R444, R461; log entry 29): every vector masked, none
pending, MSI-X not enabled, the stream without keys. -/
def Slice.functionReset (x : Slice) : Slice :=
  { x with
    msix := x.msix.map fun e => e ||| 1#128 <<< 96
    pba := 0#64
    msixControl := 63#16
    trust := { x.trust with ide := 0 } }

/-- A conventional reset of the port (R461; log entry 29): the functions and the configuration space of function 0; everything else stays as it
is (R8). -/
def State.portReset (s : State) : State :=
  let t := s.rebuildCapsule.restart
  { t with
    slices := t.slices.map Slice.functionReset
    pkg := { t.pkg with linkSpeed := 0, linkWidth := 0, sriov := SrIov.reset, bar0 := Package.reset.bar0, bar2 := Package.reset.bar2 } }

/-- `WARM_RESET` (R413, R461). -/
def execWarmReset (s : State) : Out := .next s.portReset

/-- `HOT_RESET` (R413, R461). -/
def execHotReset (s : State) : Out := .next s.portReset

/-- `FLR` (R413, R461). -/
def execFunctionReset (f : Nat) (s : State) : Out := .next (if f < 64 then s.setSlice f (s.slice f).functionReset else s)

/-! ## Power (R477) -/

/-- `POWER_GATING` (R477): issue slots are left empty from now on, or no longer. -/
def execPowerGating (gated : Bool) (s : State) : Out := .next { s with pkg := { s.pkg with gated := gated } }

end Sys2Proof.Machine
end

