-- ==== Sys2Proof/Machine/Dispatch.lean ====
section
/-! DEFINITION. The dispatch: one arm for each constructor of `Instr`, each a direct call of its meaning. -/
namespace Sys2Proof.Machine

/-- The meaning of an instruction in a state. -/
def exec (i : Instr) (s : State) : Host.Outcome State Fault Refusal :=
  match i with
  | .pfx k z r c x => Sys2Proof.Machine.execPfx k z r c x s
  | .limm imm => Sys2Proof.Machine.execLimm imm s
  | .iadd n d a b => Sys2Proof.Machine.execIadd n d a b s
  | .isub n d a b => Sys2Proof.Machine.execIsub n d a b s
  | .iadds n d a b => Sys2Proof.Machine.execIadds n d a b s
  | .isubs n d a b => Sys2Proof.Machine.execIsubs n d a b s
  | .iaddns n d a b => Sys2Proof.Machine.execIaddns n d a b s
  | .isubns n d a b => Sys2Proof.Machine.execIsubns n d a b s
  | .iadd64 n d a b => Sys2Proof.Machine.execIadd64 n d a b s
  | .isub64 n d a b => Sys2Proof.Machine.execIsub64 n d a b s
  | .imul n d a b => Sys2Proof.Machine.execImul n d a b s
  | .imulh n d a b => Sys2Proof.Machine.execImulh n d a b s
  | .imulhn n d a b => Sys2Proof.Machine.execImulhn n d a b s
  | .imad n d a b => Sys2Proof.Machine.execImad n d a b s
  | .idiv n d a b => Sys2Proof.Machine.execIdiv n d a b s
  | .idivn n d a b => Sys2Proof.Machine.execIdivn n d a b s
  | .irem n d a b => Sys2Proof.Machine.execIrem n d a b s
  | .iremn n d a b => Sys2Proof.Machine.execIremn n d a b s
  | .imin n d a b => Sys2Proof.Machine.execImin n d a b s
  | .imax n d a b => Sys2Proof.Machine.execImax n d a b s
  | .iminn n d a b => Sys2Proof.Machine.execIminn n d a b s
  | .imaxn n d a b => Sys2Proof.Machine.execImaxn n d a b s
  | .iabs n d a => Sys2Proof.Machine.execIabs n d a s
  | .ineg n d a => Sys2Proof.Machine.execIneg n d a s
  | .andW n d a b => Sys2Proof.Machine.execAndW n d a b s
  | .orW n d a b => Sys2Proof.Machine.execOrW n d a b s
  | .xorW n d a b => Sys2Proof.Machine.execXorW n d a b s
  | .andn n d a b => Sys2Proof.Machine.execAndn n d a b s
  | .orn n d a b => Sys2Proof.Machine.execOrn n d a b s
  | .xnor n d a b => Sys2Proof.Machine.execXnor n d a b s
  | .mov n d a => Sys2Proof.Machine.execMov n d a s
  | .shl n d a b => Sys2Proof.Machine.execShl n d a b s
  | .shr n d a b => Sys2Proof.Machine.execShr n d a b s
  | .sar n d a b => Sys2Proof.Machine.execSar n d a b s
  | .rol n d a b => Sys2Proof.Machine.execRol n d a b s
  | .ror n d a b => Sys2Proof.Machine.execRor n d a b s
  | .fshl n d a b => Sys2Proof.Machine.execFshl n d a b s
  | .fshr n d a b => Sys2Proof.Machine.execFshr n d a b s
  | .popc n d a => Sys2Proof.Machine.execPopc n d a s
  | .clz n d a => Sys2Proof.Machine.execClz n d a s
  | .ctz n d a => Sys2Proof.Machine.execCtz n d a s
  | .brev n d a => Sys2Proof.Machine.execBrev n d a s
  | .lea64 n sp_ d a b => Sys2Proof.Machine.execLea64 n sp_ d a b s
  | .addi d a imm => Sys2Proof.Machine.execAddi d a imm s
  | .andi d a imm => Sys2Proof.Machine.execAndi d a imm s
  | .ori d a imm => Sys2Proof.Machine.execOri d a imm s
  | .xori d a imm => Sys2Proof.Machine.execXori d a imm s
  | .shli d a c => Sys2Proof.Machine.execShli d a c s
  | .shri d a c => Sys2Proof.Machine.execShri d a c s
  | .sari d a c => Sys2Proof.Machine.execSari d a c s
  | .movi d imm => Sys2Proof.Machine.execMovi d imm s
  | .addi64 d a imm => Sys2Proof.Machine.execAddi64 d a imm s
  | .lea64i d a x sp_ => Sys2Proof.Machine.execLea64i d a x sp_ s
  | .icmp f k a b => Sys2Proof.Machine.execIcmp f k a b s
  | .icmpN f k a b => Sys2Proof.Machine.execIcmpN f k a b s
  | .icmpv n f d a b => Sys2Proof.Machine.execIcmpv n f d a b s
  | .icmpvN n f d a b => Sys2Proof.Machine.execIcmpvN n f d a b s
  | .fcmp f k a b => Sys2Proof.Machine.execFcmp f k a b s
  | .fcmpv n f d a b => Sys2Proof.Machine.execFcmpv n f d a b s
  | .sel n d a b => Sys2Proof.Machine.execSel n d a b s
  | .prmb n d a b => Sys2Proof.Machine.execPrmb n d a b s
  | .fclass n d a => Sys2Proof.Machine.execFclass n d a s
  | .bfx n d a b => Sys2Proof.Machine.execBfx n d a b s
  | .bfxs n d a b => Sys2Proof.Machine.execBfxs n d a b s
  | .bfi n d a b => Sys2Proof.Machine.execBfi n d a b s
  | .fadd n d a b => Sys2Proof.Machine.execFadd n d a b s
  | .fsub n d a b => Sys2Proof.Machine.execFsub n d a b s
  | .fmul n d a b => Sys2Proof.Machine.execFmul n d a b s
  | .ffma n d a b => Sys2Proof.Machine.execFfma n d a b s
  | .fmac n d a b => Sys2Proof.Machine.execFmac n d a b s
  | .fmin n d a b => Sys2Proof.Machine.execFmin n d a b s
  | .fmax n d a b => Sys2Proof.Machine.execFmax n d a b s
  | .fcpysgn n d a b => Sys2Proof.Machine.execFcpysgn n d a b s
  | .fabs n d a => Sys2Proof.Machine.execFabs n d a s
  | .fneg n d a => Sys2Proof.Machine.execFneg n d a s
  | .frnd n d a => Sys2Proof.Machine.execFrnd n d a s
  | .fdiv n d a b => Sys2Proof.Machine.execFdiv n d a b s
  | .fsqrt n d a => Sys2Proof.Machine.execFsqrt n d a s
  | .frcp n d a => Sys2Proof.Machine.execFrcp n d a s
  | .frsq n d a => Sys2Proof.Machine.execFrsq n d a s
  | .fexp2 n d a => Sys2Proof.Machine.execFexp2 n d a s
  | .flog2 n d a => Sys2Proof.Machine.execFlog2 n d a s
  | .fsin n d a => Sys2Proof.Machine.execFsin n d a s
  | .fcos n d a => Sys2Proof.Machine.execFcos n d a s
  | .ftanh n d a => Sys2Proof.Machine.execFtanh n d a s
  | .hadd2 n d a b => Sys2Proof.Machine.execHadd2 n d a b s
  | .hmul2 n d a b => Sys2Proof.Machine.execHmul2 n d a b s
  | .hfma2 n d a b => Sys2Proof.Machine.execHfma2 n d a b s
  | .badd2 n d a b => Sys2Proof.Machine.execBadd2 n d a b s
  | .bmul2 n d a b => Sys2Proof.Machine.execBmul2 n d a b s
  | .bfma2 n d a b => Sys2Proof.Machine.execBfma2 n d a b s
  | .f2i n u d a => Sys2Proof.Machine.execF2i n u d a s
  | .i2f n u d a => Sys2Proof.Machine.execI2f n u d a s
  | .fcvtF16F32 n d a b => Sys2Proof.Machine.execFcvtF16F32 n d a b s
  | .fcvtF32F16 n d a => Sys2Proof.Machine.execFcvtF32F16 n d a s
  | .fcvtBf16F32 n d a b => Sys2Proof.Machine.execFcvtBf16F32 n d a b s
  | .fcvtF32Bf16 n d a => Sys2Proof.Machine.execFcvtF32Bf16 n d a s
  | .fcvtE4m3F32 n d a => Sys2Proof.Machine.execFcvtE4m3F32 n d a s
  | .fcvtF32E4m3 n d a => Sys2Proof.Machine.execFcvtF32E4m3 n d a s
  | .fcvtE5m2F32 n d a => Sys2Proof.Machine.execFcvtE5m2F32 n d a s
  | .fcvtF32E5m2 n d a => Sys2Proof.Machine.execFcvtF32E5m2 n d a s
  | .fcvtE2m1F32 n d a => Sys2Proof.Machine.execFcvtE2m1F32 n d a s
  | .fcvtF32E2m1 n d a => Sys2Proof.Machine.execFcvtF32E2m1 n d a s
  | .fcvtBf16F16 n d a => Sys2Proof.Machine.execFcvtBf16F16 n d a s
  | .fcvtF16Bf16 n d a => Sys2Proof.Machine.execFcvtF16Bf16 n d a s
  | .cvtdlF32 n d a => Sys2Proof.Machine.execCvtdlF32 n d a s
  | .cvtdlDl8 n d a b => Sys2Proof.Machine.execCvtdlDl8 n d a b s
  | .mxq n f d a => Sys2Proof.Machine.execMxq n f d a s
  | .mxdq n f d a b => Sys2Proof.Machine.execMxdq n f d a b s
  | .dot4e n e d a b => Sys2Proof.Machine.execDot4e n e d a b s
  | .dot4i n d a b => Sys2Proof.Machine.execDot4i n d a b s
  | .dot8q n d a b => Sys2Proof.Machine.execDot8q n d a b s
  | .dot2b n d a b => Sys2Proof.Machine.execDot2b n d a b s
  | .mxdot n e d a b => Sys2Proof.Machine.execMxdot n e d a b s
  | .mxi8dot n d a b => Sys2Proof.Machine.execMxi8dot n d a b s
  | .bra o => Sys2Proof.Machine.execBra o s
  | .brc c k o => Sys2Proof.Machine.execBrc c k o s
  | .pjn o => Sys2Proof.Machine.execPjn o s
  | .call a o => Sys2Proof.Machine.execCall a o s
  | .brx a => Sys2Proof.Machine.execBrx a s
  | .callx d a => Sys2Proof.Machine.execCallx d a s
  | .ret a => Sys2Proof.Machine.execRet a s
  | .join => Sys2Proof.Machine.execJoin s
  | .exitThread => Sys2Proof.Machine.execExitThread s
  | .yield => Sys2Proof.Machine.execYield s
  | .nop => Sys2Proof.Machine.execNop s
  | .reform a => Sys2Proof.Machine.execReform a s
  | .trap c => Sys2Proof.Machine.execTrap c s
  | .brk c => Sys2Proof.Machine.execBrk c s
  | .vote f k a => Sys2Proof.Machine.execVote f k a s
  | .matchLanes w d a k => Sys2Proof.Machine.execMatchLanes w d a k s
  | .shfl f d a b => Sys2Proof.Machine.execShfl f d a b s
  | .bcast d a b => Sys2Proof.Machine.execBcast d a b s
  | .red f d a => Sys2Proof.Machine.execRed f d a s
  | .fred f d a => Sys2Proof.Machine.execFred f d a s
  | .fscan f d a => Sys2Proof.Machine.execFscan f d a s
  | .scan f d a => Sys2Proof.Machine.execScan f d a s
  | .rgt f d => Sys2Proof.Machine.execRgt f d s
  | .kop f d a b => Sys2Proof.Machine.execKop f d a b s
  | .kopNot d a => Sys2Proof.Machine.execKopNot d a s
  | .kmovTor d a => Sys2Proof.Machine.execKmovTor d a s
  | .kmovTok d a => Sys2Proof.Machine.execKmovTok d a s
  | .bar c imm => Sys2Proof.Machine.execBar c imm s
  | .bara c imm => Sys2Proof.Machine.execBara c imm s
  | .barw a imm => Sys2Proof.Machine.execBarw a imm s
  | .elect k => Sys2Proof.Machine.execElect k s
  | .winb b => Sys2Proof.Machine.execWinb b s
  | .trig => Sys2Proof.Machine.execTrig s
  | .rclaim n => Sys2Proof.Machine.execRclaim n s
  | .rrel n => Sys2Proof.Machine.execRrel n s
  | .send c d a r => Sys2Proof.Machine.execSend c d a r s
  | .sendw c a r => Sys2Proof.Machine.execSendw c a r s
  | .recv c d => Sys2Proof.Machine.execRecv c d s
  | .chq c d q => Sys2Proof.Machine.execChq c d q s
  | .ldB sp_ p d a o => Sys2Proof.Machine.execLdB sp_ p d a o s
  | .ldH sp_ p d a o => Sys2Proof.Machine.execLdH sp_ p d a o s
  | .ldsB sp_ p d a o => Sys2Proof.Machine.execLdsB sp_ p d a o s
  | .ldsH sp_ p d a o => Sys2Proof.Machine.execLdsH sp_ p d a o s
  | .ldW sp_ p d a o => Sys2Proof.Machine.execLdW sp_ p d a o s
  | .ldD sp_ p d a o => Sys2Proof.Machine.execLdD sp_ p d a o s
  | .ldQ sp_ p d a o => Sys2Proof.Machine.execLdQ sp_ p d a o s
  | .stB sp_ p d a o => Sys2Proof.Machine.execStB sp_ p d a o s
  | .stH sp_ p d a o => Sys2Proof.Machine.execStH sp_ p d a o s
  | .stW sp_ p d a o => Sys2Proof.Machine.execStW sp_ p d a o s
  | .stD sp_ p d a o => Sys2Proof.Machine.execStD sp_ p d a o s
  | .stQ sp_ p d a o => Sys2Proof.Machine.execStQ sp_ p d a o s
  | .atom sp_ r d a x y => Sys2Proof.Machine.execAtom sp_ r d a x y s
  | .atom64 sp_ r d a x y => Sys2Proof.Machine.execAtom64 sp_ r d a x y s
  | .atr sp_ r d a x y => Sys2Proof.Machine.execAtr sp_ r d a x y s
  | .fence sp_ => Sys2Proof.Machine.execFence sp_ s
  | .fenceTl => Sys2Proof.Machine.execFenceTl s
  | .fenceOr => Sys2Proof.Machine.execFenceOr s
  | .cinv a l => Sys2Proof.Machine.execCinv a l s
  | .cwb a l => Sys2Proof.Machine.execCwb a l s
  | .icinv a l => Sys2Proof.Machine.execIcinv a l s
  | .pref sp_ p a o => Sys2Proof.Machine.execPref sp_ p a o s
  | .ldg sp_ p d a o => Sys2Proof.Machine.execLdg sp_ p d a o s
  | .tlw d a b => Sys2Proof.Machine.execTlw d a b s
  | .tlrd d a b => Sys2Proof.Machine.execTlrd d a b s
  | .tli a => Sys2Proof.Machine.execTli a s
  | .invt a b => Sys2Proof.Machine.execInvt a b s
  | .vprobe d a b => Sys2Proof.Machine.execVprobe d a b s
  | .bact sp_ r e p imm => Sys2Proof.Machine.execBact sp_ r e p imm s
  | .bpre sp_ => Sys2Proof.Machine.execBpre sp_ s
  | .browsh sp_ t => Sys2Proof.Machine.execBrowsh sp_ t s
  | .brcpy sp_ t => Sys2Proof.Machine.execBrcpy sp_ t s
  | .brdc sp_ c o => Sys2Proof.Machine.execBrdc sp_ c o s
  | .bwrc sp_ c o => Sys2Proof.Machine.execBwrc sp_ c o s
  | .bldt t x sp_ y => Sys2Proof.Machine.execBldt t x sp_ y s
  | .blut sp_ x t y => Sys2Proof.Machine.execBlut sp_ x t y s
  | .beadd d a b c v => Sys2Proof.Machine.execBeadd d a b c v s
  | .befma d a b c v p => Sys2Proof.Machine.execBefma d a b c v p s
  | .bescl d a c v p => Sys2Proof.Machine.execBescl d a c v p s
  | .bacc n o imm r z => Sys2Proof.Machine.execBacc n o imm r z s
  | .bloop e p c l => Sys2Proof.Machine.execBloop e p c l s
  | .byld => Sys2Proof.Machine.execByld s
  | .bend => Sys2Proof.Machine.execBend s
  | .macq a => Sys2Proof.Machine.execMacq a s
  | .mrel e sp_ => Sys2Proof.Machine.execMrel e sp_ s
  | .mswap => Sys2Proof.Machine.execMswap s
  | .mstat d sp_ => Sys2Proof.Machine.execMstat d sp_ s
  | .mlds a o => Sys2Proof.Machine.execMlds a o s
  | .mscl a => Sys2Proof.Machine.execMscl a s
  | .mexec f a => Sys2Proof.Machine.execMexec f a s
  | .macz sp_ => Sys2Proof.Machine.execMacz sp_ s
  | .macrd a k sp_ => Sys2Proof.Machine.execMacrd a k sp_ s
  | .macwr a k sp_ => Sys2Proof.Machine.execMacwr a k sp_ s
  | .tcopy a o => Sys2Proof.Machine.execTcopy a o s
  | .tcopyr a o => Sys2Proof.Machine.execTcopyr a o s
  | .bkrun a p sp_ => Sys2Proof.Machine.execBkrun a p sp_ s
  | .chtail a => Sys2Proof.Machine.execChtail a s
  | .chseq a => Sys2Proof.Machine.execChseq a s
  | .evpop a => Sys2Proof.Machine.execEvpop a s
  | .evwait a => Sys2Proof.Machine.execEvwait a s
  | .cbar a c => Sys2Proof.Machine.execCbar a c s
  | .mig a => Sys2Proof.Machine.execMig a s
  | .mret => Sys2Proof.Machine.execMret s
  | .crd a n => Sys2Proof.Machine.execCrd a n s
  | .cwr a n => Sys2Proof.Machine.execCwr a n s
  | .eret a x => Sys2Proof.Machine.execEret a x s
  | .tsetImm c => Sys2Proof.Machine.execTsetImm c s
  | .tsetReg a => Sys2Proof.Machine.execTsetReg a s
  | .evmark a k => Sys2Proof.Machine.execEvmark a k s
  | .mslot d w => Sys2Proof.Machine.execMslot d w s
  | .ctxsw => Sys2Proof.Machine.execCtxsw s
  | .dsrd a => Sys2Proof.Machine.execDsrd a s
  | .dswr a => Sys2Proof.Machine.execDswr a s
  | .flgrd a => Sys2Proof.Machine.execFlgrd a s
  | .flgclr m => Sys2Proof.Machine.execFlgclr m s
  | .capsFreeze a => Sys2Proof.Machine.execCapsFreeze a s
  | .capsEvent a => Sys2Proof.Machine.execCapsEvent a s
  | .replayCheck mismatch => Sys2Proof.Machine.execReplayCheck mismatch s
  | .teamRollback team => Sys2Proof.Machine.execTeamRollback team s
  | .claimGrant => Sys2Proof.Machine.execClaimGrant s
  | .claimDeadlock team => Sys2Proof.Machine.execClaimDeadlock team s
  | .binDrawAge bin => Sys2Proof.Machine.execBinDrawAge bin s
  | .timerTrap gctx => Sys2Proof.Machine.execTimerTrap gctx s
  | .framePost share => Sys2Proof.Machine.execFramePost share s
  | .handlerGroupStart share => Sys2Proof.Machine.execHandlerGroupStart share s
  | .channelWaitServed team ch => Sys2Proof.Machine.execChannelWaitServed team ch s
  | .readLaunchEntry f => Sys2Proof.Machine.execReadLaunchEntry f s
  | .placement f => Sys2Proof.Machine.execPlacement f s
  | .gdQpostWrite f count => Sys2Proof.Machine.execGdQpostWrite f count s
  | .hostQpostWrite f count => Sys2Proof.Machine.execHostQpostWrite f count s
  | .retryHead f => Sys2Proof.Machine.execRetryHead f s
  | .skipHead f => Sys2Proof.Machine.execSkipHead f s
  | .skipHeadTrigger f => Sys2Proof.Machine.execSkipHeadTrigger f s
  | .tsReformWrite value => Sys2Proof.Machine.execTsReformWrite value s
  | .registerWrite f reg value => Sys2Proof.Machine.execRegisterWrite f reg value s
  | .mmioWrite f off size value tee => Sys2Proof.Machine.execMmioWrite f off size value tee s
  | .contextSwap => Sys2Proof.Machine.execContextSwap s
  | .preemptionRequest => Sys2Proof.Machine.execPreemptionRequest s
  | .contextSpill => Sys2Proof.Machine.execContextSpill s
  | .contextLoad => Sys2Proof.Machine.execContextLoad s
  | .migrationArrival gctx => Sys2Proof.Machine.execMigrationArrival gctx s
  | .leaseHandoff => Sys2Proof.Machine.execLeaseHandoff s
  | .scanComplete => Sys2Proof.Machine.execScanComplete s
  | .clearComplete => Sys2Proof.Machine.execClearComplete s
  | .matrixOpStart upset => Sys2Proof.Machine.execMatrixOpStart upset s
  | .matrixOpComplete => Sys2Proof.Machine.execMatrixOpComplete s
  | .tileCopyStart op => Sys2Proof.Machine.execTileCopyStart op s
  | .tileCopyComplete op => Sys2Proof.Machine.execTileCopyComplete op s
  | .completionRecordPost pos => Sys2Proof.Machine.execCompletionRecordPost pos s
  | .runPrecheck run => Sys2Proof.Machine.execRunPrecheck run s
  | .bankAdmission stack bank => Sys2Proof.Machine.execBankAdmission stack bank s
  | .bankAccessServed stack bank row write => Sys2Proof.Machine.execBankAccessServed stack bank row write s
  | .runComplete run => Sys2Proof.Machine.execRunComplete run s
  | .copyEntry engine => Sys2Proof.Machine.execCopyEntry engine s
  | .copy2dEntry engine => Sys2Proof.Machine.execCopy2dEntry engine s
  | .fillEntry engine => Sys2Proof.Machine.execFillEntry engine s
  | .nopEntry engine => Sys2Proof.Machine.execNopEntry engine s
  | .tierDown engine => Sys2Proof.Machine.execTierDown engine s
  | .tierUp engine => Sys2Proof.Machine.execTierUp engine s
  | .zeroRows engine => Sys2Proof.Machine.execZeroRows engine s
  | .rowCopy engine => Sys2Proof.Machine.execRowCopy engine s
  | .engineChunk engine => Sys2Proof.Machine.execEngineChunk engine s
  | .engineRetry engine => Sys2Proof.Machine.execEngineRetry engine s
  | .engineSkip engine => Sys2Proof.Machine.execEngineSkip engine s
  | .beacon => Sys2Proof.Machine.execBeacon s
  | .beaconMissed die => Sys2Proof.Machine.execBeaconMissed die s
  | .drainPoint die => Sys2Proof.Machine.execDrainPoint die s
  | .slotStart => Sys2Proof.Machine.execSlotStart s
  | .slotEnd => Sys2Proof.Machine.execSlotEnd s
  | .fatalSignal unit device f code => Sys2Proof.Machine.execFatalSignal unit device f code s
  | .ringCopy => Sys2Proof.Machine.execRingCopy s
  | .capsuleBuild => Sys2Proof.Machine.execCapsuleBuild s
  | .capsuleFlush => Sys2Proof.Machine.execCapsuleFlush s
  | .listCapsules f => Sys2Proof.Machine.execListCapsules f s
  | .readCapsule f seq off len => Sys2Proof.Machine.execReadCapsule f seq off len s
  | .doorbell f len => Sys2Proof.Machine.execDoorbell f len s
  | .validSet f ctl => Sys2Proof.Machine.execValidSet f ctl s
  | .validClear f => Sys2Proof.Machine.execValidClear f s
  | .keyprog f key owner => Sys2Proof.Machine.execKeyprog f key owner s
  | .lockInterfaceRequest f => Sys2Proof.Machine.execLockInterfaceRequest f s
  | .startInterfaceRequest f nonce => Sys2Proof.Machine.execStartInterfaceRequest f nonce s
  | .bootEnd f => Sys2Proof.Machine.execBootEnd f s
  | .stopInterfaceRequest f => Sys2Proof.Machine.execStopInterfaceRequest f s
  | .getDeviceInterfaceState f => Sys2Proof.Machine.execGetDeviceInterfaceState f s
  | .getDeviceInterfaceReport f => Sys2Proof.Machine.execGetDeviceInterfaceReport f s
  | .growSlice f digest sig => Sys2Proof.Machine.execGrowSlice f digest sig s
  | .liveGranuleMove f ordinal granule => Sys2Proof.Machine.execLiveGranuleMove f ordinal granule s
  | .getVersion f => Sys2Proof.Machine.execGetVersion f s
  | .getCapabilities f => Sys2Proof.Machine.execGetCapabilities f s
  | .getMeasurements f => Sys2Proof.Machine.execGetMeasurements f s
  | .ideKm f key => Sys2Proof.Machine.execIdeKm f key s
  | .ideIntegrityFailure f => Sys2Proof.Machine.execIdeIntegrityFailure f s
  | .hostReadTimeout addr => Sys2Proof.Machine.execHostReadTimeout addr s
  | .flitReceived port seq kind ack rest => Sys2Proof.Machine.execFlitReceived port seq kind ack rest s
  | .remoteAccess slot src epoch ia op body => Sys2Proof.Machine.execRemoteAccess slot src epoch ia op body s
  | .remoteTimeout gctx lanes write => Sys2Proof.Machine.execRemoteTimeout gctx lanes write s
  | .encjoin f part n q enclave secret digests => Sys2Proof.Machine.execEncjoin f part n q enclave secret digests s
  | .revoke f enclave part sigs => Sys2Proof.Machine.execRevoke f enclave part sigs s
  | .enclaveRekey slot => Sys2Proof.Machine.execEnclaveRekey slot s
  | .epochGraceEnd slot => Sys2Proof.Machine.execEpochGraceEnd slot s
  | .coldReset heat => Sys2Proof.Machine.execColdReset heat s
  | .flashUpdate image sig => Sys2Proof.Machine.execFlashUpdate image sig s
  | .warmReset => Sys2Proof.Machine.execWarmReset s
  | .hotReset => Sys2Proof.Machine.execHotReset s
  | .functionReset f => Sys2Proof.Machine.execFunctionReset f s
  | .powerGating gated => Sys2Proof.Machine.execPowerGating gated s
  | .srIovCapabilityWrite off value => Sys2Proof.Machine.execSrIovCapabilityWrite off value s
  | .keyEx f => Sys2Proof.Machine.execKeyEx f s
  | .negotiation f sm3 sm2 sm4 => Sys2Proof.Machine.execNegotiation f sm3 sm2 sm4 s
  | .linkTraining speed width => Sys2Proof.Machine.execLinkTraining speed width s

end Sys2Proof.Machine
end

