-- ==== Sys2Proof/Machine/Fetch.lean ====
section
/-! DEFINITION. Fetching the words of an issue unit, with the instruction caches (spec/01_sequential_machine.md R28;
spec/09 R201, R217; spec/10_consistency_model.md R238), the unit that stands at an address, and one word of it run. -/
namespace Sys2Proof.Machine

/-- What a fetch comes to: a word with its poison, a fault, or a wait. -/
inductive Fetched where
  | word (w : Word) (poison : Bool)
  | flt (e : Flt)
  | wait
deriving DecidableEq, Repr

/-- The place of a word, through a remote leaf that names this device (R467). -/
def State.codeLoc (s : State) : Loc → Loc
  | .remote f dev ia => if dev = s.pkg.device then (remoteHere s f ia .fetch).getD (.remote f dev ia) else .remote f dev ia
  | l => l

/-- The words that an instruction cache may still give a group for a physical address instead of the word that memory holds
(R238). -/
def State.staleWords (s : State) (uid f spa : Nat) (w : Word) (p : Bool) : List IcWord :=
  s.icache.filter fun e => e.f == f && e.spa == spa && !e.barred.contains uid && !(e.word == w && e.poison == p)

/-- A word of DRAM as it is fetched: the word that memory holds, which the caches then hold too, or by a free choice an older
one that they hold (R238). -/
def State.icFetch (s : State) (uid f spa : Nat) (w : Word) (p : Bool) : Word × Bool × State :=
  let olds := s.staleWords uid f spa w p
  let now : IcWord := ⟨f, spa, w, p, [], []⟩
  let filled := if s.icache.contains now then s else { s with icache := now :: s.icache }
  if olds.isEmpty then (w, p, filled)
  else
    let (n, t) := s.choose
    match olds[n % (olds.length + 1)]? with
    | some e => (e.word, e.poison, t)
    | none => (w, p, { filled with free := t.free })

/-- The word at an address as a group fetches it (R28, R201, R217, R243): its translation, its alignment, its bytes. -/
def State.fetchWord (s : State) (G : Group) (pc : BitVec 56) : Fetched × State :=
 match s.walkReqs (s.holder G) (s.view G) pc.toNat with
 | r :: rs => (.wait, s.holdReqs (s.holder G) (r :: rs))
 | [] => match globalRes s (s.view G) .fetch pc.toNat with
  | (.flt e, s1) => (.flt e, s1)
  | (.wait, s1) => (.wait, s1)
  | (.ok l, s1) =>
    if pc.toNat % 4 ≠ 0 then (.flt (fltAlign pc.toNat), s1)
    else match (s1.codeLoc l).base with
      | .dram f spa =>
        if s1.bankHolds (s1.holder G) f spa then (.wait, s1.holdReqs (s1.holder G) [(f, spa, false)])
        else
          let w : Word := BitVec.ofNat 32 (leNat (spaRead s1 f spa 4))
          let (v, p, s2) := s1.icFetch G.uid f spa w (spaPoisonRange s1 f spa 4)
          (.word v p, if p then (s2.bankServe f spa false).noteBad (s2.asidOf G) f spa else s2.bankServe f spa false)
      | m =>
        let (bs, p, s2) := s1.readLoc [] m pc.toNat 4
        (.word (BitVec.ofNat 32 (leNat bs)) p, s2)

/-! ## One word of a unit (R28, R41) -/

/-- The state with the word of the unit being issued set. -/
def State.atWord (s : State) (c : Cur) (w : Word) : State := { s with cur := some { c with word := w } }

/-- The banks are exchanged around a unit of a migrated group whose home context is in the shadow bank (R295). -/
def awayStep (away : Bool) (s : State) (f : State → Out) : Out :=
  if away then match f s.exchange with
    | .next t => .next t.exchange
    | .fault e => .fault e
    | .refused r => .refused r
  else f s

/-- A unit of majors 0x00 to 0x3F is checked by redundant execution (R369, R370): cloned when the slot's idle lane units are as many
as its active lanes, else entered in the replay queue. A spar core has no such units. The clones that may fail their compare in this cycle are
remembered. -/
def State.cover (s : State) (G : Group) (c : Cur) (w : Word) : State :=
  if G.mig.isSome ∨ 0x40 ≤ w.toNat / 2 ^ 25 then s
  else if c.lanes ≤ 32 then { s.countCover G.share 43 21 with cloned := s.cloned ++ [G.gctx] } else s.enqueueReplay G

/-- The word at the address of the unit in progress is fetched and run; a fetch fault and a word that decodes to nothing are
traps of the whole unit (R28, R41), and a poisoned word is consumed (R18, R368). A first PFX word with a field that no prefix may
hold is taken into the unit like any other: its fields are checked with the instruction, once that has been fetched (R28). The words are
fetched one after another, so that poison of an earlier word of the unit comes before a fetch fault of a later one; the spec does
not rank the two (DESIGN CHOICE, log entry 46). -/
def State.runWord (s : State) (c : Cur) : Out := match s.group c.gctx with
  | none => .next s.endUnit
  | some G => match s.fetchWord G c.pc with
    | (.flt e, s1) => .next (s1.trapFetch G c e)
    | (.wait, s1) => .next (s1.retryUnit c .engine)
    | (.word w p, s1) =>
      let s2 := s1.atWord c w
      if p then .next (s2.consume G { c with word := w } (G.k0 c))
      else match decodeWord w with
        | none =>
          if w.extractLsb' 25 7 = 0x7E#7 ∧ c.pfx.isNone ∧ c.limm.isNone then
            .next { s2 with cur := some { c with word := w, pfx := some w, pc := c.pc + 4#56 } }
          else .next (s2.trapUnit G { c with word := w } 0x01#8 0)
        | some i => exec i (s2.cover G c w)

/-! ## Looking ahead at a unit -/

/-- The unit at an address as its words stand: its prefix word and its instruction. -/
def State.peek (s : State) (G : Group) (pc : BitVec 56) : Nat → Option Word → Option (Option Word × Word)
  | 0, _ => none
  | n + 1, pfx => match (s.fetchWord G pc).1 with
    | .word w _ =>
      if w.extractLsb' 25 7 = 0x7E#7 ∧ n = 2 then s.peek G (pc + 4#56) n (some w)
      else if w.extractLsb' 25 7 = 0x7F#7 ∧ n ≠ 0 then s.peek G (pc + 4#56) n pfx
      else some (pfx, w)
    | _ => none

/-- The prefix and the instruction word of the unit at an address. -/
def State.peekUnit (s : State) (G : Group) (pc : BitVec 56) : Option (Option Word × Word) := s.peek G pc 3 none

end Sys2Proof.Machine
end

