-- ==== Sys2Proof/Machine/Ports.lean ====
section
/-! DEFINITION. Port classes and read demands of issue units (spec/06_parallel_execution.md R144). -/
namespace Sys2Proof.Machine

/-- Port classes. -/
inductive PortClass where
  | mem | xl | sfu | team | eng | sys | none
deriving DecidableEq, Repr

/-- The class of a word (R144). -/
def portOf (w : Word) : PortClass :=
  let op := w.toNat / 2 ^ 25
  let fn := bits w.toNat 23 21
  if 0x58 ≤ op ∧ op ≤ 0x67 then .mem
  else if 0x48 ≤ op ∧ op ≤ 0x4F then .xl
  else if op = 0x22 ∨ op = 0x21 ∧ (fn = 3 ∨ fn = 4) then .sfu
  else if 0x50 ≤ op ∧ op ≤ 0x55 ∨ op = 0x44 ∧ fn = 7 then .team
  else if 0x70 ≤ op ∧ op ≤ 0x7B then .eng
  else if op = 0x7C then .sys
  else .none

/-- The registers that an instruction reads as sources, as codes with counts (R144): a destination that it reads too is one of
them. -/
def Instr.reads : Instr → List (BitVec 7 × Nat)
  | .pfx _ _ _ _ _ | .limm _ | .movi _ _ | .bra _ | .brc _ _ _ | .pjn _ | .join | .exitThread | .yield | .nop | .trap _
  | .brk _ | .call _ _ | .kop _ _ _ _ | .kopNot _ _ | .kmovTor _ _ | .bar _ _ | .bara _ _ | .elect _ | .winb _ | .trig | .rclaim _
  | .rrel _ | .recv _ _ | .chq _ _ _ | .fence _ | .fenceTl | .fenceOr | .bact _ _ _ _ _ | .bpre _ | .browsh _ _
  | .brcpy _ _ | .brdc _ _ _ | .bwrc _ _ _ | .bldt _ _ _ _ | .blut _ _ _ _ | .beadd _ _ _ _ _ | .befma _ _ _ _ _ _
  | .bescl _ _ _ _ _ | .bacc _ _ _ _ _ | .bloop _ _ _ _ | .byld | .bend | .mrel _ _ | .mswap | .mstat _ _ | .macz _
  | .macrd _ _ _ | .chseq _ | .evpop _ | .evwait _ | .mret | .crd _ _ | .tsetImm _ | .mslot _ _ | .ctxsw | .flgrd _
  | .flgclr _ | .replayCheck .. | .teamRollback .. | .claimGrant | .claimDeadlock .. | .binDrawAge .. | .timerTrap ..
  | .framePost .. | .handlerGroupStart .. | .channelWaitServed .. | .readLaunchEntry .. | .placement .. | .gdQpostWrite ..
  | .hostQpostWrite .. | .retryHead .. | .skipHead .. | .skipHeadTrigger .. | .tsReformWrite .. | .registerWrite ..
  | .mmioWrite .. | .contextSwap | .preemptionRequest | .contextSpill | .contextLoad | .migrationArrival .. | .leaseHandoff
  | .scanComplete | .clearComplete | .matrixOpStart .. | .matrixOpComplete | .tileCopyStart .. | .tileCopyComplete ..
  | .completionRecordPost .. | .runPrecheck .. | .bankAdmission .. | .bankAccessServed .. | .runComplete .. | .copyEntry ..
  | .copy2dEntry .. | .fillEntry .. | .nopEntry .. | .tierDown .. | .tierUp .. | .zeroRows .. | .rowCopy ..
  | .engineChunk .. | .engineRetry .. | .engineSkip .. | .beacon | .beaconMissed .. | .drainPoint .. | .slotStart
  | .slotEnd | .fatalSignal .. | .ringCopy | .capsuleBuild | .capsuleFlush | .listCapsules .. | .readCapsule ..
  | .doorbell .. | .validSet .. | .validClear .. | .keyprog .. | .lockInterfaceRequest .. | .startInterfaceRequest ..
  | .bootEnd .. | .stopInterfaceRequest .. | .getDeviceInterfaceState .. | .getDeviceInterfaceReport .. | .growSlice ..
  | .liveGranuleMove .. | .getVersion .. | .getCapabilities .. | .getMeasurements .. | .ideKm .. | .ideIntegrityFailure ..
  | .hostReadTimeout .. | .flitReceived .. | .remoteAccess .. | .remoteTimeout .. | .encjoin .. | .revoke ..
  | .enclaveRekey .. | .epochGraceEnd .. | .coldReset .. | .flashUpdate .. | .warmReset | .hotReset | .functionReset ..
  | .powerGating .. | .srIovCapabilityWrite .. | .keyEx .. | .negotiation .. | .linkTraining .. => []
  | .iadd _ _ a b | .isub _ _ a b | .iadds _ _ a b | .isubs _ _ a b | .iaddns _ _ a b | .isubns _ _ a b | .imul _ _ a b
  | .imulh _ _ a b | .imulhn _ _ a b | .imad _ _ a b | .idiv _ _ a b | .idivn _ _ a b | .irem _ _ a b | .iremn _ _ a b
  | .imin _ _ a b | .imax _ _ a b | .iminn _ _ a b | .imaxn _ _ a b | .andW _ _ a b | .orW _ _ a b | .xorW _ _ a b
  | .andn _ _ a b | .orn _ _ a b | .xnor _ _ a b | .shl _ _ a b | .shr _ _ a b | .sar _ _ a b | .rol _ _ a b | .ror _ _ a b
  | .fshl _ _ a b | .fshr _ _ a b | .icmp _ _ a b | .icmpN _ _ a b | .icmpv _ _ _ a b | .icmpvN _ _ _ a b | .fcmp _ _ a b
  | .fcmpv _ _ _ a b | .sel _ _ a b | .prmb _ _ a b | .bfx _ _ a b | .bfxs _ _ a b | .bfi _ _ a b | .fadd _ _ a b
  | .fsub _ _ a b | .fmul _ _ a b | .ffma _ _ a b | .fmin _ _ a b | .fmax _ _ a b | .fcpysgn _ _ a b | .fdiv _ _ a b
  | .hadd2 _ _ a b | .hmul2 _ _ a b | .hfma2 _ _ a b | .badd2 _ _ a b | .bmul2 _ _ a b | .bfma2 _ _ a b
  | .fcvtF16F32 _ _ a b | .fcvtBf16F32 _ _ a b | .cvtdlDl8 _ _ a b | .mxdq _ _ _ a b | .dot4e _ _ _ a b | .dot4i _ _ a b
  | .dot8q _ _ a b | .dot2b _ _ a b | .shfl _ _ a b | .bcast _ a b => [(a, 1), (b, 1)]
  | .iadd64 _ _ a b | .isub64 _ _ a b => [(a, 2), (b, 2)]
  | .iabs _ _ a | .ineg _ _ a | .mov _ _ a | .popc _ _ a | .clz _ _ a | .ctz _ _ a | .brev _ _ a | .addi _ a _
  | .andi _ a _ | .ori _ a _ | .xori _ a _ | .shli _ a _ | .shri _ a _ | .sari _ a _ | .fclass _ _ a | .fabs _ _ a
  | .fneg _ _ a | .frnd _ _ a | .fsqrt _ _ a | .frcp _ _ a | .frsq _ _ a | .fexp2 _ _ a | .flog2 _ _ a | .fsin _ _ a
  | .fcos _ _ a | .ftanh _ _ a | .f2i _ _ _ a | .i2f _ _ _ a | .fcvtF32F16 _ _ a | .fcvtF32Bf16 _ _ a | .fcvtF32E4m3 _ _ a
  | .fcvtF32E5m2 _ _ a | .fcvtF32E2m1 _ _ a | .fcvtBf16F16 _ _ a | .fcvtF16Bf16 _ _ a | .cvtdlF32 _ _ a | .vote _ _ a
  | .red _ _ a | .fred _ _ a | .fscan _ _ a | .scan _ _ a | .barw a _ | .send _ _ a _ | .sendw _ a _ | .mscl a | .mexec _ a
  | .cbar a _ | .eret a _ | .tsetReg a | .evmark a _ | .dsrd a | .capsFreeze a => [(a, 1)]
  | .lea64 _ _ _ a b | .tlw _ a b | .tlrd _ a b | .invt a b | .vprobe _ a b => [(a, 2), (b, 1)]
  | .addi64 _ a _ | .lea64i _ a _ _ | .brx a | .callx _ a | .ret a | .reform a | .kmovTok _ a | .cinv a _
  | .cwb a _ | .icinv a _ | .pref _ _ a _ | .tli a | .macq a | .mlds a _ | .bkrun a _ _ | .chtail a | .mig a => [(a, 2)]
  | .fmac _ d a b | .mxdot _ _ d a b | .mxi8dot _ d a b => [(a, 1), (b, 1), (d, 1)]
  | .fcvtE4m3F32 _ _ a | .fcvtE5m2F32 _ _ a | .fcvtE2m1F32 _ _ a | .mxq _ _ _ a | .macwr a _ _ | .tcopy a _ | .tcopyr a _
  | .dswr a | .capsEvent a => [(a, 4)]
  | .matchLanes w _ a _ => [(a, if w = 0#1 then 1 else 2)]
  | .rgt _ d => [(d, 8)]
  | .ldB s _ _ a _ | .ldH s _ _ a _ | .ldsB s _ _ a _ | .ldsH s _ _ a _ | .ldW s _ _ a _ | .ldD s _ _ a _ | .ldQ s _ _ a _
  | .ldg s _ _ a _ => [(a, if s.toNat < 2 then 2 else 1)]
  | .stB s _ d a _ | .stH s _ d a _ | .stW s _ d a _ => [(a, if s.toNat < 2 then 2 else 1), (d, 1)]
  | .stD s _ d a _ => [(a, if s.toNat < 2 then 2 else 1), (d, 2)]
  | .stQ s _ d a _ => [(a, if s.toNat < 2 then 2 else 1), (d, 4)]
  | .atom s _ d a _ _ | .atr s _ d a _ _ => [(a, if s = 2#2 then 1 else 2), (d, 1)]
  | .atom64 s _ d a _ _ => [(a, if s = 2#2 then 1 else 2), (d, 2)]
  | .cwr a n => [(a, if n.toNat ∈ crFulls then 2 else 1)]

/-- The main registers that an operand names. -/
def mainWords (p : BitVec 7 × Nat) : Nat := if p.1.toNat < 96 then p.2 else 0

/-- The words of the fourth operand (R144, R251): a pair for a 64-bit compare-and-swap. -/
def fourthWords : Instr → Nat
  | .atom64 _ _ _ _ _ _ => 2
  | _ => 1

/-- A unit's read demand (R144); an illegal word reads nothing. -/
def demandOf (pfx : Option Word) (w : Word) : Nat := match decodeWord w with
  | none => 0
  | some i => ((Instr.reads i).map mainWords).sum + (match pfx with
    | none => 0
    | some p => mainWords (p.extractLsb' 11 7, fourthWords i))

end Sys2Proof.Machine
end

