-- ==== Sys2Proof/Machine/Issue.lean ====
section
/-! DEFINITION. What is ready and what issues: ganging, reganging, the choice of a share, of a group and of the quads of a slot
(spec/06_parallel_execution.md R139 to R149; spec/12 R289, R292). -/
namespace Sys2Proof.Machine

/-! ## Readiness (R139, R146) -/

/-- The group's team goes on and its slice is not halted (R136, R373, R458). -/
def State.runs (s : State) (G : Group) : Bool :=
  !(s.slice (s.fOf G)).halted && (match s.teamOf G with
    | some T => T.stopping.isNone && !T.ended
    | none => G.team.isNone)

/-- The group issues on the core itself. -/
def Group.atHome (G : Group) : Bool := G.mig.isNone

/-- A quad or fragment is ready, but for the fetch of its unit and its operands (R139). -/
def Seq.canIssue (q : Seq) (now : Nat) : Bool :=
  decide (q.st = .run) && decide (q.wait = .none) && !q.popNext && decide (q.active ≠ 0#4) && decide (q.ready ≤ now)

/-- Quads and fragments all stand at one unit with one stack depth (R146). -/
def samePlace (l : List Seq) : Bool := match l with
  | [] => false
  | q :: qs => qs.all fun r => r.pc == q.pc && r.stack.length == q.stack.length

/-- The group stands ganged at a collective, and every quad of it is otherwise ready (R146). -/
def Group.gangReady (G : Group) (now : Nat) : Bool :=
  samePlace G.liveSeqs && G.liveSeqs.all fun q => decide (q.st = .cwait) && decide (q.wait = .none) && decide (q.ready ≤ now)

/-! ## Reganging (R148) -/

/-- Two sequencers of a quad that merge: they stand at one unit with one depth, and neither is trapped; one may be trying its unit again,
for an engine or at a range (R139, R235). -/
def Seq.meets (q r : Seq) : Bool :=
  let here (x : Seq) : Bool := (decide (x.st = .run) || decide (x.st = .jwait) || decide (x.st = .cwait))
    && (decide (x.wait = .none) || x.wait.retries)
  q.id != r.id && q.pos == r.pos && q.pc == r.pc && q.stack.length == r.stack.length && here q && here r

/-- The stack of the quad with the masks of the fragment's entries. -/
def mergeStacks : List (BitVec 64) → List (BitVec 64) → List (BitVec 64)
  | e :: es, f :: fs => (e ||| (0#3 ++ 0#1 ++ entryMask f ++ 0#56)) :: mergeStacks es fs
  | es, _ => es

/-- Quad `q` takes over fragment `f` (R148); a group switch for its lanes. Where one of them tries its unit again, the merged quad does, with
those that issued it beside it. -/
def Group.merge (G : Group) (q f : Seq) : Group :=
  let m : Seq := { q with
    own := q.own ||| f.own
    active := q.active ||| f.active
    stack := mergeStacks q.stack f.stack
    st := if q.st = .cwait ∨ f.st = .cwait then .cwait else .run
    wait := if q.wait ≠ .none then q.wait else f.wait
    ready := if q.st = .jwait ∨ (q.wait = .none ∧ f.wait ≠ .none) then f.ready else q.ready
    popNext := false }
  let H := (G.setSeq m).redirectCols q.pos (q.own ||| f.own)
  { H with seqs := H.seqs.filter fun r => r.id != f.id }

/-- A ready sequencer of the group that meets another: the quad, or the earlier of two fragments, with the other. The rule names a
quad and one of its fragments; two fragments of one quad merge in the same way, the lower-numbered taking the other over (DESIGN CHOICE,
log entry 46). -/
def Group.meeting (G : Group) (now : Nat) : Option (Seq × Seq) :=
  (G.seqs.flatMap fun q => G.seqs.map fun r => (q, r)).find? fun p =>
    p.1.meets p.2 && (p.1.canIssue now || p.2.canIssue now) && (!p.1.frag || (p.2.frag && decide (p.1.id < p.2.id)))

/-- Every meeting of a group carried out; at most three fragments can meet a quad in each of sixteen positions. -/
def Group.regang (now : Nat) : Nat → Group → Group
  | 0, G => G
  | n + 1, G => match G.meeting now with
    | some (q, f) => (G.merge q f).regang now n
    | none => G

/-! ## Parts of a group that may issue -/

/-- A quad, or a ganged group, that may take its place in a slot: since when it is ready, its row, its unit, its sequencers,
its quad positions and its active lanes. -/
structure Part where
  gctx : Nat
  ready : Nat
  row : Nat
  pc : BitVec 56
  seqs : List Nat
  poss : List Nat
  lanes : Nat
deriving DecidableEq, Repr

/-- The row of a quad: the lowest among its threads (R124, R152). -/
def Group.rowOf (G : Group) (pos : Nat) : Nat :=
  (G.threads.filter fun t => t.live && t.col / 4 == pos).foldl (fun m t => min m t.row) 32

/-- The active lanes of a sequencer. -/
def Group.activeCount (G : Group) (q : Seq) : Nat := (G.lanes.filter fun l => G.activeIn q l).length

/-- The ready quads of a group, or the ganged group as one (R139, R146). A group with a unit that stalls at a range of an engine
issues nothing else (R235). -/
def Group.parts (G : Group) (now : Nat) : List Part :=
  if G.seqs.any fun q => decide (q.wait = .stall) then []
  else if G.gangReady now then
    let qs := G.liveSeqs
    [⟨G.gctx, qs.foldl (fun m q => max m q.ready) 0, qs.foldl (fun m q => min m (G.rowOf q.pos)) 32,
      (qs.head?.map (·.pc)).getD 0#56, qs.map (·.id), (qs.map (·.pos)).dedup, (qs.map G.activeCount).sum⟩]
  else (G.seqs.filter fun q => q.canIssue now).map fun q => ⟨G.gctx, q.ready, G.rowOf q.pos, q.pc, [q.id], [q.pos], G.activeCount q⟩

/-- A part comes before another (R143): ready earlier, then in a lower row, then at a lower position. -/
def Part.before (a b : Part) : Bool :=
  decide (a.ready < b.ready) || (a.ready == b.ready && (decide (a.row < b.row) || (a.row == b.row
    && decide (a.poss.foldl min 16 < b.poss.foldl min 16))))

/-- A part put in its place in a list. -/
def Part.insert (a : Part) : List Part → List Part
  | [] => [a]
  | b :: bs => if b.before a then b :: Part.insert a bs else a :: b :: bs

/-- Parts in the order in which they join a slot. -/
def sortParts (l : List Part) : List Part := l.foldr Part.insert []

/-! ## The choice of a share (R140) -/

/-- The last winner and the deficit counters. -/
structure Turn where
  last : Nat
  counters : List Int
deriving DecidableEq, Repr

/-- The choice of a share among n: `ready` for a share with a ready group, `free_` for one with a ready group that is not
excluded. -/
def chooseShare (n : Nat) (weight : Nat → Nat) (ready free_ : Nat → Bool) (t : Turn) : Option Nat × Turn :=
  let c : List Int := if (List.range n).any fun i => ready i && decide (0 < t.counters.getD i 0) then t.counters
    else (List.range n).map fun i => if ready i then t.counters.getD i 0 + (weight i : Int) else min (t.counters.getD i 0) 0
  match ((List.range n).map fun j => (t.last + j) % n).find? fun i => free_ i && decide (0 < c.getD i 0) with
  | some i => (some i, ⟨i, c⟩)
  | none => (none, ⟨t.last, c⟩)

/-- The share's slot issues. -/
def Turn.charge (t : Turn) (i : Nat) : Turn := { t with counters := t.counters.set i (t.counters.getD i 0 - 16) }

/-- The share's slot slips after all (R145): it gets back what it was charged, but no counter passes 255, which it would if the choice for
slot B has begun a round in between (R140; DESIGN CHOICE, log entry 46). -/
def Turn.refund (t : Turn) (i : Nat) : Turn := { t with counters := t.counters.set i (min 255 (t.counters.getD i 0 + 16)) }

/-! ## The choice of a group (R142) -/

/-- The launch priority of a group; a handler group's is open (log entry 31). -/
def State.prio (s : State) (G : Group) : Nat := match s.gridOf G with
  | some g => g.prio
  | none => Config.handlerPrio % 4

/-- A group with its parts, in order, and its ready time. -/
structure Cand where
  group : Group
  parts : List Part
  ready : Nat
  prio : Nat
deriving DecidableEq, Repr

/-- The ready groups of a list (R139, R142). -/
def State.cands (s : State) (gs : List Group) : List Cand := gs.filterMap fun G =>
  match sortParts (G.parts s.now) with
  | [] => none
  | p :: ps => if s.runs G then some ⟨G, p :: ps, p.ready, min 3 (s.prio G + (s.now - p.ready) / 2 ^ 20)⟩ else none

/-- A group ranks before another (R142). -/
def Cand.before (a b : Cand) : Bool :=
  decide (b.prio < a.prio) || (a.prio == b.prio && (decide (a.ready < b.ready) || (a.ready == b.ready && decide (a.group.gctx < b.group.gctx))))

/-- The group that ranks first. -/
def firstCand (l : List Cand) : Option Cand := l.foldl (fun b x => match b with
  | none => some x
  | some y => some (if x.before y then x else y)) none

/-! ## Filling a slot (R143, R146) -/

/-- The kernel that a group runs: its address space and its CODE address; a handler group belongs to none, and joins no
other (R124, R143; log entry 32). -/
def State.kernelOf (s : State) (G : Group) : Nat × Nat × Nat := match s.gridOf G with
  | some g => (0, g.asid.toNat, g.code.toNat)
  | none => (1, G.gctx, 0)

/-- A part of a group may join a slot that another leads. -/
def State.joins (s : State) (G : Group) (p : Part) (H : Group) (r : Part) : Bool :=
  r.pc == p.pc && H.winb == G.winb && s.fOf H == s.fOf G && decide (s.kernelOf H = s.kernelOf G) && decide (H.level = G.level)

/-- The leading part and those that join it: in order, each that finds its positions free. -/
def fillSlot (lead : Part) (others : List Part) : List Part :=
  (sortParts others).foldl (fun l p => if (l.any fun q => q.poss.any fun i => p.poss.contains i) then l else l ++ [p]) [lead]

/-- A filled slot: its share, the ready time of its chosen group, its parts, and the leading group with its unit's words. -/
structure Slot where
  share : Nat
  ready : Nat
  parts : List Part
  unit : Option (Option Word × Word)
deriving DecidableEq, Repr

/-- A slot led by a candidate. -/
def State.slotOf (s : State) (all : List Cand) (taken : List Part) (c : Cand) : Option Slot := match c.parts.filter fun p => !taken.contains p with
  | [] => none
  | p :: ps =>
    let rest := (all.filter fun d => d.group.gctx != c.group.gctx).flatMap fun d => d.parts.filter fun r => !taken.contains r && s.joins c.group p d.group r
    let own := ps.filter fun r => s.joins c.group p c.group r
    some ⟨c.group.share, c.ready, fillSlot p (own ++ rest), s.peekUnit c.group p.pc⟩

/-- The candidates of a share of which no part is taken. -/
def openCands (all : List Cand) (taken : List Part) (i : Nat) : List Cand :=
  all.filter fun c => c.group.share == i && !(taken.any fun p => p.gctx == c.group.gctx)

/-- The weight of a share of the core. -/
def State.weight (s : State) (i : Nat) : Nat := match s.share i with
  | some x => x.weight
  | none => 0

/-- One issue slot of the core chosen and filled. -/
def State.fillOne (s : State) (all : List Cand) (taken : List Part) (t : Turn) : Option Slot × Turn :=
  match chooseShare 4 s.weight (fun i => all.any fun c => c.group.share == i) (fun i => !(openCands all taken i).isEmpty) t with
  | (some i, u) => ((firstCand (openCands all taken i)).bind (s.slotOf all taken), u)
  | (none, u) => (none, u)

/-- Two slots conflict (R144). -/
def conflict (a b : Slot) : Bool := match a.unit, b.unit with
  | some x, some y =>
    let pa := portOf x.2
    (decide (pa ≠ .none) && decide (pa = portOf y.2))
    || (decide (6 < demandOf x.1 x.2 + demandOf y.1 y.2) && (a.parts.any fun p => b.parts.any fun q => p.poss.any fun i => q.poss.contains i))
  | _, _ => false

/-- The slots that issue in a cycle (R140, R145): `na` and `nb` leave slot A or B empty (R477). Slot A's share is charged before slot B
is given to one; a slot that slips is not charged. -/
def State.pickSlots (s : State) (all : List Cand) (na nb : Bool) (t : Turn) : List Slot × Turn :=
  let (a, t1) := if na then (none, t) else s.fillOne all [] t
  let u := match a with
    | some x => t1.charge x.share
    | none => t1
  let (b, t2) := if nb then (none, u) else s.fillOne all ((a.map (·.parts)).getD []) u
  match a, b with
  | some x, some y =>
    if conflict x y then (if y.ready < x.ready then ([y], (t2.refund x.share).charge y.share) else ([x], t2)) else ([x, y], t2.charge y.share)
  | some x, none => ([x], t2)
  | none, some y => ([y], t2.charge y.share)
  | none, none => ([], t2)

/-- An ascending list with a number put in its place. -/
def insertNat (a : Nat) : List Nat → List Nat
  | [] => [a]
  | b :: bs => if a ≤ b then a :: b :: bs else b :: insertNat a bs

/-- The issues of a slot, one for each group in it, in ascending group context (R180). So `reform` of several groups in one slot files group
by group, and by columns within each; whether R151's column order spans the groups of a slot is open (DESIGN CHOICE, log entry 46). -/
def Slot.issues (x : Slot) : List Issue :=
  let n := (x.parts.map (·.lanes)).sum
  ((x.parts.map (·.gctx)).dedup.foldr insertNat []).map fun g => ⟨g, (x.parts.filter fun p => p.gctx == g).flatMap (·.seqs), n⟩

/-- Where a unit stands in the order of the flag changes of a cycle (R122): `flgrd` before any, `flgclr`, the units that may raise
flags, and last those that may complete a team barrier. -/
def flagRank (x : Slot) : Nat := match x.unit with
  | none => 2
  | some u => match decodeWord u.2 with
    | some (.flgrd ..) => 0
    | some (.flgclr ..) => 1
    | some (.bar ..) | some (.bara ..) | some .exitThread => 3
    | _ => 2

/-- The slots of a cycle in the order in which their units take effect: slot A before slot B, but for the flags (R122, R180). -/
def slotOrder : List Slot → List Slot
  | [x, y] => if flagRank y < flagRank x then [y, x] else [x, y]
  | l => l

/-! ## The start of a unit -/

/-- A unit of a group begins (R28). -/
def State.beginUnit (s : State) (away : Bool) (G : Group) (seqs : List Nat) (pc : BitVec 56) (lanes : Nat) : State :=
  { s with cur := some ⟨away, G.gctx, seqs, pc, pc, 0#32, none, none, lanes⟩ }

/-- A pending timer trap is taken (R382): by the first quad or fragment to reach an issue, or by the whole group at a collective
(R360). -/
def State.timerTrap (s : State) (G : Group) (seqs : List Nat) (pc : BitVec 56) : State :=
  let whole := G.gangReady s.now && decide (1 < seqs.length)
  let ids := if whole then seqs else seqs.take 1
  let qs := G.seqs.filter fun q => ids.contains q.id
  let m := laneMask G.threads.length fun l => qs.any fun q => G.activeIn q l
  let w := ((s.peekUnit G pc).map (·.2)).getD 0#32
  let H := { G with timerPend := false }
  (s.setGroup H).takeTrap H qs m false ⟨0x18#8, false, 0#8, 0, m, 0, pc, w⟩

/-- An issue begins: those of its sequencers that still stand at the unit. -/
def State.beginIssue (s : State) (away : Bool) (i : Issue) : State := match s.group i.gctx with
  | none => s
  | some G =>
    if !s.runs G then s
    else match G.seqs.find? fun q => i.seqs.contains q.id && (decide (q.st = .run) || decide (q.st = .cwait)) with
      | none => s
      | some q0 =>
        let stands (s : State) (H : Group) : List Nat := i.seqs.filter fun k => match H.seq k with
          | some q => q.pc == q0.pc && (decide (q.st = .cwait) || q.canIssue s.now)
          | none => false
        if G.timerPend then
          let t := s.timerTrap G (stands s G) q0.pc
          match t.group i.gctx with
          | none => t
          | some H => match stands t H with
            | [] => t
            | ids => t.beginUnit away H ids q0.pc i.lanes
        else match stands s G with
          | [] => s
          | ids => s.beginUnit away G ids q0.pc i.lanes

end Sys2Proof.Machine
end

