-- ==== Sys2Proof/Machine/Cycle.lean ====
section
/-! DEFINITION. A cycle of the core: its clocks and timers, what becomes ready, the issue slots and the idle checks; and an issue
of a spar core (spec/01 R25 to R27; spec/06 R139 to R149; spec/07 R171, R173; spec/12 R289, R294, R295; spec/17 R369, R382). -/
namespace Sys2Proof.Machine

/-! ## Clocks (R25 to R27, R382) -/

/-- One more cycle of a floating-point context's clocks; `ctx.cycles` counts while its context is live. -/
def FpCtx.tick (live : Bool) (c : FpCtx) : FpCtx :=
  { c with cycles := if live then c.cycles + 1#64 else c.cycles, wall := c.wall + 1#64 }

/-- One more cycle of a context, live or shadow. -/
def Ctx.tick (live : Bool) (x : Ctx) : Ctx :=
  let team (T : Team) : Team := { T with fp := T.fp.tick live }
  let grp (G : Group) : Group := if G.team.isNone then { G with own := G.own.tick live } else G
  { x with teams := x.teams.map team, groups := x.groups.map grp }

/-- One live cycle less on the timers that run on past it (R382). -/
def Group.countDown (G : Group) : Group := if 2 ≤ G.timer then { G with timer := G.timer - 1 } else G

/-- The clocks of a cycle: the die's, the contexts', and the slot-free time of a save (R380). -/
def State.tickClocks (s : State) : State :=
  { s with
    dieCycles := s.dieCycles + 1#64
    live := s.live.tick true
    shadow := s.shadow.map (Ctx.tick false)
    cx := { s.cx with since := if s.cx.spill && s.cal.inSlot.isNone then s.cx.since + 1 else s.cx.since } }

/-- The state of a meaning's outcome; an event never stops the machine. -/
def orKeep (s : State) : Out → State
  | .next t => t
  | .fault _ => s
  | .refused _ => s

/-- The timers of the live context (R382): those at one reach zero. -/
def State.tickTimers (s : State) : State :=
  let due := (s.live.groups.filter fun G => G.timer == 1).map (·.gctx)
  let s1 := { s with live := { s.live with groups := s.live.groups.map Group.countDown } }
  due.foldl (fun t g => orKeep t (execTimerTrap g t)) s1

/-! ## Claims that stay blocked (R173) -/

/-- A team's count of consecutive blocked cycles, begun anew when the pool's free count rises. -/
def State.countBlocked (s : State) (T : Team) : Team :=
  { T with
    blocked := if s.teamBlocked T.slot = true then (if s.live.rises = T.blockedFree then T.blocked + 1 else 1) else 0
    blockedFree := s.live.rises }

/-- The blocked teams of the live context: those that have been so for 65,536 whole cycles trap, and the cycle that begins counts. -/
def State.tickBlocked (s : State) : State :=
  let late := (s.live.teams.filter fun T => decide (65536 ≤ T.blocked) && T.blockedFree == s.live.rises).map (·.slot)
  let s1 := late.foldl (fun t k => orKeep t (execClaimDeadlock k t)) s
  { s1 with live := { s1.live with teams := s1.live.teams.map s1.countBlocked } }

/-! ## What becomes ready (R101, R139, R146, R148, R149) -/

/-- A word of a unit in progress run, in the context that is its home (R295). -/
def State.runCur (s : State) : Out := match s.cur with
  | none => .next s
  | some c => awayStep c.away s fun t => t.runWord c

/-- A unit run to its end; it has at most three words. -/
def State.runUnit : Nat → State → State
  | 0, s => s
  | n + 1, s => if s.cur.isNone then s else (orKeep s.endUnit s.runCur).runUnit n

/-- The sequencers that wait with one: those that issued the unit with it, and tried it again with it. -/
def Group.mates (G : Group) (q : Seq) : List Nat :=
  (G.seqs.filter fun r => decide (r.st = .run) && r.pc == q.pc && decide (r.wait = q.wait) && r.ready == q.ready).map (·.id)

/-- A sequencer's unit, tried on a copy of the machine with those that issued it together, would still wait. -/
def State.stillWaits (s : State) (G : Group) (q : Seq) : Bool :=
  let t := (s.beginUnit false G (G.mates q) q.pc 0).runUnit 3
  match (t.group G.gctx).bind fun H => H.seq q.id with
  | some r => r.pc == q.pc && r.wait.retries
  | none => false

/-- The instruction word at an address, for a trap's frame. -/
def State.wordAt (s : State) (G : Group) (pc : BitVec 56) : Word := ((s.peekUnit G pc).map (·.2)).getD 0#32

/-- A sequencer that has a pop to run, or that waits in JWAIT for lanes that no other sequencer holds any more, pops (R101,
R148). -/
def State.popOne (s : State) (g : Nat) (q : Seq) : State := match s.group g with
  | none => s
  | some G =>
    let due := decide (q.st = .run) && q.popNext && decide (q.ready ≤ s.now)
    let freed := decide (q.st = .jwait) && (match G.pop q (!q.popNext) with
      | .join _ => false
      | _ => true)
    if due || freed then (s.resumePop g q.id (freed && !q.popNext) q.pc (s.wordAt G q.pc)).settleGroup g else s

/-- The pops of a group. -/
def State.popAll (s : State) (g : Nat) : State := match s.group g with
  | none => s
  | some G => G.seqs.foldl (fun t q => match (t.group g).bind fun H => H.seq q.id with
    | some r => t.popOne g r
    | none => t) s

/-- A sequencer that waited for an engine, a range or a bank becomes ready once its unit need not wait, and those that issued the unit with
it become ready too: a unit goes on as it was issued (R139). -/
def State.wakeOne (s : State) (g : Nat) (q : Seq) : State := match s.group g with
  | none => s
  | some G =>
    if q.wait.retries && decide (q.st = .run) && decide (q.ready ≤ s.now) && !s.stillWaits G q then
      let ids := G.mates q
      s.setGroup { G with seqs := G.seqs.map fun r => if ids.contains r.id then { r with wait := .none, ready := s.now } else r }
    else s

/-- The waits of a group. -/
def State.wakeAll (s : State) (g : Nat) : State := match s.group g with
  | none => s
  | some G => G.seqs.foldl (fun t q => match (t.group g).bind fun H => H.seq q.id with
    | some r => t.wakeOne g r
    | none => t) s

/-- A listed unit of a group is not over (R120): its sequencer still stands there in RUN. -/
def Group.unitStands (G : Group) (p : Nat × BitVec 56) : Bool := match G.seq p.1 with
  | some q => decide (q.st = .run) && q.pc == p.2
  | none => false

/-- A `flgrd` that waits (R120): the units before it that are over leave its list, and it is run when none is left. -/
def State.flagsOne (s : State) (g : Nat) (q : Seq) : State := match s.group g, q.wait with
  | some G, .flags l => match l.filter G.unitStands with
    | [] => (s.beginUnit false G (G.mates q) q.pc 0).runUnit 3
    | left => s.setGroup { G with seqs := G.seqs.map fun r => if (G.mates q).contains r.id then { r with wait := .flags left } else r }
  | _, _ => s

/-- The `flgrd` units of a group that wait. -/
def State.flagsAll (s : State) (g : Nat) : State := match s.group g with
  | none => s
  | some G => G.seqs.foldl (fun t q => match (t.group g).bind fun H => H.seq q.id with
    | some r => t.flagsOne g r
    | none => t) s

/-- Ready quads whose next unit is a collective enter CWAIT (R146). -/
def State.toCwait (s : State) (g : Nat) : State := match s.group g with
  | none => s
  | some G =>
    let enter (q : Seq) : Seq := if q.canIssue s.now && (match s.peekUnit G q.pc with
      | some u => collectiveWord u.2
      | none => false) then { q with st := .cwait } else q
    s.setGroup { G with seqs := G.seqs.map enter }

/-- Every live quad and fragment waits in CWAIT or JWAIT, or away from home at an `mret`, and the group is not ganged (R146,
R294). -/
def Group.diverged (G : Group) : Bool :=
  (G.liveSeqs.all fun q => decide (q.st = .cwait) || decide (q.st = .jwait) || decide (q.wait = .home))
  && (G.liveSeqs.any fun q => decide (q.st = .cwait))
  && !(samePlace G.liveSeqs && G.liveSeqs.all fun q => decide (q.st = .cwait))

/-- The divergent-collective traps of a group, one for each quad in CWAIT (R146, R360). -/
def State.trapDiverged (s : State) (g : Nat) : State := match s.group g with
  | none => s
  | some G =>
    if G.diverged then
      (G.liveSeqs.filter fun q => decide (q.st = .cwait)).foldl (fun t q => t.trapQuad g q.id 0x12#8 0 q.pc (s.wordAt G q.pc)) s
    else s

/-- Sequencers of a group that meet merge (R148). -/
def State.regang (s : State) (g : Nat) : State := match s.group g with
  | none => s
  | some G => s.setGroup (G.regang s.now 48)

/-- What becomes ready in a group of the live context. -/
def State.prepareGroup (s : State) (G : Group) : State :=
  if !s.runs G then s
  else (((((((s.popAll G.gctx).flagsAll G.gctx).regang G.gctx).wakeAll G.gctx).toCwait G.gctx).trapDiverged G.gctx).returnHome G.gctx)

/-- What becomes ready in the groups of the live context. -/
def State.prepare (s : State) : State := s.live.groups.foldl State.prepareGroup s

/-- What becomes ready in a migrated group whose home context is in the shadow bank: it stays away at its `mret` (R295). -/
def State.prepareAway (s : State) (G : Group) : State :=
  if !s.runs G ∨ G.mig.isNone then s
  else ((((((s.popAll G.gctx).flagsAll G.gctx).regang G.gctx).wakeAll G.gctx).toCwait G.gctx).trapDiverged G.gctx)

/-- The same in both contexts. -/
def State.prepareBoth (s : State) : State :=
  let t := s.prepare
  if t.shadow.isNone then t else (t.exchange.live.groups.foldl State.prepareAway t.exchange).exchange

/-! ## Operands and fetches that take longer (R29, R139) -/

/-- The sequencers of a group that would become ready in this cycle, but for a fetch or an operand: which do is free, and those that
stand at one unit do so together (R143; log entry 33). `n` holds one bit for each unit of the group, from bit `i` on. -/
def delaySeqs (now n i : Nat) (l : List Seq) : List Seq :=
  l.map fun q => if decide (q.st = .run) && decide (q.wait = .none) && q.ready == now && bitAt n (i + l.findIdx fun r => r.pc == q.pc)
    then { q with ready := now + 1 } else q

/-- The same for groups. -/
def delayGroups (now n : Nat) : Nat → List Group → List Group
  | _, [] => []
  | i, G :: Gs => { G with seqs := delaySeqs now n i G.seqs } :: delayGroups now n (i + G.seqs.length) Gs

/-- Free delays of a cycle. -/
def State.delay (s : State) : State :=
  let (n, t) := s.choose
  { t with live := { t.live with groups := delayGroups t.now n 0 t.live.groups } }

/-! ## The issue slots (R140 to R145, R369, R378, R477) -/

/-- The shares' state of R140. -/
def State.turn (s : State) : Turn := ⟨s.lastWinner, s.shares.map fun x => match x with
  | some y => y.deficit
  | none => 0⟩

/-- The shares' state replaced. -/
def State.setTurn (s : State) (t : Turn) : State :=
  { s with lastWinner := t.last, shares := s.shares.mapIdx fun i x => x.map fun y => { y with deficit := t.counters.getD i 0 } }

/-- The slots that power gating leaves empty: a pattern that the spec does not give (R477). -/
def State.gate (s : State) : Nat × State := if s.pkg.gated || decide (100 ≤ s.pkg.dieTemps.getD s.die 0) then s.choose else (0, s)

/-- The check of a replay entry for a slot that issues nothing (R369); whether it fails is free. It comes after the cycle's issues, so that a
team barrier that waited for it folds the flags that they raise (R122). -/
def State.idleCheck (s : State) (left : Nat) : State :=
  let s0 := { s with idle := left }
  let (m, t) := if s.replays.isEmpty then (0, s0) else s0.choose
  orKeep t (execReplayCheck (m % 2 == 1) t)

/-- The slots of a cycle are chosen and filled, and those that issue nothing are counted; nothing issues while a swap is asked for (R379). -/
def State.fillSlots (s : State) : State :=
  if s.cx.swap then { s with idle := 2 }
  else
    let (g, s1) := s.gate
    let (slots, t) := s1.pickSlots (s1.cands (s1.live.groups.filter Group.atHome)) (bitAt g 0) (bitAt g 1) s1.turn
    { s1.setTurn t with issues := (slotOrder slots).flatMap Slot.issues, idle := 2 - slots.length }

/-- The bins whose oldest threads have waited long enough (R151). -/
def State.ageBins (s : State) : State := (List.range 32).foldl (fun t i => orKeep t (execBinDrawAge i t)) s

/-- A cycle of the core begins: its clocks count. What is due at the new time comes before the units that issue in it. -/
def State.beginCycle (s : State) : State := { s.tickClocks with cloned := [], tick := true }

/-- The rest of a cycle of the core. -/
def State.cycle (s : State) : State :=
  ((({ s with tick := false } : State).tickTimers.serveWaits.grantClaims.ageBins.tickBlocked).prepareBoth).delay.fillSlots

/-! ## Spar cores (R289) -/

/-- The issue state of a spar core. -/
def State.sparState (s : State) (stack core : Nat) : SparCore :=
  (s.bank.spar.find? fun x => x.stack == stack && x.core == core).getD ⟨stack, core, 63, []⟩

/-- The deficit counters of a spar core, by slice. -/
def SparCore.turn (x : SparCore) : Turn :=
  ⟨x.last, (List.range 64).map fun f => ((x.deficits.find? fun p => p.1 == f).map (·.2)).getD 0⟩

/-- The issue state of a spar core after a choice. -/
def SparCore.put (x : SparCore) (t : Turn) : SparCore :=
  { x with last := t.last, deficits := (List.range 64).filterMap fun f => let c := t.counters.getD f 0
    if c = 0 then none else some (f, c) }

/-- The state with a spar core's issue state replaced. -/
def State.setSpar (s : State) (x : SparCore) : State :=
  { s with bank := { s.bank with spar := x :: s.bank.spar.filter fun y => !(y.stack == x.stack && y.core == x.core) } }

/-- The ready groups of a spar core in the live context. -/
def State.sparCands (s : State) (stack core : Nat) : List Cand := s.cands (s.live.groups.filter fun G => match G.mig with
  | some m => m.stack == stack && m.core == some core
  | none => false)

/-- One issue of a spar core (R289): a share by R140, a group by R142, and its quads at one unit. -/
def State.sparIssue (s : State) (stack core : Nat) : State :=
  let t := s.exchange
  let home := s.sparCands stack core
  let away := if s.shadow.isNone then [] else t.sparCands stack core
  let fOfs := home.map (fun c => (false, s.fOf c.group, c)) ++ away.map fun c => (true, t.fOf c.group, c)
  let has (f : Nat) : Bool := fOfs.any fun p => p.2.1 == f
  let x := s.sparState stack core
  match chooseShare 64 (fun f => (s.slice f).sparEntry (8 * stack + core)) has has x.turn with
  | (none, _) => s
  | (some f, u) => match firstCand ((fOfs.filter fun p => p.2.1 == f).map (·.2.2)) with
    | none => s
    | some c =>
      let isAway := !(home.any fun d => d.group.uid == c.group.uid)
      let s1 := s.setSpar (x.put (u.charge f))
      match c.parts with
      | [] => s1
      | p :: ps =>
        let ids := (fillSlot p (ps.filter fun r => r.pc == p.pc)).flatMap (·.seqs)
        let i : Issue := ⟨c.group.gctx, ids, 64⟩
        if isAway then (s1.exchange.beginIssue true i).exchange else s1.beginIssue false i

end Sys2Proof.Machine
end

