-- ==== Sys2Proof/Machine/Journal.lean ====
section
/-! DEFINITION. The barrier journal's room: which items a step has changed for the first time since the last team barrier, and the
overflow that ends a team's eligibility (spec/17_faults_and_preemption.md R371, R372). -/
namespace Sys2Proof.Machine

/-- The entries that an item takes (R371). -/
def JItem.entries : JItem → Nat
  | .stack _ _ => 4
  | .lat _ _ => 2
  | _ => 1

/-- The places at which two lists differ. -/
def differ {α : Type} [DecidableEq α] (l m : List α) : List Nat :=
  if l = m then [] else (List.range (max l.length m.length)).filter fun i => decide (l[i]? ≠ m[i]?)

/-- What has changed of a thread: main registers by number, operand registers from 256 on, latches. -/
def threadItems (g : Nat) (a b : Thread) : List JItem :=
  if a = b then []
  else
    let p := b.col / 4
    (differ a.regs b.regs).map (.reg g p) ++ (differ a.opf b.opf).map (fun i => .reg g p (256 + i)) ++ (if a.lats = b.lats then [] else [.lat g p])

/-- What has changed of the threads of a group. -/
def threadsItems (g : Nat) : List Thread → List Thread → List JItem
  | a :: as, b :: bs => threadItems g a b ++ threadsItems g as bs
  | _, _ => []

/-- What has changed of a sequencer: its pc, mask, depth and spill count with the window base, and its stack. -/
def seqItems (g wa wb : Nat) (old : List Seq) (b : Seq) : List JItem := match old.find? fun a => a.id == b.id with
  | none => [.seq g b.id, .stack g b.id, .lat g b.id]
  | some a =>
    (if a.pc = b.pc ∧ a.active = b.active ∧ wa = wb ∧ a.stack.length = b.stack.length ∧ a.spill = b.spill then [] else [.seq g b.id])
    ++ (if a.stack = b.stack then [] else [.stack g b.id])

/-- What has changed of a group; a group that did not exist then counts with its quads. -/
def groupItems (old : List Group) (b : Group) : List JItem :=
  let g := b.gctx
  match old.find? fun a => a.uid == b.uid with
  | none => b.seqs.map fun q => .seq g q.id
  | some a =>
    (differ a.unif b.unif).map (.unif g) ++ (differ a.masks b.masks).map (.mask g) ++ (if a.timer = b.timer then [] else [.timer g])
    ++ threadsItems g a.threads b.threads ++ b.seqs.flatMap (seqItems g a.winb b.winb a.seqs)

/-- A team as the journal sees it: its record, its groups and its scratch. -/
structure Journaled where
  team : Team
  groups : List Group
  scratch : List Host.Cell
deriving DecidableEq, Repr

/-- A resident team as it stands. -/
def State.journaled (s : State) (k : Nat) : Option Journaled := (s.team k).map fun T => ⟨T, s.teamGroups k, s.teamScratch T⟩

/-- The 16-byte rows of scratch that differ. -/
def rowItems (base : Nat) (a b : List Host.Cell) : List JItem :=
  if a = b then []
  else ((((a.filter fun c => !b.contains c) ++ b.filter fun c => !a.contains c).map fun c => (c.1 - base) / 16).dedup).map .scr

/-- What has changed of a team (R371). -/
def teamItems (a b : Journaled) : List JItem :=
  b.groups.flatMap (groupItems a.groups) ++ rowItems b.team.scrBase a.scratch b.scratch
    ++ (differ a.team.bars b.team.bars).map .bar ++ (differ a.team.chans b.team.chans).map .chan
    ++ (if a.team.fp.committed = b.team.fp.committed then [] else [.flags]) ++ (if a.team.fp.mode = b.team.fp.mode then [] else [.mode])

/-- Items added to a journal, each once. -/
def addItems (l : List JItem) (m : List JItem) : List JItem := m.foldl (fun l i => if l.contains i then l else l ++ [i]) l

/-- Entries in use, over both contexts. -/
def State.journalUse (s : State) : Nat := (s.allTeams.flatMap fun T => T.journal.map JItem.entries).sum

/-- The interval in which a team stands: what its journal began from. -/
def State.interval (s : State) (k : Nat) : Option TeamSnap := s.live.snaps.find? fun p => p.team.slot == k

/-- The changes of a step to one team enter its journal; when there is no room the team's eligibility ends. A step that completes a
team barrier counts from the completion on, and so does one that rolls the team back, which has freed its entries (R373). -/
def State.journalTeam (old : State) (s : State) (T : Team) : State :=
  if !T.eligible then s
  else
    let base : Option Journaled := match s.interval T.slot with
      | some p => if old.interval T.slot = some p ∧ (old.team T.slot).map (·.rollbacks) = some T.rollbacks then old.journaled T.slot
        else some ⟨p.team, p.groups, p.scratch⟩
      | none => none
    match base, s.journaled T.slot with
    | some a, some b =>
      let items := addItems T.journal (teamItems a b)
      let t := s.setTeam { T with journal := items }
      if 2048 < t.journalUse then t.endEligible T.slot else t
    | _, _ => s

/-- The journal after a step: the teams of the live context (R371). -/
def State.journalStep (old s : State) : State := s.live.teams.foldl (fun t T => State.journalTeam old t T) s

end Sys2Proof.Machine
end

