-- ==== Sys2Proof/Machine/Upsets.lean ====
section
/-! DEFINITION. What physics does to the part at times and places that nothing foretells: errors of arrays, links, tags, journals and
rings, and a clone that does not agree (spec/09 R213 to R216; spec/17 R368, R369; spec/19 R397, R401). Each comes by a free choice (log entry
47). -/
namespace Sys2Proof.Machine

/-- The kinds of upset. -/
inductive Upset where
  | corrected
  | uncorrectable
  | replayed
  | exhausted
  | tag
  | tier
  | journal
  | ring
  | clone
  | accumulator
  | heat
deriving DecidableEq, Repr

/-- Every kind. -/
def allUpsets : List Upset := [.corrected, .uncorrectable, .replayed, .exhausted, .tag, .tier, .journal, .ring, .clone, .accumulator, .heat]

/-- The slices that exist. -/
def State.validSlices (s : State) : List Nat := (List.range 64).filter fun f => (s.slice f).valid

/-- A 16-byte block of a slice's memory by free choices: its slice and physical address. -/
def State.anyBlock (s : State) : Option (Nat × Nat) × State :=
  let (n, t) := s.choose
  let (m, u) := t.choose
  let a := m % 2 ^ 36 * 16
  (match s.validSlices[n % max 1 s.validSlices.length]? with
    | some f => if spaInWindow (s.slice f) a then some (f, a) else none
    | none => none, u)

/-- An event in a slice's error counters (R215). -/
def State.countErr (s : State) (f lo : Nat) : State := s.setSlice f { s.slice f with errs := satAdd64 (s.slice f).errs lo }

/-- Link CRC fails nine times (R214): the next transfer of the CRC group arrives poisoned, and its sub-channel is to be retrained. -/
def State.crcExhausted (s : State) (f a : Nat) : State :=
  let (n, t) := s.choose
  let x := s.slice f
  let k := (spaRow f x a).1
  let t1 := t.countErr f 0
  let c := 64 * k.stack + n % 64
  let t2 := { t1 with
    paths := { t1.paths with linkBad := (dramKey f a / 32) :: t1.paths.linkBad }
    cal := { t1.cal with retrain := if t1.cal.retrain.contains c then t1.cal.retrain else c :: t1.cal.retrain } }
  t2.recEvent (0x100 + k.stack) 0x06 0x03 0 0 (n % 64 + rowBank x k / 128 * 64)

/-- The event that stands for an unreadable entry of a ring (R397, R401). -/
def unreadableEvent : BitVec 128 := eventOf 0x3F 0x02 0 0 0#48 1

/-- An entry of a ring has an uncorrectable error (R397). -/
def Ring.lose (r : Ring) (n : Nat) : Ring :=
  let all := r.main.length
  if n < all then { r with main := r.main.set n unreadableEvent }
  else match r.marks[(n - all) % max 1 r.marks.length]? with
    | none => r
    | some p =>
      let i := (n - all) / max 1 r.marks.length % max 1 p.2.length
      { r with marks := r.marks.map fun q => if q.1 = p.1 then (q.1, q.2.set i unreadableEvent) else q }

/-- An uncorrectable error hits a word of a held accumulator slot (R307); all are free choices. -/
def State.accError (s : State) : State :=
  let (n, t) := s.choose
  let (m, u) := t.choose
  let Ts := s.live.teams ++ (s.shadow.getD Ctx.empty).teams
  match Ts[n % max 1 Ts.length]? with
  | none => u
  | some T =>
    let k := n / max 1 Ts.length % 8
    if (T.acc k).held then u.onTeam T.uid fun U => U.setAcc k ((U.acc k).spoil (m % 256) (m / 256 % 128)) else u

/-- The sensor of a compute die reads a temperature (R476): which, and what, are free choices. -/
def State.heatDie (s : State) : State :=
  let (n, t) := s.choose
  t.readDies (t.pkg.dieTemps.set (n % 4) (n / 4 % 128))

/-- An upset (R213 to R216, R307, R368, R369, R397, R476). -/
def State.upset (s : State) : Upset → State
  | .corrected => match s.anyBlock with
    | (some p, t) => t.countErr p.1 16
    | (none, t) => t
  | .uncorrectable => match s.anyBlock with
    | (some p, t) =>
      let b := dramKey p.1 p.2 / 16
      if t.eccBad.contains b then t else { t with eccBad := b :: t.eccBad }
    | (none, t) => t
  | .replayed => match s.anyBlock with
    | (some p, t) => t.countErr p.1 0
    | (none, t) => t
  | .exhausted => match s.anyBlock with
    | (some p, t) => t.crcExhausted p.1 p.2
    | (none, t) => t
  | .tag => match s.anyBlock with
    | (some p, t) =>
      let k := (spaRow p.1 (t.slice p.1) p.2).1
      if t.rowBad.contains k then t else { t with rowBad := k :: t.rowBad, paths := { t.paths with rowPart := t.paths.rowPart.filter fun p => p.1 != k } }
    | (none, t) => t
  | .tier =>
    let (n, t) := s.choose
    { t with pkg := { t.pkg with tier := t.pkg.tier.mapIdx fun i b => if i = n % max 1 t.pkg.tier.length then { b with bad := true } else b } }
  | .journal =>
    let (n, t) := s.choose
    let Ts := s.live.teams.filter fun T => !T.journal.isEmpty && !T.ended
    match Ts[n % max 1 Ts.length]? with
    | some T => t.silentError T.slot (t.teamShare T) (0x7FF + 2 ^ 16)
    | none => t
  | .ring =>
    let (n, t) := s.choose
    let (m, u) := t.choose
    match s.rings[n % max 1 s.rings.length]? with
    | some p => u.setRing p.1 (p.2.lose (m % max 1 (p.2.main.length + (p.2.marks.map (·.2.length)).sum)))
    | none => u
  | .accumulator => s.accError
  | .heat => s.heatDie
  | .clone => match s.cloned with
    | [] => s
    | g0 :: gs =>
      let (n, t) := s.choose
      let g := (g0 :: gs).getD (n % (gs.length + 1)) g0
      let u := { t with cloned := (g0 :: gs).filter fun h => h != g }
      match (t.group g).bind fun G => G.team.map fun k => (k, G.share) with
      | some p => u.silentError p.1 p.2 (g % 2048)
      | none => u

end Sys2Proof.Machine
end

