-- ==== Sys2Proof/Machine/Events.lean ====
section
/-! DEFINITION. What the part does by itself between the units of its groups: the steps of its other agents, which of them may come
next, and the decisions of the monitor (spec/95_what_each_step_holds.md; spec/17 R361, R368; spec/20 R416 to R424). -/
namespace Sys2Proof.Machine

/-- A step that an agent of the part takes by itself. -/
inductive Ev where
  | readLaunchEntry (f : Nat)
  | placement (f : Nat)
  | framePost (share : Nat)
  | handlerGroupStart (share : Nat)
  | teamRollback (team : Nat)
  | contextSwap
  | contextSpill
  | contextLoad
  | arrival (away : Bool) (gctx : Nat)
  | leaseHandoff
  | scanComplete
  | clearComplete
  | matrixOpStart
  | matrixOpComplete
  | tileCopyStart (op : Nat)
  | tileCopyComplete (op : Nat)
  | recordPost (pos : Nat)
  | runPrecheck (run : Nat)
  | admission (stack bank : Nat)
  | runComplete (run : Nat)
  | chainEntry (kind engine : Nat)
  | chunk (engine : Nat)
  | ringCopy
  | capsuleBuild
  | capsuleFlush
  | granule (f ordinal granule : Nat)
  | spar (stack core : Nat)
  | graceEnd (slot : Nat)
  | changeEnd (f : Nat)
  | flit (port : Nat)
  | replay (port : Nat)
  | acknowledged (k : Nat)
  | faultRecords (f : Nat)
  | monitor (k decision : Nat)
  | remoteTrigger (grid linear : Nat)
  | remoteEnd (grid linear : Nat)
  | remoteSend (team ch : Nat)
  | upset (u : Upset)
deriving DecidableEq, Repr

/-! ## The monitor (R361, R364, R368, R374) -/

/-- The frames that wait for the monitor. -/
def State.monitorFrames (s : State) : List Frame := s.live.frames.filter (·.monitor)

/-- The contained-error's code for a frame that the monitor does not resolve: a stage-2 fault, a trap at S, its own decision. -/
def Frame.containCode (f : Frame) : Nat :=
  if f.level = .S then 4 else if 0x05 ≤ f.cause.toNat ∧ f.cause.toNat ≤ 0x08 then 3 else 5

/-- The monitor ends a frame as a team kill with a slice contained-error (R361, R374). -/
def State.unresolved (s : State) (f : Frame) : State :=
  let vf := bits f.ids.toNat 17 12
  let s1 := s.endFrame f 1
  let s2 := match f.team with
    | some k => s1.killTeam k 3 f.cause.toNat true
    | none => s1
  s2.containSlice s2.coreNo vf f.containCode (eventOf 0x04 0x04 (if vf = 0 then 0 else f.ids.toNat % 4096) vf (unitCycles s2 s2.coreNo) f.containCode)

/-- The team for whose frame a handler group was started, while it lives. -/
def State.servedTeam (s : State) (g : Nat) : Option Team :=
  ((s.group g).bind (·.serving)).bind fun u => s.live.teams.find? fun T => T.uid == u && !T.ended

/-- The handler group's consumption (R368): the team for whose frame it was started is killed, and the group ends with its other frames, to
start again for the oldest frame not yet started. -/
def State.killServed (s : State) (f : Frame) : State :=
  let s1 := (s.endFrame f 1).withdraw fun x => x.gctx == f.gctx && x.team.isNone
  let s2 := match s1.servedTeam f.gctx with
    | some T => s1.killTeam T.slot 3 f.cause.toNat true
    | none => s1
  match s2.group f.gctx with
  | some G => s2.groupGone G
  | none => s2

/-- A decision of the monitor on a frame: resume, end it, or for a handler group's consumption kill the team that it served. -/
def State.monitorDecides (s : State) (k decision : Nat) : State := match s.monitorFrames[k]? with
  | none => s
  | some f => match decision with
    | 0 => (s.endFrame f 0).resumeAt f f.pc.toNat
    | 1 => s.unresolved f
    | _ => if f.cause = 0x19#8 ∧ f.team = none then s.killServed f else s

/-! ## Accesses served at banks (R287) -/

/-- A unit of a group that waited at a bank is run, in the context that is the group's home. -/
def State.serveUnit (s : State) (away : Bool) (who : Holder) : State :=
  let t := if away then s.exchange else s
  match t.live.groups.find? fun G => G.uid == who.uid with
  | none => s
  | some G =>
    let mine := G.seqs.filter fun q => who.seqs.contains q.id && decide (q.st = .run) && decide (q.wait = .engine)
    match mine with
    | [] => s
    | q0 :: _ =>
      let ids := (mine.filter fun q => q.pc == q0.pc).map (·.id)
      let wake (q : Seq) : Seq := if ids.contains q.id then { q with wait := .none, ready := t.now } else q
      if !t.runs G then s
      else
        let u := (t.setGroup { G with seqs := G.seqs.map wake }).beginUnit away G ids q0.pc 0
        (if away then u.exchange else u).runUnit 3

/-- A request of the link among the inputs, by its holder. -/
def isLink (who : Holder) : Instr → Bool
  | .remoteAccess slot src epoch ia op body => linkHolder ⟨body, slot, src, epoch, ia, op⟩ == who
  | _ => false

/-- The request of the link that waits among the inputs is performed. -/
def State.serveLink (s : State) (who : Holder) : State := match s.inputs.find? (isLink who) with
  | some (.remoteAccess slot src epoch ia op body) => orKeep s (execRemoteAccess slot src epoch ia op body { s with inputs := s.inputs.eraseP (isLink who) })
  | _ => s

/-- What waited at a bank is tried again. -/
def State.serveHolder (s : State) (who : Holder) : State :=
  if who.uid < 2 ^ 32 then
    let home := s.live.groups.any fun G => G.uid == who.uid
    let away := (s.shadow.getD Ctx.empty).groups.any fun G => G.uid == who.uid && G.mig.isSome
    if home then s.serveUnit false who else if away then s.serveUnit true who else s
  else if who.uid = 2 ^ 33 then s.serveLink who
  else if who = matrixHolder then orKeep s (execScanComplete s)
  else if who = contextHolder then (if s.cx.spill then orKeep s (execContextSpill s) else orKeep s (execContextLoad s))
  else if 2 ^ 36 ≤ who.uid ∧ who.uid < 2 ^ 36 + 64 then orKeep s (execReadLaunchEntry (who.uid - 2 ^ 36) s)
  else if 2 ^ 37 ≤ who.uid ∧ who.uid < 2 ^ 37 + 64 then s.servePosts (who.uid - 2 ^ 37) (s.fqWaiting (who.uid - 2 ^ 37))
  else if 2 ^ 37 + 64 ≤ who.uid ∧ who.uid < 2 ^ 37 + 68 then orKeep s (execFramePost (who.uid - 2 ^ 37 - 64) s)
  else match s.tcs.find? fun o => o.holder == who with
    | some o => orKeep s (execTileCopyStart o.id s)
    | none => match s.engs.findIdx? fun e => e.holder == who with
      | some i => match s.engs[i]? with
        | some e => if e.st = 1 then [0, 1, 2, 3, 8, 9, 10, 11].foldl (fun t k => orKeep t (chainFetch k i t)) s else orKeep s (execEngineChunk i s)
        | none => s
      | none => match s.bank.runs.find? fun r => r.holder == who with
        | some r => orKeep s (execRunPrecheck r.id s)
        | none => s

/-- A holder still stands in the list of some bank. -/
def State.heldElsewhere (s : State) (who : Holder) : Bool := s.bank.insts.any fun j => j.held.any fun g => g.data.isNone && g.who.covers who

/-- The accesses held at a bank are served in their order (R287). A unit that several banks hold is performed when the last of them serves it
(log entry 46). -/
def State.serveBank (s : State) (i : Inst) : State :=
  let one (t : State) (h : Held) : State := match h.data with
    | some w => t.heldWrite w
    | none => if t.heldElsewhere h.who then t else t.serveHolder h.who
  let s1 := i.held.foldl one (s.takeHeld i)
  { s1 with bank := { s1.bank with granted := s1.bank.granted.filter fun g => s1.heldElsewhere g.1 } }

/-- What a bank does now by itself: it serves the accesses held at it, or its instance's next micro-op begins (R278, R287). -/
def State.bankDue (s : State) : Option State := (s.bank.insts.find? fun i => s.serveDue i || s.instDue i).map fun i =>
  if s.serveDue i then s.serveBank i else if i.ending.isSome then s.endStep i else s.pickInst i

/-! ## Running a step -/

/-- What physics does to a matrix operation: by a free choice nothing, or one of the upsets (R307, R313, R319). -/
def anyUpset (n : Nat) : EngineUpset := match n % 4 with
  | 0 => .residue (n / 4 % 128)
  | 1 => .planeEcc (n / 4 % 128)
  | 2 => .accEcc (n / 4 % 256) (n / 1024 % 128)
  | _ => .clean

/-- The meaning of a step; one that cannot come now changes nothing. -/
def Ev.run (s : State) : Ev → State
  | .readLaunchEntry f => orKeep s (execReadLaunchEntry f s)
  | .placement f => orKeep s (execPlacement f s)
  | .framePost i => orKeep s (execFramePost i s)
  | .handlerGroupStart i => orKeep s (execHandlerGroupStart i s)
  | .teamRollback k => orKeep s (execTeamRollback k s)
  | .contextSwap => orKeep s (execContextSwap s)
  | .contextSpill => orKeep s (execContextSpill s)
  | .contextLoad => orKeep s (execContextLoad s)
  | .arrival away g => if away then (orKeep s.exchange (execMigrationArrival g s.exchange)).exchange else orKeep s (execMigrationArrival g s)
  | .leaseHandoff => orKeep s (execLeaseHandoff s)
  | .scanComplete => orKeep s (execScanComplete s)
  | .clearComplete => orKeep s (execClearComplete s)
  | .matrixOpStart =>
    let (n, t) := s.choose
    orKeep t (execMatrixOpStart (anyUpset n) t)
  | .matrixOpComplete => orKeep s (execMatrixOpComplete s)
  | .tileCopyStart n => orKeep s (execTileCopyStart n s)
  | .tileCopyComplete n => orKeep s (execTileCopyComplete n s)
  | .recordPost n => orKeep s (execCompletionRecordPost n s)
  | .runPrecheck n => orKeep s (execRunPrecheck n s)
  | .admission st b => orKeep s (execBankAdmission st b s)
  | .runComplete n => orKeep s (execRunComplete n s)
  | .chainEntry k e => orKeep s (chainFetch k e s)
  | .chunk e => orKeep s (execEngineChunk e s)
  | .ringCopy => orKeep s (execRingCopy s)
  | .capsuleBuild => orKeep s (execCapsuleBuild s)
  | .capsuleFlush => orKeep s (execCapsuleFlush s)
  | .granule f o g => orKeep s (execLiveGranuleMove f o g s)
  | .spar st c => s.sparIssue st c
  | .faultRecords f => s.servePosts f (s.fqWaiting f)
  | .graceEnd n => orKeep s (execEpochGraceEnd n s)
  | .changeEnd f => s.endChange f
  | .flit i => s.sendFlit i
  | .replay i => s.onPort i Port.replay
  | .acknowledged k => s.acknowledged k
  | .monitor k d => s.monitorDecides k d
  | .remoteTrigger i n => s.remoteTrigger i n
  | .remoteEnd i n => s.remoteEnd i n
  | .remoteSend k j => s.remoteSend k j
  | .upset u => s.upset u

/-- The freeze controller's own steps, which go on when the part has stopped (R405). -/
def controllerEvs : List Ev := [.ringCopy, .capsuleBuild, .capsuleFlush]

/-- A peer of a team runs on another core. -/
def State.hasFarPeer (s : State) (T : Team) : Bool := (List.range T.csize).any fun r => decide (s.peer T r = .elsewhere)

/-- The steps that may come next; those among them that change nothing are left out by `State.enabled`. -/
def State.offered (s : State) : List Ev :=
  let shares := (List.range 4).filter fun i => (s.share i).isSome
  let waiting (away : Bool) (c : Ctx) : List Ev := (c.groups.filter fun G => match G.mig with
    | some m => m.core.isNone
    | none => false).map fun G => .arrival away G.gctx
  let sparred (c : Ctx) : List Ev := c.groups.filterMap fun G => G.mig.bind fun m => m.core.map fun k => .spar m.stack k
  let shadow := s.shadow.getD Ctx.empty
  List.flatten [
    controllerEvs,
    s.validSlices.flatMap (fun f => [.readLaunchEntry f, .placement f]),
    s.validSlices.filterMap (fun f => (s.slice f).trust.move.map fun m => .granule f m.1 m.2.1),
    (List.range 64).flatMap (fun f => if (s.slice f).trust.change.isSome then [.changeEnd f] else []),
    (List.range s.pkg.ports.length).flatMap (fun i => [.flit i, .replay i]),
    (List.range s.paths.unacked.length).map .acknowledged,
    shares.flatMap (fun i => [.framePost i, .handlerGroupStart i]),
    (s.live.teams.filter fun T => T.stopping.isSome).map (fun T => .teamRollback T.slot),
    [.contextSwap, .contextSpill, .contextLoad],
    waiting false s.live, waiting true shadow, (sparred s.live ++ sparred shadow).dedup,
    [.leaseHandoff, .scanComplete, .clearComplete],
    if s.mx.ops.isEmpty then [] else [.matrixOpStart, .matrixOpComplete],
    s.tcs.flatMap (fun o => [.tileCopyStart o.id, .tileCopyComplete o.id]),
    (List.range s.held.length).map .recordPost,
    s.bank.runs.flatMap (fun r => [.runPrecheck r.id, .runComplete r.id]),
    s.bank.insts.map (fun i => .admission i.stack i.bank),
    (List.range s.engs.length).flatMap (fun i => .chunk i :: [0, 1, 2, 3, 8, 9, 10, 11].map (Ev.chainEntry · i)),
    (s.bank.posts.map (·.1)).dedup.map .faultRecords,
    (s.pkg.enclaves.filter (·.grace)).map (fun e => .graceEnd e.slot),
    (List.range s.monitorFrames.length).flatMap (fun k => [.monitor k 0, .monitor k 1, .monitor k 2]),
    s.grids.flatMap (fun g => g.remote.flatMap fun r => [.remoteTrigger g.id r.linear, .remoteEnd g.id r.linear]),
    s.live.teams.flatMap (fun T => if s.hasFarPeer T then (List.range 48).map (.remoteSend T.slot) else []),
    allUpsets.map .upset]

/-- The steps of a list that change the machine now. -/
def State.enabled (s : State) (l : List Ev) : List Ev := l.filter fun e => decide (e.run s ≠ s)

/-! ## The calendar's steps, each at its time (R416 to R423) -/

/-- A beacon that is due passes, or first one of the dies misses it, by a free choice (R419). -/
def State.beaconStep (s : State) : State :=
  let (n, t) := s.choose
  if n % 2 = 0 then orKeep t (execBeacon t) else orKeep t (execBeaconMissed (n / 2 % 18) t)

/-- The first request that a slot has held and that a base die serves now (R423): in the order of arrival. -/
def State.serveQueue (s : State) : Option State :=
  (s.cal.queue.find? fun q => !s.inSlotOn (4 + q.2)).map fun q =>
    let t : State := { s with cal := { s.cal with queue := s.cal.queue.erase q } }
    if t.cal.queue.any fun p => p.1.covers q.1 then t else t.serveHolder q.1

/-- The calendar's step that is due now. -/
def State.calendarStep (s : State) : Option State :=
  if s.cal.inSlot.any fun p => decide (p.2 ≤ s.now) then some (orKeep s (execSlotEnd s))
  else if s.cal.inSlot.isNone && decide (s.cal.next.start ≤ s.now) then some (orKeep s (execSlotStart s))
  else if !s.overrunDue.isEmpty then some s.overrunAll
  else if s.beaconDue then some s.beaconStep
  else if s.cal.inSlot.isNone && !s.cal.drained && decide (s.cal.next.start ≤ s.now + 235) then some (orKeep s (execDrainPoint s.die s))
  else match (List.range 18).find? fun d => decide (s.syncEngs d ≠ s) with
    | some d => some (s.syncEngs d)
    | none => s.serveQueue

/-! ## Between the units -/

/-- Between the units: what is due, of the banks and then of the calendar; then the rest of a cycle that has begun; else by a free choice a step
of another agent, or a new cycle of the core. -/
def State.between (s : State) : State := match s.bankDue, s.calendarStep with
  | some t, _ => t
  | none, some t => t
  | none, none =>
    if s.tick then s.cycle
    else
      let (n, t) := s.choose
      let l := s.enabled s.offered
      match l[n % (l.length + 1)]? with
      | some e => e.run t
      | none => t.beginCycle

/-- Between the steps of a part that has stopped: what is left for the freeze controller to do (R374, R405). -/
def State.afterStop (s : State) : Option State := (s.enabled controllerEvs).head?.map fun e => e.run s

end Sys2Proof.Machine
end

