-- ==== Sys2Proof/Machine/Run.lean ====
section
/-! DEFINITION. One step of the machine: a word of the unit in progress, a word of a bank microkernel, the next issue of a slot, an
input from outside, or what the part does by itself (spec/01 R28, R30; spec/12 R265 to R279; spec/17 R374). -/
namespace Sys2Proof.Machine

/-! ## Inputs (spec/23_host_scale_up_and_enclaves.md; spec/22) -/

/-- The functions on this device that a revocation releases (R471). -/
def State.revokesOf (s : State) (enclave : BitVec 64) (part : Nat) : List Nat :=
  ((s.pkg.enclaves.find? fun e => e.id == enclave).map (·.of part)).getD []

/-- The slices that an input changes, one change at a time (R460, R471). -/
def State.changesOf (s : State) : Instr → List Nat
  | .validSet f _ | .validClear f | .keyprog f _ _ | .growSlice f _ _ | .liveGranuleMove f _ _ | .lockInterfaceRequest f
  | .startInterfaceRequest f _ | .stopInterfaceRequest f => [f]
  | .registerWrite f (.map off _) _ => if off = 0 then [f] else []
  | .revoke _ enclave part _ => s.revokesOf enclave part.1
  | .doorbell f len => match s.mailed f len with
    | b :: r => if b = 0x13#8 then s.revokesOf (BitVec.ofNat 64 (fld (b :: r) 1 8)) (fld (b :: r) 9 1) else []
    | [] => []
  | _ => []

/-- A live move goes on at a slice while the input comes, which only a STOP or a revocation ends (R460, R471). -/
def endsMove : Instr → Bool
  | .stopInterfaceRequest _ | .revoke .. | .doorbell .. => true
  | _ => false

/-- An input that waits: a change of a slice while another of the same slice is in progress (R460), a remote request whose row is held
(R287, R422). -/
def State.inputWaits (s : State) (i : Instr) : Bool := match i with
  | .remoteAccess slot src epoch ia op body => s.remoteWaits ⟨body, slot, src, epoch, ia, op⟩
  | _ => (s.changesOf i).any fun f => (s.slice f).trust.change.isSome || (!endsMove i && (s.slice f).trust.move.isSome)

/-- What an input that waits leaves behind: a remote request stands in the list of its bank (R287). -/
def State.inputHeld (s : State) : Instr → State
  | .remoteAccess slot src epoch ia op body => s.remoteHold ⟨body, slot, src, epoch, ia, op⟩
  | _ => s

/-- The first input that does not wait, by its place, with the state in which those before it wait; `fs` are the slices of the changes among
them, and a later change of one of these comes after it (R460). -/
def State.firstInput (s : State) (fs : List Nat) : Nat → List Instr → Option (Nat × Instr) × State
  | _, [] => (none, s)
  | n, i :: rest =>
    if s.inputWaits i || (!endsMove i && (s.changesOf i).any fs.contains) then (s.inputHeld i).firstInput (s.changesOf i ++ fs) (n + 1) rest
    else (some (n, i), s)

/-- An input is taken, the first that does not wait. A word is no input: only a group or a bank unit runs one. -/
def State.takeInput (s : State) : Out := match s.firstInput [] 0 s.inputs with
  | (none, t) => .next t
  | (some (n, i), t) => if isWord i then .next { t with inputs := s.inputs.eraseIdx n } else exec i { t with inputs := s.inputs.eraseIdx n }

/-- A reset (R8, R413, R461, R474). -/
def isReset : Instr → Bool
  | .coldReset _ | .warmReset | .hotReset | .functionReset .. => true
  | _ => false

/-- A part that has stopped takes resets alone, ends its capsule, and then does nothing more (R374, R405). -/
def State.stopped (s : State) : Out := match s.inputs with
  | i :: rest => if isReset i then exec i { s with inputs := rest } else .next { s with inputs := rest }
  | [] => match s.afterStop with
    | some t => .next t
    | none => .fault .deviceStopped

/-! ## Bank microkernels (R269, R277) -/

/-- The word at an instance's position of its image run (R269, R282). -/
def State.bankStep (s : State) (k : Nat × Nat) : Out := match s.run k.1, s.inst k.1 k.2 with
  | some r, some i => match bankWord (r.image.getD i.pc 0#32) with
    | some w => exec w s
    | none => .next { s with bank := { s.bank with cur := none } }
  | _, _ => .next { s with bank := { s.bank with cur := none } }

/-! ## A step -/

/-- What a step changes of the teams of the live context enters their journals (R371). -/
def withJournal (s : State) : Out → Out
  | .next t => .next (State.journalStep s t)
  | .fault e => .fault e
  | .refused r => .refused r

/-- With no unit in progress: the next issue of the cycle begins; or a check for a slot that issued nothing; or an input is taken, by a free
choice of when it comes; or the part goes on by itself. -/
def State.idleStep (s : State) : Out := match s.issues, s.idle, s.inputs with
  | i :: is, _, _ => .next (({ s with issues := is } : State).beginIssue false i)
  | [], n + 1, _ => .next (s.idleCheck n)
  | [], 0, _ :: _ =>
    let (n, t) := s.choose
    if n % 2 = 0 then t.takeInput else .next t.between
  | [], 0, [] => .next s.between

/-- One step. -/
def State.advanceOne (s : State) : Out :=
  if s.device then s.stopped
  else match s.bank.cur with
    | some k => s.bankStep k
    | none => if s.cur.isSome then withJournal s s.runCur else withJournal s s.idleStep

/-! ## Placing an instruction -/

/-- A team's group that stands at an address, in slice 0 while its supervisor boots, so that the address is a physical one (R452);
its thread has the most registers that a window can name. -/
def probeGroup (pc : BitVec 56) : Group where
  gctx := 0
  uid := 0
  share := 0
  team := some 0
  role := 0
  index := 0
  width := 64
  reformed := false
  level := .S
  winb := 0
  unif := List.replicate 16 pzero
  masks := List.replicate 7 0#64
  threads := [Thread.fresh 0 0 0 104]
  seqs := [Seq.fresh 0 0 1#4 pc 0]
  timer := 0
  timerPend := false
  own := FpCtx.zero
  sel := 0#10
  mx := ClassSeq.empty
  tc := ClassSeq.empty
  bk := ClassSeq.empty
  unret := []
  mig := none
  serving := none

/-- The team of that group. -/
def probeTeam : Team where
  slot := 0
  uid := 0
  grid := 0
  linear := 0
  tx := 0
  ty := 0
  tz := 0
  cluster := 0
  crank := 0
  csize := 1
  scrBase := 0
  scrSize := 4096
  bars := List.replicate 16 ⟨0#16, 0, 0, none⟩
  chans := some ⟨2, 0, 0, 0, List.replicate 2 0#64⟩ :: List.replicate 47 none
  accs := List.replicate 8 ⟨none, 0, false, []⟩
  fp := FpCtx.zero
  fpx := 0#64
  cesel := 0x3FF#10
  triggered := false
  eligible := false
  rollbacks := 0
  journal := []
  stopping := none
  blocked := 0
  blockedFree := 0
  ended := false
  killed := false

/-- The grid of that team. -/
def probeGrid : Grid where
  id := 0
  f := 0
  asid := 0#12
  entryVa := 0#64
  next := 0#64
  code := 0#64
  codeSize := 4096
  roles := [(0, 64, 1, 104)]
  scr := 4096
  chanBase := 0
  chans := [2]
  gx := 1
  gy := 1
  gz := 1
  csize := 1
  prio := 0
  deps := [0xFFFF00000000#64, 0xFFFF00000000#64]
  trigt := 0xFFFF00000000#64
  const := []
  nextCluster := 1
  placing := false
  triggeredTeams := 0
  triggerWritten := false
  endedTeams := 0
  killed := false

/-- The bank run and the instance whose next word is a given one. -/
def probeRun (w : Word) : Run :=
  ⟨0, 0, 0, 0, 0, 0, 0#12, false, 0#32, 0, false, 0, none, 0, 0, true, 0#8, List.replicate 128 0#8, w :: List.replicate 63 0#32, 7000, [], [], false, 0#16⟩

/-- That instance, in plain text of slice 0's first page. -/
def probeInst : Inst :=
  ⟨0, 0, 0, 0, 0, 0, true, List.replicate 4 .closed, List.replicate 64 pzero, 0, [], 0#5, 0, false, false, false, [], 0, false, [], [], none⟩

/-- Slice 0 with one granule while its supervisor boots, and its share of the core. -/
def State.withProbe (s : State) (w : Word) (words : List Word) : State :=
  let x : Slice := { s.slice 0 with valid := true, gran := some 0 :: List.replicate 63 none, trCtl := 0x1000#32, cores := [(s.coreNo, 16, 0)] }
  let s1 := s.setSlice 0 x
  let s2 := spaWrite s1 0 4096 (words.flatMap wordBytes)
  let c : Cur := ⟨false, 0, [0], 4096#56, 4096#56, 0#32, none, none, 1⟩
  { s2 with
    device := false
    shares := [some ⟨0, 16, 0, 0#64, 0#32, List.replicate 64 0#8, 64⟩, none, none, none]
    grids := [probeGrid]
    live := { Ctx.empty with groups := [probeGroup 4096#56], teams := [probeTeam], free := 8192 - 13 }
    bank := if (bankWord w).isSome then { s.bank with runs := [probeRun w], insts := [probeInst], cur := some (0, 0) } else { s.bank with cur := none }
    cur := some c }

end Sys2Proof.Machine
end

