-- ==== Sys2Proof/Machine/Step.lean ====
section
/-! DEFINITION. The step function, and the state in which the next step runs a given instruction. -/
namespace Sys2Proof.Machine

/-- One step of the machine. -/
def step (s : State) : Host.Outcome State Fault Refusal := s.advanceOne

/-- The state with an instruction placed where the next step fetches: its words at the address of a unit in progress, or, for a
bank-op, in the image of a running instance (log entry 35). -/
def State.withFetchWord (s : State) (nbits w : Nat) : State :=
  let words := (List.range 3).map fun i => if 32 * i < nbits then BitVec.ofNat 32 (w / 2 ^ (32 * i)) else 0#32
  s.withProbe (BitVec.ofNat 32 w) words

end Sys2Proof.Machine
end

