-- ==== Sys2Proof/Safety.lean ====
section
/-! DEFINITION. What counts as a safe run, and the terms in which claims speak of one unit of a group. -/
namespace Sys2Proof

/-- A step that neither faults nor refuses. -/
def Machine.State.Safe (s : Machine.State) : Prop := ∃ t, Machine.step s = .next t

/-- The memories of a state have their canonical form (log entry 3). -/
def Machine.State.memOk (s : Machine.State) : Bool := 
  Machine.Memory.wf s.dram && Machine.Memory.wf s.scr && Machine.Memory.wf s.host && Machine.Memory.wf s.pkg.firmware

namespace Machine

/-- The unit c is being issued, by the group G. -/
structure InUnit (s : State) (c : Cur) (G : Group) : Prop where
  cur : s.cur = some c
  group : s.group c.gctx = some G

/-- The unit is being issued and passes the checks of the whole unit (R28, R37, R38). -/
structure Ready (s : State) (c : Cur) (G : Group) (u : Unit) : Prop extends InUnit s c G where
  check : u.check G c = none

/-- No run lane of the unit reads poison from the listed registers (a code and a number of words each). -/
def Group.Clean (G : Group) (c : Cur) (u : Unit) (srcs : List (Nat × Nat)) : Prop :=
  ∀ l ∈ lanesOf G (u.run G c), ∀ p ∈ srcs, anyPoison (G.readWords l p.1 p.2) = false

/-- The value that a lane reads from a register. -/
def Group.val (G : Group) (l : Nat) (r : BitVec 7) : Word := (G.readWord l r.toNat).val

/-- The state after a unit whose run lanes all complete with the values `vals` for the destination and raise the flags `fl`:
write-back (R14 to R16, R37), the flags (R75), and the word after the unit (R28). -/
def State.laneDone (s : State) (G : Group) (c : Cur) (u : Unit) (d : Dst) (vals : Nat → List PWord) (fl : BitVec 5) : State :=
  ((s.setGroup (G.writeBack u c d (G.k0 c) (u.run G c) 0#64 fun l => some (vals l))).raiseFlags G.gctx fl).advance c

/-- The flags of a unit: those that its run lanes raise, together (R75). -/
def Group.orFlags (G : Group) (c : Cur) (u : Unit) (fl : Nat → BitVec 5) : BitVec 5 :=
  (lanesOf G (u.run G c)).foldl (fun a l => a ||| fl l) 0#5

/-- What no instruction that works on registers alone changes: every part of the machine but its own context and the unit in
progress, and in the context every other group and every part but groups and teams. -/
structure RegisterOnly (s t : State) (g : Nat) : Prop where
  rest : { t with live := s.live, cur := s.cur } = s
  live : { t.live with groups := s.live.groups, teams := s.live.teams } = s.live
  others : ∀ h, h ≠ g → t.group h = s.group h

end Machine
end Sys2Proof
end

