-- ==== Sys2Proof/Certificates/Slice0/Terms.lean ====
section
/-! DEFINITION. The terms that the statements for the provers are written in: tables of instructions with the results that the
spec gives them, and names for what a unit admits. -/
namespace Sys2Proof.Machine

/-! ## Integer instructions (spec/04_scalar_and_control_instructions.md R79 to R95) -/

/-- What an R-format instruction of majors 0x00 to 0x1F admits: the registers it names, and a fourth operand where it has one. -/
def aluUnit (n : BitVec 1) (fourth : Nat) (names : List (BitVec 7 × Nat)) : Unit := { nw := n == 1#1, c := fourth, names := names }

/-- The low 32 bits of an integer (R3). -/
def lo32 (x : Int) : Word := BitVec.ofInt 32 x

/-- The two-operand integer instructions with their results (R79 to R84, R95). -/
def intBinary : List ((BitVec 1 → BitVec 7 → BitVec 7 → BitVec 7 → Instr) × (Word → Word → Word)) := [
  (.iadd, fun x y => lo32 (x.toInt + y.toInt)),
  (.isub, fun x y => lo32 (x.toInt - y.toInt)),
  (.iadds, fun x y => lo32 (max (-(2 : Int) ^ 31) (min ((2 : Int) ^ 31 - 1) (x.toInt + y.toInt)))),
  (.isubs, fun x y => lo32 (max (-(2 : Int) ^ 31) (min ((2 : Int) ^ 31 - 1) (x.toInt - y.toInt)))),
  (.iaddns, fun x y => BitVec.ofNat 32 (min (2 ^ 32 - 1) (x.toNat + y.toNat))),
  (.isubns, fun x y => BitVec.ofNat 32 (x.toNat - y.toNat)),
  (.imul, fun x y => lo32 (x.toInt * y.toInt)),
  (.imulh, fun x y => lo32 (x.toInt * y.toInt / (2 : Int) ^ 32)),
  (.imulhn, fun x y => BitVec.ofNat 32 (x.toNat * y.toNat / 2 ^ 32)),
  (.idiv, fun x y => if y = 0#32 then 0xFFFFFFFF#32 else if x = 0x80000000#32 ∧ y = 0xFFFFFFFF#32 then 0x80000000#32
    else lo32 (x.toInt.tdiv y.toInt)),
  (.idivn, fun x y => if y = 0#32 then 0xFFFFFFFF#32 else BitVec.ofNat 32 (x.toNat / y.toNat)),
  (.irem, fun x y => if y = 0#32 then x else if x = 0x80000000#32 ∧ y = 0xFFFFFFFF#32 then 0#32
    else lo32 (x.toInt - y.toInt * x.toInt.tdiv y.toInt)),
  (.iremn, fun x y => if y = 0#32 then x else BitVec.ofNat 32 (x.toNat % y.toNat)),
  (.imin, fun x y => lo32 (min x.toInt y.toInt)),
  (.imax, fun x y => lo32 (max x.toInt y.toInt)),
  (.iminn, fun x y => BitVec.ofNat 32 (min x.toNat y.toNat)),
  (.imaxn, fun x y => BitVec.ofNat 32 (max x.toNat y.toNat)),
  (.andW, fun x y => x &&& y),
  (.orW, fun x y => x ||| y),
  (.xorW, fun x y => x ^^^ y),
  (.andn, fun x y => x &&& ~~~y),
  (.orn, fun x y => x ||| ~~~y),
  (.xnor, fun x y => ~~~(x ^^^ y)),
  (.shl, fun x y => BitVec.ofNat 32 (x.toNat * 2 ^ (y.toNat % 32))),
  (.shr, fun x y => BitVec.ofNat 32 (x.toNat / 2 ^ (y.toNat % 32))),
  (.sar, fun x y => lo32 (x.toInt / (2 : Int) ^ (y.toNat % 32))),
  (.rol, fun x y => (x <<< (y.toNat % 32)) ||| (x >>> (32 - y.toNat % 32))),
  (.ror, fun x y => (x >>> (y.toNat % 32)) ||| (x <<< (32 - y.toNat % 32))),
  (.bfx, fun x y => BitVec.ofNat 32 (x.toNat / 2 ^ (y.toNat % 32) % 2 ^ min (y.toNat / 256 % 64) (32 - y.toNat % 32))),
  (.bfxs, fun x y => lo32 ((BitVec.ofNat (min (y.toNat / 256 % 64) (32 - y.toNat % 32)) (x.toNat / 2 ^ (y.toNat % 32))).toInt))]

/-- The one-operand integer instructions with their results (R82, R85). -/
def intUnary : List ((BitVec 1 → BitVec 7 → BitVec 7 → Instr) × (Word → Word)) := [
  (.iabs, fun x => lo32 x.toInt.natAbs),
  (.ineg, fun x => lo32 (-x.toInt)),
  (.popc, fun x => BitVec.ofNat 32 ((List.range 32).countP fun i => x.getLsbD i)),
  (.clz, fun x => BitVec.ofNat 32 (if x = 0#32 then 32 else 31 - x.toNat.log2)),
  (.ctz, fun x => BitVec.ofNat 32 (((List.range 32).takeWhile fun i => !x.getLsbD i).length)),
  (.brev, fun x => BitVec.ofFnLE fun i : Fin 32 => x.getLsbD (31 - i))]

/-- The integer instructions whose fourth operand stands in the prefix, with their results (R80, R84, R94, R95). -/
def intTernary : List ((BitVec 1 → BitVec 7 → BitVec 7 → BitVec 7 → Instr) × (Word → Word → Word → Word)) := [
  (.imad, fun x y z => lo32 (x.toInt * y.toInt + z.toInt)),
  (.fshl, fun x y z => BitVec.ofNat 32 ((x.toNat * 2 ^ 32 + z.toNat) * 2 ^ (y.toNat % 32) / 2 ^ 32)),
  (.fshr, fun x y z => BitVec.ofNat 32 ((z.toNat * 2 ^ 32 + x.toNat) / 2 ^ (y.toNat % 32))),
  (.prmb, fun x y z =>
    let byte (i : Nat) : Nat :=
      let s := z.toNat / 16 ^ i % 16
      let v := (y.toNat * 2 ^ 32 + x.toNat) / 256 ^ (s % 8) % 256
      if s < 8 then v else if 128 ≤ v then 255 else 0
    BitVec.ofNat 32 (byte 0 + 256 * byte 1 + 256 ^ 2 * byte 2 + 256 ^ 3 * byte 3)),
  (.bfi, fun x y z =>
    let p := y.toNat % 32
    let m := BitVec.ofNat 32 ((2 ^ min (y.toNat / 256 % 64) (32 - p) - 1) * 2 ^ p)
    (z &&& ~~~m) ||| ((x <<< p) &&& m)),
  (.dot4i, fun x y z => lo32 (z.toInt + ((List.range 4).map fun i =>
    (BitVec.ofNat 8 (x.toNat / 256 ^ i)).toInt * (BitVec.ofNat 8 (y.toNat / 256 ^ i)).toInt).sum)),
  (.dot8q, fun x y z => lo32 (z.toInt + ((List.range 8).map fun i =>
    (BitVec.ofNat 4 (x.toNat / 16 ^ i)).toInt * (BitVec.ofNat 4 (y.toNat / 16 ^ i)).toInt).sum))]

/-- The value of a pair of registers in a lane: the register named holds bits 31 to 0 (R11). -/
def Group.pair (G : Group) (l : Nat) (r : BitVec 7) : Nat :=
  let ws := G.readWords l r.toNat 2
  (ws.getD 0 pzero).val.toNat + 2 ^ 32 * (ws.getD 1 pzero).val.toNat

/-- A 64-bit result as the words of a pair, modulo 2^64. -/
def pairWords (x : Int) : List PWord := [clean (BitVec.ofInt 32 x), clean (BitVec.ofInt 32 (x / (2 : Int) ^ 32))]

/-- The full immediate of an I-format word as a number: 11 bits, or 36 with the bits of a LIMM before it, sign-extended (R39). -/
def fullImm (c : Cur) (i : BitVec 11) : Int := match c.limm with
  | none => i.toInt
  | some h => (BitVec.ofNat 36 (h.toNat * 2048 + i.toNat)).toInt

/-- What an I-format instruction admits: a LIMM and a prefix without used fields (R38, R39). -/
def immUnit (limm : Bool) (names : List (BitVec 7 × Nat)) : Unit := { limm := limm, names := names }

/-- The immediate instructions with their results on the full immediate (R87). -/
def immBinary : List ((BitVec 7 → BitVec 7 → BitVec 11 → Instr) × (Word → Int → Word)) := [
  (.addi, fun x i => lo32 (x.toInt + i)),
  (.andi, fun x i => x &&& lo32 i),
  (.ori, fun x i => x ||| lo32 i),
  (.xori, fun x i => x ^^^ lo32 i)]

/-- The immediate shifts with their results (R88). -/
def immShift : List ((BitVec 7 → BitVec 7 → BitVec 5 → Instr) × (Word → Nat → Word)) := [
  (.shli, fun x k => BitVec.ofNat 32 (x.toNat * 2 ^ k)),
  (.shri, fun x k => BitVec.ofNat 32 (x.toNat / 2 ^ k)),
  (.sari, fun x k => lo32 (x.toInt / (2 : Int) ^ k))]

/-- The relation of an integer compare by fn, signed and equality forms; `n` selects the unsigned forms (R90). -/
def icmpRel (n : Bool) (f : Nat) (x y : Word) : Bool :=
  let p : Int := if n then x.toNat else x.toInt
  let q : Int := if n then y.toNat else y.toInt
  match f with
  | 0 => decide (p = q)
  | 1 => decide (p ≠ q)
  | 2 => decide (p < q)
  | 3 => decide (p ≤ q)
  | 4 => decide (q < p)
  | _ => decide (q ≤ p)

/-- What `sel` admits: a prefix whose mask selects between the operands, so that every lane of k0 runs, and no zero policy. -/
def selUnit (n : BitVec 1) (d a b : BitVec 7) : Unit := { nw := n == 1#1, zm := false, sel := true, names := [(d, 1), (a, 1), (b, 1)] }

/-! ## Floating-point instructions (spec/04 R91, R92; spec/05_lane_arithmetic_instructions.md R109 to R119) -/

/-- What an instruction of majors 0x20 to 0x3F admits: a rounding field, and a fourth operand or a byte select where it has one. -/
def fpUnit (n : BitVec 1) (fourth x : Nat) (names : List (BitVec 7 × Nat)) : Unit :=
  { nw := n == 1#1, rm := true, c := fourth, x := x, names := names }

/-- A result with the flags that it raises. -/
abbrev FpRes := Word × BitVec 5

/-- The code and flags of a result as a word and flags. -/
def fpRes (r : Nat × BitVec 5) : FpRes := (BitVec.ofNat 32 r.1, r.2)

/-- Two 16-bit results packed, with the flags of both. -/
def fpPair (lo hi : Nat × BitVec 5) : FpRes := (BitVec.ofNat 32 (lo.1 + 65536 * hi.1), lo.2 ||| hi.2)

/-- Element i of a packed pair as a value of a format under a flush mode (R57, R69). -/
def elemAt (F : Fmt) (z : Bool) (w : Word) (i : Nat) : FVal := F.decodeFtz z (w.toNat / 65536 ^ i % 65536)

/-- The two-operand instructions of majors 0x20, 0x21 and 0x23 with their results, by the flush bit and the rounding mode
(R109, R110, R112). -/
def fpBinaryTable : List ((BitVec 1 → BitVec 7 → BitVec 7 → BitVec 7 → Instr) × (Bool → Nat → Word → Word → FpRes)) := [
  (.fadd, fun z m x y => fpRes (fp32.finish z m [f32 z x, f32 z y] (faddExact m (f32 z x) (f32 z y)))),
  (.fsub, fun z m x y => fpRes (fp32.finish z m [f32 z x, (f32 z y).flip] (faddExact m (f32 z x) (f32 z y).flip))),
  (.fmul, fun z m x y => fpRes (fp32.finish z m [f32 z x, f32 z y] (fmulExact (f32 z x) (f32 z y)))),
  (.fmin, fun z _ x y => ((fpRes (fp32.round false 0 (fminNum false (f32 z x) (f32 z y)))).1, sigFlag [f32 z x, f32 z y])),
  (.fmax, fun z _ x y => ((fpRes (fp32.round false 0 (fminNum true (f32 z x) (f32 z y)))).1, sigFlag [f32 z x, f32 z y])),
  (.fcpysgn, fun _ _ x y => (BitVec.ofNat 32 (x.toNat % 2 ^ 31 + y.toNat / 2 ^ 31 * 2 ^ 31), 0#5)),
  (.fdiv, fdivVal),
  (.hadd2, fun z m x y => fpPair (fp16.add z m (elemAt fp16 z x 0) (elemAt fp16 z y 0)) (fp16.add z m (elemAt fp16 z x 1) (elemAt fp16 z y 1))),
  (.hmul2, fun z m x y => fpPair (fp16.mul z m (elemAt fp16 z x 0) (elemAt fp16 z y 0)) (fp16.mul z m (elemAt fp16 z x 1) (elemAt fp16 z y 1))),
  (.badd2, fun z m x y => fpPair (bf16.add z m (elemAt bf16 z x 0) (elemAt bf16 z y 0)) (bf16.add z m (elemAt bf16 z x 1) (elemAt bf16 z y 1))),
  (.bmul2, fun z m x y => fpPair (bf16.mul z m (elemAt bf16 z x 0) (elemAt bf16 z y 0)) (bf16.mul z m (elemAt bf16 z x 1) (elemAt bf16 z y 1)))]

/-- The one-operand instructions with their results (R110, R111, R113, R114). -/
def fpUnaryTable : List ((BitVec 1 → BitVec 7 → BitVec 7 → Instr) × (Bool → Nat → Word → FpRes)) := [
  (.fabs, fun _ _ x => (BitVec.ofNat 32 (x.toNat % 2 ^ 31), 0#5)),
  (.fneg, fun _ _ x => (x + 0x80000000#32, 0#5)),
  (.frnd, frndVal),
  (.fsqrt, fsqrtVal),
  (.frcp, fun z _ x => fpRes (approxVal 0 z x)),
  (.frsq, fun z _ x => fpRes (approxVal 1 z x)),
  (.fexp2, fun z _ x => fpRes (approxVal 2 z x)),
  (.flog2, fun z _ x => fpRes (approxVal 3 z x)),
  (.fsin, fun z _ x => fpRes (approxVal 4 z x)),
  (.fcos, fun z _ x => fpRes (approxVal 5 z x)),
  (.ftanh, fun z _ x => fpRes (approxVal 6 z x)),
  (fun n => .f2i n 0#1, f2iVal false),
  (fun n => .f2i n 1#1, f2iVal true),
  (fun n => .i2f n 0#1, fun _ m x => i2fVal false m x),
  (fun n => .i2f n 1#1, fun _ m x => i2fVal true m x),
  (.fcvtBf16F16, fun z m x => fpPair (cvt bf16 z m (elemAt fp16 z x 0)) (cvt bf16 z m (elemAt fp16 z x 1))),
  (.fcvtF16Bf16, fun z m x => fpPair (cvt fp16 z m (elemAt bf16 z x 0)) (cvt fp16 z m (elemAt bf16 z x 1)))]

/-- The sum of the products of the elements of two words with an accumulator, rounded once (R70, R116). -/
def dotRes (F : Fmt) (k : Nat) (z : Bool) (m : Nat) (x y w : Word) : FpRes :=
  let el (v : Word) : List FVal := (List.range k).map fun i => F.decodeFtz z (v.toNat / 2 ^ (F.width * i) % 2 ^ F.width)
  fpRes (dotRound z m (f32 z w) (List.zipWith fmulExact (el x) (el y)) (f32 z w :: el x ++ el y) false)

/-- The instructions with a fourth operand, with their results (R109, R112, R116). -/
def fpTernaryTable : List ((BitVec 1 → BitVec 7 → BitVec 7 → BitVec 7 → Instr) × (Bool → Nat → Word → Word → Word → FpRes)) := [
  (.ffma, fun z m x y w => fpRes (fp32.fma z m (f32 z x) (f32 z y) (f32 z w))),
  (.hfma2, fun z m x y w => fpPair (fp16.fma z m (elemAt fp16 z x 0) (elemAt fp16 z y 0) (elemAt fp16 z w 0))
    (fp16.fma z m (elemAt fp16 z x 1) (elemAt fp16 z y 1) (elemAt fp16 z w 1))),
  (.bfma2, fun z m x y w => fpPair (bf16.fma z m (elemAt bf16 z x 0) (elemAt bf16 z y 0) (elemAt bf16 z w 0))
    (bf16.fma z m (elemAt bf16 z x 1) (elemAt bf16 z y 1) (elemAt bf16 z w 1))),
  (fun n => .dot4e n 0#1, dotRes e4m3 4),
  (fun n => .dot4e n 1#1, dotRes e5m2 4),
  (.dot2b, dotRes bf16 2)]

/-- The relation of `fcmp` by fn: a NaN makes the ordered ones false and the unordered ones true (R91). -/
def fcmpHolds (f : Nat) (x y : FVal) : Bool :=
  let un := x.isNan || y.isNan
  match f with
  | 0 => !un && fcmpExact x y == .eq
  | 1 => un || fcmpExact x y != .eq
  | 2 => !un && fcmpExact x y == .lt
  | 3 => !un && fcmpExact x y != .gt
  | 4 => !un && fcmpExact x y == .gt
  | 5 => !un && fcmpExact x y != .lt
  | 6 => !un
  | _ => un

/-- The conversions that pack words into one: the instruction, its sources as registers and numbers of words, and the format (R114). -/
def narrowTable (n : BitVec 1) (d a b : BitVec 7) : List (Instr × List (BitVec 7 × Nat) × Fmt) := [
  (.fcvtF16F32 n d a b, [(a, 1), (b, 1)], fp16),
  (.fcvtBf16F32 n d a b, [(a, 1), (b, 1)], bf16),
  (.fcvtE4m3F32 n d a, [(a, 4)], e4m3),
  (.fcvtE5m2F32 n d a, [(a, 4)], e5m2),
  (.fcvtE2m1F32 n d a, [(a, 4)], e2m1)]

/-- The conversions that unpack a word: the instruction, the number of elements, and the format (R114). -/
def widenTable (n : BitVec 1) (d a : BitVec 7) : List (Instr × Nat × Fmt) := [
  (.fcvtF32F16 n d a, 2, fp16),
  (.fcvtF32Bf16 n d a, 2, bf16),
  (.fcvtF32E4m3 n d a, 4, e4m3),
  (.fcvtF32E5m2 n d a, 4, e5m2),
  (.fcvtF32E2m1 n d a, 4, e2m1)]

/-- The words that a lane reads from a list of sources. -/
def Group.vals (G : Group) (l : Nat) (srcs : List (BitVec 7 × Nat)) : List Word :=
  (srcs.flatMap fun p => G.readWords l p.1.toNat p.2).map (·.val)

/-- The lanes of the eight-lane block of a lane that run (R118). -/
def Group.blockRun (G : Group) (c : Cur) (l : Nat) : List Nat := ((List.range 8).map (8 * (l / 8) + ·)).filter fun i => (G.run c).getLsbD i

/-- The FP32 values of four words of a lane. -/
def Group.quad (G : Group) (z : Bool) (l : Nat) (a : BitVec 7) : List FVal := (G.readWords l a.toNat 4).map fun w => f32 z w.val

/-! ## Write-back, flags, frames (spec/01 R13 to R17, R28; spec/02 R37; spec/03 R75) -/

/-- The word that a lane's destination holds after a unit (R37): in a run lane word i of its result, in another lane of k0 zero or the
old word by the zero policy, and in a lane outside k0 the old word. -/
def mergedWord (G : Group) (c : Cur) (u : Unit) (vals : Nat → List PWord) (r l i : Nat) : PWord :=
  if (u.run G c).getLsbD l then (vals l).getD i pzero
  else if (G.k0 c).getLsbD l && pfxZm c then pzero
  else G.readWord l (r + i)

/-- The word that a lane's latch element receives (R15): the result in a run lane; in any other lane of the quads zero or the register's
contents by the zero policy. -/
def pushedWord (G : Group) (c : Cur) (u : Unit) (vals : Nat → List PWord) (r l : Nat) : PWord :=
  if (u.run G c).getLsbD l then (vals l).getD 0 pzero else if pfxZm c then pzero else G.readWord l r

/-! ## Control flow and software traps (spec/04 R96 to R106; spec/06 R147 to R149) -/

/-- The state t is s after a control unit: the unit is over; each of its sequencers has become what f makes of it and the others are as
they were; the group is otherwise G'; no other group, no team, no memory and no special register has changed. -/
structure Moved (s t : State) (c : Cur) (G G' : Group) (f : Seq → Seq) : Prop where
  cur : t.cur = none
  group : ∃ H, t.group c.gctx = some H ∧ { H with seqs := G.seqs } = G'
    ∧ ∀ i, H.seq i = (G.seq i).map fun q => if i ∈ c.seqs then f q else q
  frame : RegisterOnly s t c.gctx
  teams : t.live.teams = s.live.teams

/-- The offset of a B-format word in words: 14 bits, or 39 with the bits of a LIMM before it, sign-extended (R36, R39). -/
def fullOff (c : Cur) (o : BitVec 14) : Int := match c.limm with
  | none => o.toInt
  | some h => (BitVec.ofNat 39 (h.toNat * 16384 + o.toNat)).toInt

/-- The columns of a sequencer that `brc` takes: those of its active lanes whose bit in the mask is set, or clear for `brc.clr`
(R99). -/
def brcTaken (G : Group) (c : Cur) (cc : BitVec 1) (k : BitVec 3) (q : Seq) : BitVec 4 :=
  G.colsOf q (if cc = 0#1 then G.mask (G.k0 c) k.toNat else ~~~(G.mask (G.k0 c) k.toNat))

/-- What `brc` makes of a sequencer (R99): all lanes branch, none does, or the taken ones wait in a pending entry while the others go
on. -/
def brcSeq (s : State) (G : Group) (c : Cur) (cc : BitVec 1) (k : BitVec 3) (t : BitVec 56) (q : Seq) : Seq :=
  let T := brcTaken G c cc k q
  let N := q.active &&& ~~~T
  if N = 0#4 then { q with pc := t, ready := s.now + 1 }
  else if T = 0#4 then { q with pc := c.pc + 4#56, ready := s.now + 1 }
  else { q with pc := c.pc + 4#56, active := N, stack := stackEntry true T t :: q.stack, ready := s.now + 1 }

/-- The lanes' register targets are addresses of words (R96): below 2^56, a multiple of 4, without poison. -/
def goodTargets (G : Group) (c : Cur) (a : BitVec 7) : Prop :=
  ∀ l ∈ lanesOf G (G.k0 c), anyPoison (G.readWords l a.toNat 2) = false ∧ G.pair l a < 2 ^ 56 ∧ G.pair l a % 4 = 0

/-- What an indirect branch makes of a sequencer (R102): the lanes of the first target run, the other targets wait in pending entries. -/
def spreadSeq (s : State) (G : Group) (c : Cur) (a : BitVec 7) (q : Seq) : Seq := match G.targetSets q a.toNat (G.k0 c) with
  | [] => q
  | (t, m) :: rest => { q with active := m, pc := t, stack := rest.map (fun p => stackEntry true p.2 p.1) ++ q.stack, ready := s.now + 1 }

/-- What `join` makes of a sequencer (R101, R148): it resumes the lanes that resume_pop finds, or waits in JWAIT. -/
def joinSeq (s : State) (G : Group) (q : Seq) : Seq := match G.pop q true with
  | .go r => { r with st := .run, wait := .none, popNext := false, ready := s.now + 1 }
  | .join st => { q with stack := st, st := .jwait, popNext := false }
  | _ => q

/-- The group after the threads of its issuing lanes have ended (R97, R103): no stack entry of a quad holds a lane without a live thread. -/
def exitGroup (G : Group) (c : Cur) : Group :=
  let H : Group := { G with threads := G.threads.mapIdx fun l t => if (G.k0 c).getLsbD l then { t with live := false } else t }
  { H with seqs := H.seqs.map fun q => { q with stack := q.stack.map (keepLanes (H.liveCols q.pos)) } }

/-- What `exit` makes of an issuing sequencer of that group (R101, R103, R148): it gives its active lanes up and pops; with nothing left it
is over. -/
def exitSeq (s : State) (E : Group) (q : Seq) : Seq :=
  let g : Seq := { q with own := q.own &&& ~~~q.active, active := 0#4 }
  match (E.setSeq g).pop g false with
  | .go r => { r with st := .run, wait := .none, popNext := false, ready := s.now + 1 }
  | .join st => { g with stack := st, st := .jwait, popNext := true }
  | _ => { g with st := .done, own := 0#4 }

/-- The frame f reports a software trap of a sequencer (R106, R363). -/
def softFrame (s : State) (c : Cur) (G : Group) (q : Seq) (cause : BitVec 8) (code : BitVec 14) (f : Frame) : Prop :=
  f.pc = c.pc + 4#56 ∧ f.cause = cause ∧ f.code = code.setWidth 32 ∧ f.word = c.word ∧ f.level = G.level ∧ f.gctx = G.gctx
    ∧ f.share = G.share ∧ f.team = G.team ∧ f.addr = 0#64 ∧ f.info = 0#8 ∧ f.seqs = [q.id] ∧ f.frag = q.frag ∧ f.handle = none
    ∧ f.started = false ∧ f.cycles = s.dieCycles ∧ (∀ l, f.lanes.getLsbD l = (decide (l < 64) && G.activeIn q l))
    ∧ f.ids.setWidth 12 = s.asidOf G ∧ (f.monitor = true ↔ G.level ≠ .U)

/-! ## Cross-lane instructions (spec/07_cross_lane_and_team_instructions.md R155 to R162; spec/03 R72 to R74) -/

/-- A unit that is issued for the whole ganged group and passes its checks (R146, R155). -/
structure Ganged (s : State) (c : Cur) (G : Group) (u : Unit) : Prop extends Ready s c G u where
  whole : G.ganged c = true

/-- What an instruction of majors 0x48 to 0x4F admits: a prefix, with a rounding field for major 0x4C; no latch is pushed. -/
def crossOf (rm : Bool) (names : List (BitVec 7 × Nat)) : Unit := { rm := rm, latch := false, names := names }

/-- A bit as a mask result. -/
def bitRes (b : Bool) : List PWord := [clean (if b then 1#32 else 0#32)]

/-- The lanes of the run set that hold the same value as a lane (R157). -/
def matchSet (G : Group) (c : Cur) (w : BitVec 1) (a : BitVec 7) (l : Nat) : BitVec 64 :=
  laneMask 64 fun m => (G.run c).getLsbD m && (if w = 0#1 then G.val m a == G.val l a else G.pair m a == G.pair l a)

/-- The word that a lane takes in a shuffle (R158): the source lane's where it is below the width and holds a live thread, else its
own. -/
def shflTake (G : Group) (a : BitVec 7) (l : Nat) (src : Int) : PWord :=
  if 0 ≤ src ∧ src < G.width ∧ G.liveLane src.toNat = true then G.readWord src.toNat a.toNat else G.readWord l a.toNat

/-- The source lane of `shfl` by fn and selector (R158). -/
def shflLane (f w l c : Nat) : Int := match f with
  | 0 => (c % w : Nat)
  | 1 => (l : Int) - c
  | 2 => (l : Int) + c
  | _ => (l ^^^ (c % w) : Nat)

/-- The operations of `red` and `scan` by fn, with the identity that a lane outside the run set contributes (R74, R159). -/
def redTable : List ((Word → Word → Word) × Word) := [
  ((· + ·), 0#32),
  (fun x y => if x.toInt ≤ y.toInt then x else y, 0x7FFFFFFF#32),
  (fun x y => if x.toInt ≤ y.toInt then y else x, 0x80000000#32),
  (fun x y => if x.toNat ≤ y.toNat then x else y, 0xFFFFFFFF#32),
  (fun x y => if x.toNat ≤ y.toNat then y else x, 0#32),
  ((· &&& ·), 0xFFFFFFFF#32),
  ((· ||| ·), 0#32),
  ((· ^^^ ·), 0#32)]

/-- The combination of the run lanes that a predicate admits. -/
def combine (G : Group) (c : Cur) (f : Nat) (a : BitVec 7) (p : Nat → Bool) : Word :=
  let op := redTable.getD f ((· + ·), 0#32)
  ((lanesOf G (G.run c)).filter p).foldr (fun m x => op.1 (G.val m a) x) op.2

/-- Element k of a lane's block of eight registers, with the poison of its word (R161). -/
def blockElem (G : Group) (d : BitVec 7) (z l k : Nat) : Nat × Bool :=
  let w := G.readWord l (d.toNat + k / (32 / z))
  (w.val.toNat / 2 ^ (z * (k % (32 / z))) % 2 ^ z, w.poison)

/-! ## Teams: barriers, the register pool, channels (spec/07 R163 to R180; spec/06 R137) -/

/-- A unit of a group of a resident team at home that passes its checks (R163, R176). -/
structure TeamReady (s : State) (c : Cur) (G : Group) (T : Team) (u : Unit) : Prop extends Ready s c G u where
  slot : G.team = some T.slot
  team : s.team T.slot = some T
  home : G.mig = none

/-- The sequencers of a unit stand at an address and wait for something; the others of the group are as they were. -/
def heldAt (s t : State) (c : Cur) (G : Group) (pc : BitVec 56) (w : Wait) : Prop :=
  t.cur = none ∧ ∃ H, t.group c.gctx = some H ∧ { H with seqs := G.seqs } = G
    ∧ ∀ i q, G.seq i = some q → i ∈ c.seqs → q.st = .run ∨ q.st = .cwait →
      H.seq i = some { q with st := .run, pc := pc, wait := w, ready := s.now + 1 }

/-- The live threads of a group hold equal allocations of a number of registers (R170). -/
def evenAlloc (G : Group) (n : Nat) : Prop := ∀ t ∈ G.threads, t.live = true → t.regs.length = n

/-- The entry that the lanes of k0 form, zeros in the others (R177). -/
def entryOf (G : Group) (c : Cur) (a : BitVec 7) : List PWord := (List.range 64).map fun l => if (G.k0 c).getLsbD l then G.readWord l a.toNat else pzero

/-- The state with a word in the destination of every lane of k0 (R14). -/
def withWord (s : State) (G : Group) (c : Cur) (d : BitVec 7) (w : Nat → PWord) : State := s.setGroup (G.writeLanes d (G.k0 c) fun l => [w l])

/-- What a `send` leaves (R177): its status in the destination, unless that is 0x7C, and the group at the next word. -/
def sendDone (s : State) (c : Cur) (G : Group) (d : BitVec 7) (st : Word) : State :=
  (if d = 124#7 then s else withWord s G c d fun _ => clean st).advance c

/-- The state with the entry of the issuing lanes in a channel (R177). -/
def entryIn (s0 s : State) (c : Cur) (G : Group) (a : BitVec 7) (k j : Nat) : State := s.chPut k j (entryOf G c a) (s0.senders G (G.k0 c))

/-- A send to a team other than the own ends the sender's eligibility for a rollback (R372). -/
def sentTo (s : State) (T : Team) (r : BitVec 3) : State := if r.toNat = T.crank then s else s.endEligible T.slot

/-- A cluster channel, declared, of a rank that the cluster has (R175, R176). -/
def clusterCh (T : Team) (ch : BitVec 6) (r : BitVec 3) : Prop :=
  48 ≤ ch.toNat ∧ ch.toNat < 56 ∧ (T.chans.getD (ch.toNat - 48) none).isSome ∧ r.toNat < T.csize

/-- The sequencers of a unit wait at it for a channel, last in the order of the waiting operations (R180). -/
def channelWait (s t : State) (c : Cur) (G : Group) (w : ChWait) : Prop := heldAt s t c G c.unitPc .chan ∧ t.live.waits = s.live.waits ++ [w]

/-! ## Memory instructions (spec/09_memory_hierarchy.md R191 to R200; spec/11_memory_instructions.md R242 to R253) -/

/-- A memory unit is being issued and passes the checks of the whole unit (R28, R243). -/
structure MemReady (s : State) (c : Cur) (G : Group) (u : Unit) (sp : Nat) : Prop extends InUnit s c G where
  check : memChecks u sp c G = none

/-- The effective address of a lane (R195, R242): a 64-bit sum in the generic and the global space, a sum that stays within 32 bits in
scratch and constant space; the address words are not poisoned. -/
def addrIs (G : Group) (sp : Nat) (a : BitVec 7) (l : Nat) (disp : Int) (ea : Nat) : Prop :=
  if sp < 2 then anyPoison (G.readWords l a.toNat 2) = false ∧ (ea : Int) = ((G.pair l a : Int) + disp) % (2 : Int) ^ 64
  else (G.readWord l a.toNat).poison = false ∧ (ea : Int) = ((G.val l a).toNat : Int) + disp ∧ ea < 2 ^ 32

/-- The run lanes with their addresses. -/
def laneAddrs (G : Group) (c : Cur) (u : Unit) (ea : Nat → Nat) : List (Nat × Ea) := (lanesOf G (u.run G c)).map fun l => (l, .ea (ea l))

/-- The run lanes with their addresses and places. -/
def lanePlaces (G : Group) (c : Cur) (u : Unit) (ea : Nat → Nat) (pl : Nat → Loc) : List (Nat × Nat × Loc) :=
  (lanesOf G (u.run G c)).map fun l => (l, ea l, pl l)

/-- Every run lane's access reaches a place, in ascending lane order, and none has to wait; s1 is the state after the translations. -/
def Reaches (s s1 : State) (c : Cur) (G : Group) (u : Unit) (k : Acc) (sp size align : Nat) (ea : Nat → Nat) (pl : Nat → Loc) : Prop :=
  s.locateAll G k sp size align (laneAddrs G c u ea) = ((lanesOf G (u.run G c)).map fun l => (l, .at (ea l) (pl l)), s1)
  ∧ s1.accessWaits c G k size ((lanesOf G (u.run G c)).map fun l => (l, .at (ea l) (pl l))) = none

/-- The state in which a unit's reads find what arrives: where link CRC failed for a part of a transfer, all of it is poisoned (R207, R214). -/
def arriving (s : State) (size : Nat) (ps : List (Nat × Nat × Loc)) : State := s.spreadLink (dramReqs size ps)

/-- What accesses of a size that have been performed do besides, if any lane makes one. -/
def afterAccess (s : State) (G : Group) (k : Acc) (size : Nat) (ps : List (Nat × Nat × Loc)) : State :=
  if ps.isEmpty then s else (s.clearLink (if k = .store then [] else dramReqs size ps)).accessed G k size ps

/-- The loads: instruction, size in bytes, whether it extends the sign, offset in units of the size (R246, R247). -/
def loadTable (sp p : BitVec 2) (d a : BitVec 7) (o5 : BitVec 5) (o7 : BitVec 7) : List (Instr × Nat × Bool × Int) := [
  (.ldB sp p d a o5, 1, false, o5.toInt), (.ldH sp p d a o5, 2, false, o5.toInt), (.ldsB sp p d a o5, 1, true, o5.toInt),
  (.ldsH sp p d a o5, 2, true, o5.toInt), (.ldW sp p d a o7, 4, false, o7.toInt), (.ldD sp p d a o7, 8, false, o7.toInt),
  (.ldQ sp p d a o7, 16, false, o7.toInt)]

/-- The words that a load gives for its bytes, each with the poison of the bytes read: a byte or halfword extended to one word, else one
word for each four bytes, the lower address first (R3, R244, R247). -/
def loadedWords (size : Nat) (signed : Bool) (bs : List Byte) (bad : Bool) : List PWord := match size with
  | 1 => [⟨if signed then (bs.getD 0 0#8).signExtend 32 else (bs.getD 0 0#8).setWidth 32, bad⟩]
  | 2 => [⟨if signed then (bs.getD 1 0#8 ++ bs.getD 0 0#8 : BitVec 16).signExtend 32 else (bs.getD 1 0#8 ++ bs.getD 0 0#8 : BitVec 16).setWidth 32, bad⟩]
  | n => (List.range (n / 4)).map fun i => ⟨bs.getD (4 * i + 3) 0#8 ++ bs.getD (4 * i + 2) 0#8 ++ bs.getD (4 * i + 1) 0#8 ++ bs.getD (4 * i) 0#8, bad⟩

/-- What a load admits: a prefix; it pushes no latch. -/
def loadOf (sp : BitVec 2) (d : BitVec 7) (n : Nat) (a : BitVec 7) : Unit := { latch := false, names := [(d, n), addrName sp.toNat a] }

/-- What a store admits: a prefix without zero policy. -/
def storeOf (sp : BitVec 2) (d : BitVec 7) (n : Nat) (a : BitVec 7) : Unit :=
  { latch := false, zm := false, names := [(d, n), addrName sp.toNat a] }

/-- The words of an access of a size. -/
def accWords (size : Nat) : Nat := if size < 4 then 1 else size / 4

/-- The stores: instruction, size in bytes, offset in units of the size (R246, R248). -/
def storeTable (sp p : BitVec 2) (d a : BitVec 7) (o6 : BitVec 6) (o7 : BitVec 7) : List (Instr × Nat × Int) := [
  (.stB sp p d a o6, 1, o6.toInt), (.stH sp p d a o6, 2, o6.toInt), (.stW sp p d a o7, 4, o7.toInt),
  (.stD sp p d a o7, 8, o7.toInt), (.stQ sp p d a o7, 16, o7.toInt)]

/-- The bytes that a lane stores: the low bytes of its source words, the least significant first (R3, R248). -/
def storedBytes (G : Group) (size : Nat) (d : BitVec 7) (l : Nat) : List Byte :=
  (List.range size).map fun i => (((G.readWords l d.toNat (accWords size)).getD (i / 4) pzero).val.extractLsb' (8 * (i % 4)) 8)

/-- The atomic operations by number on values of w bits (R252): the new value, from the old one m, the operand v and, for `cas`, the
replacement n; none where nothing is written. -/
def atomTable (w : Nat) : List (Nat → Nat → Nat → Option Nat) := [
  fun m v _ => some ((m + v) % 2 ^ w),
  fun m v _ => some (if (BitVec.ofNat w m).toInt ≤ (BitVec.ofNat w v).toInt then m else v),
  fun m v _ => some (if (BitVec.ofNat w v).toInt < (BitVec.ofNat w m).toInt then m else v),
  fun m v _ => some (if m ≤ v then m else v),
  fun m v _ => some (if v ≤ m then m else v),
  fun m v _ => some (m &&& v),
  fun m v _ => some (m ||| v),
  fun m v _ => some (m ^^^ v),
  fun _ v _ => some v,
  fun m v n => if m = v then some n else none,
  fun m v _ => some (fp32.add false 0 (fp32.decode m) (fp32.decode v)).1,
  fun m v _ => some (fminVal false false (BitVec.ofNat 32 m) (BitVec.ofNat 32 v)).1.toNat,
  fun m v _ => some (fminVal true false (BitVec.ofNat 32 m) (BitVec.ofNat 32 v)).1.toNat]

/-- What an atomic admits: `cas` takes its replacement from the fourth operand; only one that returns its old value admits zero
policy. -/
def atomOf (sp : BitVec 2) (ret cas : Bool) (d : BitVec 7) (n : Nat) (a : BitVec 7) : Unit :=
  { latch := false, zm := ret, c := if cas then n else 0, names := [(d, n), addrName sp.toNat a] }

/-- The atomics: instruction, words, whether it returns the old value. -/
def atomInstrs (sp r : BitVec 2) (d a : BitVec 7) (x : BitVec 3) (y : BitVec 4) : List (Instr × Nat × Bool) := [
  (.atom sp r d a x y, 1, true), (.atom64 sp r d a x y, 2, true), (.atr sp r d a x y, 1, false)]

/-! ## Fences, cache and translation maintenance (spec/11_memory_instructions.md R254 to R264; spec/09 R203, R218; spec/10 R236 to R238) -/

/-- The lowest lane of k0 names an address without poison and with tag 0 (R257). -/
def lineAt (G : Group) (c : Cur) (a : BitVec 7) (va : Nat) : Prop :=
  ∃ l, lowest (G.k0 c) = some l ∧ anyPoison (G.readWords l a.toNat 2) = false ∧ G.pair l a = va ∧ va < 2 ^ 56

/-- A group marks a cached translation for its next fence (R237). -/
def TlbEntry.markBy (e : TlbEntry Walk) (u : Nat) (b : Bool) : TlbEntry Walk := if b then { e with marks := u :: e.marks } else e

/-- What an instruction of majors 0x66 and 0x67 admits: no prefix; it pushes no latch (R260, R263). -/
def plainUnit (names : List (BitVec 7 × Nat)) : Unit := { pfx := false, latch := false, names := names }

/-- The states that a unit passes through when its lanes act one after the other: lane number i acts on state i. -/
def Chain (σ : Nat → State) (s : State) (ls : List Nat) (act : Nat → State → State) : Prop :=
  σ 0 = s ∧ ∀ i l, ls[i]? = some l → σ (i + 1) = act l (σ i)

/-! ## Bank-ops (spec/12_near_bank_compute.md R265 to R278) -/

/-- An instance of a run executes a word at its bank, before the drain point of a slot of its base die. -/
structure InBank (s : State) (r : Run) (i : Inst) : Prop where
  cur : s.bank.cur = some (r.id, i.k)
  run : s.run r.id = some r
  inst : s.inst r.id i.k = some i
  calm : s.drainedOn i.die = false

/-- What an executed word makes of its instance: its bank cycles count, poison and flags join, and the next word follows, with the back
edges of the loops that end there (R277, R278). -/
def Inst.done (i : Inst) (r : Run) (cost : Nat) (poison : Bool) (fl : BitVec 5) : Inst :=
  { i with
    counter := i.counter + cost
    exceeded := i.exceeded || decide (r.bound < i.counter + cost)
    poison := i.poison || poison
    flags := i.flags ||| fl
    pc := (backEdge i.pc i.loops).1
    loops := (backEdge i.pc i.loops).2 }

/-- The state t is that after a word that makes j of its instance: no word is in progress, and the other instances, every run, the group's
context, the chains, scratch and host memory are as they were. -/
structure BankDone (s t : State) (r : Run) (i j : Inst) : Prop where
  cur : t.bank.cur = none
  inst : t.inst r.id i.k = some j
  others : ∀ run k, ¬ (run = r.id ∧ k = i.k) → t.inst run k = s.inst run k
  runs : t.bank.runs = s.bank.runs
  live : t.live = s.live
  engs : t.engs = s.engs
  scr : t.scr = s.scr
  host : t.host = s.host

/-- The state t is that after a word with which the end of its instance with a code begins: the closing of its first slot is next (R277), at
the same word and with the same slots. -/
structure BankEnds (s t : State) (r : Run) (i : Inst) (cost : Nat) (code : Nat) : Prop where
  done : BankDone s t r i { i with
    counter := i.counter + cost
    exceeded := i.exceeded || decide (r.bound < i.counter + cost)
    ending := some (code, 0) }
  dram : t.dram = s.dram

/-- The row that `bact` names (R272): immediate, parameter and loop index, modulo 2^32. -/
def bactRow (r : Run) (i : Inst) (ri pe : BitVec 1) (p : BitVec 4) (imm : BitVec 10) : Nat :=
  (imm.toNat + (if pe = 1#1 then (r.param p.toNat).val.toNat else 0) + (if ri = 1#1 then i.j else 0)) % 2 ^ 32

/-- An operand word of a run block is poisoned (R265). -/
def badParam (r : Run) (pe : BitVec 1) (p : BitVec 4) : Bool := pe == 1#1 && (r.param p.toNat).poison

/-- What closing a slot leaves of its instance (R272): the slot is closed, and what was kept of its row is dropped. -/
def closedAt (i : Inst) (n : Nat) : Inst :=
  let out (row : Nat) : Bool := match i.slot n with
    | .opened q _ _ => row == q
    | _ => false
  { i with slots := i.slots.set n .closed, pre := i.pre.filter fun p => !out p.1, marks := i.marks.filter fun p => !out p.1 }

/-- The bank cycles of a `bpre` (R278): a written row is enciphered anew for another row. -/
def closingCost (x : BSlot) : Nat := match x with
  | .opened q w b => if w then (if b = some q then 12 else 16) else 6
  | _ => 2

/-- The bytes of a slot's column are in range and no block of them is poisoned; a slot that holds a table has its 64 columns of eight words. -/
def columnOk (s : State) (i : Inst) (n : Nat) (cl : Nat) : Prop := match i.slot n with
  | .closed => False
  | .opened row _ _ => i.rowAddr row % 2 ^ 40 + 2048 ≤ 2 ^ 40 ∧ i.rowAddr row % 16 = 0 ∧ ∀ w ∈ readCol s i n cl, w.poison = false
  | .table cs => cs.length = 64 ∧ cl < 64 ∧ (∀ c ∈ cs, c.length = 8) ∧ ∀ w ∈ readCol s i n cl, w.poison = false

/-- Every byte of memory outside a column of a slot reads as before; a slot that is no open row has none. -/
def outsideColumn (s t : State) (i : Inst) (n : Nat) (c : Nat) : Prop :=
  ∀ a, (∀ q w b, i.slot n = .opened q w b → a < dramKey i.f (i.rowAddr q) + 32 * c ∨ dramKey i.f (i.rowAddr q) + 32 * c + 32 ≤ a) →
    memGet t.dram a = memGet s.dram a

/-- Accumulator m after an octet has taken a column of a slot (R273). -/
def octetWord (s : State) (i : Inst) (sl : BitVec 2) (cl o m : Nat) : PWord :=
  if m / 8 = o then (readCol s i sl.toNat cl).getD (m % 8) pzero else i.acc.getD m pzero

/-- The elementwise bank-ops: instruction, sources, bank cycles, parameter words, and the result of a word with its flags (R275, R278). -/
def bankTable (r : Run) (d a b : BitVec 2) (c : BitVec 7) (p : BitVec 4) : List (Instr × List (BitVec 2) × Nat × List Nat × (List Word → FpRes)) :=
  let x (ws : List Word) (n : Nat) : FVal := fp32.decode (ws.getD n 0#32).toNat
  let P := fp32.decode (r.param p.toNat).val.toNat
  [(.beadd d a b c 0#2, [a, b], 1, [], fun ws => fpRes (fp32.add false 0 (x ws 0) (x ws 1))),
   (.beadd d a b c 1#2, [a, b], 1, [], fun ws => fpRes (fp32.add false 0 (x ws 0) (x ws 1).flip)),
   (.beadd d a b c 2#2, [a, b], 1, [], fun ws => fminVal true false (ws.getD 0 0#32) (ws.getD 1 0#32)),
   (.beadd d a b c 3#2, [a, b], 1, [], fun ws => fminVal false false (ws.getD 0 0#32) (ws.getD 1 0#32)),
   (.befma d a b c 0#2 p, [a, b, d], 1, [], fun ws => fpRes (fp32.fma false 0 (x ws 0) (x ws 1) (x ws 2))),
   (.befma d a b c 1#2 p, [a, b], 1, [p.toNat], fun ws => fpRes (fp32.fma false 0 (x ws 0) P (x ws 1))),
   (.bescl d a c 0#2 p, [a], 1, [p.toNat], fun ws => fpRes (fp32.mul false 0 P (x ws 0))),
   (.bescl d a c 1#2 p, [a], 1, [p.toNat], fun ws => scaleSq P (x ws 0)),
   (.bescl d a c 2#2 p, [a], 4, [p.toNat, p.toNat + 1], fun ws =>
     let y := fpRes (fp32.add false 0 (x ws 0) (fp32.decode (r.param (p.toNat + 1)).val.toNat))
     let q := divRoot P (fp32.decode y.1.toNat)
     (q.1, q.2 ||| y.2)),
   (.bescl d a c 3#2 p, [a], 4, [p.toNat], fun ws => fdivVal false 0 (r.param p.toNat).val (ws.getD 0 0#32))]

/-! ## Engines, events and migration (spec/14_asynchronous_engines.md R304 to R326; spec/15_engine_instructions.md R328 to R348;
spec/12 R289 to R295) -/

/-- A command of a group of a resident team at home that passes its checks, with the lowest lane of k0 (R328). -/
structure CmdReady (s : State) (c : Cur) (G : Group) (T : Team) (names : List (BitVec 7 × Nat)) (l : Nat) : Prop
    extends TeamReady s c G T (ctlUnit false names) where
  low : lowest (G.k0 c) = some l

/-- The group owns the matrix engine within its lease, and is not giving it up (R308 to R310). -/
def ownsMatrix (s : State) (G : Group) : Prop :=
  (∃ x ∈ s.mx.areas, x.uid = G.uid) ∧ s.mx.st = .owned G.uid ∧ s.mx.leaving = false ∧ s.leaseOver G.uid = false

/-- An operation may take the group's slot n of the team (R307): it is free with a physical slot left, or the group's own, and not being
given up. -/
def slotOpen (s : State) (G : Group) (T : Team) (n : Nat) : Prop :=
  (T.acc n).leaving = false ∧ ((T.acc n).holder = some G.uid ∨ (T.acc n).holder = none ∧ s.accsHeld < 8)

/-- What `mrel` makes of a slot (R307, R332): the group's slots of the mask are given up, at once or when their operations are done. -/
def givenUp (G : Group) (m : BitVec 8) (n : Nat) (x : AccSlot) : AccSlot :=
  if m.getLsbD n = true ∧ x.holder = some G.uid then (if x.users = 0 then ⟨none, 0, false, []⟩ else { x with leaving := true }) else x

/-- The operands of a command in a lane are not poisoned. -/
def cleanIn (G : Group) (l : Nat) (a : BitVec 7) (n : Nat) : Prop := anyPoison (G.readWords l a.toNat n) = false

/-- The state t is that after a command: the unit is over and its sequencers go on, the class's sequence has issued one more number, and
the team can no longer be rolled back (R316, R320). -/
structure Issued (s t : State) (c : Cur) (G : Group) (T : Team) (cls : Cls) : Prop where
  cur : t.cur = none
  seq : (t.group c.gctx).map (fun H => (H.cls cls).issued) = some ((G.cls cls).issued + 1#32)
  pend : (t.group c.gctx).map (fun H => (H.cls cls).pend) = some ((G.cls cls).pend ++ [⟨(G.cls cls).issued + 1#32, false, 0#32⟩])
  on : ∀ i q, G.seq i = some q → i ∈ c.seqs → q.st = .run → (t.group c.gctx).bind (·.seq i) = some { q with pc := c.pc + 4#56, ready := s.now + 1 }
  team : (t.team T.slot).map (·.eligible) = some false

/-- The engine's queue once a group has asked for the engine with place in it (R308). -/
def askedFor (m : Matrix) (u : Nat) : Matrix := { m.ask u with waiting := m.waiting.filter fun p => p.2 != u }

/-- The virtual pages of a save area at an aligned address (R331). -/
def areaPageNums (va : Nat) : List Nat := ((List.range 35).map (va / 4096 + ·)).filter fun p => decide (p < 2 ^ 44)

/-- What the banks hold of the table walks of a save area (R287). -/
def areaWalks (s : State) (G : Group) (va : Nat) : List (Nat × Nat × Bool) := s.walksHeld (s.holder G) (s.view G) (areaPageNums va)

/-! ## Special registers, traps, timers, the recorder (spec/01 R19 to R27; spec/17 R361 to R383; spec/05 R120, R121; spec/19 R401 to R414;
spec/20 R420, R421; spec/06 R150, R151) -/

/-- The registers whose reads are pieces of the state, with the numbers that they give to a lane of a group (R21 and the registers' own
rules). -/
def crTable (s : State) (G : Group) (T : Team) (l : Nat) : List (Nat × Nat) :=
  let x := s.slice (s.fOf G)
  let q := s.queue (s.fOf G) s.die
  let h := (s.share G.share).getD ⟨0, 0, 0, 0#64, 0#32, [], 0⟩
  [(0x000, G.level.code), (0x003, (s.asidOf G).toNat), (0x040, s.dieCycles.toNat), (0x042, (s.fp G).cycles.toNat), (0x044, (s.fp G).wall.toNat),
   (0x046, G.timer), (0x080, (s.fp G).mode.toNat), (0x081, (s.fp G).committed.toNat + 256 * (s.fp G).pending.toNat),
   (0x001, G.winb / 8 % 32 + 256 * ((G.thread l).elim 0 fun t => (t.regs.length / 8 - 1) % 32)),
   (0x400, x.trVec.toNat), (0x402, x.trFbase.toNat), (0x404, x.trCtl.toNat), (0x408, x.fqBase.toNat), (0x40A, x.fqIdx.toNat), (0x442, q.qpost.toNat),
   (0x444, q.qhead.toNat), (0x446, q.qcfg.toNat), (0x45F, (x.lcnt.getD 15 0#32).toNat), (0x460, x.asbase.toNat), (0x462, x.s2root.toNat),
   (0x468, x.errs.toNat), (0x441, s.reformAge.toNat), (0x447, s.live.free % 2 ^ 14 + 2 ^ 16 * min 2047 s.live.claims.length), (0x470, h.lease),
   (0x474, T.fpx.toNat), (0x478, T.cesel.toNat), (0x480, s.cx.ctl.toNat), (0x482, s.cx.sva.toNat), (0x484, s.cx.rva.toNat), (0x488, h.cover.toNat),
   (0x48A, h.events.toNat), (0x0C2, min 255 (s.missedOn (s.dieOf G)) + (if s.inSlotOn (s.dieOf G) then 256 else 0))]

/-- The writable registers with a condition on the value that has no reserved bit, and the state after the write (R6 and the registers' own
rules). -/
def cwTable (s : State) (G : Group) (T : Team) (v : Nat) : List (Nat × Bool × State) :=
  let f := s.fOf G
  let x := s.slice f
  let q := s.queue f s.die
  [(0x080, v % 8 ≤ 4, s.setFp G { s.fp G with mode := BitVec.ofNat 32 v }),
   (0x400, true, s.setSlice f { x with trVec := BitVec.ofNat 64 v }),
   (0x402, true, s.setSlice f { x with trFbase := BitVec.ofNat 64 v }),
   (0x404, true, s.setSlice f { x with trCtl := BitVec.ofNat 32 (v % 4096 + (if x.trCtl.getLsbD 12 && !bitAt v 12 then 4096 else 0)) }),
   (0x408, true, s.setSlice f { x with fqBase := BitVec.ofNat 64 v }),
   (0x444, !q.walking, s.setQueue f s.die { q with qhead := BitVec.ofNat 64 v }),
   (0x446, !q.walking, s.setQueue f s.die { q with qcfg := BitVec.ofNat 32 v }),
   (0x460, true, s.setSlice f { x with asbase := BitVec.ofNat 64 v }),
   (0x462, true, s),
   (0x468, true, s.setSlice f { x with errs := BitVec.ofNat 64 v }),
   (0x470, 0 < v && v ≤ 1024, s.onShare G.share fun y => { y with lease := v }),
   (0x474, true, s.setTeam { T with fpx := BitVec.ofNat 64 v }),
   (0x482, s.cx.state == 0, { s with cx := { s.cx with sva := BitVec.ofNat 64 v } }),
   (0x484, s.cx.state == 0, { s with cx := { s.cx with rva := BitVec.ofNat 64 v } }),
   (0x488, true, s.onShare G.share fun y => { y with cover := BitVec.ofNat 64 v }),
   (0x48A, true, s.onShare G.share fun y => { y with events := BitVec.ofNat 32 v })]

/-- A privileged unit of a group at a level (R19, R28). -/
structure SysReady (s : State) (c : Cur) (G : Group) (names : List (BitVec 7 × Nat)) (lvl : Level) : Prop extends Ready s c G (ctlUnit false names) where
  level : lvl.code ≤ G.level.code
  active : G.k0 c ≠ 0#64

/-- The group's own frame with a handle at level S (R364). -/
def ownFrame (s : State) (G : Group) (h : Word) (f : Frame) : Prop :=
  s.live.frames.find? (fun g => g.share == G.share && !g.monitor && g.handle == some (h.setWidth 14)) = some f ∧ f.monitor = false

/-! ## What the core does between its instructions (spec/17 R364, R369, R370, R373, R382; spec/07 R171, R173, R180; spec/06 R151, R152) -/

/-- A share's coverage with one more unit checked, saturating (R370). -/
def coverChecked (x : Share) : Share :=
  if bits x.cover.toNat 42 22 = 2 ^ 21 - 1 then x else { x with cover := x.cover + 0x400000#64 }

/-- A waiting trap frame of a share that no handler has started, of a function that serves frames (R364, R452). -/
structure FrameWaits (s : State) (i : Nat) (x : Share) (f : Frame) : Prop where
  first : s.live.frames.find? (·.fresh i) = some f
  share : s.share i = some x
  idle : s.handlerIdle i = true
  booted : (s.slice x.f).trCtl.getLsbD 12 = false
  runs : (s.slice x.f).halted = false

/-! ## The dispatcher and the registers from outside (spec/06 R129 to R138, R153; spec/01 R6, R7; spec/22 R443 to R446, R453) -/

/-- The registers of a slice that a write from outside may name here: number, and the slice after the write (R130, R362, R375). -/
def sliceWrites (x : Slice) (v : BitVec 64) : List (Nat × Slice) :=
  [(0x400, { x with trVec := v }), (0x402, { x with trFbase := v }), (0x408, { x with fqBase := v }), (0x460, { x with asbase := v }), (0x468, { x with errs := v })]

/-- The host's request reaches a function's registers on a die (R445, R453). -/
def hostOpen (s : State) (f : Nat) (tee : Bool) : Prop :=
  f < 64 ∧ (f = 0 ∧ (s.slice 0).trust.ide ≠ 2 ∨ f ≠ 0 ∧ s.pkg.boot.recovery = false ∧ ((s.slice f).tdi = 0#2 ∨ (s.slice f).tdi = 2#2 ∧ tee = true))

/-! ## Contexts (spec/17 R377 to R384; spec/01 R27) -/

/-! ## The engines beside the core (spec/14 R306 to R326; spec/15 R345; spec/12 R280 to R287; spec/17 R349) -/

/-- A matrix operation that has started, at the head of the engine: its status, the rows that it is to do, and the column whose weights an error
has hit (spec/14 R306, R319). -/
def opStarted (u : State) (o : MxOp) (os : List MxOp) (status : Nat) (rows : List Nat) (ecc : Option Nat) : State :=
  { u with mx := { u.mx with ops := { o with started := true, status := BitVec.ofNat 8 status, left := rows, ecc := ecc } :: os } }

/-- A matrix operation with fewer rows left, and the conditions that a row met. -/
def opOnward (u : State) (o : MxOp) (os : List MxOp) (rows : List Nat) (nf : BitVec 5) : State :=
  { u with mx := { u.mx with ops := { o with left := rows, nf := o.nf ||| nf } :: os } }

/-- A tile copy that is over with a status, at its place. -/
def copyEnded (u : State) (o : TcOp) (status : Nat) : State :=
  { u with tcs := u.tcs.map fun x => if x.id = o.id then { o with started := true, status := BitVec.ofNat 8 status } else x }

/-- A command of a class of a group that still lives counts as complete with a status (R320). -/
def Counted (s t : State) (cls : Cls) (g uid : Nat) (seq : BitVec 32) (status : Nat) : Prop :=
  ∀ G, s.group g = some G → G.uid = uid → (t.group g).map (·.cls cls) = some ((G.cls cls).complete seq status)

/-- The eight chain steps with the entry kind that each takes (R322, R326). -/
def chainStep (i : Nat) (x : Instr) (k : Nat) : Prop :=
  (x = .nopEntry i ∧ k = 0) ∨ (x = .copyEntry i ∧ k = 1) ∨ (x = .copy2dEntry i ∧ k = 2) ∨ (x = .fillEntry i ∧ k = 3) ∨ (x = .tierDown i ∧ k = 8)
  ∨ (x = .tierUp i ∧ k = 9) ∨ (x = .zeroRows i ∧ k = 10) ∨ (x = .rowCopy i ∧ k = 11)

/-- An error with which an operation may start, and the column of the plane that it hits (spec/14 R313, R319). -/
def planeError (u : EngineUpset) (e : Option Nat) : Prop := u = .clean ∧ e = none ∨ ∃ n, u = .planeEcc n ∧ e = some (n % 128)

/-! ## The calendar and the recorder (spec/20 R416 to R426; spec/19 R404 to R415) -/

/-- A unit's ring with a slot's entry or exit recorded (R398, R401). -/
def slotMarked (s t : State) (kind : Nat) (x : SlotRec) : Prop :=
  ∀ u ∈ allUnits, (t.ring u).lastSlot = BitVec.ofNat 16 x.num ∧ ((s.ring u).frozen = false →
    (t.ring u).main = newest (mainCap u) ((s.ring u).main ++ [eventOf 0x08 kind 0 0 (unitCycles s u) (x.num % 65536 + 65536 * x.major.toNat)]))

/-- The engines of a die in RUN are in DRAIN (spec/14 R323). -/
def drainedEngs (s : State) (d : Nat) : List ChainEng := s.engs.map fun e => if e.base = d ∧ e.st = 2 then { e with st := 6 } else e

/-- A function's mailbox holds a response, and nothing of the groups, the memory or the other slices has changed (R443). -/
structure Answered (s t : State) (f : Nat) (bs : List Byte) : Prop where
  response : (t.slice f).trust.response = bs
  status : (t.slice f).trust.mbStat = BitVec.ofNat 32 (1 + bs.length * 65536)
  others : ∀ g, g ≠ f → t.slice g = s.slice g
  live : t.live = s.live
  dram : t.dram = s.dram

/-! ## Slices and the trusted interface (spec/22 R438 to R460) -/

/-- A bound request of a function that comes in its session, while the part is not in recovery (R449, R455, R475). -/
structure Bound (s : State) (f : Nat) : Prop where
  fn : 0 < f ∧ f < 64
  slices : s.slices.length = 64
  sess : (s.slice f).trust.sess = 2
  up : s.pkg.boot.recovery = false

/-- A request that fails: the mailbox holds the error response, and the function's slice has not changed otherwise (R449). -/
structure Declined (s t : State) (f : Nat) : Prop extends Answered s t f errorResponse where
  tdi : (t.slice f).tdi = (s.slice f).tdi
  keyed : (t.slice f).keyed = (s.slice f).keyed
  gran : (t.slice f).gran = (s.slice f).gran

/-- A change of a slice that waits for the slice's operations in flight (R459): the slice is halted, and the change stands in it. -/
structure Waiting (t : State) (f : Nat) (c : Change) : Prop where
  change : (t.slice f).trust.change = some c
  halted : (t.slice f).halted = true
  move : (t.slice f).trust.move = none

/-- A function's slice is released (R459): its keys are zero, its bytes of memory are gone, and no bank run, tile copy or registered point of it
is left. -/
structure Cleared (t : State) (f : Nat) : Prop where
  keyed : (t.slice f).keyed = false
  key : (t.slice f).trust.key = 0#128
  owner : (t.slice f).trust.owner = 0#512
  dram : ∀ c ∈ t.dram, c.1 / 2 ^ 40 ≠ f
  runs : ∀ r ∈ t.bank.runs, r.f ≠ f
  tcs : ∀ o ∈ t.tcs, o.f ≠ f
  point : ∀ p ∈ t.points, p.1 ≠ f

/-! ## The host port, the link, enclaves, boot and resets (spec/23 R461 to R477; spec/22 R455; spec/19 R413; spec/01 R8) -/

/-- A response of SPDM or of IDE_KM stands in the function's DOE mailbox (R455, R461). -/
structure AnsweredDoe (s t : State) (f : Nat) (bs : List Byte) : Prop where
  doe : (t.slice f).trust.doe = bs
  response : (t.slice f).trust.response = (s.slice f).trust.response
  others : ∀ g, g ≠ f → t.slice g = s.slice g
  dram : t.dram = s.dram

/-- A message of SPDM or of IDE_KM that fails. -/
structure DeclinedDoe (s t : State) (f : Nat) : Prop extends AnsweredDoe s t f errorResponse where
  sess : (t.slice f).trust.sess = (s.slice f).trust.sess
  ide : (t.slice f).trust.ide = (s.slice f).trust.ide

/-! ## Reset, encodings, the step (spec/01 R3, R8, R28, R30; spec/02 R31, R32, R41, R42) -/

/-- The worked encodings of spec/02 (R42) and the words written out from R32, R37, R39 and R40 beside them. -/
def workedWords : List (Word × Instr) := [
  (0xFE000024#32, .limm 0x24#25), (0x200C0B45#32, .addi 3#7 1#7 0x345#11), (0xFCA41800#32, .pfx 2#3 1#1 1#3 3#7 0#3),
  (0x40610082#32, .ffma 0#1 4#7 1#7 2#7), (0x00014184#32, .iadd 0#1 5#7 3#7 4#7), (0x801F3FFB#32, .bra 0x3FFB#14)]

/-- The majors that the opcode map leaves unassigned (spec/02 R40). -/
def unassignedMajors : List Nat :=
  [0x07] ++ (List.range 7).map (0x09 + ·) ++ (List.range 12).map (0x24 + ·) ++ [0x35, 0x36, 0x37] ++ (List.range 6).map (0x3A + ·)
  ++ [0x46, 0x47, 0x51, 0x56, 0x57, 0x6E, 0x6F, 0x75, 0x76, 0x77, 0x7D]

/-- The assigned fn values of the R-format majors that do not assign all eight (spec/02 R40). -/
def assignedFns : List (Nat × List Nat) := [
  (0x01, [0, 1, 2, 3]), (0x02, [0, 1, 2, 3]), (0x03, [0, 1, 2, 3, 4, 5]), (0x04, [0, 1, 2, 3, 4, 5, 6]), (0x05, [0, 1, 2, 3, 4, 5, 6]),
  (0x06, [0, 1, 2, 3]), (0x18, [0, 1, 2, 3, 4, 5]), (0x19, [2, 3, 4, 5]), (0x1A, [0, 1, 2, 3, 4, 5]), (0x1B, [2, 3, 4, 5]), (0x1E, [0, 1, 2]),
  (0x1F, [0, 1, 2]), (0x21, [0, 1, 2, 3, 4]), (0x22, [0, 1, 2, 3, 4, 5, 6]), (0x23, [0, 1, 2, 4, 5, 6]), (0x30, [0, 1, 2, 3]), (0x32, [0, 1, 2, 3]),
  (0x33, [0, 1]), (0x38, [0, 1, 2, 3, 4]), (0x39, [0, 1, 2]), (0x48, [0, 1, 2]), (0x49, [0, 1]), (0x4A, [0, 1, 2, 3, 4]),
  (0x4C, [0, 1, 2, 4, 5, 6]), (0x4E, [0, 1, 2]), (0x4F, [0, 1, 2, 3, 4, 5, 6])]

end Sys2Proof.Machine
end

