-- ==== Sys2Proof/Certificates/Slice0/Obligations.lean ====
section
/-! DEFINITION. The statements for the provers. A statement of several parts names each part under `Claim`, and is their conjunction. -/

open Sys2Proof Sys2Proof.Machine

/-- The two-operand integer instructions: for each one, a unit that passes its checks and reads no poison completes, with the result
of its rule in the destination of every run lane and no flag raised (spec/04 R79 to R84, R95). -/
def Claim.IntegerBinaryResults : Prop :=
  ∀ p ∈ intBinary, ∀ (n : BitVec 1) (d a b : BitVec 7) (s : State) (c : Cur) (G : Group),
    Ready s c G (aluUnit n 0 [(d, 1), (a, 1), (b, 1)]) →
    G.Clean c (aluUnit n 0 [(d, 1), (a, 1), (b, 1)]) [(a.toNat, 1), (b.toNat, 1)] →
    exec (p.1 n d a b) s = .next (s.laneDone G c (aluUnit n 0 [(d, 1), (a, 1), (b, 1)]) (.regs d 1)
      (fun l => [clean (p.2 (G.val l a) (G.val l b))]) 0#5)

/-- The one-operand integer instructions in the same way (spec/04 R82, R85). -/
def Claim.IntegerUnaryResults : Prop :=
  ∀ p ∈ intUnary, ∀ (n : BitVec 1) (d a : BitVec 7) (s : State) (c : Cur) (G : Group),
    Ready s c G (aluUnit n 0 [(d, 1), (a, 1)]) → G.Clean c (aluUnit n 0 [(d, 1), (a, 1)]) [(a.toNat, 1)] →
    exec (p.1 n d a) s = .next (s.laneDone G c (aluUnit n 0 [(d, 1), (a, 1)]) (.regs d 1) (fun l => [clean (p.2 (G.val l a))]) 0#5)

/-- The integer instructions with a fourth operand in the prefix, zero without one (spec/04 R80, R84, R94, R95; spec/05 R116). -/
def Claim.IntegerTernaryResults : Prop :=
  ∀ p ∈ intTernary, ∀ (n : BitVec 1) (d a b : BitVec 7) (s : State) (c : Cur) (G : Group),
    Ready s c G (aluUnit n 1 [(d, 1), (a, 1), (b, 1)]) →
    G.Clean c (aluUnit n 1 [(d, 1), (a, 1), (b, 1)]) [(a.toNat, 1), (b.toNat, 1), ((pfxC c).toNat, 1)] →
    exec (p.1 n d a b) s = .next (s.laneDone G c (aluUnit n 1 [(d, 1), (a, 1), (b, 1)]) (.regs d 1)
      (fun l => [clean (p.2 (G.val l a) (G.val l b) (G.val l (pfxC c)))]) 0#5)

/-- Integer instructions complete with the results of their rules. -/
def Obligations.IntegerResults : Prop :=
  Claim.IntegerBinaryResults ∧ Claim.IntegerUnaryResults ∧ Claim.IntegerTernaryResults

/-- 64-bit addition and subtraction, and the address additions, on pairs modulo 2^64 (spec/04 R79, R86, R87, R89). -/
def Claim.PairResults : Prop :=
  ∀ (n : BitVec 1) (sh : BitVec 3) (d a b : BitVec 7) (i : BitVec 11) (x : BitVec 8) (s : State) (c : Cur) (G : Group),
    (Ready s c G (aluUnit n 0 [(d, 2), (a, 2), (b, 2)]) → G.Clean c (aluUnit n 0 [(d, 2), (a, 2), (b, 2)]) [(a.toNat, 2), (b.toNat, 2)] →
      exec (.iadd64 n d a b) s = .next (s.laneDone G c (aluUnit n 0 [(d, 2), (a, 2), (b, 2)]) (.regs d 2)
        (fun l => pairWords ((G.pair l a : Int) + G.pair l b)) 0#5)
      ∧ exec (.isub64 n d a b) s = .next (s.laneDone G c (aluUnit n 0 [(d, 2), (a, 2), (b, 2)]) (.regs d 2)
        (fun l => pairWords ((G.pair l a : Int) - G.pair l b)) 0#5))
    ∧ (Ready s c G (aluUnit n 0 [(d, 2), (a, 2), (b, 1)]) → G.Clean c (aluUnit n 0 [(d, 2), (a, 2), (b, 1)]) [(a.toNat, 2), (b.toNat, 1)] →
      exec (.lea64 n sh d a b) s = .next (s.laneDone G c (aluUnit n 0 [(d, 2), (a, 2), (b, 1)]) (.regs d 2)
        (fun l => pairWords ((G.pair l a : Int) + (G.val l b).toInt * (2 : Int) ^ sh.toNat)) 0#5))
    ∧ (Ready s c G (immUnit true [(d, 2), (a, 2)]) → G.Clean c (immUnit true [(d, 2), (a, 2)]) [(a.toNat, 2)] →
      exec (.addi64 d a i) s = .next (s.laneDone G c (immUnit true [(d, 2), (a, 2)]) (.regs d 2)
        (fun l => pairWords ((G.pair l a : Int) + fullImm c i)) 0#5)
      ∧ exec (.lea64i d a x sh) s = .next (s.laneDone G c (immUnit true [(d, 2), (a, 2)]) (.regs d 2)
        (fun l => pairWords ((G.pair l a : Int)
          + (if c.limm.isNone then x.toInt else fullImm c (x ++ sh) / 8) * (2 : Int) ^ sh.toNat)) 0#5))

/-- The immediate instructions, with or without a LIMM, the immediate shifts, and `movi` (spec/04 R87, R88). -/
def Claim.ImmediateResults : Prop :=
  ∀ (d a : BitVec 7) (i : BitVec 11) (k : BitVec 5) (s : State) (c : Cur) (G : Group),
    (∀ p ∈ immBinary, Ready s c G (immUnit true [(d, 1), (a, 1)]) → G.Clean c (immUnit true [(d, 1), (a, 1)]) [(a.toNat, 1)] →
      exec (p.1 d a i) s = .next (s.laneDone G c (immUnit true [(d, 1), (a, 1)]) (.regs d 1)
        (fun l => [clean (p.2 (G.val l a) (fullImm c i))]) 0#5))
    ∧ (Ready s c G (immUnit true [(d, 1), (124#7, 1)]) →
      exec (.movi d i) s = .next (s.laneDone G c (immUnit true [(d, 1), (124#7, 1)]) (.regs d 1) (fun _ => [clean (lo32 (fullImm c i))]) 0#5))
    ∧ (∀ p ∈ immShift, Ready s c G (immUnit false [(d, 1), (a, 1)]) → G.Clean c (immUnit false [(d, 1), (a, 1)]) [(a.toNat, 1)] →
      exec (p.1 d a k) s = .next (s.laneDone G c (immUnit false [(d, 1), (a, 1)]) (.regs d 1)
        (fun l => [clean (p.2 (G.val l a) k.toNat)]) 0#5))

/-- 64-bit pairs, address additions and immediate instructions complete with their results. -/
def Obligations.PairAndImmediateResults : Prop :=
  Claim.PairResults ∧ Claim.ImmediateResults

/-- The integer compares: to a mask register, one bit for a run lane; to a register, all ones or zero (spec/04 R90). -/
def Claim.CompareResults : Prop :=
  ∀ (n : BitVec 1) (f k : BitVec 3) (d a b : BitVec 7) (s : State) (c : Cur) (G : Group),
    let u := aluUnit 0#1 0 [(a, 1), (b, 1)]
    let v := aluUnit n 0 [(d, 1), (a, 1), (b, 1)]
    (Ready s c G u → G.Clean c u [(a.toNat, 1), (b.toNat, 1)] →
      exec (.icmp f k a b) s = .next (s.laneDone G c u (.mask k.toNat)
        (fun l => [clean (if icmpRel false f.toNat (G.val l a) (G.val l b) then 1#32 else 0#32)]) 0#5)
      ∧ (2 ≤ f.toNat → exec (.icmpN f k a b) s = .next (s.laneDone G c u (.mask k.toNat)
        (fun l => [clean (if icmpRel true f.toNat (G.val l a) (G.val l b) then 1#32 else 0#32)]) 0#5)))
    ∧ (Ready s c G v → G.Clean c v [(a.toNat, 1), (b.toNat, 1)] →
      exec (.icmpv n f d a b) s = .next (s.laneDone G c v (.regs d 1)
        (fun l => [clean (if icmpRel false f.toNat (G.val l a) (G.val l b) then 0xFFFFFFFF#32 else 0#32)]) 0#5)
      ∧ (2 ≤ f.toNat → exec (.icmpvN n f d a b) s = .next (s.laneDone G c v (.regs d 1)
        (fun l => [clean (if icmpRel true f.toNat (G.val l a) (G.val l b) then 0xFFFFFFFF#32 else 0#32)]) 0#5)))

/-- `mov` and `sel` move a word with its poison bit and never consume it (spec/04 R83, R93). -/
def Claim.MoveResults : Prop :=
  ∀ (n : BitVec 1) (d a b : BitVec 7) (s : State) (c : Cur) (G : Group),
    (Ready s c G (aluUnit n 0 [(d, 1), (a, 1)]) →
      exec (.mov n d a) s = .next (s.laneDone G c (aluUnit n 0 [(d, 1), (a, 1)]) (.regs d 1) (fun l => [G.readWord l a.toNat]) 0#5))
    ∧ (Ready s c G (selUnit n d a b) →
      exec (.sel n d a b) s = .next (s.laneDone G c (selUnit n d a b) (.regs d 1)
        (fun l => [if (G.mask (G.k0 c) (pfxKm c)).getLsbD l then G.readWord l a.toNat else G.readWord l b.toNat]) 0#5))

/-- Integer compares, mov and sel complete with their results. -/
def Obligations.CompareAndMoveResults : Prop :=
  Claim.CompareResults ∧ Claim.MoveResults

/-- The two-operand floating-point instructions: each completes with the result of its rule in every run lane, and the flags that the
run lanes raise together (spec/05 R109, R110, R112). -/
def Claim.FloatBinaryResults : Prop :=
  ∀ p ∈ fpBinaryTable, ∀ (n : BitVec 1) (d a b : BitVec 7) (s : State) (c : Cur) (G : Group),
    let u := fpUnit n 0 0 [(d, 1), (a, 1), (b, 1)]
    let r := fun l => p.2 (s.ftz G) (unitMode s G c) (G.val l a) (G.val l b)
    Ready s c G u → G.Clean c u [(a.toNat, 1), (b.toNat, 1)] →
    exec (p.1 n d a b) s = .next (s.laneDone G c u (.regs d 1) (fun l => [clean (r l).1]) (G.orFlags c u fun l => (r l).2))

/-- The one-operand floating-point instructions, the approximated functions, and the conversions of a word (spec/05 R110, R111, R113,
R114). Where R111 leaves a result open within a bound, `approxVal` is the model's free value (log entry 20). -/
def Claim.FloatUnaryResults : Prop :=
  ∀ p ∈ fpUnaryTable, ∀ (n : BitVec 1) (d a : BitVec 7) (s : State) (c : Cur) (G : Group),
    let u := fpUnit n 0 0 [(d, 1), (a, 1)]
    let r := fun l => p.2 (s.ftz G) (unitMode s G c) (G.val l a)
    Ready s c G u → G.Clean c u [(a.toNat, 1)] →
    exec (p.1 n d a) s = .next (s.laneDone G c u (.regs d 1) (fun l => [clean (r l).1]) (G.orFlags c u fun l => (r l).2))

/-- The fused multiply-adds and the dot products with the fourth operand as addend, and `fmac` with the destination as addend
(spec/05 R109, R112, R116). -/
def Claim.FloatTernaryResults : Prop :=
  (∀ p ∈ fpTernaryTable, ∀ (n : BitVec 1) (d a b : BitVec 7) (s : State) (c : Cur) (G : Group),
    let u := fpUnit n 1 0 [(d, 1), (a, 1), (b, 1)]
    let r := fun l => p.2 (s.ftz G) (unitMode s G c) (G.val l a) (G.val l b) (G.val l (pfxC c))
    Ready s c G u → G.Clean c u [(a.toNat, 1), (b.toNat, 1), ((pfxC c).toNat, 1)] →
    exec (p.1 n d a b) s = .next (s.laneDone G c u (.regs d 1) (fun l => [clean (r l).1]) (G.orFlags c u fun l => (r l).2)))
  ∧ ∀ (n : BitVec 1) (d a b : BitVec 7) (s : State) (c : Cur) (G : Group),
    let u := fpUnit n 0 0 [(d, 1), (a, 1), (b, 1)]
    let r := fun l => fpRes (fp32.fma (s.ftz G) (unitMode s G c) (f32 (s.ftz G) (G.val l a)) (f32 (s.ftz G) (G.val l b))
      (f32 (s.ftz G) (G.val l d)))
    Ready s c G u → G.Clean c u [(a.toNat, 1), (b.toNat, 1), (d.toNat, 1)] →
    exec (.fmac n d a b) s = .next (s.laneDone G c u (.regs d 1) (fun l => [clean (r l).1]) (G.orFlags c u fun l => (r l).2))

/-- Floating-point arithmetic and approximated functions complete with their results and flags. -/
def Obligations.FloatArithmeticResults : Prop :=
  Claim.FloatBinaryResults ∧ Claim.FloatUnaryResults ∧ Claim.FloatTernaryResults

/-- The floating-point compares to a mask and to a register, with NV for a signalling NaN, and the class of a word
(spec/04 R91, R92). -/
def Claim.FloatCompareResults : Prop :=
  ∀ (n : BitVec 1) (f k : BitVec 3) (d a b : BitVec 7) (s : State) (c : Cur) (G : Group),
    let u := aluUnit 0#1 0 [(a, 1), (b, 1)]
    let v := aluUnit n 0 [(d, 1), (a, 1), (b, 1)]
    let x := fun l => f32 (s.ftz G) (G.val l a)
    let y := fun l => f32 (s.ftz G) (G.val l b)
    (Ready s c G u → G.Clean c u [(a.toNat, 1), (b.toNat, 1)] →
      exec (.fcmp f k a b) s = .next (s.laneDone G c u (.mask k.toNat)
        (fun l => [clean (if fcmpHolds f.toNat (x l) (y l) then 1#32 else 0#32)]) (G.orFlags c u fun l => sigFlag [x l, y l])))
    ∧ (Ready s c G v → G.Clean c v [(a.toNat, 1), (b.toNat, 1)] →
      exec (.fcmpv n f d a b) s = .next (s.laneDone G c v (.regs d 1)
        (fun l => [clean (if fcmpHolds f.toNat (x l) (y l) then 0xFFFFFFFF#32 else 0#32)]) (G.orFlags c v fun l => sigFlag [x l, y l])))
    ∧ (Ready s c G (aluUnit n 0 [(d, 1), (a, 1)]) → G.Clean c (aluUnit n 0 [(d, 1), (a, 1)]) [(a.toNat, 1)] →
      exec (.fclass n d a) s = .next (s.laneDone G c (aluUnit n 0 [(d, 1), (a, 1)]) (.regs d 1)
        (fun l => [clean (BitVec.ofNat 32 (2 ^ fclassBit (G.val l a)))]) 0#5))

/-- The conversions between FP32 and the packed formats: source word i becomes element i, from the least significant position up, and
back (spec/05 R114). -/
def Claim.PackedConversionResults : Prop :=
  ∀ (n : BitVec 1) (d a b : BitVec 7) (s : State) (c : Cur) (G : Group),
    (∀ p ∈ narrowTable n d a b,
      let u := fpUnit n 0 0 ((d, 1) :: p.2.1)
      let r := fun l => (G.vals l p.2.1).map fun x => cvt p.2.2 (s.ftz G) (unitMode s G c) (f32 (s.ftz G) x)
      Ready s c G u → G.Clean c u (p.2.1.map fun q => (q.1.toNat, q.2)) →
      exec p.1 s = .next (s.laneDone G c u (.regs d 1)
        (fun l => [clean (BitVec.ofNat 32 ((r l).mapIdx fun i e => e.1 * 2 ^ (p.2.2.width * i)).sum)])
        (G.orFlags c u fun l => (r l).foldl (fun f e => f ||| e.2) 0#5)))
    ∧ ∀ p ∈ widenTable n d a,
      let u := fpUnit n 0 0 [(d, p.2.1), (a, 1)]
      let r := fun l => (List.range p.2.1).map fun i =>
        cvt fp32 (s.ftz G) (unitMode s G c) (p.2.2.decodeFtz (s.ftz G) ((G.val l a).toNat / 2 ^ (p.2.2.width * i) % 2 ^ p.2.2.width))
      Ready s c G u → G.Clean c u [(a.toNat, 1)] →
      exec p.1 s = .next (s.laneDone G c u (.regs d p.2.1) (fun l => (r l).map fun e => clean (BitVec.ofNat 32 e.1))
        (G.orFlags c u fun l => (r l).foldl (fun f e => f ||| e.2) 0#5))

/-- The DL8 conversions: the byte that the prefix selects is decoded, or replaced in the second operand (spec/05 R115; spec/03 R64,
R65). -/
def Claim.DeepLinkConversionResults : Prop :=
  ∀ (n : BitVec 1) (d a b : BitVec 7) (s : State) (c : Cur) (G : Group),
    (let u := fpUnit n 0 3 [(d, 1), (a, 1)]
     Ready s c G u → G.Clean c u [(a.toNat, 1)] →
     exec (.cvtdlF32 n d a) s = .next (s.laneDone G c u (.regs d 1)
       (fun l => [clean (BitVec.ofNat 32 (dl8Decode ((G.val l a).toNat / 256 ^ pfxX c % 256)))]) 0#5))
    ∧ (let u := fpUnit n 0 3 [(d, 1), (a, 1), (b, 1)]
       let r := fun l => dl8Encode (unitMode s G c) (f32 (s.ftz G) (G.val l a))
       Ready s c G u → G.Clean c u [(a.toNat, 1), (b.toNat, 1)] →
       exec (.cvtdlDl8 n d a b) s = .next (s.laneDone G c u (.regs d 1)
         (fun l => [clean (setByte (G.val l b) (pfxX c) (r l).1)]) (G.orFlags c u fun l => (r l).2)))

/-- Floating-point compares, classes, packed and DL8 conversions complete with their results. -/
def Obligations.FloatCompareAndConversionResults : Prop :=
  Claim.FloatCompareResults ∧ Claim.PackedConversionResults ∧ Claim.DeepLinkConversionResults

/-- The block conversions: `mxq` quantises a lane's four words under the scale of its block's run lanes, `mxdq` gives back four words
(spec/05 R118, R119; spec/03 R61, R62). -/
def Claim.BlockConversionResults : Prop :=
  ∀ (n : BitVec 1) (f : BitVec 2) (d a b : BitVec 7) (s : State) (c : Cur) (G : Group),
    (let u := fpUnit n 0 0 [(d, 2), (a, 4)]
     let z := s.ftz G
     let r := fun l => mxqVal f.toNat (unitMode s G c) ((G.blockRun c l).flatMap fun i => G.quad z i a) (G.quad z l a)
     Ready s c G u → (∀ l ∈ lanesOf G (G.run c), ∀ i ∈ G.blockRun c l, anyPoison (G.readWords i a.toNat 4) = false) →
     exec (.mxq n f d a) s = .next (s.laneDone G c u (.regs d 2) (fun l => (r l).1.map clean) (G.orFlags c u fun l => (r l).2)))
    ∧ (let u := fpUnit n 0 0 [(d, 4), (a, 1), (b, 1)]
       let w := if f = 2#2 then 4 else 8
       let r := fun l => (List.range 4).map fun i =>
         mxdqVal f.toNat (s.ftz G) (unitMode s G c) ((G.val l b).toNat % 256) ((G.val l a).toNat / 2 ^ (w * i) % 2 ^ w)
       Ready s c G u → G.Clean c u [(a.toNat, 1), (b.toNat, 1)] →
       exec (.mxdq n f d a b) s = .next (s.laneDone G c u (.regs d 4) (fun l => (r l).map fun e => clean (BitVec.ofNat 32 e.1))
         (G.orFlags c u fun l => (r l).foldl (fun g e => g ||| e.2) 0#5)))

/-- The scaled dot products: the scale bytes come from the fourth operand of lanes 0 and 1 of the lane's block, all ones where no
thread lives, and the destination is the addend (spec/05 R117). -/
def Claim.ScaledDotResults : Prop :=
  ∀ (n e : BitVec 1) (d a b : BitVec 7) (s : State) (c : Cur) (G : Group),
    let u := fpUnit n 1 3 [(d, 1), (a, 1), (b, 1)]
    let sc := fun l => (G.scaleWord c l).val.toNat / 256 ^ pfxX c % 256
    let r := fun (f l : Nat) => mxdotVal f (s.ftz G) (unitMode s G c) (sc (8 * (l / 8))) (sc (8 * (l / 8) + 1)) (G.val l a) (G.val l b) (G.val l d)
    Ready s c G u → G.Clean c u [(a.toNat, 1), (b.toNat, 1), (d.toNat, 1)] →
    (∀ l ∈ lanesOf G (G.run c), (G.scaleWord c (8 * (l / 8))).poison = false ∧ (G.scaleWord c (8 * (l / 8) + 1)).poison = false) →
    exec (.mxdot n e d a b) s = .next (s.laneDone G c u (.regs d 1) (fun l => [clean (r e.toNat l).1]) (G.orFlags c u fun l => (r e.toNat l).2))
    ∧ exec (.mxi8dot n d a b) s = .next (s.laneDone G c u (.regs d 1) (fun l => [clean (r 3 l).1]) (G.orFlags c u fun l => (r 3 l).2))

/-- Block conversions and scaled dot products complete with their results. -/
def Obligations.BlockAndScaledDotResults : Prop :=
  Claim.BlockConversionResults ∧ Claim.ScaledDotResults

/-- Write-back to main or operand registers (spec/01 R14, R16; spec/02 R37): in every lane of k0 the n destination words take the merged
words unless nw is set; every other register of every lane, the uniform registers and the masks keep their values. -/
def Claim.RegisterWriteBack : Prop :=
  ∀ (s : State) (c : Cur) (G : Group) (u : Sys2Proof.Machine.Unit) (r n : Nat) (vals : Nat → List PWord) (fl : BitVec 5),
    InUnit s c G → (∀ l, (vals l).length = n) → u.names.contains (BitVec.ofNat 7 r, n) → Ready s c G u →
    r + n ≤ 96 ∨ 96 ≤ r ∧ r + n ≤ 104 ∧ (∀ t ∈ G.threads, t.opf.length = 8) →
    ∃ H, (s.laneDone G c u (.regs (BitVec.ofNat 7 r) n) vals fl).group c.gctx = some H
      ∧ (∀ l x, l < 64 → x < 104 → H.readWord l x = if r ≤ x ∧ x < r + n ∧ (G.k0 c).getLsbD l ∧ u.nw = false
        then mergedWord G c u vals r l (x - r) else G.readWord l x)
      ∧ H.unif = G.unif ∧ H.masks = G.masks ∧ H.winb = G.winb

/-- The latch push (spec/01 R15, R16): in every lane of the issuing quads a one-word result enters latch element 0 with the tag of its
register, whether or not nw keeps it from the register, and the oldest element is discarded; a lane outside them keeps its latches. -/
def Claim.LatchPush : Prop :=
  ∀ (s : State) (c : Cur) (G : Group) (u : Sys2Proof.Machine.Unit) (r : Nat) (vals : Nat → List PWord) (fl : BitVec 5),
    InUnit s c G → r < 104 → (∀ l, (vals l).length = 1) → u.latch = true →
    ∃ H, (s.laneDone G c u (.regs (BitVec.ofNat 7 r) 1) vals fl).group c.gctx = some H
      ∧ ∀ l t, G.thread l = some t → (H.thread l).map (·.lats) = some (if (G.issuing c).any fun q => G.ownedBy q l
        then ⟨pushedWord G c u vals r l, latchTag G.winb r, false⟩ :: t.lats.take 3 else t.lats)

/-- Write-back to a mask register and to a uniform register (spec/01 R13, R14; spec/02 R37): the bit of a run lane becomes its result, of
another lane of k0 stays or is cleared by the zero policy, of a lane outside k0 stays, and of a lane at or above the width reads zero;
a uniform register takes the result of the lowest lane of k0 (the model's choice among the lanes, log entry 10). -/
def Claim.MaskAndUniformWriteBack : Prop :=
  ∀ (s : State) (c : Cur) (G : Group) (u : Sys2Proof.Machine.Unit) (k r : Nat) (vals : Nat → List PWord) (fl : BitVec 5),
    InUnit s c G → 1 ≤ k → k ≤ G.masks.length →
    (∃ H, (s.laneDone G c u (.mask k) vals fl).group c.gctx = some H ∧ H.threads = G.threads ∧ H.unif = G.unif
      ∧ (∀ l, l < G.width → l < 64 → (H.masks.getD (k - 1) 0#64).getLsbD l = (if (u.run G c).getLsbD l then ((vals l).getD 0 pzero).val != 0#32
        else (G.masks.getD (k - 1) 0#64).getLsbD l && !((G.k0 c).getLsbD l && pfxZm c)))
      ∧ (∀ l, G.width ≤ l → (H.masks.getD (k - 1) 0#64).getLsbD l = false)
      ∧ ∀ j, j + 1 ≠ k → H.masks.getD j 0#64 = G.masks.getD j 0#64)
    ∧ (108 ≤ r → r < 124 → G.unif.length = 16 → ∀ l v, lowest (G.k0 c) = some l → (u.run G c).getLsbD l = true → vals l = [v] →
      ∃ H, (s.laneDone G c u (.regs (BitVec.ofNat 7 r) 1) vals fl).group c.gctx = some H ∧ H.threads = G.threads ∧ H.masks = G.masks
      ∧ (∀ j, j < 16 → H.unif.getD j pzero = if j = r - 108 then v else G.unif.getD j pzero))

/-- Write-back to registers, latches, masks and uniform registers, and what it leaves. -/
def Obligations.WriteBackResults : Prop :=
  Claim.RegisterWriteBack ∧ Claim.LatchPush ∧ Claim.MaskAndUniformWriteBack

/-- What every instruction that works on registers alone leaves (spec/01 R28; spec/04 R78): the unit is over, each of its sequencers that
runs goes on at the next word in the next cycle and the others stay as they are, every byte of every memory reads as before, and nothing
but the group and the flags of its team changes. -/
def Claim.LaneFrame : Prop :=
  ∀ (s : State) (c : Cur) (G : Group) (u : Sys2Proof.Machine.Unit) (d : Dst) (vals : Nat → List PWord) (fl : BitVec 5),
    InUnit s c G →
    let t := s.laneDone G c u d vals fl
    t.cur = none ∧ RegisterOnly s t c.gctx
    ∧ (∀ a, memGet t.dram a = memGet s.dram a ∧ memGet t.scr a = memGet s.scr a ∧ memGet t.host a = memGet s.host a)
    ∧ ∃ H, t.group c.gctx = some H ∧ H.team = G.team ∧ H.level = G.level ∧ H.width = G.width ∧ H.timer = G.timer
      ∧ ∀ i q, G.seq i = some q → H.seq i = some (if i ∈ c.seqs ∧ (q.st = .run ∨ q.st = .cwait)
        then { q with pc := c.pc + 4#56, ready := s.now + 1, st := .run } else q)

/-- The flags of a unit (spec/03 R75): they join the pending set of the group's team; the committed set, the mode and the counters, and
every other team, stay; a migrated group keeps them with it. -/
def Claim.FlagsRaised : Prop :=
  ∀ (s : State) (c : Cur) (G : Group) (u : Sys2Proof.Machine.Unit) (d : Dst) (vals : Nat → List PWord) (fl : BitVec 5) (k : Nat) (T : Team),
    InUnit s c G → G.team = some k → s.team k = some T →
    (G.mig = none → (s.laneDone G c u d vals fl).team k = some { T with fp := { T.fp with pending := T.fp.pending ||| fl } })
    ∧ (∀ m, G.mig = some m → (s.laneDone G c u d vals fl).team k = some T
      ∧ ((s.laneDone G c u d vals fl).group c.gctx).map (·.mig) = some (some { m with flags := m.flags ||| fl }))
    ∧ ∀ j, j ≠ k → (s.laneDone G c u d vals fl).team j = s.team j

/-- The frame of a unit that works on registers, and where its flags go. -/
def Obligations.FrameAndFlags : Prop :=
  Claim.LaneFrame ∧ Claim.FlagsRaised

/-- A unit that a check of the whole unit refuses (spec/01 R28, R33, R10; spec/17 R360): no lane has an effect, and the trap with the
cause of the first check that fails is taken: 0x01 for an inadmissible prefix, 0x03 for a register outside a thread's allocation. -/
def Claim.UnitChecksTrap : Prop :=
  ∀ p ∈ intBinary, ∀ (n : BitVec 1) (d a b : BitVec 7) (s : State) (c : Cur) (G : Group), InUnit s c G →
    let u := aluUnit n 0 [(d, 1), (a, 1), (b, 1)]
    (u.prefixOk c = false → exec (p.1 n d a b) s = .next (s.trapUnit G c 0x01#8 0))
    ∧ (u.prefixOk c = true → (∃ l ∈ lanesOf G (G.k0 c), ∃ t, G.thread l = some t ∧ d.toNat < 96 ∧ t.regs.length < G.winb + d.toNat + 1) →
      exec (p.1 n d a b) s = .next (s.trapUnit G c 0x03#8 0))

/-- A poisoned source (spec/01 R18; spec/17 R368): when no run lane faults and the run lanes of a nonempty set read poison, the other run
lanes write back, and the consumption is acted on for the lanes of the set, in which nothing is written. In a handler group whose quads
park whole for want of a fragment (R147), nothing is written in any lane that parks. -/
def Claim.PoisonConsumed : Prop :=
  ∀ p ∈ intBinary, ∀ (n : BitVec 1) (d a b : BitVec 7) (s : State) (c : Cur) (G : Group) (eats : BitVec 64),
    let u := aluUnit n 0 [(d, 1), (a, 1), (b, 1)]
    Ready s c G u → eats ≠ 0#64 →
    (∀ l, eats.getLsbD l = ((u.run G c).getLsbD l && ((G.readWord l a.toNat).poison || (G.readWord l b.toNat).poison))) →
    let H := G.writeBack u c (.regs d 1) (G.k0 c) (u.run G c) (s.eaten G c eats) fun l => some [clean (p.2 (G.val l a) (G.val l b))]
    (∀ k, G.team = some k → s.eaten G c eats = eats)
    ∧ ∃ K, (s.setGroup H).group c.gctx = some K ∧ exec (p.1 n d a b) s = .next ((s.setGroup H).consume K c eats)

/-- Units that a check refuses, and units that consume poison. -/
def Obligations.UnitChecksAndPoison : Prop :=
  Claim.UnitChecksTrap ∧ Claim.PoisonConsumed

/-- `bra` (spec/04 R98; the target in range, R96): every issuing sequencer goes to it whatever its lanes hold, and no stack changes. -/
def Obligations.BraResult : Prop :=
  ∀ (o : BitVec 14) (t : BitVec 56) (s : State) (c : Cur) (G : Group),
    decodeWord (0x40#7 ++ 0#4 ++ 0x7C#7 ++ o) = some (.bra o)
    ∧ (Ready s c G (ctlUnit true []) → (t.toNat : Int) = c.pc.toNat + 4 * fullOff c o →
      ∃ u : State, exec (.bra o) s = .next u ∧ Moved s u c G G fun q => { q with pc := t, ready := s.now + 1 })

/-- `brc` and `pjn` (spec/04 R96, R99, R100), with a target in range and a free place on the stacks: `brc` divides the lanes of each
issuing sequencer by a mask; `pjn` pushes a join entry for the active lanes. -/
def Claim.BranchResults : Prop :=
  ∀ (o : BitVec 14) (cc : BitVec 1) (k : BitVec 3) (t : BitVec 56) (s : State) (c : Cur) (G : Group),
    Ready s c G (ctlUnit true []) → (t.toNat : Int) = c.pc.toNat + 4 * fullOff c o →
    (∀ q ∈ G.seqs, q.id ∈ c.seqs → q.stack.length < 16) →
    (∃ u : State, exec (.brc cc k o) s = .next u ∧ Moved s u c G G (brcSeq s G c cc k t))
    ∧ ∃ u : State, exec (.pjn o) s = .next u ∧ Moved s u c G G fun q =>
      { q with pc := c.pc + 4#56, stack := stackEntry false q.active t :: q.stack, ready := s.now + 1 }

/-- A branch target outside 0 to 2^56 - 1 (spec/04 R96; spec/17 R363): every issuing lane takes the address-space fault, with the address
that the branch would have. -/
def Claim.BranchOutOfRangeTraps : Prop :=
  ∀ (o : BitVec 14) (cc : BitVec 1) (k : BitVec 3) (s : State) (c : Cur) (G : Group),
    Ready s c G (ctlUnit true []) →
    ((c.pc.toNat : Int) + 4 * fullOff c o < 0 ∨ (2 : Int) ^ 56 ≤ c.pc.toNat + 4 * fullOff c o) →
    let t := (s.takeTrap G (G.issuing c) (G.k0 c) false
      ⟨0x04#8, false, 0#8, ((c.pc.toNat + 4 * fullOff c o) % (2 : Int) ^ 64).toNat, G.k0 c, 0, c.unitPc, c.word⟩).endUnit
    exec (.bra o) s = .next t ∧ exec (.brc cc k o) s = .next t ∧ exec (.pjn o) s = .next t

/-- `call` (spec/04 R102): every issuing lane's link pair receives the address of the next word, and the sequencers go to the target. -/
def Claim.CallResult : Prop :=
  ∀ (a : BitVec 7) (o : BitVec 14) (t : BitVec 56) (s : State) (c : Cur) (G : Group),
    Ready s c G (ctlUnit true [(a, 2)]) → (t.toNat : Int) = c.pc.toNat + 4 * fullOff c o →
    (∃ u : State, exec (.call a o) s = .next u ∧ Moved s u c G (G.writeLink a (G.k0 c) (c.pc + 4#56)) fun q => { q with pc := t, ready := s.now + 1 })
    ∧ ∀ l ∈ lanesOf G (G.k0 c), a.toNat + 1 < 96 →
      (G.writeLink a (G.k0 c) (c.pc + 4#56)).pair l a = (c.pc + 4#56).toNat

/-- brc, pjn and call; branch targets out of range. -/
def Obligations.BranchAndCallResults : Prop :=
  Claim.BranchResults ∧ Claim.BranchOutOfRangeTraps ∧ Claim.CallResult

/-- `nop` (spec/04 R105): every issuing sequencer goes on at the next word, and nothing else changes. -/
def Obligations.NopResult : Prop :=
  decodeWord 0x88DF3E7C#32 = some .nop
  ∧ ∀ (s : State) (c : Cur) (G : Group), Ready s c G (ctlUnit false []) → (∀ i ∈ c.seqs, ∃ q, G.seq i = some q ∧ q.st = .run) →
    ∃ u : State, exec .nop s = .next u ∧ Moved s u c G G fun q => { q with pc := c.pc + 4#56, ready := s.now + 1 }

/-- The indirect branches (spec/04 R102): with good targets and room on the stacks, each issuing sequencer's lanes divide by target in the
order of the lowest lane; `callx` writes the link pair of every issuing lane first. Whether the group or its team ends is settled
afterwards. -/
def Claim.IndirectBranchResults : Prop :=
  ∀ (d a : BitVec 7) (s : State) (c : Cur) (G : Group), InUnit s c G → goodTargets G c a →
    (∀ i ∈ c.seqs, ∃ q, G.seq i = some q ∧ q.st = .run
      ∧ G.targetSets q a.toNat (G.k0 c) ≠ [] ∧ q.stack.length + (G.targetSets q a.toNat (G.k0 c)).length ≤ 17) →
    ((ctlUnit false [(a, 2)]).check G c = none →
      (∃ u : State, exec (.brx a) s = .next (u.settleGroup c.gctx) ∧ Moved s u c G G (spreadSeq s G c a))
      ∧ ∃ u : State, exec (.ret a) s = .next (u.settleGroup c.gctx) ∧ Moved s u c G G (spreadSeq s G c a))
    ∧ ((ctlUnit false [(d, 2), (a, 2)]).check G c = none →
      ∃ u : State, exec (.callx d a) s = .next (u.settleGroup c.gctx)
        ∧ Moved s u c G (G.writeLink d (G.k0 c) (c.pc + 4#56)) (spreadSeq s G c a))

/-- `join` and `yield` (spec/04 R101, R104): `join` pops every issuing sequencer's stack; `yield` makes every quad of the group ready
anew. -/
def Claim.JoinYieldResults : Prop :=
  ∀ (s : State) (c : Cur) (G : Group), Ready s c G (ctlUnit false []) →
    ((∀ i ∈ c.seqs, ∃ q, G.seq i = some q ∧ q.st = .run ∧ ((∃ r, G.pop q true = .go r) ∨ ∃ st, G.pop q true = .join st)) →
      ∃ u : State, exec .join s = .next (u.settleGroup c.gctx) ∧ Moved s u c G G (joinSeq s G))
    ∧ exec .yield s = .next ((s.setGroup { G with seqs := G.seqs.map fun q => { q with ready := s.now + 1 } }).advance c)

/-- resume_pop (spec/04 R101; spec/06 R148): entries without a surviving lane are dropped; an entry that holds a lane of another live
sequencer is not popped; the next entry resumes its surviving lanes, a pending entry at its address and a join entry after it; with an
empty stack a `join` goes on at the next word. -/
def Claim.ResumePopRule : Prop :=
  ∀ (live others : BitVec 4) (q : Seq) (e : BitVec 64) (rest : List (BitVec 64)) (fromJoin : Bool),
    (entryMask e &&& live = 0#4 → popStack live others q fromJoin (e :: rest) = popStack live others q fromJoin rest)
    ∧ (entryMask e &&& live &&& others ≠ 0#4 → q.own ≠ 0#4 → popStack live others q fromJoin (e :: rest) = .join (e :: rest))
    ∧ (entryMask e &&& live ≠ 0#4 → entryMask e &&& live &&& others = 0#4 → ∃ r, popStack live others q fromJoin (e :: rest) = .go r
      ∧ r.active = entryMask e &&& live ∧ r.stack = rest ∧ r.own = q.own ∧ r.spill = q.spill
      ∧ r.pc = if entryPend e then entryPc e else entryPc e + 4#56)
    ∧ (q.spill = 0 → ∃ r, popStack live others q true [] = .go r ∧ r.pc = q.pc + 4#56 ∧ r.active = q.active ∧ r.stack = [])
    ∧ (0 < q.spill → popStack live others q fromJoin [] = .refill)

/-- Indirect branches, join, yield, and the rule of resume_pop. -/
def Obligations.IndirectBranchAndPopResults : Prop :=
  Claim.IndirectBranchResults ∧ Claim.JoinYieldResults ∧ Claim.ResumePopRule

/-- `exit` (spec/04 R97, R103): the threads of the issuing lanes end, and those of no other lane; their register blocks return to the pool;
no stack entry keeps an ended lane; and the issuing sequencers pop, which is stated for one that issues alone. Whether the group or its
team ends is settled afterwards. -/
def Claim.ExitResult : Prop :=
  ∀ (s : State) (c : Cur) (G : Group), Ready s c G (ctlUnit false []) → s.live.claims = [] → (∀ q ∈ G.seqs, q.spill = 0) →
    ∃ (u : State) (H : Group), exec .exitThread s = .next (u.settleGroup c.gctx) ∧ u.cur = none ∧ u.group c.gctx = some H
      ∧ (∀ l, H.thread l = (G.thread l).map fun t => if (G.k0 c).getLsbD l then { t with live := false } else t)
      ∧ (∀ k, G.team = some k → u.live.free = s.live.free + (G.blocks - H.blocks))
      ∧ (∀ i q e, H.seq i = some q → e ∈ q.stack → entryMask e &&& ~~~(H.liveCols q.pos) = 0#4)
      ∧ (∀ i q, c.seqs = [i] → (exitGroup G c).seq i = some q → H.seq i = some (exitSeq s (exitGroup G c) q))
      ∧ H.unif = G.unif ∧ H.masks = G.masks ∧ u.dram = s.dram ∧ u.scr = s.scr ∧ u.host = s.host

/-- The prefix words (spec/01 R28; spec/02 R37, R39): a PFX that comes first and a LIMM that is the only one are taken into the unit,
which goes on at the next word; one that may not stand there takes the illegal-instruction trap for the unit. -/
def Claim.PrefixWordResults : Prop :=
  ∀ (k : BitVec 3) (z : BitVec 1) (m : BitVec 3) (r : BitVec 7) (x : BitVec 3) (h : BitVec 25) (s : State) (c : Cur) (G : Group),
    InUnit s c G →
    (c.pfx = none → c.limm = none → exec (.pfx k z m r x) s = .next { s with cur := some { c with pfx := some (encode (.pfx k z m r x)), pc := c.pc + 4#56 } })
    ∧ (c.pfx ≠ none ∨ c.limm ≠ none → exec (.pfx k z m r x) s = .next (s.trapUnit G c 0x01#8 0))
    ∧ (c.limm = none → exec (.limm h) s = .next { s with cur := some { c with limm := some h, pc := c.pc + 4#56 } })
    ∧ (c.limm ≠ none → exec (.limm h) s = .next (s.trapUnit G c 0x01#8 0))

/-- exit ends the threads of the issuing lanes; PFX and LIMM are taken into the unit. -/
def Obligations.ExitAndPrefixResults : Prop :=
  Claim.ExitResult ∧ Claim.PrefixWordResults

/-- `trap` and `brk` (spec/04 R106; spec/17 R360, R361, R363): the system call and the breakpoint. The issuing sequencer parks in TRAP with
the address of the next word, its threads' latches are redirected, and a frame with the instruction's code enters the core's frames,
for S from level U and for M from level S. With several sequencers, each one takes the trap by itself in turn. -/
def Claim.SoftwareTraps : Prop :=
  ∀ (code : BitVec 14) (s : State) (c : Cur) (G : Group), Ready s c G (ctlUnit false []) → G.level ≠ .M →
    exec (.trap code) s = .next (s.trapEach G c 0x20#8 code.toNat (c.pc + 4#56))
    ∧ exec (.brk code) s = .next (s.trapEach G c 0x21#8 code.toNat (c.pc + 4#56))
    ∧ ∀ q, G.issuing c = [q] → G.seq q.id = some q → G.mig = none → q.active ≠ 0#4 → G.threads.length ≤ 64 →
      (∀ i, i < 4 → q.active.getLsbD i = true → ∃ l t, G.thread l = some t ∧ t.live = true ∧ t.col = 4 * q.pos + i) →
      ∀ cause, cause = 0x20#8 ∨ cause = 0x21#8 →
      ∃ H f, s.trapEach G c cause code.toNat (c.pc + 4#56) = ((s.setGroup H).addFrame f).endUnit ∧ softFrame s c G q cause code f
        ∧ H.gctx = G.gctx ∧ H.seq q.id = some { q with st := .trap, wait := .none, pc := c.pc + 4#56 }
        ∧ (∀ i, i ≠ q.id → H.seq i = G.seq i)
        ∧ (∀ l t, G.thread l = some t → H.thread l = some (if t.live && t.inCols q.pos q.own then t.redirect else t))
        ∧ H.unif = G.unif ∧ H.masks = G.masks

/-- Redirected latches (spec/01 R17): at a group switch every element that is not yet redirected is written to the register of its tag,
the oldest first, so that the newest result stands there, and it then reads through that register. -/
def Claim.LatchRedirect : Prop :=
  ∀ (t : Thread) (v : PWord) (r : Nat) (rest : List Latch), t.lats = ⟨v, BitVec.ofNat 9 r, false⟩ :: rest → r < 256 → r < t.regs.length →
    t.redirect.regs.getD r pzero = v ∧ t.redirect.readLatch 0 = v ∧ t.redirect.lats.length = t.lats.length
    ∧ ∀ q ∈ t.redirect.lats, q.redir = true

/-- Where a frame goes (spec/17 R361, R363, R364): a frame of a trap routed to M stays with the monitor; any other takes the lowest handle
index of its share that is free, with that index's generation, and its 64 bytes are written at the index's place in the core's block of
the frame buffer; while the supervisor boots, or while an older frame of the share waits, or while a bank holds the write (R287), it waits without a handle. -/
def Claim.FramePosting : Prop :=
  ∀ (s : State) (f : Frame),
    (f.monitor = true → (s.addFrame f).live.frames = s.live.frames ++ [f] ∧ (s.addFrame f).dram = s.dram)
    ∧ (f.monitor = false → (s.slice (bits f.ids.toNat 17 12)).trCtl.getLsbD 12 = true →
      s.addFrame f = { s with live := { s.live with frames := s.live.frames ++ [f] } })
    ∧ ∀ x i fn spa s1, f.monitor = false → (s.slice (bits f.ids.toNat 17 12)).trCtl.getLsbD 12 = false →
      (∀ g ∈ s.live.frames, g.share = f.share → g.monitor = false → g.handle ≠ none) →
      s.share f.share = some x → i < 64 → i ∉ s.usedHandles f.share → (∀ j, j < i → j ∈ s.usedHandles f.share) →
      globalRes s (s.superView x.f) .store (bits (s.slice x.f).trFbase.toNat 55 12 * 4096 + 4096 * s.coreNo + 64 * i) = (.ok (.dram fn spa), s1) →
      spa % 2 ^ 40 + 64 ≤ 2 ^ 40 → s.memOk = true → s.frameHeld f i = [] →
      (s.addFrame f).live.frames = s.live.frames ++ [{ f with handle := some ((x.gens.getD i 0#8) ++ BitVec.ofNat 6 i) }]
      ∧ spaRead (s.addFrame f) fn spa 64 = f.bytes

/-- trap and brk take their exception: parked quads, redirected latches, a posted frame. -/
def Obligations.SoftwareTrapResults : Prop :=
  Claim.SoftwareTraps ∧ Claim.LatchRedirect ∧ Claim.FramePosting

/-- A part of a group waits at a collective (spec/06 R146, R149): when the unit is not that of the whole ganged group, its sequencers go
into CWAIT at it and nothing else happens. -/
def Claim.CollectiveWaits : Prop :=
  ∀ (f k : BitVec 3) (d a : BitVec 7) (g : BitVec 2) (kd ka : BitVec 3) (s : State) (c : Cur) (G : Group), InUnit s c G → G.ganged c = false →
    let t := (s.setGroup { G with seqs := G.seqs.map fun q => if q.id ∈ c.seqs then { q with st := .cwait, pc := c.unitPc } else q }).endUnit
    exec (.vote f k a) s = .next t ∧ exec (.red f d a) s = .next t ∧ exec (.fred g d a) s = .next t ∧ exec (.rgt f d) s = .next t
    ∧ exec (.kopNot kd ka) s = .next t ∧ exec (.matchLanes 0#1 d a k) s = .next t

/-- `vote` (spec/07 R156): whether the predicate holds in all run lanes, in some, or in the lane itself. -/
def Claim.VoteResults : Prop :=
  ∀ (f k : BitVec 3) (a : BitVec 7) (s : State) (c : Cur) (G : Group), f.toNat < 3 →
    let u := crossOf false [(a, 1)]
    Ganged s c G u → G.Clean c u [(a.toNat, 1)] →
    exec (.vote f k a) s = .next (s.laneDone G c u (.mask k.toNat) (fun l => bitRes (match f.toNat with
      | 0 => decide (∀ m ∈ lanesOf G (G.run c), G.val m a ≠ 0#32)
      | 1 => decide (∃ m ∈ lanesOf G (G.run c), G.val m a ≠ 0#32)
      | _ => decide (G.val l a ≠ 0#32))) 0#5)

/-- `match` (spec/07 R157): every run lane's pair receives its class, and the mask the lowest lanes of the classes. -/
def Claim.MatchResults : Prop :=
  ∀ (w : BitVec 1) (d a : BitVec 7) (k : BitVec 3) (s : State) (c : Cur) (G : Group),
    let n := if w = 0#1 then 1 else 2
    let u := crossOf false [(d, 2), (a, n)]
    Ganged s c G u → G.Clean c u [(a.toNat, n)] →
    exec (.matchLanes w d a k) s = .next (s.laneDone
      (G.writeBack u c (.regs d 2) (G.k0 c) (u.run G c) 0#64 fun l => some (pairWords (matchSet G c w a l).toNat)) c u (.mask k.toNat)
      (fun l => bitRes (lowest (matchSet G c w a l) == some l)) 0#5)

/-- `kop` and `kmov` (spec/07 R162): the mask operations lane by lane, a mask moved to every run lane's pair, and each lane's own bit of its
pair moved to a mask. -/
def Claim.MaskMoveResults : Prop :=
  ∀ (f : BitVec 2) (x y v : BitVec 3) (d : BitVec 7) (s : State) (c : Cur) (G : Group),
    let bit := fun (k : BitVec 3) l => (G.mask (G.k0 c) k.toNat).getLsbD l
    (Ganged s c G (crossOf false []) →
      exec (.kop f v x y) s = .next (s.laneDone G c (crossOf false []) (.mask v.toNat) (fun l => bitRes (match f.toNat with
        | 0 => bit x l && bit y l
        | 1 => bit x l || bit y l
        | 2 => bit x l ^^ bit y l
        | _ => bit x l && !bit y l)) 0#5)
      ∧ exec (.kopNot v x) s = .next (s.laneDone G c (crossOf false []) (.mask v.toNat) (fun l => bitRes (!bit x l)) 0#5))
    ∧ (Ganged s c G (crossOf false [(d, 2)]) →
      exec (.kmovTor d x) s = .next (s.laneDone G c (crossOf false [(d, 2)]) (.regs d 2)
        (fun _ => pairWords ((G.mask (G.k0 c) x.toNat).toNat % 2 ^ G.width : Nat)) 0#5))
    ∧ (Ganged s c G (crossOf false [(d, 2)]) → G.Clean c (crossOf false [(d, 2)]) [(d.toNat, 2)] →
      exec (.kmovTok v d) s = .next (s.laneDone G c (crossOf false [(d, 2)]) (.mask v.toNat)
        (fun l => bitRes ((G.pair l d).testBit l)) 0#5))

/-- Collectives wait for the whole group; vote, match, kop and kmov complete with their results. -/
def Obligations.MaskCollectiveResults : Prop :=
  Claim.CollectiveWaits ∧ Claim.VoteResults ∧ Claim.MatchResults ∧ Claim.MaskMoveResults

/-- `shfl` and `bcast` (spec/07 R158): the value moves with its poison bit; only the selector is consumed. -/
def Claim.ShuffleResults : Prop :=
  ∀ (f : BitVec 2) (d a b : BitVec 7) (s : State) (c : Cur) (G : Group),
    let u := crossOf false [(d, 1), (a, 1), (b, 1)]
    Ganged s c G u → 0 < G.width →
    (G.Clean c u [(b.toNat, 1)] → exec (.shfl f d a b) s = .next (s.laneDone G c u (.regs d 1)
      (fun l => [shflTake G a l (shflLane f.toNat G.width l ((G.val l b).toNat % 64))]) 0#5))
    ∧ ∀ m, lowest (G.run c) = some m → (G.readWord m b.toNat).poison = false →
      exec (.bcast d a b) s = .next (s.laneDone G c u (.regs d 1)
        (fun l => [shflTake G a l ((G.val m b).toNat % 64 % G.width : Nat)]) 0#5)

/-- `rgt` (spec/07 R161): each tile of lanes is transposed by elements, a lane without a live thread giving zeros; a group narrower than a
tile takes the illegal-instruction trap. -/
def Claim.TransposeResults : Prop :=
  ∀ (f : BitVec 3) (d : BitVec 7) (s : State) (c : Cur) (G : Group), f.toNat < 3 →
    let z := 8 * 2 ^ f.toNat
    let m := 32 / z
    let e := 8 * m
    let u := crossOf false [(d, 8)]
    let elem := fun l k => if G.liveLane (e * (l / e) + k) then blockElem G d z (e * (l / e) + k) (l % e) else (0, false)
    Ganged s c G u →
    (e ≤ G.width → exec (.rgt f d) s = .next (s.laneDone G c u (.regs d 8) (fun l => (List.range 8).map fun w =>
      PWord.mk (BitVec.ofNat 32 ((List.range m).map fun i => (elem l (w * m + i)).1 * 2 ^ (z * i)).sum)
        ((List.range m).any fun i => (elem l (w * m + i)).2)) 0#5))
    ∧ (G.width < e → exec (.rgt f d) s = .next (s.trapUnit G c 0x01#8 0))

/-- shfl, bcast and rgt complete with their results. -/
def Obligations.ShuffleAndTransposeResults : Prop :=
  Claim.ShuffleResults ∧ Claim.TransposeResults

/-- `red` and `scan` (spec/07 R159; spec/03 R74): the combination of all run lanes in every run lane, and the inclusive combination up to
each; the order of combination has no effect. -/
def Claim.IntegerReductions : Prop :=
  ∀ (f : BitVec 3) (d a : BitVec 7) (s : State) (c : Cur) (G : Group),
    let u := crossOf false [(d, 1), (a, 1)]
    Ganged s c G u → G.Clean c u [(a.toNat, 1)] →
    exec (.red f d a) s = .next (s.laneDone G c u (.regs d 1) (fun _ => [clean (combine G c f.toNat a fun _ => true)]) 0#5)
    ∧ exec (.scan f d a) s = .next (s.laneDone G c u (.regs d 1) (fun l => [clean (combine G c f.toNat a fun m => decide (m ≤ l))]) 0#5)

/-- `fred` and `fscan` (spec/07 R160; spec/03 R72, R73): the root of the reduction tree in every run lane with the flags of its nodes, and
for each run lane the blocks of the tree that make up lanes 0 to l, combined from the left. -/
def Claim.FloatReductionResults : Prop :=
  ∀ (f : BitVec 2) (d a : BitVec 7) (s : State) (c : Cur) (G : Group),
    let u := crossOf true [(d, 1), (a, 1)]
    let t := G.fredTree c f.toNat a.toNat (s.ftz G) (unitMode s G c)
    let r := fun l => (fscanFrom f.toNat (s.ftz G) (unitMode s G c) t l (log2Width G.width) 0 none).getD (0#32, 0#5)
    Ganged s c G u → G.Clean c u [(a.toNat, 1)] →
    exec (.fred f d a) s = .next (s.laneDone G c u (.regs d 1) (fun _ => [clean (treeNode t (log2Width G.width) 0).1])
      (G.orFlags c u fun _ => (treeNode t (log2Width G.width) 0).2))
    ∧ exec (.fscan f d a) s = .next (s.laneDone G c u (.regs d 1) (fun l => [clean (r l).1])
      (G.orFlags c u fun l => (r l).2 ||| sigFlag ((lanesOf G (G.run c)).map fun i => f32 (s.ftz G) (G.val i a))))

/-- The tree of `fred` (spec/03 R72): its leaves are the inputs of the lanes below the width, a run lane's word read through the flush
and the identity for any other lane; each node combines the two nodes below it. -/
def Claim.ReductionTreeShape : Prop :=
  ∀ (f a : Nat) (z : Bool) (m : Nat) (c : Cur) (G : Group), G.width = 8 ∨ G.width = 16 ∨ G.width = 32 ∨ G.width = 64 →
    let t := G.fredTree c f a z m
    (∀ l, l < G.width → treeNode t 0 l = if (G.run c).getLsbD l then fredInput z (G.readWord l a).val else (fredIdentity f, 0#5))
    ∧ ∀ k j, k < log2Width G.width → j < G.width / 2 ^ (k + 1) →
      treeNode t (k + 1) j = fredOp f z m (treeNode t k (2 * j)) (treeNode t k (2 * j + 1))

/-- red, scan, fred and fscan complete with their results. -/
def Obligations.ReductionResults : Prop :=
  Claim.IntegerReductions ∧ Claim.FloatReductionResults ∧ Claim.ReductionTreeShape

/-- `bar` and `bara` (spec/07 R164 to R166): the first arrival of a phase fixes how many are expected, the issuing lanes arrive, and a `bar`
waits while the phase is open; the arrival that makes up the number completes the phase, which counts one more, empties the slot and
releases the group; a mismatch of the expected number takes the barrier-mismatch trap. -/
def Claim.BarrierArrivals : Prop :=
  ∀ (cnt : BitVec 10) (b : BitVec 4) (s : State) (c : Cur) (G : Group) (T : Team),
    TeamReady s c G T (ctlUnit false []) → G.ganged c = true → T.bars.length = 16 →
    let B := T.bar b.toNat
    let n := B.arrived + popc64 (G.k0 c)
    (B.arrived ≠ 0 → B.expect ≠ cnt.toNat →
      exec (.bar cnt b) s = .next (s.trapUnit G c 0x14#8 b.toNat) ∧ exec (.bara cnt b) s = .next (s.trapUnit G c 0x14#8 b.toNat))
    ∧ (B.arrived = 0 ∨ B.expect = cnt.toNat → n < (if cnt = 0#10 then s.teamLive T.slot else cnt.toNat) →
      (∃ t, exec (.bar cnt b) s = .next t ∧ heldAt s t c G (c.pc + 4#56) (.bar b.toNat B.phase)
        ∧ t.team T.slot = some { T with bars := T.bars.set b.toNat { B with arrived := n, expect := cnt.toNat } }
        ∧ t.dram = s.dram ∧ t.scr = s.scr)
      ∧ ∃ t, exec (.bara cnt b) s = .next t ∧ heldAt s t c G (c.pc + 4#56) .none
        ∧ t.team T.slot = some { T with bars := T.bars.set b.toNat { B with arrived := n, expect := cnt.toNat } })
    ∧ (B.arrived = 0 ∨ B.expect = cnt.toNat → cnt ≠ 0#10 → 0 < n → cnt.toNat ≤ n →
      ∃ t, exec (.bar cnt b) s = .next t ∧ heldAt s t c G (c.pc + 4#56) .none
        ∧ t.team T.slot = some { T with bars := T.bars.set b.toNat ⟨B.phase + 1#16, 0, 0, none⟩ })

/-- `barw` (spec/07 R165; spec/10 R226): a ticket is satisfied when the phase has advanced past it by less than 2^15, and what the
arrivals of the completed phases released is then visible to the lanes; else the group waits for that, and neither arrives nor changes the slot. -/
def Claim.BarrierTicketWait : Prop :=
  ∀ (a : BitVec 7) (b : BitVec 4) (s : State) (c : Cur) (G : Group) (T : Team) (l : Nat),
    TeamReady s c G T (ctlUnit false [(a, 1)]) → G.ganged c = true → lowest (G.k0 c) = some l → (G.readWord l a.toNat).poison = false →
    let past := ((T.bar b.toNat).phase - (G.val l a).setWidth 16).toNat
    (0 < past → past < 2 ^ 15 → exec (.barw a b) s = .next ((s.flow [.passed T.uid b.toNat] (s.laneIds G (G.k0 c))).advance c))
    ∧ (past = 0 ∨ 2 ^ 15 ≤ past → ∃ t, exec (.barw a b) s = .next t
      ∧ heldAt s t c G (c.pc + 4#56) (.barw b.toNat ((G.val l a).setWidth 16)) ∧ t.live.teams = s.live.teams)

/-- Barrier arrivals, completions, mismatches and tickets. -/
def Obligations.BarrierResults : Prop :=
  Claim.BarrierArrivals ∧ Claim.BarrierTicketWait

/-- `elect` (spec/07 R168): the lowest lane of k0 alone keeps its bit in the mask, bits of lanes outside k0 stay, and nothing else
changes. -/
def Obligations.ElectResult : Prop :=
  decodeWord 0xA060C000#32 = some (.elect 3#3)
  ∧ ∀ (k : BitVec 3) (s : State) (c : Cur) (G : Group), Ready s c G (ctlUnit false []) → G.ganged c = true →
    1 ≤ k.toNat → k.toNat ≤ G.masks.length → ∃ H, exec (.elect k) s = .next ((s.setGroup H).advance c) ∧ { H with masks := G.masks } = G
      ∧ (∀ l, l < 64 → l < G.width → (H.masks.getD (k.toNat - 1) 0#64).getLsbD l = if (G.k0 c).getLsbD l then lowest (G.k0 c) == some l
        else (G.masks.getD (k.toNat - 1) 0#64).getLsbD l)
      ∧ ∀ j, j + 1 ≠ k.toNat → H.masks.getD j 0#64 = G.masks.getD j 0#64

/-- `winb` (spec/07 R169): the window base of the group becomes eight times the operand; nothing else changes. -/
def Claim.WindowResult : Prop :=
  ∀ (b : BitVec 5) (s : State) (c : Cur) (G : Group), Ready s c G (ctlUnit false []) → G.ganged c = true → G.mig = none →
    exec (.winb b) s = .next ((s.setGroup { G with winb := 8 * b.toNat }).advance c)

/-- `trig` (spec/06 R137): the team counts as triggered and can no longer be rolled back. -/
def Claim.TriggerResult : Prop :=
  ∀ (s : State) (c : Cur) (G : Group) (T : Team), TeamReady s c G T (ctlUnit false []) → G.k0 c ≠ 0#64 →
    ∃ t, exec .trig s = .next t ∧ t.cur = none ∧ (t.team T.slot).map (·.triggered) = some true ∧ (t.team T.slot).map (·.eligible) = some false

/-- winb sets the window base; trig ends rollback eligibility. -/
def Obligations.WindowAndTriggerResults : Prop :=
  Claim.WindowResult ∧ Claim.TriggerResult

/-- `rclaim` and `rrel` (spec/07 R170 to R172): a claim that heads the queue and fits is granted at once: every live thread grows by zeroed
registers, the pool shrinks, and the group goes on; a claim that does not fit joins the tail of the queue, and the group waits at its
unit; a release returns the top registers of every live thread to the pool. -/
def Obligations.RegisterPoolResults : Prop :=
  ∀ (n : BitVec 5) (s : State) (c : Cur) (G : Group) (T : Team) (al : Nat),
    TeamReady s c G T (ctlUnit false []) → G.ganged c = true → evenAlloc G al → n ≠ 0#5 →
    let need := n.toNat * G.liveCount
    (al + 8 * n.toNat ≤ 256 → s.live.claims = [] → need ≤ s.live.free →
      (∀ i q, G.seq i = some q → i ∈ c.seqs ∧ q.st = .run ∨ i ∉ c.seqs ∧ q.wait.isClaim = false) →
      ∃ t H, exec (.rclaim n) s = .next t ∧ t.cur = none ∧ t.live.free = s.live.free - need ∧ t.live.claims = [] ∧ t.group c.gctx = some H
        ∧ (∀ l, H.thread l = (G.thread l).map fun th => if th.live then { th with regs := th.regs ++ List.replicate (8 * n.toNat) pzero } else th)
        ∧ ∀ i q, G.seq i = some q → i ∈ c.seqs → H.seq i = some { q with wait := .none, pc := c.unitPc + 4#56, ready := s.now + 1 })
    ∧ (al + 8 * n.toNat ≤ 256 → (s.live.claims = [] ∧ s.live.free < need ∨ ∃ h r, s.live.claims = h :: r ∧ s.live.free < h.need) →
      ∃ t, exec (.rclaim n) s = .next t ∧ heldAt s t c G c.unitPc (.claim (8 * n.toNat))
        ∧ t.live.claims = s.live.claims ++ [⟨G.gctx, 8 * n.toNat, need⟩] ∧ t.live.free = s.live.free)
    ∧ (8 * n.toNat + 8 ≤ al → s.live.claims = [] →
      ∃ t H, exec (.rrel n) s = .next t ∧ t.cur = none ∧ t.live.free = s.live.free + need ∧ t.group c.gctx = some H
        ∧ (∀ l, H.thread l = (G.thread l).map fun th => if th.live then { th with regs := th.regs.take (th.regs.length - 8 * n.toNat) } else th))

/-- `send` (spec/07 R175 to R177), into a team channel or a cluster channel: the entry goes into a free slot with the status 1, else it is
discarded with the status 0; a team that is not live here, or has ended, takes none; whether a team on another core has room is free
(log entry 2). -/
def Claim.SendResults : Prop :=
  ∀ (ch : BitVec 6) (d a : BitVec 7) (r : BitVec 3) (s : State) (c : Cur) (G : Group) (T : Team),
    TeamReady s c G T (ctlUnit false [(d, 1), (a, 1)]) →
    (∀ h, ch.toNat < 48 → T.chans.getD ch.toNat none = some h →
      exec (.send ch d a r) s = .next (if h.count < h.depth then sendDone (entryIn s s c G a T.slot ch.toNat) c G d 1#32 else sendDone s c G d 0#32))
    ∧ (clusterCh T ch r →
      (∀ k h, s.peer T r.toNat = .here k → s.chan k (ch.toNat - 48) = some h →
        exec (.send ch d a r) s = .next (if h.count < h.depth then sendDone (entryIn s (sentTo s T r) c G a k (ch.toNat - 48)) c G d 1#32
          else sendDone (sentTo s T r) c G d 0#32))
      ∧ (s.peer T r.toNat = .away ∨ s.peer T r.toNat = .ended → exec (.send ch d a r) s = .next (sendDone (sentTo s T r) c G d 0#32))
      ∧ (s.peer T r.toNat = .elsewhere →
        exec (.send ch d a r) s = .next (sendDone (sentTo { s with free := s.free + 1 } T r) c G d (if Config.freeNat s.free % 2 = 1 then 1#32 else 0#32))))

/-- `sendw` (spec/07 R175 to R177, R180), into a team channel or a cluster channel: with a free slot the entry is enqueued, to a team that
has ended it completes at once, else it waits with its entry. -/
def Claim.SendWaitResults : Prop :=
  ∀ (ch : BitVec 6) (a : BitVec 7) (r : BitVec 3) (s : State) (c : Cur) (G : Group) (T : Team),
    TeamReady s c G T (ctlUnit false [(a, 1)]) →
    let w : ChWait := ⟨G.gctx, T.slot, c.seqs, ch.toNat, r.toNat, 124#7, G.k0 c, some (entryOf G c a)⟩
    (∀ h, ch.toNat < 48 → T.chans.getD ch.toNat none = some h →
      (h.count < h.depth → exec (.sendw ch a r) s = .next ((entryIn s s c G a T.slot ch.toNat).advance c))
      ∧ (h.depth ≤ h.count → ∃ t, exec (.sendw ch a r) s = .next t ∧ channelWait s t c G w))
    ∧ (clusterCh T ch r →
      (∀ k h, s.peer T r.toNat = .here k → s.chan k (ch.toNat - 48) = some h →
        (h.count < h.depth → exec (.sendw ch a r) s = .next ((entryIn s (sentTo s T r) c G a k (ch.toNat - 48)).advance c))
        ∧ (h.depth ≤ h.count → ∃ t, exec (.sendw ch a r) s = .next t ∧ channelWait s t c G w))
      ∧ (s.peer T r.toNat = .ended → exec (.sendw ch a r) s = .next ((sentTo s T r).advance c))
      ∧ (s.peer T r.toNat = .away ∨ s.peer T r.toNat = .elsewhere → ∃ t, exec (.sendw ch a r) s = .next t ∧ channelWait s t c G w))

/-- `recv` (spec/07 R175, R176, R178, R180): with an entry in the channel every lane of k0 takes its word with its poison bit, the head
advances, and what was visible to the senders becomes visible to the lanes; on an empty channel the group waits. -/
def Claim.ReceiveResults : Prop :=
  ∀ (ch : BitVec 6) (d : BitVec 7) (s : State) (c : Cur) (G : Group) (T : Team) (h : Chan),
    ch.toNat < 48 → T.chans.getD ch.toNat none = some h → TeamReady s c G T (ctlUnit false [(d, 1)]) →
    (0 < h.count → exec (.recv ch d) s = .next (((withWord (s.setTeam { T with chans := T.chans.set ch.toNat (some h.pop) }) G c d
      fun l => (s.chHead T h).getD l pzero).flow [.entry T.uid ch.toNat h.head] (s.laneIds G (G.k0 c))).advance c))
    ∧ (h.count = 0 → ∃ t, exec (.recv ch d) s = .next t ∧ channelWait s t c G ⟨G.gctx, T.slot, c.seqs, ch.toNat, 0, d, G.k0 c, none⟩)

/-- A channel is first in, first out (spec/07 R175, R177, R178): an entry put into an empty channel is the one that is taken next, word by
word with its poison bits, and the other channels of the team and the bytes outside the slot stay. -/
def Claim.ChannelFifo : Prop :=
  ∀ (s : State) (T : Team) (j : Nat) (h : Chan) (e : List PWord), s.team T.slot = some T → T.chans.getD j none = some h →
    j < T.chans.length → h.head < h.depth → h.count = 0 → h.poisons.length = h.depth → e.length = 64 → s.memOk = true →
    ∀ by_ : Nat → AgentId, ∃ T' h', (s.chPut T.slot j e by_).team T.slot = some T' ∧ T'.chans.getD j none = some h' ∧ h'.count = 1
      ∧ (s.chPut T.slot j e by_).chHead T' h' = e
      ∧ (∀ i, i ≠ j → T'.chans.getD i none = T.chans.getD i none)
      ∧ ∀ x, x < T.scrBase + h.base + 256 * h.head ∨ T.scrBase + h.base + 256 * h.head + 256 ≤ x →
        memGet (s.chPut T.slot j e by_).scr x = memGet s.scr x

/-- send, sendw and recv complete or wait; a channel is first in, first out. -/
def Obligations.ChannelResults : Prop :=
  Claim.SendResults ∧ Claim.SendWaitResults ∧ Claim.ReceiveResults ∧ Claim.ChannelFifo

/-- `chq` (spec/07 R179), of a channel of the own team: the filled or the free count goes to every run lane, or once to a uniform register;
it never waits, and changes nothing else. -/
def Obligations.ChannelCount : Prop :=
  ∀ (ch : BitVec 6) (d : BitVec 7) (q : BitVec 1) (s : State) (c : Cur) (G : Group) (T : Team) (h : Chan),
    ch.toNat < 48 → T.chans.getD ch.toNat none = some h → TeamReady s c G T (ctlUnit false [(d, 1)]) →
    exec (.chq ch d q) s = .next ((withWord s G c d fun _ => clean (BitVec.ofNat 32 (if q = 0#1 then h.count else h.depth - h.count))).advance c)

/-- The loads (spec/11 R242 to R247; spec/10 R221): when every run lane's access reaches a place and none waits, each run lane receives the
bytes that its place gives to a read by the lanes that read it, all lanes' reads of one state. The cache policy has no effect on the values. -/
def Claim.LaneLoads : Prop :=
  ∀ (sp p : BitVec 2) (d a : BitVec 7) (o5 : BitVec 5) (o7 : BitVec 7) (s s1 : State) (c : Cur) (G : Group) (ea : Nat → Nat) (pl : Nat → Loc),
    ∀ e ∈ loadTable sp p d a o5 o7,
      let n := accWords e.2.1
      let u := loadOf sp d n a
      MemReady s c G u sp.toNat → (∀ l ∈ lanesOf G (u.run G c), addrIs G sp.toNat a l (e.2.2.2 * e.2.1) (ea l)) →
      Reaches s s1 c G u .load sp.toNat e.2.1 e.2.1 ea pl →
      let ps := lanePlaces G c u ea pl
      let r := arriving s1 e.2.1 ps
      let t := r.afterReads (ps.map fun p => (r.readers G ps p.2.2, p.2.2, e.2.1))
      let got := fun l => r.readAt (r.readers G ps (pl l)) (pl l) (ea l) e.2.1
      exec e.1 s = .next ((afterAccess t G .load e.2.1 ps).laneDone G c u (.regs d n) (fun l => loadedWords e.2.1 e.2.2.1 (got l).1 (got l).2) 0#5)

/-- `ldg` and `pref` (spec/11 R249, R250): one word, read at the address of the lowest lane of k0, enters a uniform register; `pref` changes no
value. -/
def Claim.UniformLoadAndPrefetch : Prop :=
  ∀ (sp p : BitVec 2) (d a o : BitVec 7) (s s1 : State) (c : Cur) (G : Group) (l ea : Nat) (x : Loc),
    (let u : Sys2Proof.Machine.Unit := { pfx := false, latch := false, names := [addrName sp.toNat a] }
     MemReady s c G u sp.toNat → lowest (G.k0 c) = some l → addrIs G sp.toNat a l (o.toInt * 4) ea →
     s.locate G .load sp.toNat 4 4 (.ea ea) = (.at ea x, s1) → s1.accessWaits c G .load 4 [(l, .at ea x)] = none →
     let r := s1.readLoc [(s1.laneAgent G l).id] x ea 4
     exec (.ldg sp p d a o) s = .next (((r.2.2.accessed G .load 4 [(l, ea, x)]).setGroup
       (G.writeUnif d.toNat (loadedWords 4 false r.1 r.2.1))).advance c))
    ∧ (let u : Sys2Proof.Machine.Unit := { latch := false, zm := false, names := [addrName sp.toNat a] }
       MemReady s c G u sp.toNat → G.Clean c u [(a.toNat, (addrName sp.toNat a).2)] →
       exec (.pref sp p a o) s = .next (s.laneDone G c u .none (fun _ => []) 0#5))

/-- Loads, ldg and pref complete with the bytes of their places. -/
def Obligations.LoadResults : Prop :=
  Claim.LaneLoads ∧ Claim.UniformLoadAndPrefetch

/-- The stores (spec/11 R242, R243, R248): when every run lane's access reaches a place, none waits and no source is poisoned, each run lane's
bytes are written at its place, and no register changes. -/
def Claim.LaneStores : Prop :=
  ∀ (sp p : BitVec 2) (d a : BitVec 7) (o6 : BitVec 6) (o7 : BitVec 7) (s s1 : State) (c : Cur) (G : Group) (ea : Nat → Nat) (pl : Nat → Loc),
    ∀ e ∈ storeTable sp p d a o6 o7,
      let n := accWords e.2.1
      let u := storeOf sp d n a
      MemReady s c G u sp.toNat → G.Clean c u [(d.toNat, n)] →
      (∀ l ∈ lanesOf G (u.run G c), addrIs G sp.toNat a l (e.2.2 * e.2.1) (ea l) ∧ (pl l).lost s1 = false) →
      Reaches s s1 c G u .store sp.toNat e.2.1 e.2.1 ea pl →
      exec e.1 s = .next ((afterAccess (s1.writeBy {} ((lanesOf G (u.run G c)).map fun l => ((s1.laneAgent G l).id, pl l, storedBytes G e.2.1 d l)))
        G .store e.2.1 (lanePlaces G c u ea pl)).laneDone G c u .none (fun _ => []) 0#5)

/-- What the stores write (spec/09 R191, R192; spec/11 R248): every byte outside the stored bytes reads as before, in the memory of the slices,
in scratch and in the host's memory; and where only one lane stores to a place in scratch, the place then reads as its bytes. -/
def Claim.StoreFrame : Prop :=
  ∀ (s : State) (kind : WriteKind) (X : Nat → AgentId) (ls : List Nat) (pl : Nat → Loc) (bs : Nat → List Byte), s.memOk = true →
    let t := s.writeBy kind (ls.map fun l => (X l, pl l, bs l))
    (∀ x, (∀ l ∈ ls, ∀ f spa, (pl l).base = .dram f spa → ∀ i, i < (bs l).length → x ≠ dramKey f (spa + i)) → memGet t.dram x = memGet s.dram x)
    ∧ (∀ x, (∀ l ∈ ls, ∀ k off, (pl l).base = .scratch k off → x < s.scrAddr k off ∨ s.scrAddr k off + (bs l).length ≤ x) →
      memGet t.scr x = memGet s.scr x)
    ∧ (∀ x, (∀ l ∈ ls, ∀ h, (pl l).base = .host h → x < h ∨ h + (bs l).length ≤ x) → memGet t.host x = memGet s.host x)
    ∧ (∀ l r k off, ls = [l] → (pl l).base = .scratch k off → bs l = r → memRead t.scr (s.scrAddr k off) r.length = r)
    ∧ (∀ l r f spa, ls = [l] → (pl l).base = .dram f spa → bs l = r → spa % 2 ^ 40 + r.length ≤ 2 ^ 40 → spaRead t f spa r.length = r)
    ∧ t.live = s.live ∧ t.slices = s.slices ∧ t.cur = s.cur

/-- Of lanes that store to one byte the highest wins (spec/09 R192). -/
def Claim.HighestLaneWins : Prop :=
  ∀ (s : State) (k off : Nat) (x y : List Byte), s.memOk = true → x.length = y.length →
    memRead (s.writeLocs [(.scratch k off, x), (.scratch k off, y)]).scr (s.scrAddr k off) y.length = y

/-- Stores write the bytes of their places, and nothing else changes in memory. -/
def Obligations.StoreResults : Prop :=
  Claim.LaneStores ∧ Claim.StoreFrame ∧ Claim.HighestLaneWins

/-- Memory reads what was written (log entry 3): a byte written reads back, every other address reads as before, and the canonical form is
kept. -/
def Claim.ReadAfterWrite : Prop :=
  ∀ (m : Memory) (a : Nat) (bs : List Byte), m.wf = true →
    (memWrite m a bs).wf = true ∧ memRead (memWrite m a bs) a bs.length = bs
    ∧ ∀ x, x < a ∨ a + bs.length ≤ x → memGet (memWrite m a bs) x = memGet m x

/-- Where an access in scratch and in constant space leads (spec/09 R194, R195, R197; spec/11 R243): to the byte of the group's own team,
when it lies wholly within the team's scratch, and to the byte of its grid's constant bank; past the end it is an address-space fault, a
store to the constant bank a permission fault, and an address that is not a multiple of the size an alignment fault. -/
def Claim.ScratchAndConstantAccess : Prop :=
  ∀ (s : State) (G : Group) (T : Team) (g : Grid) (k : Acc) (ea size : Nat), G.team = some T.slot → s.team T.slot = some T → s.grid T.grid = some g →
    0 < size →
    (ea + size ≤ T.scrSize → ea % size = 0 → s.locate G k 2 size size (.ea ea) = (.at ea (.scratch T.slot ea), s))
    ∧ (ea + size ≤ T.scrSize → ea % size ≠ 0 → s.locate G k 2 size size (.ea ea) = (.flt ⟨6, 0x08#8, false, 0, false, ea⟩, s))
    ∧ (T.scrSize < ea + size → s.locate G k 2 size size (.ea ea) = (.flt ⟨2, 0x04#8, false, 0, false, ea⟩, s))
    ∧ (ea < 65536 → ea % size = 0 → s.locate G .load 3 size size (.ea ea) = (.at ea (.const g.id ea), s))
    ∧ (65536 ≤ ea → s.locate G k 3 size size (.ea ea) = (.flt ⟨2, 0x04#8, false, 0, false, ea⟩, s))
    ∧ (ea < 65536 → k ≠ .load → ∃ f, s.locate G k 3 size size (.ea ea) = (.flt f, s) ∧ f.cause = 0x06#8)

/-- Memory reads what was written; where scratch and constant accesses lead. -/
def Obligations.MemoryBytes : Prop :=
  Claim.ReadAfterWrite ∧ Claim.ScratchAndConstantAccess

/-- One lane's atomic (spec/11 R252, R253, R244; spec/10 R230): the newest value is returned, the new one written, and in memory nothing else
changes; a poisoned location is returned with its poison and not written. A place that another device does not answer for is left out. -/
def Claim.AtomicLaneResult : Prop :=
  ∀ (op n : Nat) (o : BitVec 2) (sc : Nat) (f : Nat → Nat → Nat → Option Nat) (G : Group) (d cc l ea : Nat) (p : Loc) (s : State),
    (atomTable (32 * n))[op]? = some f → n = 1 ∨ n = 2 → p.lost s = false →
    let X := s.laneAgent G l
    let m := leNat (s.readAt [] p ea (4 * n)).1
    let bad := (s.readAt [] p ea (4 * n)).2
    let t := (s.afterReads [([], p, 4 * n)]).atomRead X (o.getLsbD 0) sc p (4 * n)
    let old := (List.range n).map fun i => PWord.mk (BitVec.ofNat 32 (m / 2 ^ (32 * i))) bad
    let val := fun r => ((G.readWords l r n).getD 0 pzero).val.toNat + (if n = 2 then 2 ^ 32 * ((G.readWords l r n).getD 1 pzero).val.toNat else 0)
    atomLane op n o sc G d cc (l, ea, p) s = (.ok old 0#5, match f m (val d) (val cc) with
      | none => t
      | some v => if bad then t else t.atomWrite X (o.getLsbD 1) sc p (natLe (4 * n) v))
    ∧ t.dram = s.dram ∧ t.scr = s.scr ∧ t.host = s.host
    ∧ (∀ v, t.atomWrite X (o.getLsbD 1) sc p (natLe (4 * n) v)
        = (if o.getLsbD 1 then (t.releaseBy X sc).2.writeBy { atomic := true, rels := [(t.releaseBy X sc).1] } [(X.id, p, natLe (4 * n) v)]
          else t.writeBy { atomic := true } [(X.id, p, natLe (4 * n) v)]))

/-- The atomics (spec/11 R251 to R253; spec/10 R226): when every run lane's access reaches a place, none waits and no operand is poisoned, the lanes are
performed one after the other, each with its ordering at its scope, and each run lane of one that returns receives its old value. With one
run lane that is the single
lane's atomic; the order among lanes of one place is a free choice (log entry 1). -/
def Claim.LaneAtomics : Prop :=
  ∀ (sp o : BitVec 2) (d a : BitVec 7) (x : BitVec 3) (y : BitVec 4) (s s1 : State) (c : Cur) (G : Group) (ea : Nat → Nat) (pl : Nat → Loc),
    ∀ e ∈ atomInstrs sp o d a x y,
      let n := e.2.1
      let cas := e.2.2 && y == 9#4
      let u := atomOf sp e.2.2 cas d n a
      MemReady s c G u sp.toNat → G.Clean c u ((d.toNat, n) :: if cas then [((pfxC c).toNat, n)] else []) →
      (∀ l ∈ lanesOf G (u.run G c), addrIs G sp.toNat a l 0 (ea l)) →
      Reaches s s1 c G u .atomic sp.toNat (4 * n) (4 * n) ea pl →
      let a := arriving s1 (4 * n) (lanePlaces G c u ea pl)
      let r := atomLanes y.toNat n o x.toNat G d.toNat (pfxC c).toNat (lanesOf G (u.run G c)).length (lanePlaces G c u ea pl) a
      exec e.1 s = .next ((afterAccess r.2 G .atomic (4 * n) (lanePlaces G c u ea pl)).retire G c u (if e.2.2 then .regs d n else .none) true
        (if e.2.2 then r.1 else r.1.map fun o => (o.1, match o.2 with
          | .ok _ _ => .ok [] 0#5
          | z => z)))
      ∧ ∀ l, lanesOf G (u.run G c) = [l] → r = ([(l, (atomLane y.toNat n o x.toNat G d.toNat (pfxC c).toNat (l, ea l, pl l) a).1)],
        (atomLane y.toNat n o x.toNat G d.toNat (pfxC c).toNat (l, ea l, pl l) a).2)

/-- Atomics return the old values and write the new ones. -/
def Obligations.AtomicResults : Prop :=
  Claim.AtomicLaneResult ∧ Claim.LaneAtomics

/-- The fences (spec/11 R254 to R256; spec/10 R228, R236 to R238): a `fence` is an acquire fence and a release fence of
each thread of k0 at its scope, ends at pkg and sys scope the cached
translations that the group marked, for which it waits while an engine's access uses one, and ends the cached instruction words that it marked,
from slice scope on for every agent and below for those of the scope; `fence.tl` drops the record-cache entries of the team's function
and address space, and gives the group's later operations what is visible to the lanes; `fence.or` covers every earlier store to scratch for the group. No memory and no register changes. -/
def Claim.FenceResults : Prop :=
  ∀ (x : BitVec 3) (s : State) (c : Cur) (G : Group), Ready s c G (ctlUnit false []) → G.k0 c ≠ 0#64 →
    (4 ≤ x.toNat → s.drains G = true → exec (.fence x) s = .next (s.retryUnit c .engine))
    ∧ (x.toNat < 4 ∨ s.drains G = false → ∃ t : State, exec (.fence x) s = .next (t.advance c)
      ∧ { t with tlb := s.tlb, icache := s.icache } = State.fences x.toNat G.threads.length (s.laneAgents G (G.k0 c)) s
      ∧ t.tlb = (if 4 ≤ x.toNat then s.tlb.filter fun e => !e.marks.contains G.uid else s.tlb)
      ∧ (3 ≤ x.toNat → t.icache = s.icache.filter fun w => !w.marks.contains G.uid)
      ∧ (x.toNat < 3 → t.icache.length = s.icache.length ∧ ∀ (i : Nat) (w : IcWord), s.icache[i]? = some w → w.marks.contains G.uid = true →
        ∃ v : IcWord, t.icache[i]? = some v ∧ { v with barred := w.barred } = w
          ∧ ∀ Y ∈ s.agents, ∀ i, Y.meets x.toNat (s.groupAgent G) = true → Y.group = some i → v.barred.contains i = true))
    ∧ (G.team ≠ none → G.mig = none →
      exec .fenceTl s = .next ((({ s with records := s.records.filter fun r => !(r.f == s.fOf G && r.asid == s.asidOf G) } : State).flow
        (s.laneIds G (G.k0 c)) [.group G.uid]).advance c)
      ∧ exec .fenceOr s = .next (({ s with paths := { s.paths with scrOld := s.paths.scrOld.map fun o => { o with marks := G.uid :: o.marks } } } : State).advance c))

/-- The cache maintenance (spec/11 R257; spec/10 R238): `cinv` and `cwb` change nothing that a read may return; `icinv` marks the
instruction words of the lines for the group's next fence; a tag other than 0 is an address-space fault of every lane of k0. -/
def Claim.CacheMaintenanceResults : Prop :=
  ∀ (a : BitVec 7) (n : BitVec 14) (s : State) (c : Cur) (G : Group) (va : Nat), Ready s c G (ctlUnit false [(a, 2)]) → G.k0 c ≠ 0#64 →
    (lineAt G c a va → exec (.cinv a n) s = .next (s.advance c) ∧ exec (.cwb a n) s = .next (s.advance c)
      ∧ (let mark := fun (w : IcWord) => if (s.lines (s.view G) va (n.toNat + 1)).contains (w.f, w.spa / 128) = true
         then { w with marks := G.uid :: w.marks } else w
       exec (.icinv a n) s = .next (({ s with icache := s.icache.map mark } : State).advance c)))
    ∧ ∀ l, lowest (G.k0 c) = some l → anyPoison (G.readWords l a.toNat 2) = false → 2 ^ 56 ≤ G.pair l a →
      let t := (s.takeTrap G (G.issuing c) (G.k0 c) false ⟨0x04#8, false, 0#8, G.pair l a, G.k0 c, 0, c.unitPc, c.word⟩).endUnit
      exec (.cinv a n) s = .next t ∧ exec (.cwb a n) s = .next t ∧ exec (.icinv a n) s = .next t

/-- Fences and cache maintenance complete, changing no memory. -/
def Obligations.FenceAndCacheResults : Prop :=
  Claim.FenceResults ∧ Claim.CacheMaintenanceResults

/-- The tile-layout records (spec/11 R260 to R262), for one run lane whose accesses reach a record in the slice's memory and an image in
scratch: `tlw` returns the code of the check of the image, and only with code 0 writes the record, drops its cached copies and ends its team's
eligibility; `tlrd` copies the record that an engine would use into scratch, the bytes in memory where no copy is cached and no replaced
value may still be read; `tli` drops the cached copies. -/
def Claim.RecordResults : Prop :=
  ∀ (d a b : BitVec 7) (s s1 s2 : State) (c : Cur) (G : Group) (l ea sa f spa k off : Nat),
    let u := plainUnit [(d, 1), (a, 2), (b, 1)]
    lanesOf G (G.k0 c) = [l] → addrIs G 0 a l 0 ea → addrIs G 2 b l 0 sa → G.mig = none →
    (Ready s c G u →
      s.locate G .store 0 64 64 (.ea ea) = (.at ea (.dram f spa), s1) → s1.locate G .load 2 64 16 (.ea sa) = (.at sa (.scratch k off), s2) →
      s2.accessWaits c G .store 64 [(l, .at ea (.dram f spa))] = none → s2.accessWaits c G .load 64 [(l, .at sa (.scratch k off))] = none →
      let x := (s2.laneAgent G l).id
      let r := s2.readLoc [x] (.scratch k off) 0 64
      let img := r.1
      let w := (r.2.2.writeBy {} [(x, .dram f spa, img)]).accessed G .store 64 [(0, ea, .dram f spa)]
      let t := match G.team with
        | some k => w.endEligible k
        | none => w
      let t1 : State := { t with records := t.records.filter fun r => !(r.f == s2.fOf G && r.asid == s2.asidOf G && r.va == ea) }
      exec (.tlw d a b) s = .next ((if recordCheck img ≠ 0 then r.2.2 else t1).laneDone G c u (.regs d 1)
        (fun _ => [clean (BitVec.ofNat 32 (recordCheck img))]) 0#5))
    ∧ (Ready s c G u →
      s.locate G .load 0 64 64 (.ea ea) = (.at ea (.dram f spa), s1) → s1.locate G .store 2 64 16 (.ea sa) = (.at sa (.scratch k off), s2) →
      s2.accessWaits c G .load 64 [(l, .at ea (.dram f spa))] = none → s2.accessWaits c G .store 64 [(l, .at sa (.scratch k off))] = none →
      let x := (s2.laneAgent G l).id
      let r := s2.readRecord G x ea (.dram f spa)
      (r.2.1 = false → exec (.tlrd d a b) s = .next (((r.2.2.accessed G .load 64 [(0, ea, .dram f spa)]).writeBy {}
        [(x, .scratch k off, r.1)]).laneDone G c u (.regs d 1) (fun _ => [clean (BitVec.ofNat 32 (recordCheck r.1))]) 0#5))
      ∧ ((∀ q ∈ s2.records, ¬ (q.f = s2.fOf G ∧ q.asid = s2.asidOf G ∧ q.va = ea)) → s2.paths.olds = [] → r.1 = spaRead s2 f spa 64
        ∧ (spaPoisonRange s2 f spa 64 = false → s2.paths.linkBad = [] → r.2.1 = false)))
    ∧ (Ready s c G (plainUnit [(a, 2)]) → ea < 2 ^ 56 → ea % 64 = 0 →
      exec (.tli a) s = .next (({ s with records := s.records.filter fun r => !(r.f == s.fOf G && r.asid == s.asidOf G && r.va == ea) } : State).laneDone
        G c (plainUnit [(a, 2)]) .none (fun _ => []) 0#5))

/-- `invt` (spec/11 R263): at S or M, the translations of the function that the kind names are marked, lane by lane, and no others; nothing
else changes. `vprobe` (R264) gives the words of each lane's translation, lane by lane. Below S both raise the privilege trap. -/
def Claim.TranslationMaintenanceResults : Prop :=
  ∀ (d a b : BitVec 7) (s : State) (c : Cur) (G : Group),
    let u := plainUnit [(a, 2), (b, 1)]
    let v := plainUnit [(d, 4), (a, 2), (b, 1)]
    let ls := lanesOf G (G.k0 c)
    (InUnit s c G → u.prefixOk c = true → G.level = .U →
      exec (.invt a b) s = .next (s.trapUnit G c 0x02#8 0) ∧ exec (.vprobe d a b) s = .next (s.trapUnit G c 0x02#8 0))
    ∧ (G.level ≠ .U → (∀ l ∈ ls, anyPoison (G.readWords l a.toNat 2) = false ∧ (G.readWord l b.toNat).poison = false) →
      (Ready s c G u → exec (.invt a b) s = .next ((ls.foldl (fun t l => t.invalidate G (G.val l b) (G.pair l a)) s).laneDone G c u .none (fun _ => []) 0#5))
      ∧ (Ready s c G v → ∃ σ, Chain σ s ls (fun l t => (t.probe G (G.val l b) (G.pair l a)).2)
        ∧ exec (.vprobe d a b) s = .next ((σ ls.length).laneDone G c v (.regs d 4)
          (fun l => ((σ (ls.idxOf l)).probe G (G.val l b) (G.pair l a)).1.map clean) 0#5)))
    ∧ ∀ (w : Word) (va : Nat),
      { s.invalidate G w va with tlb := s.tlb } = s
      ∧ (s.invalidate G w va).tlb = s.tlb.map fun e => e.markBy G.uid (e.f == s.fOf G && (match w.toNat / 4096 % 4 with
        | 0 => e.asid == w.setWidth 12 && e.covers va
        | 1 => e.asid == w.setWidth 12
        | 2 => e.covers2 va
        | _ => true))

/-- The words of `vprobe` (spec/11 R264): a tag other than 0, a walk that fails, and a leaf with its attributes, checked as the controls ask. -/
def Claim.ProbeWords : Prop :=
  ∀ (s s1 : State) (G : Group) (b : Word) (va : Nat),
    (2 ^ 56 ≤ va → s.probe G b va = ([2#32, 0#32, 0#32, 0#32], s))
    ∧ (va < 2 ^ 56 → ∀ w, xlate s (s.fOf G) (b.setWidth 12) va = (.fail w, s1) →
      s.probe G b va = ([BitVec.ofNat 32 (2 * (if w.malformed then 3 else 2) + (if w.stage2 then 16 else 0) + 32 * w.level), 0#32, 0#32, 0#32], s1))
    ∧ (va < 2 ^ 56 → ∀ m, xlate s (s.fOf G) (b.setWidth 12) va = (.ok m, s1) → ∃ st at_ lo hi,
      s.probe G b va = ([st, at_, lo, hi], s1)
      ∧ (st.getLsbD 0 = true ↔ st = 1#32)
      ∧ (st = 1#32 ↔ (b.getLsbD 12 = true → m.w1 = true ∧ m.w2 = true) ∧ (b.getLsbD 13 = true → m.x1 = true ∧ m.x2 = true)
        ∧ (b.getLsbD 14 = true → m.u1 = true ∧ m.u2 = true) ∧ m.nr1 = false ∧ m.nr2 = false)
      ∧ at_.getLsbD 0 = (m.w1 && m.w2) ∧ at_.getLsbD 1 = (m.x1 && m.x2) ∧ at_.getLsbD 2 = (m.u1 && m.u2) ∧ at_.getLsbD 4 = (m.nr1 || m.nr2)
      ∧ at_.getLsbD 5 = m.br ∧ at_.getLsbD 6 = m.remote.isSome ∧ at_.getLsbD 7 = m.uncached
      ∧ (m.cb = none → lo.toNat + 2 ^ 32 * hi.toNat = (m.spa + va % 4096) % 2 ^ 64)
      ∧ ∀ p, m.cb = some p → at_.getLsbD 3 = true ∧ lo = p ∧ hi = 0#32)

/-- Tile-layout records, invt and vprobe. -/
def Obligations.RecordAndTranslationResults : Prop :=
  Claim.RecordResults ∧ Claim.TranslationMaintenanceResults ∧ Claim.ProbeWords

/-- The row operations (spec/12 R272): `bact` opens a row in a closed slot, `bpre` closes a slot, each with its bank cycles; a row of 1,024
or more ends the instance with ROWRANGE, and a slot or row that is already open with SLOTSTATE; `browsh` and `brcpy` give an open slot's row
the bytes of another slot, with a note that a word was poisoned, and end the instance with SLOTSTATE where the one is not open or the other is
closed. An instance's end is no micro-op of its word alone: its slots are still to be closed. -/
def Claim.BankRowOps : Prop :=
  ∀ (sl a t : BitVec 2) (ri pe : BitVec 1) (p : BitVec 4) (imm : BitVec 10) (s : State) (r : Run) (i : Inst), InBank s r i → i.slots.length = 4 →
    let row := bactRow r i ri pe p imm
    (row < 1024 → i.slot sl.toNat = .closed → i.openAt row = none → s.rowBad.contains (spaRow i.f (s.slice i.f) (i.rowAddr row)).1 = false →
      ∃ u : State, exec (.bact sl ri pe p imm) s = .next u ∧ u.dram = s.dram
        ∧ BankDone s u r i (Inst.done { i with slots := i.slots.set sl.toNat (.opened row false (some row)) } r 16 (badParam r pe p) 0#5))
    ∧ (1024 ≤ row → ∃ u : State, exec (.bact sl ri pe p imm) s = .next u ∧ BankEnds s u r i 0 0x08)
    ∧ (row < 1024 → i.slot sl.toNat ≠ .closed ∨ (i.openAt row).isSome = true → ∃ u : State, exec (.bact sl ri pe p imm) s = .next u ∧ BankEnds s u r i 0 0x09)
    ∧ (∃ u : State, exec (.bpre sl) s = .next u ∧ u.dram = s.dram
      ∧ BankDone s u r i ((closedAt i sl.toNat).done r (closingCost (i.slot sl.toNat)) false 0#5))
    ∧ (∀ q w b, i.slot t.toNat = .opened q w b → i.slot a.toNat ≠ .closed → ∃ x mk,
      let j := { s.keepPre i q (List.range 64) with slots := i.slots.set t.toNat (.opened q true x), marks := mk }
      let bad := (List.range 64).any fun c => anyPoison (readCol s i a.toNat c)
      let moved := fun u : State => s.memOk = true → i.rowAddr q % 2 ^ 40 + 2048 ≤ 2 ^ 40 → (∀ c, c < 64 → columnOk s i a.toNat c) →
        ∀ c, c < 64 → (readCol u j t.toNat c).map (·.val) = (readCol s i a.toNat c).map (·.val)
      (∃ u : State, exec (.browsh a t) s = .next u ∧ BankDone s u r i (j.done r 4 bad 0#5) ∧ moved u)
      ∧ ∃ u : State, exec (.brcpy a t) s = .next u ∧ BankDone s u r i (j.done r (4 * ((a.toNat : Int) - t.toNat).natAbs) bad 0#5) ∧ moved u)
    ∧ ((∀ q w b, i.slot t.toNat ≠ .opened q w b) ∨ i.slot a.toNat = .closed →
      (∃ u : State, exec (.browsh a t) s = .next u ∧ BankEnds s u r i 0 0x09) ∧ ∃ u : State, exec (.brcpy a t) s = .next u ∧ BankEnds s u r i 0 0x09)

/-- The column transfers (spec/12 R273, R274): `brdc` moves eight words of a slot's column into an octet of the accumulators, `bwrc` an octet
into a column, `bldt` a column into a table; a closed slot ends the instance with SLOTSTATE. Memory outside the written column is unchanged. -/
def Claim.BankTransfers : Prop :=
  ∀ (sl tb : BitVec 2) (cl x : BitVec 7) (o : BitVec 4) (s : State) (r : Run) (i : Inst), InBank s r i → i.slots.length = 4 → i.acc.length = 64 →
    s.memOk = true →
    (columnOk s i sl.toNat (i.col cl) →
      (∃ u : State, exec (.brdc sl cl o) s = .next u ∧ u.dram = s.dram
        ∧ BankDone s u r i (Inst.done { i with acc := (List.range 64).map (octetWord s i sl (i.col cl) (i.octet o)) } r 1 false 0#5))
      ∧ ((∀ w ∈ i.acc, w.poison = false) → ∃ (u : State) (j : Inst), exec (.bwrc sl cl o) s = .next u ∧ BankDone s u r i (j.done r 1 false 0#5)
        ∧ { j with slots := i.slots, pre := i.pre } = i ∧ outsideColumn s u i sl.toNat (i.col cl) ∧ readCol u j sl.toNat (i.col cl) = (List.range 8).map fun m => i.acc.getD (8 * i.octet o + m) pzero)
      ∧ ∀ cs, (i.slot tb.toNat = .closed ∧ cs = List.replicate 64 (List.replicate 8 pzero)) ∨ i.slot tb.toNat = .table cs →
        ∃ u : State, exec (.bldt tb x sl cl) s = .next u ∧ u.dram = s.dram
          ∧ BankDone s u r i (Inst.done { i with slots := i.slots.set tb.toNat (.table (cs.set (i.col x) (readCol s i sl.toNat (i.col cl)))) } r 1 false 0#5))
    ∧ (i.slot sl.toNat = .closed → (∃ u : State, exec (.brdc sl cl o) s = .next u ∧ BankEnds s u r i 0 0x09)
      ∧ (∃ u : State, exec (.bwrc sl cl o) s = .next u ∧ BankEnds s u r i 0 0x09)
      ∧ ∃ u : State, exec (.bldt tb x sl cl) s = .next u ∧ BankEnds s u r i 0 0x09)

/-- A bank-op issued by a group is an illegal instruction (spec/01 R42; spec/12 R269). -/
def Claim.BankOpInGroupTraps : Prop :=
  ∀ (w : Word) (op : Instr) (s : State) (c : Cur) (G : Group), InUnit s c G → s.bank.cur = none → bankWord w = some op →
    exec op s = .next (s.trapUnit G c 0x01#8 0)

/-- Bank rows and column transfers; a bank-op in a group is illegal. -/
def Obligations.BankAccessResults : Prop :=
  Claim.BankRowOps ∧ Claim.BankTransfers ∧ Claim.BankOpInGroupTraps

/-- The arithmetic of the banks (spec/12 R268, R274, R275): each word of the destination column becomes the result of its rule, without
flush and to nearest even, with the flags of the eight words and the poison of the parameter words taken in, and memory outside that column is unchanged; `blut` adds to each accumulator the entry that its weight looks up. -/
def Claim.BankArithmetic : Prop :=
  ∀ (d a b : BitVec 2) (cl y : BitVec 7) (p : BitVec 4) (s : State) (r : Run) (i : Inst), InBank s r i → i.slots.length = 4 → s.memOk = true →
    (∀ e ∈ bankTable r d a b cl p, (∀ n ∈ d :: e.2.1, columnOk s i n.toNat (i.col cl)) →
      let word := fun m => e.2.2.2.2 (e.2.1.map fun n => ((readCol s i n.toNat (i.col cl)).getD m pzero).val)
      let bad := e.2.2.2.1.any fun k => (r.param k).poison
      ∃ (u : State) (j : Inst), exec e.1 s = .next u ∧ { j with slots := i.slots, pre := i.pre } = i ∧ outsideColumn s u i d.toNat (i.col cl)
        ∧ BankDone s u r i (j.done r e.2.2.1 bad ((List.range 8).foldl (fun f m => f ||| (word m).2) 0#5))
        ∧ readCol u j d.toNat (i.col cl) = (List.range 8).map fun m => ⟨(word m).1, bad⟩)
    ∧ ∀ cs, i.slot b.toNat = .table cs → columnOk s i a.toNat (i.col cl) → columnOk s i b.toNat (i.col y) →
      let acc : List (PWord × BitVec 5) := i.acc.mapIdx fun m v =>
        let w := ((readCol s i a.toNat (i.col cl)).getD (m / 8) pzero).val.toNat / 16 ^ (m % 8) % 16
        let h := ((readCol s i b.toNat (i.col y)).getD (w / 2) pzero).val.toNat / 65536 ^ (w % 2) % 65536
        let q := fp32.add false 0 (fp32.decode v.val.toNat) (fp32.decode (h * 65536))
        (PWord.mk (BitVec.ofNat 32 q.1) v.poison, q.2)
      ∃ u : State, exec (.blut a cl b y) s = .next u ∧ u.dram = s.dram
        ∧ BankDone s u r i (Inst.done { i with acc := acc.map (·.1) } r 1 false (acc.foldl (fun f q => f ||| q.2) 0#5))

/-- Output and control (spec/12 R276, R277): `bacc` writes an octet of the accumulators to the run's output at 32 times its index, and ends
the instance with OUTRANGE past the stride; `bloop` enters its body with index 0, or goes past a body that runs no time, and ends the
instance with BADPARAM for a count above 65,535; `byld` is a yield point, at which the accesses that the instance's bank holds are served and
count; with `bend` the end begins: each slot is closed by a micro-op of its own, and then the instance is over and its result stands with the
run. -/
def Claim.BankControl : Prop :=
  ∀ (n : BitVec 3) (orel irel z pe : BitVec 1) (imm cnt : BitVec 10) (p : BitVec 4) (last : BitVec 6) (s : State) (r : Run) (i : Inst),
    InBank s r i → i.acc.length = 64 → s.memOk = true →
    let o := i.octet (orel ++ n)
    let off := 32 * (imm.toNat + (if irel = 1#1 then i.i else 0))
    let ws := (i.acc.drop (8 * o)).take 8
    let count := if pe = 1#1 then (r.param p.toNat).val.toNat else cnt.toNat
    let bad := badParam r pe p
    (off + 32 ≤ r.stride → (∀ w ∈ ws, w.poison = false) → ∀ f ad, r.place (r.out + i.k * r.stride + off) = some (f, ad) → f < 64 → ad % 2 ^ 40 + 32 ≤ 2 ^ 40 →
      s.instAt f ad = none → s.rowBad = [] →
      ∃ u : State, exec (.bacc n orel imm irel z) s = .next u ∧ spaRead u f ad 32 = ws.flatMap (fun w => natLe 4 w.val.toNat)
        ∧ (∀ a, a < dramKey f ad ∨ dramKey f ad + 32 ≤ a → memGet u.dram a = memGet s.dram a)
        ∧ BankDone s u r i (Inst.done { i with acc := if z = 1#1 then i.acc.mapIdx (fun m w => if m / 8 = o then pzero else w) else i.acc } r 2 false 0#5))
    ∧ (r.stride < off + 32 → ∃ u : State, exec (.bacc n orel imm irel z) s = .next u ∧ BankEnds s u r i 0 0x0A)
    ∧ (0 < count → count ≤ 65535 → ∃ u : State, exec (.bloop pe p cnt last) s = .next u ∧ u.dram = s.dram
      ∧ BankDone s u r i { i with
        counter := i.counter + 1
        poison := i.poison || bad
        exceeded := i.exceeded || decide (r.bound < i.counter + 1)
        loops := ⟨i.pc + 1, last.toNat, 0, count⟩ :: i.loops
        pc := i.pc + 1 })
    ∧ (count = 0 → ∃ u : State, exec (.bloop pe p cnt last) s = .next u
      ∧ BankDone s u r i (Inst.done { i with pc := last.toNat } r 1 bad 0#5))
    ∧ (65535 < count → ∃ u : State, exec (.bloop pe p cnt last) s = .next u ∧ BankEnds s u r i 0 0x0B)
    ∧ (∃ u : State, exec .byld s = .next u
      ∧ BankDone s u r i { i.done r (1 + heldCost (i.held.map fun h => (h.row, h.write))) false 0#5 with atYield := !i.held.isEmpty })
    ∧ (∃ u : State, exec .bend s = .next u ∧ BankEnds s u r i 2 0)
    ∧ ∀ code, i.slots.length = 4 → (∀ k, k < 4 → i.ending = some (code, k) →
        BankDone s { s.endStep i with bank := { (s.endStep i).bank with cur := none } } r i { closedAt i k with
          counter := i.counter + closingCost (i.slot k)
          exceeded := i.exceeded || decide (r.bound < i.counter + closingCost (i.slot k))
          ending := some (code, k + 1) })
      ∧ (i.ending = some (code, 4) → let u := s.endStep i
        u.inst r.id i.k = none ∧ (∀ run k, ¬ (run = r.id ∧ k = i.k) → u.inst run k = s.inst run k) ∧ u.live = s.live ∧ u.dram = s.dram
        ∧ ∃ e, (u.run r.id).map (·.ends) = some (r.ends ++ [e]) ∧ e.k = i.k ∧ e.code = BitVec.ofNat 8 code ∧ e.flags = i.flags ∧ e.counter = i.counter
          ∧ e.poison = i.poison)

/-- Bank arithmetic, output and control. -/
def Obligations.BankComputeResults : Prop :=
  Claim.BankArithmetic ∧ Claim.BankControl

/-- Ownership of the matrix engine (spec/14 R308 to R310; spec/15 R331, R332): `macq`, at an aligned area whose pages may be written, only goes
on in the owner; of any other group it registers the save area, anew where the group
neither owns the engine nor is queued nor has an image, and asks for the engine, which a free engine with nobody queued grants by a
swap; where the queue is full, or a bank holds a table walk of the area, the group waits at its unit. An operation of a group without an area takes the ownership trap, and one of a
group that waits for the engine stays at its unit. `mrel` gives up the slots of its mask and, with e, the engine: the group leaves the queue,
its area and image are gone, and an owner's engine is to be cleared. -/
def Claim.MatrixOwnership : Prop :=
  ∀ (a : BitVec 7) (o : BitVec 14) (f n : BitVec 3) (e : BitVec 1) (m : BitVec 8) (s s1 : State) (c : Cur) (G : Group) (T : Team) (l va : Nat)
    (ps : List (Nat × Nat)),
    (CmdReady s c G T [(a, 2)] l → addrIs G 1 a l 0 va → s.areaPages G va (List.range 35) = (none, ps, s1) → va % 4096 = 0 →
      (areaWalks s G va ≠ [] → exec (.macq a) s = .next ((s.holdReqs (s.holder G) (areaWalks s G va)).retryUnit c .engine))
      ∧ (areaWalks s G va = [] →
        (s1.mx.st = .owned G.uid ∧ s1.mx.leaving = false → exec (.macq a) s = .next ((s1.spoil G).advance c))
      ∧ (s1.mx.st ≠ .owned G.uid ∨ s1.mx.leaving = true →
        (s1.mxFull G.uid = false → exec (.macq a) s = .next ((({ s1 with mx := { askedFor s1.mx G.uid with
          areas := if s1.mx.areas.any (fun x => x.uid == G.uid && (x.image.isSome || s1.mx.wants G.uid)) then s1.mx.areas
            else s1.mx.areas.filter (fun x => x.uid != G.uid) ++ [⟨G.uid, va, s1.fOf G, s1.asidOf G, ps, none, [], false⟩] } } : State).spoil G).advance c))
        ∧ (s1.mx.st = .free → s1.mx.fifo = [] → (askedFor s1.mx G.uid).st = .swap none (some G.uid))
        ∧ (s1.mxFull G.uid = true → ∃ t, exec (.macq a) s = .next t ∧ t.cur = none ∧ t.mx.fifo = s1.mx.fifo ∧ t.mx.st = s1.mx.st))))
    ∧ ((∀ x ∈ s.mx.areas, x.uid ≠ G.uid) → let t := s.trapEach G c 0x17#8 0 c.unitPc
      (CmdReady s c G T [] l → exec .mswap s = .next t ∧ exec (.macz n) s = .next t)
      ∧ (CmdReady s c G T [(a, 2)] l → exec (.mlds a o) s = .next t)
      ∧ (CmdReady s c G T [(a, 1)] l → exec (.mscl a) s = .next t ∧ exec (.mexec f a) s = .next t))
    ∧ ((∃ x ∈ s.mx.areas, x.uid = G.uid) → s.mx.st ≠ .owned G.uid ∨ s.mx.leaving = true ∨ s.leaseOver G.uid = true → s.mxFull G.uid = false →
      CmdReady s c G T [] l → ∃ t, exec .mswap s = .next t ∧ heldAt s t c G c.unitPc .engine ∧ t.mx = askedFor s.mx G.uid)
    ∧ (CmdReady s c G T [] l → exec (.mrel e m) s = .next ((({ s.setTeam { T with accs := T.accs.mapIdx (givenUp G m) } with
      mx := if e = 1#1 then s.mx.leave G.uid else s.mx } : State).spoil G).advance c))
    ∧ let m := s.mx.leave G.uid
      m.fifo = s.mx.fifo.filter (· != G.uid) ∧ m.areas = s.mx.areas.filter (fun x => x.uid != G.uid)
      ∧ (s.mx.st = .owned G.uid → (s.mx.ops = [] → m.st = .clear) ∧ (s.mx.ops ≠ [] → m.st = .owned G.uid ∧ m.leaving = true))
      ∧ (∀ x, s.mx.st = .owned x → x ≠ G.uid → m.st = s.mx.st ∧ m.leaving = s.mx.leaving)

/-- The accumulator ports and the status word (spec/15 R334, R341): `macrd` gives each lane four words of the slot's row, `macwr` writes four
words of each lane with their poison and takes a free slot, while the rows are at most 255 and no operation uses the slot; both take the
conflict trap on a slot that another group holds; `mstat` reads the group's sequence words, the statuses of its sequences, and the state of
the engine as the group sees it. -/
def Claim.AccumulatorPorts : Prop :=
  ∀ (a : BitVec 7) (k : BitVec 4) (n : BitVec 3) (s : State) (c : Cur) (G : Group) (T : Team) (l : Nat),
    let g := (G.unif.getD k.toNat pzero).val.toNat
    let u := plainUnit [(a, 4)]
    ((G.unif.getD k.toNat pzero).poison = false → (T.acc n.toNat).users = 0 → (∀ l ∈ lanesOf G (G.k0 c), g + l / 32 < 256) → CmdReady s c G T [(a, 4)] l →
      ((T.acc n.toNat).other G.uid = false → exec (.macrd a k n) s = .next (({ s with free := s.free + 1 } : State).laneDone G c u (.regs a 4)
        (fun l => (((T.acc n.toNat).row (g + l / 32)).drop (4 * (l % 32))).take 4) 0#5))
      ∧ ((T.acc n.toNat).other G.uid = true → exec (.macrd a k n) s = .next (s.trapEach G c 0x16#8 0 c.unitPc)
        ∧ exec (.macwr a k n) s = .next (s.trapEach G c 0x16#8 0 c.unitPc))
      ∧ (slotOpen s G T n.toNat → T.accs.length = 8 → (∀ p ∈ (T.acc n.toNat).rows, p.2.length = 128) → G.threads.length ≤ 64 →
        ∃ t U, exec (.macwr a k n) s = .next t ∧ t.cur = none ∧ t.team T.slot = some U ∧ (U.acc n.toNat).holder = some G.uid
          ∧ (∀ m i, i < 128 → ((U.acc n.toNat).row m).getD i pzero
            = if g ≤ m ∧ 32 * (m - g) + i / 4 < 64 ∧ (G.k0 c).getLsbD (32 * (m - g) + i / 4) = true
              then (G.readWords (32 * (m - g) + i / 4) a.toNat 4).getD (i % 4) pzero else ((T.acc n.toNat).row m).getD i pzero)
          ∧ ∀ j, j ≠ n.toNat → U.acc j = T.acc j))
    ∧ (∀ d : BitVec 7, ∀ sel : BitVec 3, CmdReady s c G T [(d, 1)] l → ∃ w, exec (.mstat d sel) s = .next ((withWord s G c d fun _ => clean w).advance c)
      ∧ (sel = 1#3 → w = G.mx.upTo) ∧ (sel = 2#3 → w = G.tc.upTo) ∧ (sel = 3#3 → w = G.bk.upTo)
      ∧ (sel = 4#3 → w = (G.tc.bad.setWidth 8 ++ G.mx.bad.setWidth 8 : BitVec 16).setWidth 32)
      ∧ (sel = 0#3 → w.toNat % 8 = match s.mx.st with
        | .free => 0
        | .owned x => if x = G.uid then 1 else 2
        | .swap _ _ => 3
        | .clear => 4))

/-- Ownership of the matrix engine, accumulator ports and status. -/
def Obligations.MatrixOwnershipAndPorts : Prop :=
  Claim.MatrixOwnership ∧ Claim.AccumulatorPorts

/-- The matrix operations of the owner (spec/14 R306, R307; spec/15 R333, R335 to R340): each is accepted with its operands, its layout
record as the record cache gives it now, and its slot; an operation on a slot of another group takes the conflict trap. -/
def Claim.MatrixOperations : Prop :=
  ∀ (a : BitVec 7) (o : BitVec 14) (f n : BitVec 3) (s s1 s2 : State) (c : Cur) (G : Group) (T : Team) (l ea : Nat) (p : Loc) (b : List Byte) (bp : Bool) (s3 : State) (bad : BitVec 8) (bs : List Byte),
    ownsMatrix s G →
    (CmdReady s c G T [] l → exec .mswap s = .next (s.mxIssue c G T .mswap none 0#8 [] []))
    ∧ (CmdReady s c G T [(a, 2)] l → cleanIn G l a 2 → s.recordHolds G (G.pair l a) = [] → s.recordAt G (s.laneAgent G l).id (G.pair l a) = (bad, bs, s1) →
      exec (.mlds a o) s = .next (s1.mxIssue c G T (.mlds (64 * o.toNat)) none bad bs (if bad = 0#8 then
        [(T.scrBase + 64 * o.toNat, T.scrBase + 64 * o.toNat + (tileRec bs).tile1 * (tileRec bs).pitch, false)] else [])))
    ∧ (CmdReady s c G T [(a, 1)] l → cleanIn G l a 1 → ∃ e, exec (.mscl a) s = .next (s.mxIssue c G T (.mscl (G.val l a).toNat) none 0#8 []
        [(T.scrBase + (G.val l a).toNat, e, false)])
      ∧ (s.mx.ops = [] → e = T.scrBase + (G.val l a).toNat + s.mx.shadow.cols * (s.mx.shadow.depth / 32)))
    ∧ (CmdReady s c G T [] l → (slotOpen s G T n.toNat → exec (.macz n) s = .next (s.mxIssue c G T .macz (some n.toNat) 0#8 [] []))
      ∧ ((T.acc n.toNat).other G.uid = true → exec (.macz n) s = .next (s.trapEach G c 0x16#8 0 c.unitPc)))
    ∧ (CmdReady s c G T [(a, 1)] l → addrIs G 2 a l 0 ea → s.locate G .load 2 64 64 (.ea ea) = (.at ea p, s1) →
      s1.accessWaits c G .load 64 [(l, .at ea p)] = none → s1.readLoc [(s1.laneAgent G l).id] p ea 64 = (b, bp, s2) →
      s2.recordHolds G (leNat (b.take 8)) = [] → s2.recordAt G (s.laneAgent G l).id (leNat (b.take 8)) = (bad, bs, s3) → slotOpen s2 G T (fld b 0x13 1 % 8) →
      ∃ rg, exec (.mexec f a) s = .next (s3.mxIssue c G T (.mexec f.toNat b) (some (fld b 0x13 1 % 8)) bad bs rg)
        ∧ (bad = 0#8 → (T.scrBase + fld b 8 4, T.scrBase + fld b 8 4 + fld b 0x10 2 * (tileRec bs).pitch, false) ∈ rg))

/-- What the acceptance of a matrix operation leaves (spec/14 R306, R309, R316; spec/15 R329): it stands at the end of the engine's operations
with the next number of the group's MX sequence, the lease of its share counts one more, the group leaves the queue, its slot is in use by the group, and
nothing has been computed. -/
def Claim.MatrixIssue : Prop :=
  ∀ (s : State) (c : Cur) (G : Group) (T : Team) (cmd : MxCmd) (slot : Option Nat) (bad : BitVec 8) (bs : List Byte) (rg : List (Nat × Nat × Bool)),
    s.group c.gctx = some G → G.team = some T.slot → s.team T.slot = some T → T.accs.length = 8 → (∀ n, slot = some n → n < 8) →
    let t := s.mxIssue c G T cmd slot bad bs rg
    Issued s t c G T .mx
    ∧ (∃ op, t.mx.ops = s.mx.ops ++ [op] ∧ op.cmd = cmd ∧ op.slot = slot ∧ op.seq = G.mx.issued + 1#32 ∧ op.uid = G.uid ∧ op.tuid = T.uid
      ∧ op.recBad = bad ∧ op.recBytes = bs ∧ op.ranges = rg ∧ op.started = false)
    ∧ t.mx.count = s.mx.count + 1 ∧ t.mx.lease = s.leaseOf G.uid ∧ t.mx.fifo = s.mx.fifo.filter (· != G.uid) ∧ t.mx.active = s.mx.active ∧ t.mx.shadow = s.mx.shadow
    ∧ (∀ n, slot = some n → (t.team T.slot).map (fun U => U.acc n) = some { T.acc n with holder := some G.uid, users := (T.acc n).users + 1 })
    ∧ t.dram = s.dram ∧ t.scr = s.scr

/-- Matrix operations are accepted into the engine queue. -/
def Obligations.MatrixIssueResults : Prop :=
  Claim.MatrixOperations ∧ Claim.MatrixIssue

/-- The tile copies and the bank runs are accepted (spec/14 R317; spec/15 R342, R343): each stands at the end of its unit's operations with
its operands and the next number of its class; operands out of range give the status 0x60 and nothing is read; with 32 copies or 64 runs in
progress the group waits at its unit. -/
def Claim.CopyAndRunIssue : Prop :=
  ∀ (a : BitVec 7) (o : BitVec 14) (p : BitVec 1) (sc : BitVec 3) (s s1 : State) (c : Cur) (G : Group) (T : Team) (l va : Nat) (bad : BitVec 8) (bs : List Byte),
    let w := fun i => ((G.readWords l a.toNat 4).getD i pzero).val.toNat
    let odd := 2 ^ 28 ≤ w 2 ∨ 2 ^ 24 ≤ w 3 ∨ 6 ≤ w 2 / 2 ^ 24 % 8
    (CmdReady s c G T [(a, 4)] l → cleanIn G l a 4 →
      (s.tcs.length < 32 → (odd → bad = 0x60#8 ∧ s1 = s ∧ bs = []) → (¬ odd → s.recordHolds G (G.pair l a) = [] ∧ s.recordAt G (s.laneAgent G l).id (G.pair l a) = (bad, bs, s1)) → s1.group c.gctx = some G →
        s1.team T.slot = some T →
        ∀ back, ∃ t op, exec (if back then .tcopyr a o else .tcopy a o) s = .next t ∧ Issued s1 t c G T .tc ∧ t.tcs = s1.tcs ++ [op]
          ∧ op.back = back ∧ op.record.toNat = G.pair l a ∧ op.i0 = w 2 % 2 ^ 24 ∧ op.j0 = w 3 % 2 ^ 24 ∧ op.so = 64 * o.toNat
          ∧ op.seq = G.tc.issued + 1#32 ∧ op.recBad = bad ∧ op.recBytes = bs ∧ op.uid = G.uid ∧ op.started = false ∧ t.scr = s1.scr ∧ t.dram = s1.dram)
      ∧ (32 ≤ s.tcs.length → ∃ t, exec (.tcopy a o) s = .next t ∧ heldAt s t c G c.unitPc .engine ∧ t.tcs = s.tcs
        ∧ exec (.tcopyr a o) s = .next t))
    ∧ (Ready s c G (ctlUnit false [(a, 2)]) → lowest (G.k0 c) = some l → G.team = some T.slot → s.team T.slot = some T →
      addrIs G 1 a l 0 va → va < 2 ^ 56 →
      (va % 64 = 0 → (s.bank.runs.filter fun r => decide (r.spar = G.sparAt)).length < 64 →
        ∃ t r, exec (.bkrun a p sc) s = .next t ∧ Issued s t c G T .bk ∧ t.bank.runs = s.bank.runs ++ [r] ∧ r.va = va ∧ r.post = (p == 1#1)
          ∧ r.scope = sc.toNat ∧ r.seq = G.bk.issued + 1#32 ∧ r.uid = G.uid ∧ r.checked = false ∧ r.spar = G.sparAt ∧ t.dram = s.dram)
      ∧ (va % 64 ≠ 0 → (s.bank.runs.filter fun r => decide (r.spar = G.sparAt)).length < 64 → exec (.bkrun a p sc) s = .next ((s.takeTrap G (G.issuing c) (G.k0 c) false
        ⟨0x08#8, false, 0#8, va, G.k0 c, 0, c.unitPc, c.word⟩).endUnit))
      ∧ (64 ≤ (s.bank.runs.filter fun r => decide (r.spar = G.sparAt)).length → ∃ t, exec (.bkrun a p sc) s = .next t ∧ heldAt s t c G c.unitPc .engine))

/-- Chains (spec/14 R323, R325; spec/15 R344): `chtail` publishes the tail to the engine that `ce.sel` names: it becomes the head where there is
none, but in HALT, and the engine starts in IDLE, if it has a head, or goes on in WAIT; `chseq` reads its sequence; a group whose slice does not own that engine takes the illegal-instruction trap. What is visible
to the group is then released to the published chain (spec/10 R226, R232). -/
def Claim.ChainResults : Prop :=
  ∀ (a : BitVec 7) (s : State) (c : Cur) (G : Group) (l va i : Nat) (e : ChainEng), lowest (G.k0 c) = some l →
    (Ready s c G (ctlUnit false [(a, 2)]) → addrIs G 1 a l 0 va → va < 2 ^ 56 → va % 64 = 0 → s.engOf G = some i → s.eng i = some e →
      ∃ e', exec (.chtail a) s = .next ((((s.setEng i e').flow (s.allIds G) [.tail e.id e.f]).spoil G).advance c) ∧ e'.tail = BitVec.ofNat 64 va
        ∧ e'.head = (if e.head = 0#64 ∧ e.st ≠ 7 then BitVec.ofNat 64 va else e.head)
        ∧ e'.st = (if (e.st = 0 ∧ e'.head ≠ 0#64) ∨ e.st = 5 then 1 else e.st)
        ∧ { e' with tail := e.tail, head := e.head, st := e.st, off := e.off } = e)
    ∧ (Ready s c G (ctlUnit false [(a, 1)]) → s.engOf G = some i → s.eng i = some e →
      exec (.chseq a) s = .next (((withWord s G c a fun _ => clean e.seq).spoil G).advance c))
    ∧ (s.engOf G = none → (Ready s c G (ctlUnit false [(a, 2)]) → exec (.chtail a) s = .next (s.trapUnit G c 0x01#8 0))
      ∧ (Ready s c G (ctlUnit false [(a, 1)]) → exec (.chseq a) s = .next (s.trapUnit G c 0x01#8 0)))

/-- Tile copies, bank runs and chains are accepted. -/
def Obligations.CommandIssueResults : Prop :=
  Claim.CopyAndRunIssue ∧ Claim.ChainResults

/-- Completion events and the wait on a sequence (spec/15 R347, R348; spec/10 R233): `evpop` takes the oldest record of the slice's partition, or
gives zeros; `evwait` waits while there is none; `cbar` goes on once the class has reached the number, waits before that, and traps for a
number of a group's class that was never issued; each acquires the writes of the operation returned, or of those up to the number, and of no other. -/
def Obligations.EventResults : Prop :=
  ∀ (a : BitVec 7) (s : State) (c : Cur) (G : Group) (l : Nat), lowest (G.k0 c) = some l →
    (Ready s c G (ctlUnit false [(a, 4)]) →
      (s.part s.coreNo (s.fOf G) = [] → exec (.evpop a) s = .next ((s.setGroup (G.writeLanes a (G.k0 c) fun _ => List.replicate 4 pzero)).advance c)
        ∧ ∃ t, exec (.evwait a) s = .next t ∧ heldAt s t c G c.unitPc .engine)
      ∧ ∀ r rs, s.part s.coreNo (s.fOf G) = r :: rs → r.poisonSeq G = none →
        let t := ((((s.acquireOps G (· == r.agent (s.fOf G))).setPart s.coreNo (s.fOf G) rs).setGroup (G.writeLanes a (G.k0 c) fun _ =>
          (List.range 4).map fun i => clean (r.bits.extractLsb' (32 * i) 32))).spoil G).advance c
        exec (.evpop a) s = .next t ∧ exec (.evwait a) s = .next t)
    ∧ (Ready s c G (ctlUnit false [(a, 1)]) → (G.readWord l a.toNat).poison = false →
      let t := G.val l a
      ∀ (cl : BitVec 3) (q : ClassSeq), (cl = 0#3 ∧ q = G.bk) ∨ (cl = 1#3 ∧ q = G.mx) ∨ (cl = 2#3 ∧ q = G.tc ∧ G.unret = []) →
        let u := s.acquireOps G (AgentId.opTo cl.toNat G.uid t)
        ((t - q.issued).toNat = 0 ∨ 2 ^ 31 ≤ (t - q.issued).toNat →
          ((q.upTo - t).toNat < 2 ^ 31 → exec (.cbar a cl) s = .next (u.advance c))
          ∧ (2 ^ 31 ≤ (q.upTo - t).toNat → ∃ u : State, exec (.cbar a cl) s = .next u ∧ heldAt s u c G c.unitPc .engine))
        ∧ (0 < (t - q.issued).toNat → (t - q.issued).toNat < 2 ^ 31 → exec (.cbar a cl) s = .next (s.trapUnit G c 0x01#8 0)))
    ∧ (Ready s c G (ctlUnit false [(a, 1)]) → (G.readWord l a.toNat).poison = false → ∀ i e, s.engOf G = some i → s.eng i = some e →
      ((e.seq - G.val l a).toNat < 2 ^ 31 → exec (.cbar a 3#3) s = .next ((s.acquireOps G (AgentId.chainTo e.id e.f (G.val l a))).advance c))
      ∧ (2 ^ 31 ≤ (e.seq - G.val l a).toNat → ∃ u : State, exec (.cbar a 3#3) s = .next u ∧ heldAt s u c G c.unitPc .engine))

/-- Migration (spec/12 R289 to R295): `mig` of a whole group at home ships it to the spar core of the address's stack with the most room, or
leaves it home where the slice has no share; `mret` at home only goes on; away, the quads wait after it for the others, and the group comes
home with the last one. -/
def Claim.MigrateAndReturn : Prop :=
  ∀ (a : BitVec 7) (s s1 : State) (c : Cur) (G : Group),
    (∀ T l va spa, CmdReady s c G T [(a, 2)] l → G.ganged c = true → addrIs G 1 a l 0 va →
      (s.spoil G).locate G .load 1 1 1 (.ea va) = (.at va (.dram (s1.fOf G) spa), s1) →
      let st := (spaRow (s1.fOf G) (s1.slice (s1.fOf G)) spa).1.stack
      (s1.sparShares (s1.fOf G) st = [] → exec (.mig a) s = .next (s1.advance c))
      ∧ (∀ k, s1.sparShares (s1.fOf G) st ≠ [] → s1.sparChoice G st = some k →
        (s1.bank.arrivals.filter (· != G.uid)).any (s1.waitsFor st) = false → s1.group c.gctx = some G →
        ∃ t H m, exec (.mig a) s = .next t ∧ t.cur = none ∧ t.group c.gctx = some H ∧ H.mig = some m ∧ m.stack = st ∧ m.core = some k ∧ m.flags = 0#5
          ∧ (∀ i, H.thread i = (G.thread i).map fun th => if th.live then th.redirect else th)
          ∧ ∀ i q, G.seq i = some q → i ∈ c.seqs → q.st = .run → H.seq i = some { q with pc := c.pc + 4#56, ready := s1.now + 1 }))
    ∧ (Ready s c G (ctlUnit false []) →
      (G.mig = none → exec .mret s = .next (s.advance c))
      ∧ (∀ m q, G.mig = some m → G.k0 c ≠ 0#64 → q ∈ G.seqs → q.st ≠ .done → q.id ∉ c.seqs → q.wait ≠ .home →
        ∃ t, exec .mret s = .next t ∧ heldAt s t c G (c.pc + 4#56) .home)
      ∧ (∀ m, G.mig = some m → G.k0 c ≠ 0#64 → c.away = false → G.liveSeqs ≠ [] → (∀ q ∈ G.seqs, q.st ≠ .done → q.id ∈ c.seqs ∧ q.st = .run) →
        ∃ t H, exec .mret s = .next t ∧ t.cur = none ∧ t.group c.gctx = some H ∧ H.mig = none
          ∧ ∀ i q, G.seq i = some q → q.st = .run → H.seq i = some { q with pc := c.pc + 4#56, wait := .none, ready := s.now + 1 }))

/-- The arrival of a migrating group (spec/12 R290): the group that has waited longest for its stack is taken by the spar core that the choice
names; while none has room, or another stands before it, it waits on. -/
def Claim.ArrivalResults : Prop :=
  ∀ (s : State) (g : Nat) (G : Group) (m : Mig), s.group g = some G → G.mig = some m → m.core = none →
    (∀ k, s.bank.arrivals.find? (s.waitsFor m.stack) = some G.uid → s.sparChoice G m.stack = some k →
      ∃ t, exec (.migrationArrival g) s = .next t ∧ t.group g = some { G with mig := some { m with core := some k } }
        ∧ t.bank.arrivals = s.bank.arrivals.filter (· ≠ G.uid) ∧ ∀ h, h ≠ g → t.group h = s.group h)
    ∧ (s.sparChoice G m.stack = none ∨ s.bank.arrivals.find? (s.waitsFor m.stack) ≠ some G.uid → exec (.migrationArrival g) s = .next s)

/-- mig and mret, and the arrival of a migrating group. -/
def Obligations.MigrationResults : Prop :=
  Claim.MigrateAndReturn ∧ Claim.ArrivalResults

/-- Reading a special register (spec/01 R20 to R22; spec/07 R170): every active lane, or a uniform destination once, receives the register's
one value, that of the lowest active lane where lanes differ, two words for a 64-bit register, from any number of the table; a number that is not assigned is an illegal instruction, and one above the group's level a privilege trap.
A read of the fault queue's index acquires the records (R375). -/
def Claim.RegisterReads : Prop :=
  ∀ (a : BitVec 7) (n : BitVec 12) (s : State) (c : Cur) (G : Group) (T : Team), G.team = some T.slot → s.team T.slot = some T →
    (∀ r l, crOf n.toNat = some r → (if r.words = 2 then pairCode a else wd a) = true → lowest (G.k0 c) = some l →
      (crLevel n.toNat).code ≤ G.level.code → Ready s c G (ctlUnit false [(a, r.words)]) →
      exec (.crd a n) s = .next (((if n = 0x40A#12 then s.flow [.faults (s.fOf G)] (s.laneIds G (G.k0 c)) else s).setGroup
        (G.writeLanes a (G.k0 c) fun _ => s.crWordsOf G r l)).advance c))
    ∧ (∀ l, (∀ p ∈ crTable s G T l, s.readCr G l p.1 = p.2) ∧ ∀ v, s.readCr G l n.toNat = v →
      s.crWordsOf G (.word n.toNat) l = [clean (BitVec.ofNat 32 v)] ∧ s.crWordsOf G (.full n.toNat) l = pairWords v
      ∧ s.crWordsOf G (.high n.toNat) l = [clean (BitVec.ofNat 32 (v / 2 ^ 32))])
    ∧ (crOf n.toNat = none → InUnit s c G → exec (.crd a n) s = .next (s.trapUnit G c 0x01#8 0) ∧ exec (.cwr a n) s = .next (s.trapUnit G c 0x01#8 0))
    ∧ ∀ r, crOf n.toNat = some r → InUnit s c G → (ctlUnit false []).prefixOk c = true → (if r.words = 2 then pairCode a else wd a) = true →
      G.level.code < (crLevel n.toNat).code → exec (.crd a n) s = .next (s.trapUnit G c 0x02#8 0)

/-- Writing a special register (spec/01 R6, R7, R20, R22): the lowest active lane's value changes the register's piece of state and nothing
else; a value that sets a reserved bit, or that the register does not take, is an illegal instruction. -/
def Claim.RegisterWrites : Prop :=
  ∀ (a : BitVec 7) (n : BitVec 12) (s : State) (c : Cur) (G : Group) (T : Team) (l : Nat), G.team = some T.slot → s.team T.slot = some T →
    ∀ r, crOf n.toNat = some r → r ≠ .high (n.toNat - 1) → (if r.words = 2 then pairCode a else decide (a.toNat ≤ 124)) = true →
    lowest (G.k0 c) = some l → (crLevel n.toNat).code ≤ G.level.code → Ready s c G (ctlUnit false [(a, r.words)]) → cleanIn G l a r.words →
    let v := if r.words = 2 then G.pair l a else (G.val l a).toNat
    (crReserved n.toNat v = false → ∀ p ∈ cwTable s G T v, p.1 = n.toNat →
      exec (.cwr a n) s = .next (if p.2.1 then p.2.2.advance c else s.trapUnit G c 0x01#8 0))
    ∧ (crReserved n.toNat v = true → exec (.cwr a n) s = .next (s.trapUnit G c 0x01#8 0))

/-- Reads and writes of the special registers. -/
def Obligations.SpecialRegisterResults : Prop :=
  Claim.RegisterReads ∧ Claim.RegisterWrites

/-- The privileged instructions below their level (spec/01 R19, R28; spec/17 R360): the privilege trap, and no other effect. -/
def Obligations.PrivilegeTraps : Prop :=
  ∀ (a : BitVec 7) (x : BitVec 14) (s : State) (c : Cur) (G : Group), InUnit s c G → (ctlUnit false []).prefixOk c = true →
    (G.level = .U → x.toNat ≤ 2 → exec (.eret a x) s = .next (s.trapUnit G c 0x02#8 0) ∧ exec .ctxsw s = .next (s.trapUnit G c 0x02#8 0))
    ∧ (G.level = .U → rd a = true → exec (.dsrd a) s = .next (s.trapUnit G c 0x02#8 0) ∧ exec (.dswr a) s = .next (s.trapUnit G c 0x02#8 0))
    ∧ (G.level ≠ .M → exec (.capsFreeze a) s = .next (s.trapUnit G c 0x02#8 0) ∧ exec (.capsEvent a) s = .next (s.trapUnit G c 0x02#8 0))

/-- `eret` (spec/17 R364, R365): a handle that names no pending frame does nothing; action 0 ends the frame and its lanes go on at the PC that
stands in the frame in memory, with what the handler sees visible to them, actions 1 and 2 end the frame with a kill of the team or of the grid. -/
def Claim.ReturnFromTrap : Prop :=
  ∀ (a : BitVec 7) (s s1 s2 : State) (c : Cur) (G : Group) (l ea : Nat) (p : Loc) (bs : List Byte) (f : Frame), SysReady s c G [(a, 1)] .S → G.level = .S →
    lowest (G.k0 c) = some l → (G.readWord l a.toNat).poison = false → (G.val l a).toNat < 2 ^ 14 →
    ((∀ g ∈ s.live.frames, ¬ (g.share = G.share ∧ g.monitor = false ∧ g.handle = some ((G.val l a).setWidth 14))) →
      ∀ x : BitVec 14, x.toNat ≤ 2 → exec (.eret a x) s = .next (s.advance c))
    ∧ (ownFrame s G (G.val l a) f →
      (ea = (s.slice (s.fOf G)).trFbase.toNat + 4096 * s.coreNo + 64 * ((G.val l a).toNat % 64) → s.locate G .load 1 8 8 (.ea ea) = (.at ea p, s1) →
        s1.accessWaits c G .load 8 [(l, .at ea p)] = none → s1.readLoc [(s1.laneAgent G l).id] p ea 8 = (bs, false, s2) →
        let u := (s2.endFrame f 0).advance c
        exec (.eret a 0#14) s = .next ((u.flow (s2.idsAt c.gctx) (u.idsAt f.gctx)).resumeAt f (leNat bs)))
      ∧ (∀ T g, f.team = some T.slot → ((s.endFrame f 1).advance c).team T.slot = some T →
        exec (.eret a 1#14) s = .next (((s.endFrame f 1).advance c).killTeam T.slot 1 f.cause.toNat true)
        ∧ (T.grid = g → ((s.endFrame f 2).advance c).team T.slot = some T → exec (.eret a 2#14) s = .next (((s.endFrame f 2).advance c).killGrid g))))

/-- The return itself (spec/17 R365): the frame is gone, its sequencers that stand in TRAP run at the address, ready in the next cycle, and every
other sequencer, thread, team and memory is as it was. -/
def Claim.ReturnRestores : Prop :=
  ∀ (s : State) (f : Frame) (pc : BitVec 56) (G : Group), s.group f.gctx = some G →
    let t := s.resumeFrame f pc
    t.live.frames = s.live.frames.filter (· ≠ f) ∧ { t.live with groups := s.live.groups, frames := s.live.frames } = s.live ∧ { t with live := s.live } = s
    ∧ ∃ H, t.group f.gctx = some H ∧ { H with seqs := G.seqs } = G
      ∧ (∀ i q, G.seq i = some q → H.seq i = some (if i ∈ f.seqs ∧ q.st = .trap then { q with st := .run, pc := pc, ready := s.now + 1 } else q))
      ∧ ((∀ q ∈ G.seqs, q.popNext = false) → s.resumeAt f pc.toNat = t.settleGroup f.gctx)

/-- eret resumes or kills; what a return restores. -/
def Obligations.TrapReturnResults : Prop :=
  Claim.ReturnFromTrap ∧ Claim.ReturnRestores

/-- Timers, flags, the calendar's words, and context swaps (spec/17 R378, R382; spec/05 R120, R121; spec/20 R420): `tset` loads the group's timer;
a register form with a LIMM part other than zero is illegal; `flgrd` gives committed OR pending, or the flags that a migrated group goes by, in
every lane once the units of its group that have issued earlier have retired, and waits until then;
`flgclr` clears both sets, which an eligible team's journal notes, and traps in a migrated group; `mslot` gives four words in a uniform run, by the countdown of
the group's die; `ctxsw` asks for a swap,
which a group at S may do for its own function alone. -/
def Obligations.TimerFlagsAndSwap : Prop :=
  ∀ (i : BitVec 14) (a d : BitVec 7) (m : BitVec 5) (w : BitVec 1) (s : State) (c : Cur) (G : Group),
    (Ready s c G (ctlUnit true []) →
      (0 ≤ fullOff c i → exec (.tsetImm i) s = .next ((s.setGroup { G with timer := (fullOff c i).toNat }).advance c))
      ∧ (fullOff c i < 0 → exec (.tsetImm i) s = .next (s.trapUnit G c 0x01#8 0)))
    ∧ (∀ l, lowest (G.k0 c) = some l → (G.readWord l a.toNat).poison = false → Ready s c G (ctlUnit true [(a, 1)]) →
      (immS c 0#14 = 0#64 → exec (.tsetReg a) s = .next ((s.setGroup { G with timer := (G.val l a).toNat }).advance c))
      ∧ (immS c 0#14 ≠ 0#64 → exec (.tsetReg a) s = .next (s.trapUnit G c 0x01#8 0)))
    ∧ (wd a = true → Ready s c G (ctlUnit false [(a, 1)]) →
      (G.holding c = [] ∨ G.flagsDue c = true → exec (.flgrd a) s = .next ((s.setGroup ((G.unflag c).writeLanes a (G.k0 c) fun _ =>
          [clean ((G.mig.elim ((s.fp G).committed ||| (s.fp G).pending) fun m => m.seen ||| m.flags).setWidth 32)])).advance c))
      ∧ (G.flagsDue c = false → G.unflag c = G)
      ∧ (G.holding c ≠ [] → G.flagsDue c = false → ∃ t, exec (.flgrd a) s = .next t
        ∧ heldAt s t c G c.unitPc (.flags ((G.holding c).map fun q => (q.id, q.pc)))))
    ∧ (Ready s c G (ctlUnit false []) → G.k0 c ≠ 0#64 →
      (G.mig = none → exec (.flgclr m) s = .next (((s.setFp G { s.fp G with
          pending := (s.fp G).pending &&& ~~~m, committed := (s.fp G).committed &&& ~~~m }).noteFlags G).advance c))
      ∧ (G.mig ≠ none → exec (.flgclr m) s = .next (s.trapUnit G c 0x13#8 0))
      ∧ (d = 108#7 ∨ d = 112#7 ∨ d = 116#7 ∨ d = 120#7 → ∀ x, (s.comingOn (s.dieOf G))[w.toNat]? = some x →
        exec (.mslot d w) s = .next ((s.setGroup (G.writeUnif d.toNat ([s.startsIn (s.dieOf G) x,
          x.length + 2 ^ 16 * x.major.toNat + 2 ^ 17 * x.doubled.toNat + 2 ^ 18 * x.rate.toNat, x.num % 65536,
          (s.slotOn (s.dieOf G)).elim 0 fun p => (p.2 - (s.now : Int)).toNat].map fun v => clean (BitVec.ofNat 32 v)))).advance c))
      ∧ (G.mig = none → s.offOf s.die = 0 → (∀ y, s.cal.last = some y → y.start ≤ s.now) → s.now < s.cal.next.start → s.now < s.cal.after.start →
        (∃ more, s.comingOn (s.dieOf G) = s.cal.next :: s.cal.after :: more) ∧ ∀ x, s.startsIn (s.dieOf G) x = x.start - s.now)
      ∧ (G.level ≠ .U → (G.level = .S → s.swapBarred G = false) →
        exec .ctxsw s = .next (({ s with cx := { s.cx with swap := true, mon := s.cx.swap && s.cx.mon, f := s.fOf G } } : State).advance c))
      ∧ (G.level = .S → s.swapBarred G = true → exec .ctxsw s = .next (s.trapUnit G c 0x30#8 0)))

/-- The divergence stack of a trapped quad (spec/17 R367; spec/04 R97): `dsrd` takes the bottom entry out of it and gives the depth, the spill
count and the entry; `dswr` puts a well-formed entry, without the lanes that have exited, below the bottom while some are spilled; a request
that fails changes nothing in the quad and says so; with 0x7C the results are dropped. -/
def Claim.TrappedStackResults : Prop :=
  ∀ (a : BitVec 7) (s : State) (c : Cur) (G H : Group) (q : Seq) (l : Nat), SysReady s c G [(a, 4)] .S → rd a = true →
    lowest (G.k0 c) = some l → cleanIn G l a 4 →
    let put := fun (t : State) (ws : List PWord) => if a = 124#7 then t.advance c else (t.setGroup (G.writeLanes (a + 1#7) (G.k0 c) fun _ => ws)).advance c
    let key := ((G.readWords l a.toNat 4).getD 0 pzero).val
    (s.trapped G key = none → exec (.dsrd a) s = .next (put s [pzero]) ∧ exec (.dswr a) s = .next (put s [pzero]))
    ∧ (s.trapped G key = some (H, q) → H.gctx ≠ G.gctx →
      let word := fun (r : Seq) (ok : Nat) => clean (BitVec.ofNat 32 (r.stack.length + 32 * ok + 65536 * r.spill))
      let e := pairVal ((G.readWords l a.toNat 4).drop 2)
      (∀ x rest, q.stack = rest ++ [x] → q.spill < 65535 →
        let r := { q with stack := rest, spill := q.spill + 1 }
        exec (.dsrd a) s = .next (put (s.setGroup (H.setSeq r)) [word r 1, clean (x.setWidth 32), clean (x.extractLsb' 32 32)]))
      ∧ (q.stack = [] ∨ 65535 ≤ q.spill → exec (.dsrd a) s = .next (put s [word q 0]))
      ∧ (q.stack.length < 16 → 0 < q.spill → entryOk e = true →
        let r := { q with stack := q.stack ++ [keepLanes (H.liveCols q.pos) e], spill := q.spill - 1 }
        exec (.dswr a) s = .next (put (s.setGroup (H.setSeq r)) [word r 1]))
      ∧ (16 ≤ q.stack.length ∨ q.spill = 0 ∨ entryOk e = false → exec (.dswr a) s = .next (put s [word q 0])))

/-- The recorder's instructions (spec/19 R397, R403, R404, R414): `evmark` adds a mark to its slice's part of the mark area of the core's ring, or
of the base die's while its group is migrated; `caps` EVENT adds an event of class 0x0B, with the die's counter in it, to the core's ring;
`caps` FREEZE signals a device-fatal fault and stops the part, or posts a fault record (kind 7, code 5) for the named slice, signals the
freeze, and halts it. An event added is the newest of its area, whose oldest go past its capacity; a frozen ring only counts it. -/
def Claim.RecorderResults : Prop :=
  ∀ (a : BitVec 7) (k : BitVec 6) (s : State) (c : Cur) (G : Group) (l : Nat), lowest (G.k0 c) = some l →
    (Ready s c G (ctlUnit false [(a, 1)]) → k ≠ 0#6 → G.level ≠ .M → (G.readWord l a.toNat).poison = false →
      let place := match G.mig with
        | some m => (0x100 + m.stack, 8 * s.fOf G + m.core.getD 0)
        | none => (s.coreNo, 8 * s.fOf G)
      exec (.evmark a k) s = .next ((s.recMark place.1 place.2 (s.markOf G k.toNat (G.val l a))).advance c))
    ∧ (SysReady s c G [(a, 4)] .M → cleanIn G l a 4 →
      let e : BitVec 128 := pairVal ((G.readWords l a.toNat 4).drop 2) ++ pairVal (G.readWords l a.toNat 4)
      (e.extractLsb' 122 6 = 0x0B#6 → e.extractLsb' 116 6 ≠ 0#6 →
        exec (.capsEvent a) s = .next ((s.recRaw s.coreNo (e.extractLsb' 98 30 ++ unitCycles s s.coreNo ++ e.extractLsb' 0 50)).advance c))
      ∧ (e.extractLsb' 122 6 ≠ 0x0B#6 ∨ e.extractLsb' 116 6 = 0#6 → exec (.capsEvent a) s = .next (s.trapUnit G c 0x01#8 0)))
    ∧ (SysReady s c G [(a, 1)] .M → (G.readWord l a.toNat).poison = false →
      ((G.val l a).toNat % 2 = 1 → (G.val l a).toNat < 128 →
        exec (.capsFreeze a) s = .next { (s.advance c).fatal s.coreNo (eventOf 0x0B 0x01 0 0 (unitCycles s s.coreNo) 0) true 0 with device := true })
      ∧ ((G.val l a).toNat % 2 = 0 → (G.val l a).toNat < 128 →
        let f := (G.val l a).toNat / 2
        exec (.capsFreeze a) s = .next ((((((s.advance c).postFq f 7 0xFFFF 5 0 0 0 s.now).fatal s.coreNo
          (eventOf 0x0B 0x01 0 f (unitCycles s s.coreNo) 0) false f).haltSlice f).dropChange f).toError f))
      ∧ (128 ≤ (G.val l a).toNat → exec (.capsFreeze a) s = .next (s.trapUnit G c 0x01#8 0)))
    ∧ ∀ (u part : Nat) (ev : BitVec 128),
      let old := ((s.ring u).marks.find? fun p => p.1 == part).elim [] (·.2)
      let added := fun t : State => (t.ring u).produced = (s.ring u).produced + 1 ∧ ∀ v, v ≠ u → t.ring v = s.ring v
      added (s.recRaw u ev) ∧ added (s.recMark u part ev)
      ∧ ((s.ring u).frozen = false →
        ((s.recRaw u ev).ring u).main = newest (mainCap u) ((s.ring u).main ++ [ev]) ∧ ((s.recRaw u ev).ring u).marks = (s.ring u).marks
        ∧ ((s.recMark u part ev).ring u).main = (s.ring u).main
        ∧ (((s.recMark u part ev).ring u).marks.find? fun p => p.1 == part)
          = some (part, newest (markCap u / max 1 (s.markParts u).length) (old ++ [ev])))
      ∧ ((s.ring u).frozen = true → ∀ t ∈ [s.recRaw u ev, s.recMark u part ev],
        (t.ring u).main = (s.ring u).main ∧ (t.ring u).marks = (s.ring u).marks ∧ (t.ring u).dropped = (s.ring u).dropped + 1)

/-- dsrd and dswr on a trapped stack; evmark and caps. -/
def Obligations.TrappedStackAndRecorder : Prop :=
  Claim.TrappedStackResults ∧ Claim.RecorderResults

/-- `reform` (spec/06 R150, R151): the issuing lanes, which go on at the next word or all at one target, leave their group with their registers
and file under their team, role, address, window and level, into an EMPTY bin where none has their key; a group that is not 64 wide, not at U, or with a stack that is not empty takes the illegal-instruction trap. A group's last lanes end
it, which is settled afterwards. -/
def Claim.ReformResults : Prop :=
  ∀ (a : BitVec 7) (p : BitVec 56) (s : State) (c : Cur) (G : Group) (T : Team),
    (TeamReady s c G T (ctlUnit false (if a = 124#7 then [] else [(a, 2)])) → G.width = 64 → G.level = .U → (∀ q ∈ G.seqs, q.stack = [] ∧ q.spill = 0 ∧ q.st ≠ .trap) → G.k0 c ≠ 0#64 → (G.seqs.map (·.id)).Nodup →
      (if a = 124#7 then p = c.pc + 4#56 else ∀ l, (G.k0 c).getLsbD l = true → G.target a.toNat l = .ok p) →
      (∀ i ∈ c.seqs, ∃ q, G.seq i = some q) → s.live.bins = List.replicate 32 none → s.binEmpty 0 = true → (∀ l m t u, G.thread l = some t → G.thread m = some u → t.col = u.col → l = m) →
      (∀ t ∈ G.threads, t.col < 64) → G.threads.length ≤ 64 → (∃ l, l < G.threads.length ∧ (G.k0 c).getLsbD l = false) →
      ∃ (u : State) (H : Group) (b : Bin), exec (.reform a) s = .next (u.settleGroup c.gctx) ∧ u.cur = none ∧ u.group c.gctx = some H
        ∧ (∀ l, H.thread l = (G.thread l).map fun t => if (G.k0 c).getLsbD l then { t with live := false, regs := [] } else t)
        ∧ u.live.bins = some b :: List.replicate 31 none ∧ b.hasKey T.slot G.role p G.winb .U = true
        ∧ (∀ x, x ∈ b.threads ↔ ∃ l t, (G.k0 c).getLsbD l = true ∧ G.thread l = some t ∧ x = ⟨t.redirect, G.unif, s.now, G.uid⟩))
    ∧ (InUnit s c G → (ctlUnit false []).prefixOk c = true → G.team = some T.slot → G.width ≠ 64 ∨ G.level ≠ .U ∨ (∃ q ∈ G.issuing c, q.stack ≠ []) →
      exec (.reform a) s = .next (s.trapUnit G c 0x01#8 0))

/-- A bin whose oldest thread has waited for the limit is drawn (spec/06 R151, R152): its threads, in ascending columns, become a group of
width 64 at the bin's address, and the bin is empty. -/
def Claim.AgedBin : Prop :=
  ∀ (s : State) (i : Nat) (b : Bin), (s.live.bins.getD i none = none → exec (.binDrawAge i) s = .next s) ∧ (s.live.bins.getD i none = some b →
    (s.now < b.oldest + s.reformAge.toNat → exec (.binDrawAge i) s = .next s)
    ∧ (b.oldest + s.reformAge.toNat ≤ s.now → ∃ t G, exec (.binDrawAge i) s = .next t ∧ t.live.bins = s.live.bins.set i none
      ∧ t.live.groups = s.live.groups ++ [G] ∧ G.gctx = s.freeGctx ∧ G.team = some b.team ∧ G.role = b.role ∧ G.level = b.level ∧ G.winb = b.winb
      ∧ G.width = 64 ∧ G.reformed = true ∧ G.masks = List.replicate 7 0#64 ∧ G.threads = (byColumn b.threads).map (·.thread.redirect)
      ∧ ∀ q ∈ G.seqs, q.pc = b.pc ∧ q.st = .run ∧ q.stack = [] ∧ q.ready = s.now))

/-- reform files threads; an aged bin is drawn. -/
def Obligations.ReformAndBins : Prop :=
  Claim.ReformResults ∧ Claim.AgedBin

/-- The oldest replay entry is checked (spec/17 R369, R370, R373): it leaves the queue and counts as covered; a mismatch counts as a detected
error of its team, is recorded, and kills a team that may not be rolled back; any other rolls back, or stops while operations of it are in
flight. With no entry nothing changes. -/
def Claim.ReplayChecks : Prop :=
  ∀ (s : State) (r : Replay) (rest : List Replay), (s.replays = [] → ∀ m, exec (.replayCheck m) s = .next s) ∧
   (s.replays = r :: rest → (∀ T ∈ s.live.teams, ∀ b ∈ T.bars, b.owed = none) →
    let t := ({ s with replays := rest } : State).onShare r.share coverChecked
    exec (.replayCheck false) s = .next t ∧ (r.team = none → exec (.replayCheck true) s = .next t)
    ∧ ∀ k T g, r.team = some k → t.team k = some T → t.grid T.grid = some g → T.stopping = none →
      let u := (t.onShare r.share fun x => { x with events := satAdd x.events 16 16 }).recEvent s.coreNo 0x04 0x02
        g.asid.toNat g.f (r.gctx % 2048 + k * 2 ^ 11 + 2 ^ 15)
      let may := T.eligible = true ∧ T.rollbacks < 2 ∧ (s.live.snaps.any fun p => p.team.slot == k) = true
      (¬ may → exec (.replayCheck true) s = .next (u.killTeam k 3 0 true).recheckBars)
      ∧ (may → s.opsInFlight T = false → exec (.replayCheck true) s = .next (u.rollbackTeam k 0).recheckBars)
      ∧ (may → s.opsInFlight T = true → exec (.replayCheck true) s = .next (u.setTeam { T with stopping := some 0 }).recheckBars))

/-- A rollback that waited for the team's engine operations and bank runs (spec/17 R372, R373; spec/14 R316): the team's barriers, channels and
scratch, and its groups' registers, masks, uniform registers and windows are those of its last team barrier, its pending flags are clear,
its fragments and frames are gone, and no quad stands in TRAP. -/
def Claim.RollbackResults : Prop :=
  ∀ (s : State) (k a : Nat) (T : Team) (p : TeamSnap), s.team k = some T → T.stopping = some a → T.slot = k →
    s.live.snaps.find? (fun p => p.team.slot == k) = some p →
    (s.opsInFlight T = true → exec (.teamRollback k) s = .next s)
    ∧ (s.opsInFlight T = false → (∀ G ∈ p.groups, G.team = some k ∧ G.waitingClaim = none) → s.live.claims = [] → ∃ t U, exec (.teamRollback k) s = .next t
      ∧ t.team k = some U ∧ U.bars = p.team.bars ∧ U.chans = p.team.chans ∧ U.fp.committed = p.team.fp.committed ∧ U.fp.pending = 0#5
      ∧ U.stopping = none ∧ U.rollbacks = T.rollbacks + 1 ∧ t.scr = memPuts (memClear s.scr T.scrBase (T.scrBase + T.scrSize)) p.scratch
      ∧ (t.teamGroups k).map (fun G => (G.gctx, G.threads, G.unif, G.masks, G.winb)) = p.groups.map (fun G => (G.gctx, G.threads, G.unif, G.masks, G.winb))
      ∧ (∀ G ∈ t.teamGroups k, ∀ q ∈ G.seqs, q.frag = false ∧ q.st ≠ .trap)
      ∧ (∀ f ∈ t.live.frames, f.team ≠ some k) ∧ ∀ f ∈ s.live.frames, f.team ≠ some k → f ∈ t.live.frames)

/-- Replay checks and rollbacks. -/
def Obligations.ReplayAndRollback : Prop :=
  Claim.ReplayChecks ∧ Claim.RollbackResults

/-- Claims are granted in queue order (spec/07 R171): when the head's need fits, every live thread of its group grows by registers that read
zero and its waiting sequencers go on; while it does not fit, nothing is granted. A team blocked for 65,536 cycles has its claim trapped
(R173). -/
def Claim.ClaimEvents : Prop :=
  ∀ (s : State) (x : Claim) (xs : List Claim) (G : Group), s.live.claims = x :: xs → s.group x.gctx = some G →
    (x.need ≤ s.live.free → (∀ y ∈ xs.head?, s.live.free - x.need < y.need) → ∃ t, exec .claimGrant s = .next t
      ∧ t.live.free = s.live.free - x.need ∧ t.live.claims = xs
      ∧ t.group x.gctx = some { G with threads := G.threads.map (Thread.grow · x.n), seqs := G.seqs.map (Seq.granted s.now) }
      ∧ ∀ g, g ≠ x.gctx → t.group g = s.group g)
    ∧ (s.live.free < x.need → exec .claimGrant s = .next s)
    ∧ ∀ k T q qs, G.team = some k → s.team k = some T → s.teamBlocked k = true → xs = [] → G.seqs.filter (·.wait.isClaim) = q :: qs →
      (65536 ≤ T.blocked →
        let u := s.setTeam { T with blocked := 0 }
        let m := laneMask G.threads.length fun l => (q :: qs).any fun r => G.activeIn r l
        exec (.claimDeadlock k) s = .next ((({ u with live := { u.live with claims := [] } } : State).takeTrap G (q :: qs) m false
          ⟨0x15#8, false, 0#8, 0, m, x.n, q.pc, 0xA0DF0000#32 + BitVec.ofNat 32 (x.n / 8)⟩).grantClaims))
      ∧ (T.blocked < 65536 → exec (.claimDeadlock k) s = .next s)

/-- A timer at its last cycle, and the handler group (spec/17 R364, R382; spec/06 R124): a timer that reaches zero leaves a timer trap pending;
the idle handler group of a share starts at `tr.vec`, at level S, with the handle and the cause of the oldest frame in its first uniform
registers, and serves that frame's team (R368). A frame that waits for a handle is posted under the lowest free one, once no bank holds its
write (R287). -/
def Claim.TimerAndHandlers : Prop :=
  ∀ (s : State),
    (∀ g G, s.group g = some G →
      (G.timer = 1 → exec (.timerTrap g) s = .next (s.setGroup { G with timer := 0, timerPend := true }))
      ∧ (G.timer ≠ 1 → exec (.timerTrap g) s = .next s))
    ∧ (∀ i x f h, i < 4 → FrameWaits s i x f → f.handle = some h → ∃ t G, exec (.handlerGroupStart i) s = .next t
      ∧ t.live.groups = s.live.groups ++ [G] ∧ G.gctx = 2044 + i ∧ G.share = i ∧ G.team = none ∧ G.level = .S ∧ G.width = 8
      ∧ G.threads.length = 8 ∧ (∀ th ∈ G.threads, th.live = true ∧ th.regs = List.replicate 64 pzero)
      ∧ G.seqs.map (·.pos) = [2 * i, 2 * i + 1] ∧ (∀ q ∈ G.seqs, q.st = .run ∧ q.pc = (s.slice x.f).trVec.setWidth 56)
      ∧ G.unif = clean (h.setWidth 32) :: clean (f.cause.setWidth 32) :: List.replicate 14 (clean 0#32)
      ∧ (t.live.frames = s.live.frames.map fun g => if g = f then { g with started := true } else g)
      ∧ t.share i = some x ∧ G.serving = f.team.bind fun k => (s.team k).map (·.uid))
    ∧ ∀ i x f n, s.share i = some x → (s.slice x.f).trCtl.getLsbD 12 = false → (s.slice x.f).halted = false →
      s.live.frames.find? (fun g => g.share == i && !g.monitor && g.handle.isNone) = some f →
      (n < 64 → n ∉ s.usedHandles i → (∀ j, j < n → j ∈ s.usedHandles i) →
        (s.frameHeld f n = [] →
          exec (.framePost i) s = .next (({ s with live := { s.live with frames := s.live.frames.filter (· ≠ f) } } : State).postFrame f n))
        ∧ (s.frameHeld f n ≠ [] → exec (.framePost i) s = .next (s.holdReqs (frameHolder i) (s.frameHeld f n))))
      ∧ ((∀ j, j < 64 → j ∈ s.usedHandles i) → exec (.framePost i) s = .next s)

/-- The one operation that waits on a channel is served when it can be (spec/07 R180): a `sendw` once a slot is free, a `recv` once an entry is
there; until then nothing changes. -/
def Claim.WaitsServed : Prop :=
  ∀ (s : State) (k j : Nat) (w : ChWait) (h : Chan), s.live.waits.filter (s.waitsOn · k j) = [w] → s.chan k j = some h →
    (∀ e, w.entry = some e →
      (h.count < h.depth → exec (.channelWaitServed k j) s = .next ((s.chPut k j e (s.waitSenders w)).chDone w))
      ∧ (h.depth ≤ h.count → exec (.channelWaitServed k j) s = .next s))
    ∧ (w.entry = none →
      (0 < h.count → exec (.channelWaitServed k j) s = .next ((s.chTake w.gctx w.d w.lanes k j).chDone w))
      ∧ (h.count = 0 → exec (.channelWaitServed k j) s = .next s))

/-- Queued claims, timers, handler groups, and waits on channels. -/
def Obligations.ClaimsTimersAndWaits : Prop :=
  Claim.ClaimEvents ∧ Claim.TimerAndHandlers ∧ Claim.WaitsServed

/-- The launch queue's registers (spec/06 R129, R134): entries are published, by a group or by the host, whose writes are
then visible to the dispatcher (spec/10 R226); RETRY reads the refused entry again;
SKIP consumes it, and SKIPT writes its trigger too. A queue that does not stand halted is not changed by RETRY or SKIP. -/
def Claim.LaunchQueueControl : Prop :=
  ∀ (f : Nat) (n : BitVec 16) (s : State),
    let q := s.queue f s.die
    let skipped := { q with halted := false, reason := 0#8, nextUnread := false, done := q.done + 1#16, qhead := if q.nextUnread then q.qhead else q.next &&& 0x00FFFFFFFFFFFFC0#64 }
    exec (.gdQpostWrite f n) s = .next (s.setQueue f s.die { q with qpost := n })
    ∧ (hostOpen s f true → exec (.hostQpostWrite f n) s = .next ((s.setQueue f s.die { q with qpost := n }).flow [.host] [.dispatcher s.die]))
    ∧ (¬ hostOpen s f true → exec (.hostQpostWrite f n) s = .next s)
    ∧ (q.halted = true →
      exec (.retryHead f) s = .next (s.setQueue f s.die { q with halted := false, reason := 0#8, nextUnread := false })
      ∧ exec (.skipHead f) s = .next (s.setQueue f s.die skipped)
      ∧ (q.nextUnread = false → exec (.skipHeadTrigger f) s = .next ((s.setQueue f s.die skipped).writeCounter f (q.qcfg.setWidth 12) q.trigt []))
      ∧ (q.nextUnread = true → exec (.skipHeadTrigger f) s = .next (s.setQueue f s.die skipped)))
    ∧ (q.halted = false → exec (.retryHead f) s = .next s ∧ exec (.skipHead f) s = .next s ∧ exec (.skipHeadTrigger f) s = .next s)

/-- A trigger's write (spec/06 R130, R138): a launch counter takes the value, what is visible
to the dispatcher and to the trigger's sources is released to it (spec/10 R239), the event is recorded and the counter's vector raised; a trigger that names no launch counter writes none. -/
def Claim.CounterWrites : Prop :=
  ∀ (s : State) (f : Nat) (asid : BitVec 12) (n : Nat) (v : BitVec 32) (e : BitVec 16) (src : List AgentId), f < s.slices.length → (s.slice f).lcnt.length = 16 →
    (n < 16 → let t := s.writeCounter f asid (0#16 ++ BitVec.ofNat 16 (0x100 + n) ++ v) src
      t = (((s.setSlice f { s.slice f with lcnt := (s.slice f).lcnt.set n v }).flow (.dispatcher s.die :: src) [.counter f n]).recEvent (48 * s.die) 0x02 0x05 asid.toNat f (n + v.toNat * 16)).raiseMsi f (4 + n)
      ∧ (t.slice f).lcnt = (s.slice f).lcnt.set n v)
    ∧ (e.toNat < 0x100 ∨ 0x10F < e.toNat → s.writeCounter f asid (0#16 ++ e ++ v) src = s)

/-- Registers written from outside the groups (spec/01 R6, R7; spec/22 R443, R445, R453; spec/06 R153): a 64-bit register of a slice through a
register write or through the function's window takes the value; one that sets a reserved bit changes only the error log; a function that is
locked or in ERROR drops the write, and so does one in RUN for a request without the T bit. A base address register of the physical function takes
an address of its window's size (spec/23 R462); an insecure link stream stops its registers (R464). -/
def Claim.OutsideWrites : Prop :=
  ∀ (f : Nat) (v : BitVec 64) (tee : Bool) (s : State),
    (∀ p ∈ sliceWrites (s.slice f) v, crReserved p.1 v.toNat = false → hostOpen s f tee →
      (s.die < 4 → exec (.registerWrite f (.control (BitVec.ofNat 12 p.1) tee) v) s = .next (s.setSlice f p.2))
      ∧ ∀ d, d < 4 → exec (.mmioWrite f (0x2000 * d + 8 * (p.1 - 0x400)) 8 v tee) s = .next (s.setSlice f p.2))
    ∧ (∀ p ∈ sliceWrites (s.slice f) v, crReserved p.1 v.toNat = true → hostOpen s f tee → s.die < 4 →
      exec (.registerWrite f (.control (BitVec.ofNat 12 p.1) tee) v) s = .next { s with pkg := { s.pkg with pfLog := s.pkg.pfLog + 1 } })
    ∧ (∀ off size, f ≠ 0 → (s.slice f).tdi = 1#2 ∨ (s.slice f).tdi = 3#2 ∨ (s.slice f).tdi = 2#2 ∧ tee = false ∧ off < 0x8000 →
      exec (.mmioWrite f off size v tee) s = .next s)
    ∧ (∀ n, ¬ hostOpen s f tee → s.die < 4 → exec (.registerWrite f (.control n tee) v) s = .next s)
    ∧ (∀ off size r, (s.slice 0).trust.ide = 2 → exec (.registerWrite f (.map off size) v) s = .next s ∧ exec (.registerWrite 0 (.config r) v) s = .next s)
    ∧ ((s.slice 0).trust.ide ≠ 2 →
      exec (.registerWrite 0 (.config .bar0) v) s = .next { s with pkg := { s.pkg with bar0 := BitVec.ofNat 64 (v.toNat / 2 ^ 16 * 2 ^ 16 + 4) } }
      ∧ exec (.registerWrite 0 (.config .bar2) v) s = .next { s with pkg := { s.pkg with bar2 := BitVec.ofNat 64 (v.toNat / 2 ^ 18 * 2 ^ 18 + 4) } })
    ∧ ∀ w : BitVec 32, (16 ≤ w.toNat → w.toNat < 65536 → s.live.bins = List.replicate 32 none → exec (.tsReformWrite w) s = .next { s with reformAge := w })
      ∧ (w.toNat < 16 ∨ 65536 ≤ w.toNat → exec (.tsReformWrite w) s = .next s)

/-- Launch-queue registers, launch counters, and writes from outside the groups. -/
def Obligations.LaunchQueueAndOutsideWrites : Prop :=
  Claim.LaunchQueueControl ∧ Claim.CounterWrites ∧ Claim.OutsideWrites

/-- The dispatcher reads an entry (spec/06 R133, R134): one that passes every check becomes the grid that the queue holds; one that fails a
check halts the queue with the first check's code; one that cannot be read halts it with 0x01. It waits while a bank holds a read of the entry (spec/12 R287). -/
def Claim.LaunchEntries : Prop :=
  ∀ (f : Nat) (s : State), let x := s.slice f
    let q := s.queue f s.die
    let v : View := ⟨f, q.qcfg.setWidth 12, false, false⟩
    let may := x.valid = true ∧ x.halted = false ∧ x.trCtl.getLsbD 12 = false ∧ q.walking = true ∧ q.grid = none
    let held := s.rangesHeld (dispatchHolder f) v .load (s.launchRanges v q.qhead.toNat)
    let s0 := s.unhold (dispatchHolder f)
    (¬ may → exec (.readLaunchEntry f) s = .next s)
    ∧ (may → held ≠ [] → exec (.readLaunchEntry f) s = .next (s.holdReqs (dispatchHolder f) held))
    ∧ (may → held = [] →
      (∀ s1, s0.dispatchRead v q.qhead.toNat 64 = (none, s1) → exec (.readLaunchEntry f) s = .next (s1.refuseLaunch f 0x01 none))
      ∧ (∀ s1 s2 s3 e d, s0.dispatchRead v q.qhead.toNat 64 = (some e, s1) →
        (s1.dispatchRead v (fld e 8 8) 256 = (none, s2) → exec (.readLaunchEntry f) s = .next (s2.refuseLaunch f 0x01 (some e)))
        ∧ (s1.dispatchRead v (fld e 8 8) 256 = (some d, s2) → s2.launchReads v d e = (none, s3) →
          exec (.readLaunchEntry f) s = .next (s3.refuseLaunch f 0x01 (some e))))
      ∧ ∀ s1 s2 s3 e d p, s0.dispatchRead v q.qhead.toNat 64 = (some e, s1) → s1.dispatchRead v (fld e 8 8) 256 = (some d, s2) →
        s2.launchReads v d e = (some p, s3) →
        (launchCheck x d e ≠ 0 → exec (.readLaunchEntry f) s = .next (s3.refuseLaunch f (launchCheck x d e) (some e)))
        ∧ (launchCheck x d e = 0 → s3.placeable f (rolesOf d e) (scratchOf d e) (fld e 0x22 1) = false →
          exec (.readLaunchEntry f) s = .next (s3.refuseLaunch f 0x0A (some e)))
        ∧ (launchCheck x d e = 0 → s3.placeable f (rolesOf d e) (scratchOf d e) (fld e 0x22 1) = true →
          (fld e 0 8 % 64 = 0 → fld e 0 8 < 2 ^ 56 → exec (.readLaunchEntry f) s = .next ((({ s3 with
            grids := s3.grids ++ [s3.gridFor f (q.qcfg.setWidth 12) q.qhead d e p]
            nextGrid := s3.nextGrid + 1 } : State).setQueue f s.die { q with grid := some s3.nextGrid })))
          ∧ (fld e 0 8 % 64 ≠ 0 ∨ 2 ^ 56 ≤ fld e 0 8 → exec (.readLaunchEntry f) s = .next (s3.refuseLaunch f 0x0B (some e)))))

/-- Placement (spec/06 R126, R127, R132, R133, R135): the grid whose dependences have once been reached has its next cluster placed whole, and
after the last one the entry is consumed; while the cluster does not fit, it waits. What the
dependences' writes released is visible to the grid (spec/10 R239). Where its slice has no other core on the die, the cluster's
teams take their places on this core in ascending rank. A team of one group starts with its registers zero, its barriers
fresh, its first uniform registers naming it, and its quads at the role's entry. -/
def Claim.PlacementResults : Prop :=
  (∀ (f : Nat) (s : State) (g : Grid) (sh : Nat), let q := s.queue f s.die
    let go := g.released = true ∨ g.deps.all (s.reachedDep f) = true
    q.grid.bind s.grid = some g →
    ((s.slice f).halted = true ∨ (s.slice f).trCtl.getLsbD 12 = true ∨ ¬ go → exec (.placement f) s = .next s)
    ∧ ((s.slice f).halted = false → (s.slice f).trCtl.getLsbD 12 = false → go →
      let s0 := if g.released = true then s else s.observeDeps g
      (s0.placeCluster f g = none → exec (.placement f) s = .next (s0.setGrid { g with released := true }))
      ∧ (∀ s1 rs, s0.placeCluster f g = some (s1, rs) →
        let g1 := { g with nextCluster := g.nextCluster + 1, released := true, remote := g.remote ++ rs }
        ((g.nextCluster + 1) * g.csize < g.teams → exec (.placement f) s = .next (s1.setGrid g1))
        ∧ (g.teams ≤ (g.nextCluster + 1) * g.csize → exec (.placement f) s = .next ((s1.setGrid { g1 with placing := false }).setQueue
            f s.die { q with grid := none, qhead := g.next, done := q.done + 1#16 }))))
    ∧ ((∀ k ∈ (s.slice f).coresOn s.die, k = s.coreNo) → s.shareOf f = some sh →
      s.placeCluster f g = (Room.placeMany g.roles g.scr g.csize s.room).map fun p => (s.placeTeams g sh (g.nextCluster * g.csize) p.2, [])))
  ∧ ∀ (s : State) (g : Grid) (sh n b : Nat) (p : Nat × Nat × Nat × Nat) (r : Role), s.freeSlot < 16 → (∀ T ∈ s.allTeams, T.slot ≠ s.freeSlot) → g.roles[p.1]? = some r →
    ∃ T G, (s.placeTeam g sh n (b, [p])).team s.freeSlot = some T ∧ (s.placeTeam g sh n (b, [p])).live.groups = s.live.groups ++ [G]
      ∧ T.grid = g.id ∧ T.linear = n ∧ T.scrBase = b ∧ T.scrSize = g.scr ∧ T.bars = List.replicate 16 ⟨0#16, 0, 0, none⟩ ∧ T.fp = FpCtx.zero ∧ T.eligible = true
      ∧ G.team = some s.freeSlot ∧ G.share = sh ∧ G.role = p.1 ∧ G.index = p.2.1 ∧ G.width = r.2.1 ∧ G.level = .U ∧ G.winb = 0 ∧ G.mig = none
      ∧ G.unif = [n % g.gx, n / g.gx % g.gy, n / g.gx / g.gy, p.2.1].map (fun i => clean (BitVec.ofNat 32 i)) ++ List.replicate 12 pzero
      ∧ G.masks = List.replicate 7 0#64 ∧ G.threads.length = r.2.1
      ∧ (∀ th ∈ G.threads, th.live = true ∧ th.regs = List.replicate r.2.2.2 pzero ∧ th.opf = List.replicate 8 pzero)
      ∧ ∀ q ∈ G.seqs, q.st = .run ∧ q.pc = (g.code + BitVec.ofNat 64 r.1).setWidth 56 ∧ q.stack = []

/-- Launch entries are checked and their grids placed. -/
def Obligations.LaunchAndPlacement : Prop :=
  Claim.LaunchEntries ∧ Claim.PlacementResults

/-- Swapping contexts (spec/17 R378, R379, R383; spec/14 R309): the monitor's request asks for a swap; a swap that was asked for, once every
replay entry is checked and when no scratch has to move, makes the shadow context live, with its quads ready now, and the live one the
shadow, whose groups leave the matrix engine's queue, and starts the shares' turns anew. -/
def Claim.SwapResults : Prop :=
  ∀ (s : State),
    exec .preemptionRequest s = .next { s with cx := { s.cx with swap := true, mon := true } }
    ∧ (s.cx.swap = false ∨ s.replays ≠ [] → exec .contextSwap s = .next s)
    ∧ (s.cx.swap = true → s.replays = [] → s.overScratch = false →
      let inc := s.shadow.getD s.emptyCtx
      let out : Ctx := { s.live with groups := s.live.groups.map Group.depart, left := s.now }
      inc.spilled = [] → (s.shadow.getD Ctx.empty).spilled = [] → ∃ t, exec .contextSwap s = .next t
        ∧ t.live.groups = inc.groups.map (Group.arrive s.now) ∧ t.live.teams = inc.teams ∧ t.live.frames = inc.frames ∧ t.live.free = inc.free
        ∧ t.shadow = (if out.bare then none else some out) ∧ t.scr = s.scr ∧ t.cx.swap = false ∧ t.lastWinner = 3 ∧ t.issues = [] ∧ t.cur = none
        ∧ t.mx = s.mx.without out ∧ t.dram = s.dram
        ∧ ∀ i x, s.share i = some x → t.share i = some { x with deficit := 0 })

/-- Saving and loading a context (spec/17 R379, R381; spec/14 R310): a save that was asked for waits while an operation of the context is in
flight or the matrix engine holds its planes; then it empties the shadow bank into an image with the context in it, or ends with the context
where it was when a page fails. A load that fails a check leaves the check's code in `cx.err`; one that passes fills the shadow bank, and the
image stays as it is in memory. Both wait while a bank holds an access of theirs (spec/12 R287). -/
def Claim.SaveAndLoad : Prop :=
  ∀ (s : State),
    (∀ x, s.shadow = some x → s.cx.spill = true → s.opsOf x = false → s.planesOf x = false →
      let held := s.rangesHeld contextHolder s.cxView .store [(s.cx.sva.toNat, s.imageSize)]
      (held ≠ [] → s.recall.shadow ≠ none → exec .contextSpill s = .next (s.holdReqs contextHolder held))
      ∧ (held = [] →
      ∃ t, exec .contextSpill s = .next t ∧ t.cx.spill = false
        ∧ ((t.shadow = none ∧ ∃ i, t.images = i :: s.images ∧ i.bytes.take 4 = natLe 4 0x58435444
            ∧ ((∀ G ∈ x.groups, G.mig = none) → { i.ctx with spilled := x.spilled } = x))
          ∨ (t.shadow ≠ none ∧ t.images = s.images ∧ t.cx.load = false))))
    ∧ (∀ x, s.shadow = some x → s.opsOf x = true ∨ s.planesOf x = true → exec .contextSpill s = .next s)
    ∧ (s.shadow = none → exec .contextSpill s = .next { s with cx := { s.cx with spill := false } })
    ∧ (s.shadow ≠ none → s.cx.spill = false → exec .contextSpill s = .next s)
    ∧ (s.cx.load = false ∨ s.cx.spill = true → exec .contextLoad s = .next s)
    ∧ (s.cx.load = true → s.cx.spill = false → s.shadow ≠ none → exec .contextLoad s = .next { s with cx := { s.cx with load := false } })
    ∧ (s.cx.load = true → s.cx.spill = false → s.shadow = none →
      s.rangesHeld contextHolder s.cxView .load s.imageRanges ≠ [] →
      exec .contextLoad s = .next (s.holdReqs contextHolder (s.rangesHeld contextHolder s.cxView .load s.imageRanges)))
    ∧ (s.cx.load = true → s.cx.spill = false → s.shadow = none → s.rangesHeld contextHolder s.cxView .load s.imageRanges = [] →
      ∀ r u, (s.unhold contextHolder).readImage = (r, u) →
      (∀ code, r = .error code → exec .contextLoad s = .next (({ u with cx := { u.cx with load := false, err := BitVec.ofNat 8 code } } : State).recEvent
        u.coreNo 0x02 0x06 (u.cx.ctl.toNat % 4096) u.cx.f code))
      ∧ (∀ bs, r = .ok bs → u.images.find? (fun j => j.bytes == bs) = none → exec .contextLoad s = .next (u.refuseLoad 2))
      ∧ (∀ bs i, r = .ok bs → u.images.find? (fun j => j.bytes == bs) = some i → u.loadCheck bs ≠ 0 → exec .contextLoad s = .next (u.refuseLoad (u.loadCheck bs)))
      ∧ ∀ bs i, r = .ok bs → u.images.find? (fun j => j.bytes == bs) = some i → u.loadCheck bs = 0 → u.quiet = true →
        ∃ t, exec .contextLoad s = .next t ∧ t.shadow.isSome = true ∧ t.cx.load = false ∧ t.cx.err = 0#8
          ∧ (t.images = u.images.map fun j => if j.bytes = i.bytes then { j with loaded := true } else j)
          ∧ ∀ y, t.shadow = some y → y.groups.map (fun G => (G.gctx, G.threads, G.seqs)) = i.ctx.groups.map (fun G => (G.gctx, G.threads, G.seqs)))

/-- Context swaps, saves and loads. -/
def Obligations.ContextSwaps : Prop :=
  Claim.SwapResults ∧ Claim.SaveAndLoad

/-- The matrix engine's operations (spec/14 R306, R308, R313, R315, R319, R321; spec/15 R333, R335 to R340; spec/17 R349): the operation at the
head starts with the status of its checks, 0x60 in a halted slice, and the rows that it is to do; while a completion record is held at the
engine none starts. It then does one row at a time, and stops where its slice halts. An uncorrectable plane error is kept with an operation and
gives an `mexec` 0x51, a residue mismatch goes to the jury columns, and an error in a slot poisons a word. The operation completes after its
rows, with its status, or with 0x60 in a halted slice, and the next one is at the head. -/
def Claim.MatrixEngineSteps : Prop :=
  ∀ (s : State) (o : MxOp) (os : List MxOp), s.mx.ops = o :: os →
    (o.started = false →
      exec .matrixOpComplete s = .next s
      ∧ ((∃ h ∈ s.held, h.eng = Cls.mx.engine 0) → ∀ u, exec (.matrixOpStart u) s = .next s)
      ∧ ((∀ h ∈ s.held, h.eng ≠ Cls.mx.engine 0) →
        ((s.slice o.f).halted = true ∨ (∀ f b, o.cmd ≠ .mexec f b) → ∀ n, exec (.matrixOpStart (.residue n)) s = exec (.matrixOpStart .clean) s)
        ∧ (∀ m n, (o.slot = none → exec (.matrixOpStart (.accEcc m n)) s = exec (.matrixOpStart .clean) s)
          ∧ ∀ k, o.slot = some k → exec (.matrixOpStart (.accEcc m n)) s
            = exec (.matrixOpStart .clean) (s.onTeam o.tuid fun U => U.setAcc k ((U.acc k).spoil (m % 256) (n % 128))))
        ∧ ∀ u e, planeError u e →
          ((s.slice o.f).halted = true → exec (.matrixOpStart u) s = .next (opStarted s o os 0x60 [] e))
          ∧ ((s.slice o.f).halted = false →
            (o.cmd = .mswap → exec (.matrixOpStart u) s
              = .next (opStarted { s with mx := { s.mx with active := s.mx.shadow, shadow := s.mx.active } } o os 0 [] e))
            ∧ (o.cmd = .macz → exec (.matrixOpStart u) s = .next (opStarted s o os 0 (List.range 256) e))
            ∧ (∀ off f b, s.teamUid o.tuid = none → o.cmd = .mlds off ∨ o.cmd = .mscl off ∨ o.cmd = .mexec f b →
              exec (.matrixOpStart u) s = .next (opStarted s o os 0x60 [] e))
            ∧ ∀ T, s.teamUid o.tuid = some T → let r := tileRec o.recBytes
              (∀ off, o.cmd = .mlds off → let st := mldsStatus o.recBad o.recBytes off T.scrSize
                (st ≠ 0 → exec (.matrixOpStart u) s = .next (opStarted s o os st [] e))
                ∧ (st = 0 → exec (.matrixOpStart u) s
                  = .next (opStarted { s with mx := { s.mx with shadow := ⟨planeFmt r.fmt r.scm, r.fmt, r.tile0, r.tile1, [], []⟩ } } o os 0 (List.range r.tile1) e)))
              ∧ (∀ off, o.cmd = .mscl off → let p := s.mx.shadow
                let st := if planeScaled p.code = false then 0x52 else if T.scrSize < off + p.cols * (p.depth / 32) then 0x22 else 0
                exec (.matrixOpStart u) s = .next (opStarted s o os st (if st = 0 then List.range p.cols else []) e))
              ∧ ∀ f b, o.cmd = .mexec f b → let st := s.mexecStatus o T f b
                (s.mx.plost = true → exec (.matrixOpStart u) s = .next (opStarted { s with mx := { s.mx with plost := false } } o os 0x50 [] e))
                ∧ (s.mx.plost = false → st ≠ 0 → exec (.matrixOpStart u) s = .next (opStarted s o os st [] e))
                ∧ (s.mx.plost = false → st = 0 →
                  exec (.matrixOpStart u) s = .next (opStarted s o os (if e.isSome then 0x51 else 0) (List.range (fld b 0x10 2)) e)
                  ∧ ∀ n, exec (.matrixOpStart (.residue n)) s = .next (opStarted (s.residue n) o os 0 (List.range (fld b 0x10 2)) none)))))
    ∧ (o.started = true →
      (∀ m ms, o.left = m :: ms →
        exec .matrixOpComplete s = .next s
        ∧ ∀ u, ((s.slice o.f).halted = true ∨ s.teamUid o.tuid = none → exec (.matrixOpStart u) s = .next (opOnward s o os [] 0#5))
          ∧ ((s.slice o.f).halted = false → ∀ T, s.teamUid o.tuid = some T →
            (∀ off, o.cmd = .mlds off → exec (.matrixOpStart u) s = .next (opOnward (s.rowMlds o T off m) o os ms 0#5))
            ∧ (∀ off, o.cmd = .mscl off → exec (.matrixOpStart u) s = .next (opOnward (s.rowMscl o T off m) o os ms 0#5))
            ∧ (∀ f b, o.cmd = .mexec f b → let x := s.rowMexec o T f b m
              exec (.matrixOpStart u) s = .next (opOnward x.2 o os ms x.1))
            ∧ ∀ n, o.cmd = .macz → o.slot = some n → exec (.matrixOpStart u) s = .next (opOnward (s.onTeam o.tuid fun U =>
              U.setAcc n { U.acc n with rows := (U.acc n).rows.filter fun p => p.1 != m }) o os ms 0#5)))
      ∧ (o.left = [] → (∀ u, exec (.matrixOpStart u) s = .next s)
        ∧ ∃ t, exec .matrixOpComplete s = .next t ∧ t.mx.ops = os ∧ Counted s t .mx o.gctx o.uid o.seq (if (s.slice o.f).halted then 0x60 else o.status.toNat)))

/-- The matrix engine's owner changes (spec/14 R309, R310, R311): a lease that is over goes to the live head of the queue, a free engine is
granted; a swap that is complete stores the outgoing group's planes and leaves the engine free, or owned with the planes of the save area if
no byte of it has changed, else with zero planes and PLOST, once no bank holds an access of the scan (spec/12 R287); CLEAR leaves zero planes. A step whose state is another does nothing. -/
def Claim.MatrixHandoff : Prop :=
  ∀ (s : State), let s0 := s.unhold matrixHolder
    let freely := fun x y => s.busyBanks = false ∨ s.reqsHeld matrixHolder (s.scanReqs x y) = false
    (∀ x y, s.mx.st = .swap x y → ¬ freely x y → exec .scanComplete s = .next (s.holdReqs matrixHolder (s.scanReqs x y))) ∧
    (∀ x, s.mx.st = .owned x → s.mx.ops = [] → s.mx.leaving = false →
      (s.leaseOver x = true ∨ s.liveUid x = false → ∃ t, exec .leaseHandoff s = .next t ∧ t.mx.st = .swap (some x) (s.liveHead (some x))
        ∧ t.mx.fifo = s.mx.fifo.filter (fun u => some u ≠ s.liveHead (some x)) ∧ t.mx.active = s.mx.active ∧ t.mx.shadow = s.mx.shadow ∧ t.live = s.live)
      ∧ (s.leaseOver x = false → s.liveUid x = true → exec .leaseHandoff s = .next s))
    ∧ (∀ x, s.mx.st = .owned x → s.mx.ops ≠ [] ∨ s.mx.leaving = true → exec .leaseHandoff s = .next s)
    ∧ (s.mx.st = .clear ∨ (∃ x y, s.mx.st = .swap x y) ∨ s.mx.st = .free ∧ s.liveHead none = none → exec .leaseHandoff s = .next s)
    ∧ (∀ y, s.mx.st = .free → s.liveHead none = some y →
      exec .leaseHandoff s = .next { s with mx := { s.mx with st := .swap none (some y), leaving := false, fifo := s.mx.fifo.filter (· ≠ y) } })
    ∧ (s.mx.st = .swap none none → freely none none →
      exec .scanComplete s = .next { s0 with mx := { s.mx with st := .free, count := 0, leaving := false, plost := false, active := Plane.empty, shadow := Plane.empty } })
    ∧ (∀ x a, s.mx.st = .swap (some x) none → freely (some x) none → s.mx.areas.find? (fun a => a.uid == x) = some a → ∃ t bs, exec .scanComplete s = .next t ∧ t.mx.st = .free
      ∧ t.mx.active = Plane.empty ∧ t.mx.shadow = Plane.empty
      ∧ t.mx.areas.find? (fun a => a.uid == x) = some { a with image := some (s.mx.active, s.mx.shadow), bytes := bs, lost := s.mx.plost })
    ∧ (∀ x y, s.mx.st = .swap (some x) (some y) → freely (some x) (some y) → exec .scanComplete s = .next ((s0.scanOut x).scanIn y))
    ∧ (∀ y a, s.mx.st = .swap none (some y) → freely none (some y) → s.mx.leaving = false → s.mx.areas.find? (fun a => a.uid == y) = some a → a.image = none →
      ∃ t, exec .scanComplete s = .next t ∧ t.mx.st = .owned y ∧ t.mx.count = 0 ∧ t.mx.active = Plane.empty ∧ t.mx.shadow = Plane.empty
        ∧ t.mx.plost = false)
    ∧ (∀ y a p, s.mx.st = .swap none (some y) → freely none (some y) → s.mx.leaving = false → s.mx.areas.find? (fun a => a.uid == y) = some a → a.image = some p →
      (∀ i, i < a.locs.length → (a.locs.getD i (65, 0)).1 ≠ 65) → ∃ t, exec .scanComplete s = .next t ∧ t.mx.st = .owned y ∧ t.mx.count = 0
      ∧ ((∀ i, i < a.locs.length → s.areaBytes (a.locs.getD i (65, 0)) = some ((a.bytes.drop (4096 * i)).take 4096)) →
        t.mx.active = p.1 ∧ t.mx.shadow = p.2 ∧ t.mx.plost = a.lost)
      ∧ ((∃ i, i < a.locs.length ∧ s.areaBytes (a.locs.getD i (65, 0)) ≠ some ((a.bytes.drop (4096 * i)).take 4096)) →
        t.mx.active = Plane.empty ∧ t.mx.shadow = Plane.empty ∧ t.mx.plost = true))
    ∧ (s.mx.st = .clear → ∃ t, exec .clearComplete s = .next t ∧ t.mx.active = Plane.empty ∧ t.mx.shadow = Plane.empty ∧ t.mx.plost = false
      ∧ (∀ y, s.liveHead none = some y → t.mx.st = .swap none (some y)) ∧ (s.liveHead none = none → t.mx.st = .free))
    ∧ (s.mx.st ≠ .clear → exec .clearComplete s = .next s) ∧ ((∀ x y, s.mx.st ≠ .swap x y) → exec .scanComplete s = .next s)

/-- Tile copies and held records (spec/14 R317, R318, R320, R321; spec/12 R287; spec/17 R349): the oldest waiting copy starts, unless eight are
running or a completion record is held at the unit; one whose checks fail keeps the first status; one whose table walks a bank holds waits; else
its rows are listed with the pages found. A running copy moves a row at a time, in an order that nothing promises, or first some units of one
into scratch; it waits for a row that a bank holds and stops where its slice halts; poison in a row leaves 0x40. Its completion frees it and
counts its number. A held record is posted once its partition has room, and an engine that was in HOLD for it goes on. -/
def Claim.TileCopySteps : Prop :=
  ∀ (s : State) (o : TcOp),
    (∀ op, s.tcs.find? (fun x => x.id == op) = none → exec (.tileCopyStart op) s = .next s)
    ∧ (s.tcs.find? (fun x => x.id == o.id) = some o → o.started = false →
      ((∃ x, s.tcs.find? (fun x => !x.started) = some x ∧ x.id ≠ o.id) ∨ 8 ≤ (s.tcs.filter (·.started)).length ∨ (∃ h ∈ s.held, h.eng = Cls.tc.engine 0) →
        exec (.tileCopyStart o.id) s = .next s)
      ∧ (s.tcs.find? (fun x => !x.started) = some o → (s.tcs.filter (·.started)).length < 8 → (∀ h ∈ s.held, h.eng ≠ Cls.tc.engine 0) →
        (s.teamUid o.tuid = none ∨ (s.slice o.f).halted = true → exec (.tileCopyStart o.id) s = .next (copyEnded s o 0x60))
        ∧ (∀ T, s.teamUid o.tuid = some T → (s.slice o.f).halted = false →
          let r := tileRec o.recBytes
          let pages := (o.ranges_.flatMap fun p => pageNums p.1 p.2).dedup
          let walks := s.walksHeld o.holder o.view pages
          (o.check T.scrSize ≠ 0 → exec (.tileCopyStart o.id) s = .next (copyEnded s o (o.check T.scrSize)))
          ∧ (o.check T.scrSize = 0 → walks ≠ [] → exec (.tileCopyStart o.id) s = .next (s.holdReqs o.holder walks))
          ∧ (∀ ps e s0, o.check T.scrSize = 0 → walks = [] → s.findPages o.view (if o.back then .store else .load) pages = (ps, e, s0) →
            (∀ x, e = some x → exec (.tileCopyStart o.id) s = .next (copyEnded (s0.unhold o.holder) o x.status))
            ∧ (e = none → exec (.tileCopyStart o.id) s = .next ((s0.unhold o.holder).setTc { o with
                started := true, pages := ps, left := List.range (r.tile1 + if o.back then 0 else r.scaleRows) }))))))
    ∧ (s.tcs.find? (fun x => x.id == o.id) = some o → o.started = true → (o.left = [] → exec (.tileCopyStart o.id) s = .next s)
      ∧ (o.left ≠ [] → (s.teamUid o.tuid = none ∨ (s.slice o.f).halted = true → exec (.tileCopyStart o.id) s = .next (s.setTc { o with left := [] }))
        ∧ ∀ T, s.teamUid o.tuid = some T → (s.slice o.f).halted = false → s.portHolds o.f o.pages = false → ∃ m ∈ o.left,
          let r := tileRec o.recBytes
          let reqs := Pages.reqs o.pages o.back (o.rowRange r m).1 (o.rowRange r m).2
          let u := (s.choose).2.unhold o.holder
          let b := T.scrBase + o.so
          (s.reqsHeld o.holder reqs = true → exec (.tileCopyStart o.id) s = .next (s.holdReqs o.holder reqs))
          ∧ (s.reqsHeld o.holder reqs = false → o.back = true →
            exec (.tileCopyStart o.id) s = .next ((u.pushRow o r b m).setTc { o with left := o.left.filter (· ≠ m) }))
          ∧ (s.reqsHeld o.holder reqs = false → o.back = false → ∃ on left half,
            (left = o.left.filter (· ≠ m) ∧ half = o.half ∧ (∀ y, on y = !((o.half.find? fun p => p.1 == m).elim false fun p => bitAt p.2 (y % 512)))
              ∨ left = o.left ∧ (∀ p ∈ o.half, p.1 ≠ m) ∧ ∃ k, half = (m, k) :: o.half ∧ ∀ y, on y = bitAt k (y % 512))
            ∧ let x := if m < r.tile1 then u.pullRow o r b m on else u.pullScale o r (b + r.tile1 * r.pitch) (m - r.tile1) on
            exec (.tileCopyStart o.id) s = .next (x.2.setTc { o with left := left, half := half, status := if x.1 then 0x40#8 else o.status }))))
    ∧ (s.tcs.find? (fun x => x.id == o.id && x.started && x.left.isEmpty) = some o → ∃ t, exec (.tileCopyComplete o.id) s = .next t
      ∧ t.tcs = s.tcs.filter (fun x => x.id ≠ o.id) ∧ Counted s t .tc o.gctx o.uid o.seq (if (s.slice o.f).halted then 0x60 else o.status.toNat))
    ∧ (s.tcs.find? (fun x => x.id == o.id && x.started && x.left.isEmpty) = none → exec (.tileCopyComplete o.id) s = .next s)
    ∧ ∀ n h, s.held[n]? = some h → (∀ i g, i < n → s.held[i]? = some g → g.eng ≠ h.eng) →
      let t := ({ s with held := s.held.eraseIdx n } : State).setPart h.core h.f (s.part h.core h.f ++ [h.item])
      let hold (e : ChainEng) : Bool := e.id == h.eng && e.f == h.f && e.st == 4
      ((s.part h.core h.f).length < s.partCap h.core →
        (s.engs.findIdx? hold = none → exec (.completionRecordPost n) s = .next t)
        ∧ (∀ i e, s.engs.findIdx? hold = some i → s.eng i = some e → exec (.completionRecordPost n) s = .next (t.setEng i e.onward)))
      ∧ (s.partCap h.core ≤ (s.part h.core h.f).length → exec (.completionRecordPost n) s = .next s)

/-- Matrix operations, matrix handoffs and tile copies run. -/
def Obligations.EngineSteps : Prop :=
  Claim.MatrixEngineSteps ∧ Claim.MatrixHandoff ∧ Claim.TileCopySteps

/-- Runs of the bank units (spec/12 R281, R283, R284, R287): a run is checked once, when no bank holds a read of its checks, and one that passes has an instance for each page of its MASK
queued; the instance at the head of its bank starts when its bound fits before the next slot, and a run whose bound no longer fits at all ends
with 0x07; an access to an open row costs a bank cycle, one to a closed row is held; a run whose instances have all ended completes outside a
slot, when none of its writes is held at a bank any more. -/
def Obligations.BankRunSteps : Prop :=
  ∀ (s : State) (r : Run),
    (s.run r.id = some r →
      (r.checked = true → exec (.runPrecheck r.id) s = .next s)
      ∧ (r.checked = false → s.precheckHeld r ≠ [] → exec (.runPrecheck r.id) s = .next (s.holdReqs r.holder (s.precheckHeld r)))
      ∧ (r.checked = false → s.precheckHeld r = [] → ∃ t q is, exec (.runPrecheck r.id) s = .next t ∧ t.run r.id = some q ∧ q.checked = true ∧ t.bank.insts = (s.unhold r.holder).bank.insts ++ is
        ∧ (∀ i ∈ is, i.run = r.id ∧ i.started = false ∧ i.held = [])
        ∧ (r.code = 0#8 → q.code ≠ 0#8 → is = [])
        ∧ (r.code = 0#8 → q.code = 0#8 → is.map (·.k) = (List.range 64).filter fun k => bitAt (fld q.block 0x10 8) k))
      ∧ (∀ e u, r.checked = false → s.precheckHeld r = [] → r.bytes (s.unhold r.holder) r.va 128 = (.error e, u) → exec (.runPrecheck r.id) s = .next (u.failRun r (fltCode e).2))
      ∧ (r.checked = true → (∀ i ∈ s.bank.insts, i.run = r.id → i.ended = true) → s.cal.inSlot = none → s.runHeld r.id = false →
        let u := if r.written then s else (s.writeSaves r).writeStatus r
        (u.runHeld r.id = true → exec (.runComplete r.id) s = .next (u.setRun { r with written := true }))
        ∧ (u.runHeld r.id = false → ∃ t, exec (.runComplete r.id) s = .next t ∧ t.run r.id = none
          ∧ Counted s t .bk r.gctx r.uid r.seq (r.status.toNat % 256)))
      ∧ (r.checked = false ∨ s.cal.inSlot ≠ none ∨ (∃ i ∈ s.bank.insts, i.run = r.id ∧ i.ended = false) ∨ s.runHeld r.id = true →
        exec (.runComplete r.id) s = .next s))
    ∧ ∀ i, s.bankHead i.stack i.bank = some i → s.run i.run = some r →
      (i.started = false → s.window < r.bound → ∃ t, exec (.bankAdmission i.stack i.bank) s = .next t
        ∧ (∀ j ∈ t.bank.insts, j.started = true ∨ j.run ≠ r.id) ∧ (∀ j ∈ s.bank.insts, j.started = true ∨ j.run ≠ r.id → j ∈ t.bank.insts)
        ∧ (t.run i.run).map (·.code) = some (if r.code = 0#8 then 0x07#8 else r.code))
      ∧ (i.started = false → r.bound ≤ s.window →
        (s.fits i.die r.bound = true → s.bankMoving i = false → exec (.bankAdmission i.stack i.bank) s = .next (s.setInst (i.begin s.now)))
        ∧ (s.fits i.die r.bound = false ∨ s.bankMoving i = true → exec (.bankAdmission i.stack i.bank) s = .next s))
      ∧ (i.started = true → exec (.bankAdmission i.stack i.bank) s = .next s)
      ∧ (i.started = false → ∀ row w, exec (.bankAccessServed i.stack i.bank row w) s = .next s)
      ∧ (∀ row : Nat, i.started = true → i.openAt (row : Int) = none →
        exec (.bankAccessServed i.stack i.bank row false) s = .next (s.bankHold outsideHolder i.f (i.rowAddr row) false none)
        ∧ ∃ a w, i.rowAddr row ≤ a ∧ a < i.rowAddr row + 2048
          ∧ exec (.bankAccessServed i.stack i.bank row true) s = .next ((s.choose).2.bankHold outsideHolder i.f a true (some w)))
      ∧ ∀ (row n : Nat), i.openAt (row : Int) = some n → i.started = true → i.rowAddr row + 2048 ≤ 2 ^ 40 → s.memOk = true →
        (∀ c, c < 64 → s.instAt i.f (i.rowAddr row + 32 * c) = some i ∧ i.rowIn (s.slice i.f) (i.rowAddr row + 32 * c) = (row : Int)) →
        exec (.bankAccessServed i.stack i.bank row false) s = .next (s.setInst (i.spend r 1))
        ∧ ∃ t, exec (.bankAccessServed i.stack i.bank row true) s = .next t ∧ t.bank.insts = (s.setInst ((i.spend r 1).markWritten n)).bank.insts
          ∧ ∀ x, x < dramKey i.f (i.rowAddr row) ∨ dramKey i.f (i.rowAddr row) + 2048 ≤ x → memGet t.dram x = memGet s.dram x

/-- Copy and migration engines (spec/14 R322, R323, R326; spec/15 R345): an engine in FETCH takes the entry that it reads; an entry that
cannot be read, or breaks a rule, or names overlapping ranges, halts it with a code; a NOP completes; another entry runs, or waits in DRAIN past its die's drain point. What was released to the chain is visible
to the command (spec/10 R226); a fetch waits while a bank holds a read of it. -/
def Claim.ChainFetches : Prop :=
  ∀ (i : Nat) (s : State) (e : ChainEng), s.eng i = some e → ∀ x k, chainStep i x k →
    let held := s.rangesHeld e.holder e.view .load (s.fetchRanges e)
    let s0 := s.unhold e.holder
    (e.st ≠ 1 ∨ (s.slice e.f).halted = true → exec x s = .next s)
    ∧ (e.st = 1 → (s.slice e.f).halted = false → held ≠ [] → exec x s = .next (s.holdReqs e.holder held))
    ∧ (e.st = 1 → (s.slice e.f).halted = false → held = [] → ∀ a n s1, s0.fetchEntry e = (a, .error n, s1) → exec x s = .next (s1.haltEng i (e.unread a) n))
    ∧ (e.st = 1 → (s.slice e.f).halted = false → held = [] → ∀ a b s1, s0.fetchEntry e = (a, .ok b, s1) →
      let va := a.getD 0
      let e1 := { e with cur := BitVec.ofNat 64 va, head := BitVec.ofNat 64 va, entry := b, off := 0, status := 0#8, st := if s1.drainedOn e.base then 6 else 2 }
      (entryValid s1 e b = false → exec x s = .next (s1.haltEng i e1 0x60))
      ∧ (entryValid s1 e b = true → fld b 8 1 ≠ k → exec x s = .next s)
      ∧ (entryValid s1 e b = true → fld b 8 1 = k →
        (k = 0 → exec x s = .next ((s1.startChain e1).postEntry i e1 0))
        ∧ ((k = 1 ∨ k = 2) ∧ (geometry b).overlap = true ∨ k = 11 ∧ blocksOverlap b = true → exec x s = .next (s1.haltEng i e1 0x61))
        ∧ (k = 3 ∨ k = 8 ∨ k = 9 ∨ k = 10 ∨ (k = 1 ∨ k = 2) ∧ (geometry b).overlap = false ∨ k = 11 ∧ blocksOverlap b = false →
          exec x s = .next ((s1.startChain e1).setEng i e1))))

/-- A chunk, RETRY and SKIP (spec/14 R322 to R324; spec/20 R422): a FILL writes its pattern up to the end of a page, and completes with its last
byte; it halts on a page that it may not write; no chunk starts in a slot of the engine's die or where its bound passes the drain point; an
engine in POST, whose completion word waited, posts again; RETRY fetches the halted entry again, SKIP completes it with 0x62. -/
def Claim.ChainChunks : Prop :=
  ∀ (i : Nat) (s : State) (e : ChainEng), s.eng i = some e →
    let soon := ∃ x, (s.comingOn e.base).head? = some x ∧ s.startsIn e.base x < e.bound + 235
    (e.st ≠ 2 ∧ e.st ≠ 3 ∨ (s.slice e.f).halted = true ∨ e.st = 2 ∧ (s.drainedOn e.base = true ∨ soon) → exec (.engineChunk i) s = .next s)
    ∧ (e.st = 3 → (s.slice e.f).halted = false → exec (.engineChunk i) s = .next (s.postEntry i e e.status.toNat))
    ∧ (e.st = 2 → (s.slice e.f).halted = false → s.drainedOn e.base = false → ¬ soon → e.id < 0x200 → fld e.entry 8 1 = 3 →
      let n := fld e.entry 0x0C 4 + 1
      let dst := (fld e.entry 0x18 8 + e.off / n * fld e.entry 0x30 8) % 2 ^ 64 + e.off % n
      let src := (fld e.entry 0x10 8 + e.off / n * fld e.entry 0x28 8) % 2 ^ 64 + e.off % n
      let len := min (n - e.off % n) (4096 - dst % 4096)
      (∀ ps f s1, s.findPages e.view .store [dst / 4096] = (ps, some f, s1) → exec (.engineChunk i) s = .next (s1.haltEng i e f.status))
      ∧ ∀ ps s1, s.findPages e.view .store [dst / 4096] = (ps, none, s1) →
        ((∃ p ∈ ps, s1.revokedLoc p.2 = true) → exec (.engineChunk i) s = .next (s1.postEntry i e 0x80))
        ∧ ((∀ p ∈ ps, s1.revokedLoc p.2 = false) → s.portHolds e.f ps = false →
          s.walksHeld e.holder e.view [src / 4096, dst / 4096] = [] → s1.reqsHeld e.holder (ps.reqs true dst len) = false →
          let u := (s1.writeCuts e.agent e.view.asid ps dst ((List.range len).map fun j =>
            BitVec.ofNat 8 (fld e.entry 0x10 8 / 2 ^ (8 * ((e.off % n + j) % 4))))).unhold e.holder
          let d := { e with off := e.off + len }
          (e.off + len = n → exec (.engineChunk i) s = .next (u.postEntry i d d.status.toNat))
          ∧ (e.off + len ≠ n → exec (.engineChunk i) s = .next (u.setEng i d))))
    ∧ (e.st = 7 →
      exec (.engineRetry i) s = .next (s.setEng i { e with st := 1, err := 0#8, off := if e.entry = [] then e.off else 0 })
      ∧ exec (.engineSkip i) s = .next (s.postEntry i { e with err := 0#8 } 0x62))
    ∧ (e.st ≠ 7 → exec (.engineRetry i) s = .next s ∧ exec (.engineSkip i) s = .next s)

/-- Copy and migration engines fetch, run, halt, retry and skip. -/
def Obligations.CopyEngineSteps : Prop :=
  Claim.ChainFetches ∧ Claim.ChainChunks

/-- Beacons and drain points (spec/20 R419, R422): the beacon of the next slot passes once it is due, and the countdowns of the dies that
receive it lie within 38 cycles of each other, while that of another die moves away by at most 4; a die that misses it counts it, and asks
for replacement after the fourth in a row; at the drain point of a die its copy and migration engines pause. -/
def Claim.BeaconsAndDrains : Prop :=
  ∀ (s : State),
    (s.beaconDue = true → ∃ t, exec .beacon s = .next t ∧ t.cal.sent = true ∧ t.cal.missed = s.cal.missed.map beaconPassed
      ∧ (∀ d, d < 18 → (d ∈ t.cal.heard ↔ d ∈ s.cal.heard ∨ (s.cal.missedBy d).2.2 = false))
      ∧ (∀ d e, d < 18 → e < 18 → (s.cal.missedBy d).2.2 = false → (s.cal.missedBy e).2.2 = false → (t.offOf d - t.offOf e).natAbs ≤ 38)
      ∧ (∀ d, d < 18 → d ≠ s.die → (s.cal.missedBy d).2.2 = true → (t.offOf d - s.offOf d).natAbs ≤ 4)
      ∧ { t with free := s.free, cal := { t.cal with sent := s.cal.sent, heard := s.cal.heard, offs := s.cal.offs, missed := s.cal.missed } } = s)
    ∧ (∀ d, 18 ≤ d ∨ (s.cal.missedBy d).2.2 = true → exec (.beaconMissed d) s = .next s)
    ∧ (s.beaconDue = false → exec .beacon s = .next s ∧ ∀ d, exec (.beaconMissed d) s = .next s)
    ∧ (∀ d total row, d < 18 → s.beaconDue = true → s.cal.missedBy d = (total, row, false) →
      let u := ({ s with cal := s.cal.setMissed d (total + 1) (row + 1) true } : State).recEvent (dieUnit d) 0x3F 0x01 0 0 0
      (row ≠ 3 → exec (.beaconMissed d) s = .next u) ∧ (row = 3 → exec (.beaconMissed d) s = .next (u.replacement (dieUnit d) 3)))
    ∧ (s.cal.drained = false → s.cal.inSlot = none → s.cal.next.start ≤ s.now + 235 → exec (.drainPoint s.die) s = .next { s with
      cal := { s.cal with drained := true }
      engs := drainedEngs s s.die })
    ∧ (s.cal.drained = true ∨ s.cal.inSlot.isSome = true ∨ s.now + 235 < s.cal.next.start → exec (.drainPoint s.die) s = .next s)
    ∧ ∀ d, d ≠ s.die → (s.drainedOn d = true → exec (.drainPoint d) s = .next { s with engs := drainedEngs s d })
      ∧ (s.drainedOn d = false → exec (.drainPoint d) s = .next s)

/-- Slots (spec/20 R416, R417, R423, R425): a slot starts at its fixed cycle and not before, with the next one fixed behind it; it ends after
its length, when its exit is recorded and what waited goes on. At its start no instance whose base die is in a slot goes on running (log entry 46: what has
ended keeps its bank while accesses held at it are still to be served). -/
def Claim.SlotResults : Prop :=
  ∀ (s : State), let x := s.cal.next
    (s.cal.inSlot = none → x.start ≤ s.now → ∃ t r, exec .slotStart s = .next t
      ∧ t.cal.inSlot = some (x, x.start + (if x.major then 45120 else 1645)) ∧ t.cal.drained = true ∧ t.cal.sent = false
      ∧ t.cal.next = s.cal.after ∧ t.cal.after.num = (s.cal.after.num + 1) % 2 ^ 47
      ∧ t.cal.after.major = decide ((s.cal.after.num + 1) % 2 ^ 47 % 512 = 0) ∧ t.cal.after.doubled = s.cal.doubling ∧ t.cal.after.rate = r
      ∧ t.cal.after.start = s.cal.after.start + (if s.cal.after.major then 45120 else 1645) + (if s.cal.doubling then 13395 else 28435)
      ∧ (r = true → t.cal.after.major = true) ∧ ((∀ i ∈ s.bank.insts, (s.run i.run).isSome = true) →
        ∀ i ∈ t.bank.insts, i.started = true → s.fixSlot.inSlotOn i.die = true → i.ended = true))
    ∧ (s.cal.inSlot.isSome = true ∨ s.now < x.start → exec .slotStart s = .next s)
    ∧ (∀ y e, s.cal.inSlot = some (y, e) →
      (e ≤ s.now → ∃ t, exec .slotEnd s = .next t ∧ t.cal = { s.cal with inSlot := none, drained := false } ∧ t.live = s.live
        ∧ t.engs = s.engs.map (fun e => if e.base = s.die ∧ e.st = 6 then { e with st := 2 } else e) ∧ slotMarked s t 0x02 y)
      ∧ (s.now < e → exec .slotEnd s = .next s))
    ∧ (s.cal.inSlot = none → exec .slotEnd s = .next s)

/-- Calendar slots, beacons and drain points. -/
def Obligations.SlotsAndBeacons : Prop :=
  Claim.BeaconsAndDrains ∧ Claim.SlotResults

/-- The freeze controller (spec/19 R404 to R406, R413): a device-fatal signal stops the part, a slice-fatal one posts a fault record and halts
its slice; the rings are copied, unless the retention SRAM holds a capsule that is not in flash yet; the capsule is built from the copy, and
goes to flash, of which the newest eight stay; a device-fatal fault met meanwhile is given a capsule of its own. -/
def Claim.FreezeResults : Prop :=
  ∀ (s : State) (n f : Nat) (code : BitVec 8), let c := s.fc
    (n ∈ allUnits →
      (∃ t, exec (.fatalSignal n true f code) s = .next t ∧ t.device = true ∧ t.live = s.live ∧ t.dram = s.dram)
      ∧ (f < 64 → (s.slice f).valid = true → exec (.fatalSignal n false f code) s = .next ((((((s.choose).2.postFq f 7 0xFFFF code.toNat 0 0 0 s.now).fatal n
        (eventOf 0x04 0x04 (if f = 0 then 0 else (s.choose).1) f (unitCycles s n) code.toNat) false f).haltSlice f).dropChange f).toError f))
      ∧ (64 ≤ f ∨ (s.slice f).valid = false → exec (.fatalSignal n false f code) s = .next s))
    ∧ (n ∉ allUnits → ∀ d, exec (.fatalSignal n d f code) s = .next s)
    ∧ (c.st = .freezing →
      (c.copy = none → exec .ringCopy s = .next { s with fc := { c with st := .copying, copy := some (allUnits.map s.sectionOf), points := s.points } })
      ∧ (c.copy ≠ none → exec .ringCopy s = .next { s with fc := { c with st := .copying, skip := true, dropped := min 255 (c.dropped + 1) } }))
    ∧ (c.st = .copying → ∃ t, exec .ringCopy s = .next t ∧ t.fc = { c with st := .building }
      ∧ (c.kind = 1 → ∀ p ∈ t.rings, p.2.frozen = false) ∧ (c.kind ≠ 1 → t.rings = s.rings))
    ∧ (c.st = .building → ∃ t, exec .capsuleBuild s = .next t ∧ t.fc = { c with st := .flushing, capsule := if c.skip then c.capsule else (s.buildCapsule (c.copy.getD [])).1 })
    ∧ (c.st = .flushing → ∃ t, exec .capsuleFlush s = .next t
      ∧ (c.again = none → t.fc = { c with
        st := if c.kind = 1 then .idle else .stopped
        copy := if c.skip then c.copy else none
        capsule := []
        skip := false })
      ∧ (∀ ev n, c.again = some (ev, n) → t.fc = { c with
        st := .copying
        seq := c.seq + 1
        kind := 2
        haltVf := 0
        fault := ev
        unit := n
        secondary := []
        nsec := 0
        skip := false
        droppedAt := c.dropped
        again := none
        copy := some (allUnits.map s.sectionOf)
        points := s.points
        capsule := [] })
      ∧ (c.skip = false → t.flash = newest 8 (s.flash ++ [⟨c.seq, c.kind, if c.kind = 1 then c.haltVf else 0, c.capsule⟩]))
      ∧ (c.skip = true → t.flash = s.flash))
    ∧ (c.st ≠ .freezing → c.st ≠ .copying → exec .ringCopy s = .next s) ∧ (c.st ≠ .building → exec .capsuleBuild s = .next s)
    ∧ (c.st ≠ .flushing → exec .capsuleFlush s = .next s)

/-- Retrieval (spec/19 R415; spec/22 R443): LIST and READ are answered in the mailbox, by a request or through the doorbell; a request of a
wrong length is answered with 0x03; with no request nothing is answered; a doorbell that the interface does not serve does nothing (R453). -/
def Claim.RetrievalResults : Prop :=
  ∀ (s : State) (f : Nat), f < 64 → s.slices.length = 64 → s.pkg.boot.recovery = false →
    (∃ t, exec (.listCapsules f) s = .next t ∧ Answered s t f (natLe 1 0 ++ natLe 1 s.capsules.length
      ++ s.capsules.flatMap fun c => natLe 4 c.seq ++ natLe 4 c.bytes.length ++ natLe 1 c.kind ++ natLe 1 c.haltVf ++ natLe 2 0))
    ∧ (∀ (q : BitVec 32) (off len : Nat), ∃ t bs, exec (.readCapsule f q off len) s = .next t ∧ Answered s t f bs
      ∧ (off % 16 ≠ 0 ∨ len < 16 ∨ 4096 < len ∨ len % 16 ≠ 0 → bs = [0x03#8])
      ∧ ∀ x, s.capsules.find? (fun x => x.seq == q.toNat) = some x → off % 16 = 0 → 16 ≤ len → len ≤ 4096 → len % 16 = 0 →
        bs = (if x.bytes.length ≤ off then [0x02#8] else 0x00#8 :: (x.bytes.drop off).take len))
    ∧ (∀ len, s.bar0Open f 0x8FF8 false = false ∨ 0x800 < len → exec (.doorbell f len) s = .next s)
    ∧ (∀ len, len ≤ 0x800 → s.bar0Open f 0x8FF8 false = true → ∀ r, (s.slice f).trust.request.take len = r →
      (r = [] → ∃ t, exec (.doorbell f len) s = .next t ∧ (t.slice f).trust.mbStat = 0#32)
      ∧ (r = [0x01#8] → ∃ t, exec (.doorbell f len) s = .next t ∧ (t.slice f).trust.response = s.listCapsules)
      ∧ (∀ b bs, r = 0x01#8 :: b :: bs → ∃ t, exec (.doorbell f len) s = .next t ∧ (t.slice f).trust.response = [0x03#8])
      ∧ (∀ bs, r = 0x02#8 :: bs → bs.length = 12 →
        ∃ t, exec (.doorbell f len) s = .next t ∧ (t.slice f).trust.response = s.readCapsule (fld r 1 4) (fld r 5 4) (fld r 9 4)))

/-- The freeze controller and the retrieval of capsules. -/
def Obligations.FreezeAndRetrieval : Prop :=
  Claim.FreezeResults ∧ Claim.RetrievalResults

/-- VALID set and cleared (spec/22 R440, R442, R459): a map that passes the checks makes the slice, with its counters zero; one that fails
leaves the first check's code; a slice that is not busy is halted, with no operation in flight, and released with its keys and its memory; a busy one
is not, which is counted. -/
def Claim.ValidResults : Prop :=
  ∀ (s : State) (f : Nat), 0 < f → f < 64 → s.slices.length = 64 → (s.slice 0).trust.ide ≠ 2 → s.pkg.boot.recovery = false → (s.slice f).tdi = 0#2 →
    (∀ v : BitVec 64, v.getLsbD 0 = true → (s.slice f).valid = false → mapRefused 0 (natLe 8 v.toNat) = false →
      let y := (s.slice f).putMap 0 (natLe 8 v.toNat)
      (s.mapCheck f y = 0 → ∃ t, exec (.validSet f v) s = .next t ∧ (t.slice f).valid = true ∧ (t.slice f).lcnt = List.replicate 16 0#32
        ∧ (t.slice f).gran = y.gran ∧ (t.slice f).err = (s.slice f).err ∧ (∀ g, g ≠ f → t.slice g = s.slice g) ∧ t.dram = s.dram)
      ∧ (s.mapCheck f y ≠ 0 → exec (.validSet f v) s = .next (s.setSlice f { s.slice f with err := BitVec.ofNat 8 (s.mapCheck f y) })))
    ∧ ((s.slice f).valid = true → let bs := natLe 8 ((s.slice f).band % 32 * 4 + (if (s.slice f).nocomp then 128 else 0))
      mapRefused 0 bs = false →
      (s.busy f = false → (s.markChange f (.clear bs)).opsOver f = true → ∃ t, exec (.validClear f) s = .next t ∧ (t.slice f).valid = false ∧ Cleared t f)
      ∧ (s.busy f = true → exec (.validClear f) s = .next { s with pkg := { s.pkg with pfLog := s.pkg.pfLog + 1 } }))

/-- Keys, lock, start and stop (spec/22 R447 to R452, R459): a bound request in the right state changes the interface's state, a stop and a new key
once the slice's operations are over; another is declined. BOOT, set by the start, is cleared by writing 1 to it. -/
def Claim.InterfaceResults : Prop :=
  ∀ (s : State) (f : Nat), Bound s f → let x := s.slice f
    (∀ key owner,
      (x.valid = true → x.tdi = 0#2 → x.keyed = false ∨ (s.markChange f (.rekey key owner)).opsOver f = true →
        ∃ t, exec (.keyprog f key owner) s = .next t ∧ (t.slice f).keyed = true ∧ (t.slice f).trust.key = key ∧ (t.slice f).trust.owner = owner
        ∧ (t.slice f).trust.check = Config.keyCheck key ∧ (t.slice f).halted = false ∧ (x.keyed = true → ∀ c ∈ t.dram, c.1 / 2 ^ 40 ≠ f))
      ∧ (x.valid = true → x.tdi = 0#2 → x.keyed = true → (s.markChange f (.rekey key owner)).opsOver f = false →
        ∃ t, exec (.keyprog f key owner) s = .next t ∧ Waiting t f (.rekey key owner))
      ∧ (x.valid = false ∨ x.tdi ≠ 0#2 → ∃ t, exec (.keyprog f key owner) s = .next t ∧ Declined s t f))
    ∧ (∀ pages, x.valid = true → x.keyed = true → x.tdi = 0#2 → x.offer = [] → s.lockPages f = some pages →
      ∃ t, exec (.lockInterfaceRequest f) s = .next t ∧ (t.slice f).tdi = 1#2 ∧ (t.slice f).keyEpoch = x.keyEpoch + 1#8 ∧ (t.slice f).trust.report = 1#32
        ∧ (t.slice f).trust.response = natLe 32 (t.slice f).trust.nonce.toNat ∧ (∀ p ∈ pages, (f, p / 4096) ∈ t.pkg.frozen)
        ∧ (f, geodePoint x.trust.key f) ∈ t.points ∧ (t.slice f).trust.transit = transitKey x.trust.key f (x.keyEpoch + 1#8))
    ∧ (x.valid = false ∨ x.keyed = false ∨ x.tdi ≠ 0#2 ∨ x.offer ≠ [] ∨ s.lockPages f = none →
      ∃ t, exec (.lockInterfaceRequest f) s = .next t ∧ Declined s t f)
    ∧ (∀ n, (x.tdi = 1#2 → x.trust.nonce = n → ∃ t, exec (.startInterfaceRequest f n) s = .next t ∧ (t.slice f).tdi = 2#2
        ∧ (t.slice f).trCtl.getLsbD 12 = true ∧ (t.slice f).trust.response = [])
      ∧ (x.tdi ≠ 1#2 ∨ x.trust.nonce ≠ n → ∃ t, exec (.startInterfaceRequest f n) s = .next t ∧ Declined s t f))
    ∧ (x.tdi ≠ 0#2 → ((s.markChange f .stop).opsOver f = true →
        ∃ t, exec (.stopInterfaceRequest f) s = .next t ∧ (t.slice f).tdi = 0#2 ∧ (t.slice f).valid = true ∧ (t.slice f).gran = x.gran ∧ Cleared t f)
      ∧ ((s.markChange f .stop).opsOver f = false → ∃ t, exec (.stopInterfaceRequest f) s = .next t ∧ Waiting t f .stop))
    ∧ (x.tdi = 0#2 → ∃ t, exec (.stopInterfaceRequest f) s = .next t ∧ Declined s t f)
    ∧ exec (.bootEnd f) s = .next (s.setSlice f { x with trCtl := BitVec.ofNat 32 (x.trCtl.toNat % 4096) })

/-- The interface's state and report (spec/22 R449, R453): the state is given in every state, the report while the interface is locked or
runs. -/
def Claim.InterfaceReports : Prop :=
  ∀ (s : State) (f : Nat), Bound s f →
    (∃ t, exec (.getDeviceInterfaceState f) s = .next t ∧ Answered s t f [BitVec.ofNat 8 (s.slice f).tdi.toNat])
    ∧ ((s.slice f).tdi = 1#2 ∨ (s.slice f).tdi = 2#2 → ∃ t, exec (.getDeviceInterfaceReport f) s = .next t ∧ Answered s t f (s.interfaceReport f))
    ∧ ((s.slice f).tdi = 0#2 ∨ (s.slice f).tdi = 3#2 → ∃ t, exec (.getDeviceInterfaceReport f) s = .next t ∧ Declined s t f)

/-- Growth, granule moves and the SR-IOV fields (spec/22 R450, R456, R457): an offer signed by the owner, that changes nothing that the slice
has, joins the map; a granule's move begins at its first bank, the banks move one at a time, and after the last the map names the new granule, and
so do the instances that wait there; a write to a frozen field sends every locked interface to ERROR. -/
def Claim.GrowthAndMoves : Prop :=
  ∀ (s : State) (f : Nat), let x := s.slice f
    (∀ d sig, Bound s f → x.tdi = 2#2 → x.offerOk = true → s.mapCheck f x.merged = 0 → ∃ t, exec (.growSlice f d sig) s = .next t
      ∧ (if Config.sm2Verify x.trust.owner (0x11#8 :: natLe 32 d.toNat) sig = true ∧ Config.sm3 x.offerBytes = d then
          (t.slice f).gran = x.merged.gran ∧ (t.slice f).offer = [] ∧ (t.slice f).trust.report = x.trust.report + 1#32 ∧ (t.slice f).tdi = 2#2
        else Declined s t f))
    ∧ (∀ d sig, Bound s f → x.tdi ≠ 2#2 ∨ x.offerOk = false ∨ s.mapCheck f x.merged ≠ 0 → ∃ t, exec (.growSlice f d sig) s = .next t ∧ Declined s t f)
    ∧ (∀ o g old, x.gran.getD o none = some old → g < 64 → f < s.slices.length → o < x.gran.length → g ∉ s.pkg.retired → (x.valid = true → some g ∉ x.gran) →
      (∀ y ∈ s.others f, some g ∉ y.gran) → x.tdi = 1#2 ∨ x.tdi = 2#2 → x.trust.change = none →
      (x.trust.move = none → exec (.liveGranuleMove f o g) s = .next (s.setSlice f { x with trust := { x.trust with move := some (o, g, 0) } }))
      ∧ ∀ k, x.trust.move = some (o, g, k) →
        (s.drainedOn (4 + k / 32) = true ∨ s.instanceAt f k old = true → exec (.liveGranuleMove f o g) s = .next s)
        ∧ (s.drainedOn (4 + k / 32) = false → s.instanceAt f k old = false →
          (k < 383 → exec (.liveGranuleMove f o g) s = .next (s.setSlice f { x with trust := { x.trust with move := some (o, g, k + 1) } }))
          ∧ (383 ≤ k → ∃ t, exec (.liveGranuleMove f o g) s = .next t ∧ (t.slice f).gran = x.gran.set o (some g) ∧ (t.slice f).trust.move = none
            ∧ (t.slice f).trust.report = x.trust.report + 1#32 ∧ t.dram = s.dram
            ∧ t.bank.insts = s.bank.insts.map fun i => if i.f = f ∧ i.bank / 32 = old then { i with bank := 32 * g + i.bank % 32 } else i)))
    ∧ ∀ off v, (s.pkg.sriov.put off v.toNat = none → exec (.srIovCapabilityWrite off v) s = .next s)
      ∧ ∀ y, s.pkg.sriov.put off v.toNat = some y → (s.slice 0).trust.ide ≠ 2 →
        ((∀ g, g < 64 → (s.slice g).tdi = 0#2 ∨ (s.slice g).tdi = 3#2) → exec (.srIovCapabilityWrite off v) s = .next { s with pkg := { s.pkg with sriov := y } })
        ∧ (f < 64 → s.slices.length = 64 → x.tdi = 1#2 ∨ x.tdi = 2#2 → ∃ t, exec (.srIovCapabilityWrite off v) s = .next t ∧ (t.slice f).tdi = 3#2
          ∧ t.pkg.sriov = s.pkg.sriov)

/-- Slices are made and released; the interface changes its state. -/
def Obligations.SliceInterfaceResults : Prop :=
  Claim.ValidResults ∧ Claim.InterfaceResults ∧ Claim.InterfaceReports ∧ Claim.GrowthAndMoves

/-- SPDM (spec/22 R455; spec/23 R475): version, capabilities and measurements are answered, in recovery for function 0 alone; a negotiation that
asks for the three algorithms opens the way to a key exchange. -/
def Claim.SpdmResults : Prop :=
  ∀ (s : State) (f : Nat), f < 64 → s.slices.length = 64 →
    (f = 0 ∨ s.pkg.boot.recovery = false →
      (∃ t, exec (.getVersion f) s = .next t ∧ AnsweredDoe s t f [0x13#8]) ∧ (∃ t, exec (.getCapabilities f) s = .next t ∧ AnsweredDoe s t f (natLe 4 0x2D6))
      ∧ (s.pkg.identity = false → ∃ t, exec (.getMeasurements f) s = .next t ∧ AnsweredDoe s t f (s.measurements f))
      ∧ (s.pkg.identity = true → ∃ t r, exec (.getMeasurements f) s = .next t
        ∧ AnsweredDoe s t f (s.measurements f ++ natLe 64 (Config.sm2Sign (s.measurements f) r).toNat)))
    ∧ (f ≠ 0 → s.pkg.boot.recovery = true → exec (.getVersion f) s = .next s ∧ exec (.getCapabilities f) s = .next s ∧ exec (.getMeasurements f) s = .next s)
    ∧ (s.pkg.boot.recovery = false →
      (∃ t, exec (.negotiation f true true true) s = .next t ∧ (t.slice f).trust.sess = max 1 (s.slice f).trust.sess ∧ AnsweredDoe s t f [])
      ∧ (∀ a b c, (a && b && c) = false → ∃ t, exec (.negotiation f a b c) s = .next t ∧ DeclinedDoe s t f)
      ∧ (1 ≤ (s.slice f).trust.sess → ∃ t, exec (.keyEx f) s = .next t ∧ (t.slice f).trust.sess = 2 ∧ AnsweredDoe s t f [])
      ∧ ((s.slice f).trust.sess = 0 → ∃ t, exec (.keyEx f) s = .next t ∧ DeclinedDoe s t f)
      ∧ ∀ key, ((s.slice f).trust.sess = 2 → ∃ t, exec (.ideKm f key) s = .next t ∧ (t.slice f).trust.ide = 1 ∧ (t.slice f).trust.ideKey = key ∧ AnsweredDoe s t f [])
        ∧ ((s.slice f).trust.sess ≠ 2 → ∃ t, exec (.ideKm f key) s = .next t ∧ DeclinedDoe s t f))

/-- The host link, its failures and power (spec/23 R461, R463, R464, R465, R477): the port trains to a speed and a width that it has; an integrity
failure leaves the stream insecure, and sends a locked function to ERROR; a read may time out; a flit that is not good, or out of sequence, changes
nothing, and one that is whole, with its CRC, is taken, counts, and frees the flits up to the one that it acknowledges. -/
def Claim.LinkResults : Prop :=
  ∀ (s : State),
    (∀ v w, (v = 32 ∨ v = 64 ∨ v = 128) → (w = 8 ∨ w = 16) → exec (.linkTraining v w) s = .next { s with pkg := { s.pkg with linkSpeed := v, linkWidth := w } })
    ∧ (∀ f, f < 64 → s.slices.length = 64 → (s.slice f).trust.ide = 1 → ∃ t, exec (.ideIntegrityFailure f) s = .next t ∧ (t.slice f).trust.ide = 2
      ∧ (t.slice f).tdi = (if f ≠ 0 ∧ ((s.slice f).tdi = 1#2 ∨ (s.slice f).tdi = 2#2) then 3#2 else (s.slice f).tdi))
    ∧ (∀ f, (s.slice f).trust.ide ≠ 1 → exec (.ideIntegrityFailure f) s = .next s)
    ∧ (∀ a, exec (.hostReadTimeout a) s = .next { s with paths := { s.paths with hostLate := a :: s.paths.hostLate } })
    ∧ (∀ b, exec (.powerGating b) s = .next { s with pkg := { s.pkg with gated := b } })
    ∧ ∀ (n : Nat) (p : Port), s.pkg.ports[n]? = some p →
      (∀ seq k ack rest, p.up = false ∨ flitGood (flitBytes seq k ack rest) = false ∨ seq ≠ p.rx → exec (.flitReceived n seq k ack rest) s = .next s)
      ∧ ∀ (kind : BitVec 4) (ack : BitVec 12) (payload : List Byte), p.up = true → kind.toNat < 3 → payload.length = 244 →
        ∃ t q, exec (.flitReceived n p.rx kind (ack.setWidth 16) ((mkFlit p.rx kind.toNat ack payload).drop 4)) s = .next t ∧ t = { s with pkg := { s.pkg with ports := s.pkg.ports.set n q } }
          ∧ q.rx = p.rx + 1#12 ∧ q.tx = p.tx ∧ q.up = true
          ∧ (ahead ack p.oldest < p.buffer.length → q.buffer = p.buffer.drop (ahead ack p.oldest + 1) ∧ q.replays = 0)
          ∧ (p.buffer.length ≤ ahead ack p.oldest → q.buffer = p.buffer ∧ q.replays = p.replays)

/-- Enclaves and remote requests (spec/23 R467 to R472): a function whose owner matches its participant's digest joins; a certificate with a
quorum of signatures and a later epoch halts a participant's function, and releases it once its operations are over; a packet that is not for this
device, does not open under its key or comes under an epoch that is not accepted is dropped and counted; a request for a revoked participant is
answered with 0x80; an accepted write stores its bytes and is answered where its place may be written, and a read is answered, with poison where
it has no place. A store that is never acknowledged is consumed by its lanes. -/
def Claim.EnclaveResults : Prop :=
  ∀ (s : State),
    (∀ (f part n q : Nat) (id : BitVec 64) (key : BitVec 128) (ds : List (BitVec 256)), Bound s f →
      ((s.slice f).tdi = 2#2 → 2 ≤ n → n ≤ 64 → n / 2 < q → q ≤ n → part < n → ds.length = n → ds.getD part 0#256 = (s.slice f).ownDig →
        (∀ e ∈ s.pkg.enclaves, e.id ≠ id) → (∀ i, (List.range 8).find? (fun i => (s.enclave i).isNone) = some i →
          ∃ t, exec (.encjoin f part n q id key ds) s = .next t ∧ t.pkg.enclaves = s.pkg.enclaves ++ [⟨i, id, key, n, q, ds, [(part, f)], [], 0#8, false, []⟩]
            ∧ Answered s t f []))
      ∧ ((s.slice f).tdi ≠ 2#2 ∨ n < 2 ∨ 64 < n ∨ q ≤ n / 2 ∨ n < q ∨ n ≤ part ∨ ds.length ≠ n ∨ ds.getD part 0#256 ≠ (s.slice f).ownDig →
        ∃ t, exec (.encjoin f part n q id key ds) s = .next t ∧ Declined s t f ∧ t.pkg.enclaves = s.pkg.enclaves)
      ∧ ∀ e, (s.slice f).tdi = 2#2 → 2 ≤ n → n ≤ 64 → n / 2 < q → q ≤ n → part < n → ds.length = n → ds.getD part 0#256 = (s.slice f).ownDig →
        s.pkg.enclaves.find? (fun e => e.id == id) = some e →
        (e.secret = key → (∀ m ∈ e.members, m.1 ≠ part) → ∃ t, exec (.encjoin f part n q id key ds) s = .next t
          ∧ t.pkg.enclaves = (s.setEnclave { e with members := e.members ++ [(part, f)], epoch := 0#8 }).pkg.enclaves ∧ Answered s t f [])
        ∧ (e.secret ≠ key ∨ (∃ m ∈ e.members, m.1 = part) →
          ∃ t, exec (.encjoin f part n q id key ds) s = .next t ∧ Declined s t f ∧ t.pkg.enclaves = s.pkg.enclaves))
    ∧ (∀ (f : Nat) (id : BitVec 64) (part : Nat) (ep : BitVec 8) (sigs : List (Nat × BitVec 512)),
      (s.pkg.enclaves.find? (fun e => e.id == id) = none → exec (.revoke f id (part, ep) sigs) s = .next s)
      ∧ ∀ e, s.pkg.enclaves.find? (fun e => e.id == id) = some e →
        (ep.toNat ≤ e.epoch.toNat ∨ (e.signers (revokeText id part ep) sigs).length < e.q → exec (.revoke f id (part, ep) sigs) s = .next s)
        ∧ (e.epoch.toNat < ep.toNat → e.q ≤ (e.signers (revokeText id part ep) sigs).length →
          (∀ g, e.members.filter (fun m => m.1 == part) = [(part, g)] → 0 < g → g < 64 → s.slices.length = 64 →
            ((s.markChange g (.revoke e.slot part ep)).opsOver g = true →
              ∃ t, exec (.revoke f id (part, ep) sigs) s = .next t ∧ (t.slice g).valid = false ∧ Cleared t g)
            ∧ ((s.markChange g (.revoke e.slot part ep)).opsOver g = false →
              ∃ t, exec (.revoke f id (part, ep) sigs) s = .next t ∧ Waiting t g (.revoke e.slot part ep)))
          ∧ ((∀ m ∈ e.members, m.1 ≠ part) → s.enclave e.slot = some e → (∀ x ∈ s.slices, x.trust.change ≠ some (.revoke e.slot part ep)) →
            ∃ t, exec (.revoke f id (part, ep) sigs) s = .next t ∧ t.pkg.enclaves = (s.setEnclave { e with epoch := ep, grace := true, revoked := part :: e.revoked, counters := [] }).pkg.enclaves)))
    ∧ (∀ n e, s.enclave n = some e →
      exec (.enclaveRekey n) s = .next (s.setEnclave { e with epoch := e.epoch + 1#8, grace := true, counters := [] })
      ∧ exec (.epochGraceEnd n) s = .next (s.setEnclave { e with grace := false }))
    ∧ (∀ p : LinkPacket,
      (s.enclave p.slot = none → exec (.remoteAccess p.slot p.src p.epoch p.ia p.op p.toLinkBody) s = .next { s with pkg := { s.pkg with dropped := s.pkg.dropped + 1 } })
      ∧ ∀ e, s.enclave p.slot = some e →
        (p.dst ≠ s.pkg.device ∨ e.accepts p.part p.epoch = false ∨ e.opens p = false ∨ linkFits p = false →
          exec (.remoteAccess p.slot p.src p.epoch p.ia p.op p.toLinkBody) s = .next { s with pkg := { s.pkg with dropped := s.pkg.dropped + 1 } })
        ∧ (p.dst = s.pkg.device → e.accepts p.part p.epoch = true → e.opens p = true → linkFits p = true →
          let ia := p.ia.toNat
          (ia / 2 ^ 42 ∈ e.revoked → exec (.remoteAccess p.slot p.src p.epoch p.ia p.op p.toLinkBody) s = .next (s.replyTo e p 0x80#8 []))
          ∧ (ia / 2 ^ 42 ∉ e.revoked →
            (s.remotePlace p = none → (p.op = .read → ∃ data, exec (.remoteAccess p.slot p.src p.epoch p.ia p.op p.toLinkBody) s = .next (s.replyTo e p 0#8 data) ∧ data.length = p.size ∧ ∀ b ∈ data, b.2 = true)
              ∧ (p.op ≠ .read → exec (.remoteAccess p.slot p.src p.epoch p.ia p.op p.toLinkBody) s = .next s))
            ∧ ∀ l, s.remotePlace p = some l →
              (p.op = .write → exec (.remoteAccess p.slot p.src p.epoch p.ia p.op p.toLinkBody) s = .next (((s.remoteServe p).writeBy {} ((blockCuts ia p.size).map fun q =>
                (AgentId.device p.src, l.add (q.1 - ia), (p.data.drop (q.1 - ia)).take q.2))).replyTo e p 0#8 []))
              ∧ (p.op = .read → ∃ (t : State) (data : List (Byte × Bool)), exec (.remoteAccess p.slot p.src p.epoch p.ia p.op p.toLinkBody) s = .next (t.replyTo e p 0#8 data) ∧ data.length = p.size)
              ∧ ∀ y, p.op = .atomic y → ∃ (t : State) (data : List (Byte × Bool)), exec (.remoteAccess p.slot p.src p.epoch p.ia p.op p.toLinkBody) s = .next (t.replyTo e p 0#8 data) ∧ data.length = p.size)))
    ∧ ∀ (g : Nat) (m : BitVec 64) (G : Group), s.group g = some G →
      exec (.remoteTimeout g m false) s = .next s
      ∧ ((∀ l, l < 64 → m.getLsbD l = true → (s.laneAgent G l).id ∉ s.paths.unacked) → exec (.remoteTimeout g m true) s = .next s)
      ∧ ∀ k l, G.team = some k → l < 64 → m.getLsbD l = true → (s.laneAgent G l).id ∈ s.paths.unacked →
        ∃ (t u : State) (a : Nat), t.tellConsumption G = (a, u) ∧ (s.laneAgent G l).id ∉ t.paths.unacked ∧ exec (.remoteTimeout g m true) s = .next (u.contain k a)

/-- What a reset keeps (spec/01 R8; spec/19 R413; spec/23 R461, R475): a cold reset boots from the flash, with an accepted update in it, and leaves
the flash, the host's memory and the saved contexts, and a compute die at 115 °C stops the part; a warm or a hot reset changes the link, the configuration space, the IDE streams and the
vectors; a function reset changes the function's vectors and its stream. What of these a reset of the port or of a function clears is PCIe's
(log entry 29). -/
def Claim.ResetsKeep : Prop :=
  ∀ (s : State), let fresh (x : Slice) : Slice := { x with
      msix := x.msix.map (· ||| 0x1000000000000000000000000#128)
      pba := 0#64
      msixControl := 63#16
      trust := { x.trust with ide := 0 } }
    (∀ heat, ∃ t, exec (.coldReset heat) s = .next t ∧ t.pkg.boot = bootOf s.pkg.firmware s.healthRecord ∧ t.pkg.firmware = s.pkg.firmware ∧ t.flash = s.flash ∧ t.host = s.host
      ∧ t.images = s.saved ∧ t.live = State.reset.live ∧ t.dram = [] ∧ t.slices = State.reset.slices ∧ t.cal.resets = s.cal.resets + 1#32
      ∧ t.pkg.device < 16384 ∧ (∀ r ∈ t.pkg.routes, r.1 < 16384) ∧ t.pkg.dieTemps.length = 4
      ∧ ((∃ d, d < 4 ∧ 115 ≤ heat.getD d (s.pkg.dieTemps.getD d 25)) ↔ t.device = true))
    ∧ (∀ x sig, (s.pkg.boot.recovery = true → exec (.flashUpdate x sig) s = .next (if Config.sm2Verify Config.vendorKey x sig = true then
          { s with pkg := { s.pkg with firmware := memWrite s.pkg.firmware 0 (x.take (2 ^ 26)) } }
        else s))
      ∧ (s.pkg.boot.recovery = false → exec (.flashUpdate x sig) s = .next s))
    ∧ (s.fc.st ≠ .building → s.fc.st ≠ .flushing → s.fc.st ≠ .stopped → ∀ i, i = .warmReset ∨ i = .hotReset → exec i s = .next { s with
      slices := s.slices.map fresh
      pkg := { s.pkg with linkSpeed := 0, linkWidth := 0, sriov := SrIov.reset, bar0 := Package.reset.bar0, bar2 := Package.reset.bar2 } })
    ∧ (s.fc.st = .stopped → ∀ i, i = .warmReset ∨ i = .hotReset → ∃ t, exec i s = .next t ∧ t.device = false ∧ t.fc.st = .idle ∧ t.live = s.live ∧ t.dram = s.dram)
    ∧ ∀ f, f < 64 → exec (.functionReset f) s = .next (s.setSlice f (fresh (s.slice f)))

/-- SPDM, the host link, enclaves, and what a reset keeps. -/
def Obligations.LinkAndTrustResults : Prop :=
  Claim.SpdmResults ∧ Claim.LinkResults ∧ Claim.EnclaveResults ∧ Claim.ResetsKeep

/-- What a cold reset leaves (spec/01 R8, R25; spec/06 R153; spec/14 R310; spec/22 R449): every register is zero but `ts.reform` AGE, which is
512; no slice exists, nothing runs, no byte of memory is listed. -/
def Obligations.ResetValues : Prop :=
  let s := State.reset
  s.dieCycles = 0#64 ∧ s.reformAge = 512#32 ∧ s.cx.ctl = 0#32 ∧ s.cx.sva = 0#64 ∧ s.cx.rva = 0#64 ∧ s.cx.err = 0#8 ∧ s.mx.st = .free ∧ s.mx.healthWord = 0
  ∧ (∀ f, f < 64 → let x := s.slice f
    x.valid = false ∧ x.keyed = false ∧ x.tdi = 0#2 ∧ x.trVec = 0#64 ∧ x.trFbase = 0#64 ∧ x.trCtl = 0#32 ∧ x.fqBase = 0#64 ∧ x.fqIdx = 0#32
    ∧ x.asbase = 0#64 ∧ x.s2root = 0#64 ∧ x.errs = 0#64 ∧ x.pba = 0#64)
  ∧ s.live.groups = [] ∧ s.live.teams = [] ∧ s.shadow = none ∧ s.device = false ∧ s.cur = none ∧ s.bank.runs = [] ∧ s.tcs = [] ∧ s.engs = []
  ∧ s.dram = [] ∧ s.scr = [] ∧ s.host = [] ∧ s.memOk = true

/-- The worked encodings decode to their instructions (spec/02 R42), from the little-endian bytes too (R3, R31). -/
def Claim.WorkedEncodings : Prop :=
  ∀ p ∈ workedWords, decodeWord p.1 = some p.2 ∧ encode p.2 = p.1 ∧ decodeBytes (wordBytes p.1) = some (p.2, [])

/-- Unassigned majors and fn values (spec/02 R40, R41): a word whose major, or whose fn under an R-format major, the opcode map does not list
decodes to nothing, whatever its other fields hold. -/
def Claim.UnassignedRefused : Prop :=
  (∀ m ∈ unassignedMajors, ∀ x : BitVec 25, decodeWord (BitVec.ofNat 7 m ++ x) = none)
  ∧ ∀ p ∈ assignedFns, ∀ n, n < 8 → n ∉ p.2 → ∀ (nw : BitVec 1) (x : BitVec 21), decodeWord (BitVec.ofNat 7 p.1 ++ nw ++ BitVec.ofNat 3 n ++ x) = none

/-- No field of any word is ignored (spec/02 R33, R41): a word that decodes is the word of its instruction, and the instruction is well formed;
so two words never decode to one instruction. -/
def Claim.NoFieldIgnored : Prop :=
  (∀ w i, decodeWord w = some i → encode i = w ∧ wellFormed i = true ∧ isWord i = true) ∧ ∀ w v i, decodeWord w = some i → decodeWord v = some i → w = v

/-- Worked encodings decode; unassigned words are refused; no field of a word is ignored. -/
def Obligations.EncodingFacts : Prop :=
  Claim.WorkedEncodings ∧ Claim.UnassignedRefused ∧ Claim.NoFieldIgnored

/-- A step runs the word at the program counter (spec/01 R28; spec/02 R41): the word fetched for the unit in progress is executed in the state
that holds it; a word that decodes to nothing is the illegal-instruction trap, but for a first prefix word, which is taken and checked with the
instruction that follows it; a fetch that fails is a trap of the whole unit, a poisoned word is consumed, and a fetch that a bank holds is tried
again. The word
of a bank microkernel is executed at its instance (spec/12 R269), and an input that is taken has its effect. -/
def Obligations.StepRunsDecoded : Prop :=
  ∀ (s : State), s.device = false →
    (∀ (c : Cur) (G : Group), s.bank.cur = none → s.cur = some c → c.away = false → s.group c.gctx = some G →
      (∀ w i u, s.fetchWord G c.pc = (.word w false, u) → decodeWord w = some i → step s = withJournal s (exec i ((u.atWord c w).cover G c w)))
      ∧ (∀ w u, s.fetchWord G c.pc = (.word w false, u) → decodeWord w = none → w.extractLsb' 25 7 = 0x7E#7 → c.pfx = none → c.limm = none →
        step s = withJournal s (.next { u with cur := some { c with word := w, pfx := some w, pc := c.pc + 4#56 } }))
      ∧ (∀ w u, s.fetchWord G c.pc = (.word w false, u) → decodeWord w = none → w.extractLsb' 25 7 ≠ 0x7E#7 ∨ c.pfx ≠ none ∨ c.limm ≠ none →
        step s = withJournal s (.next ((u.atWord c w).trapUnit G { c with word := w } 0x01#8 0)))
      ∧ (∀ e u, s.fetchWord G c.pc = (.flt e, u) → step s = withJournal s (.next (u.trapFetch G c e)))
      ∧ (∀ w u, s.fetchWord G c.pc = (.word w true, u) → step s = withJournal s (.next ((u.atWord c w).consume G { c with word := w } (G.k0 c))))
      ∧ (∀ u, s.fetchWord G c.pc = (.wait, u) → step s = withJournal s (.next (u.retryUnit c .engine)))
      ∧ ∀ f a u, s.walkReqs (s.holder G) (s.view G) c.pc.toNat = [] → globalRes s (s.view G) .fetch c.pc.toNat = (.ok (.dram f a), u) → c.pc.toNat % 4 = 0 → u.bankHolds (u.holder G) f a = false →
        spaPoisonRange u f a 4 = false → let w := BitVec.ofNat 32 (leNat (spaRead u f a 4))
        u.staleWords G.uid f a w false = [] → (s.fetchWord G c.pc).1 = .word w false)
    ∧ (∀ k r i w, s.bank.cur = some k → s.run k.1 = some r → s.inst k.1 k.2 = some i → bankWord (r.image.getD i.pc 0#32) = some w → step s = exec w s)
    ∧ ∀ i rest, s.bank.cur = none → s.cur = none → s.issues = [] → s.idle = 0 → s.inputs = i :: rest → isWord i = false →
      ∃ t : State, t = { s with free := s.free + 1 } ∧ (t.inputWaits i = false →
        step s = withJournal s (exec i { t with inputs := rest }) ∨ step s = withJournal s (.next t.between))

/-- Decoding and encoding agree (spec/02 R31 to R40): every well-formed word instruction, with every operand at every value that its encoding
admits, is what its word decodes to. -/
def Obligations.DecodeEncode : Prop := ∀ i, isWord i = true → wellFormed i = true → decodeWord (encode i) = some i

/-- The memories keep their canonical form in every step (log entry 3): no address twice, none out of order, no zero listed. -/
def Obligations.MemoryForm : Prop := ∀ s t : State, s.memOk = true → step s = .next t → t.memOk = true
end

