-- ==== Sys2Proof/Laws/Ops.lean ====
section
/-! SUPPORT. What the shared operations of Machine/Ops.lean do: lane masks, a unit whose lanes all complete, and what retiring
it leaves alone. -/
namespace Sys2Proof.Machine

theorem group_gctx {s : State} {g : Nat} {G : Group} (h : s.group g = some G) : G.gctx = g := by
  simpa using List.find?_some h

/-- A bit of a mask given by a predicate. -/
theorem laneMask_getLsbD (n : Nat) (p : Nat → Bool) (l : Nat) :
    (laneMask n p).getLsbD l = (decide (l < n) && decide (l < 64) && p l) := by
  unfold laneMask
  induction n with
  | zero => simp
  | succ n ih =>
    rw [List.range_succ, List.foldl_append]
    simp only [List.foldl_cons, List.foldl_nil]
    split
    · rename_i hp
      rw [BitVec.getLsbD_or, ih]
      by_cases h : l = n
      · subst h; by_cases h64 : l < 64 <;> simp [h64, hp]
      · have : (1#64 <<< n).getLsbD l = false := by
          rw [BitVec.getLsbD_shiftLeft]
          rcases Nat.lt_or_gt_of_ne h with h | h
          · simp [h]
          · simp; omega
        rw [this]
        have : decide (l < n) = decide (l < n + 1) := by simp; omega
        simp [this]
    · rename_i hp
      rw [ih]
      by_cases h : l = n
      · subst h; simp [hp]
      · have : (l < n) = (l < n + 1) := by simp; omega
        simp [this]

theorem mem_lanesOf {G : Group} {m : BitVec 64} {l : Nat} : l ∈ lanesOf G m ↔ l < G.threads.length ∧ m.getLsbD l = true := by
  simp [lanesOf, Group.lanes]

theorem k0_lt {G : Group} {c : Cur} {l : Nat} (h : (G.k0 c).getLsbD l = true) : l < G.threads.length := by
  rw [Group.k0, laneMask_getLsbD] at h; simp at h; exact h.1.1

theorem run_lt {G : Group} {c : Cur} {u : Unit} {l : Nat} (h : (u.run G c).getLsbD l = true) : l < G.threads.length := by
  unfold Unit.run Group.run at h
  split at h
  · exact k0_lt h
  · split at h
    · exact k0_lt h
    · rw [BitVec.getLsbD_and] at h; simp at h; exact k0_lt h.1

theorem mem_run {G : Group} {c : Cur} {u : Unit} {l : Nat} : l ∈ lanesOf G (u.run G c) ↔ (u.run G c).getLsbD l = true := by
  rw [mem_lanesOf]; exact ⟨fun h => h.2, fun h => ⟨run_lt h, h⟩⟩

/-- The write-back depends on the run lanes' results alone. -/
theorem writeBack_congr (G : Group) (u : Unit) (c : Cur) (d : Dst) (k0 run gone : BitVec 64) (f g : Nat → Option (List PWord))
    (h : ∀ l, run.getLsbD l = true → f l = g l) : G.writeBack u c d k0 run gone f = G.writeBack u c d k0 run gone g := by
  cases d with
  | none => rfl
  | mask k =>
    have : (fun l => if gone.getLsbD l then (G.masks.getD (k - 1) 0#64).getLsbD l
      else if run.getLsbD l then (match f l with
        | some ws => (ws.getD 0 pzero).val != 0#32
        | none => (G.masks.getD (k - 1) 0#64).getLsbD l)
      else if k0.getLsbD l then (G.masks.getD (k - 1) 0#64).getLsbD l && !pfxZm c
      else (G.masks.getD (k - 1) 0#64).getLsbD l) = (fun l => if gone.getLsbD l then (G.masks.getD (k - 1) 0#64).getLsbD l
      else if run.getLsbD l then (match g l with
        | some ws => (ws.getD 0 pzero).val != 0#32
        | none => (G.masks.getD (k - 1) 0#64).getLsbD l)
      else if k0.getLsbD l then (G.masks.getD (k - 1) 0#64).getLsbD l && !pfxZm c
      else (G.masks.getD (k - 1) 0#64).getLsbD l) := by
      funext l; by_cases hl : run.getLsbD l = true
      · simp only [hl, h l hl]
      · simp only [hl, Bool.false_eq_true, if_false]
    simp only [Group.writeBack]; exact congrArg (fun p => G.setMask k (laneMask 64 p)) this
  | regs r n =>
    unfold Group.writeBack
    simp only
    split
    · split
      · rfl
      · rename_i l _
        by_cases hl : run.getLsbD l = true
        · simp only [hl, h l hl]
        · simp only [hl, Bool.false_eq_true, if_false]
    · congr 2
      funext l t; by_cases hl : run.getLsbD l = true
      · simp only [hl, h l hl]
      · simp only [hl, Bool.false_eq_true, if_false]

/-- The first entry for a lane in a list made lane by lane. -/
theorem find_lane {α : Type} (ls : List Nat) (f : Nat → α) (l : Nat) (h : l ∈ ls) :
    (ls.map fun m => (m, f m)).find? (fun p => p.1 == l) = some (l, f l) := by
  rw [List.find?_map]
  cases e : ls.find? ((fun p : Nat × α => p.1 == l) ∘ fun m => (m, f m)) with
  | none => simpa using List.find?_eq_none.1 e l h
  | some m => rw [show m = l by simpa using List.find?_some e]; rfl

theorem faultsOf_ok (ls : List Nat) (vals : Nat → List PWord) (fl : Nat → BitVec 5) :
    faultsOf (ls.map fun l => (l, LaneOut.ok (vals l) (fl l))) = [] := by
  rw [faultsOf, List.filterMap_eq_nil_iff]; simp [LaneOut.fault]

theorem eatersOf_ok (ls : List Nat) (vals : Nat → List PWord) (fl : Nat → BitVec 5) :
    eatersOf (ls.map fun l => (l, LaneOut.ok (vals l) (fl l))) = 0#64 := by
  apply BitVec.eq_of_getLsbD_eq; intro i _; rw [eatersOf, laneMask_getLsbD]; simp

theorem wordsOf_ok {ls : List Nat} (vals : Nat → List PWord) (fl : Nat → BitVec 5) {l : Nat} (h : l ∈ ls) :
    wordsOf (ls.map fun l => (l, LaneOut.ok (vals l) (fl l))) l = some (vals l) := by
  rw [wordsOf, find_lane ls (fun m => LaneOut.ok (vals m) (fl m)) l h]; rfl

theorem flagsOf_ok (ls : List Nat) (vals : Nat → List PWord) (fl : Nat → BitVec 5) :
    flagsOf (ls.map fun l => (l, LaneOut.ok (vals l) (fl l))) 0#64 = ls.foldl (fun a l => a ||| fl l) 0#5 := by
  rw [flagsOf, List.foldl_map]; simp [LaneOut.flags]

/-- No lane of the empty mask. -/
theorem lanesOf_zero (G : Group) : lanesOf G 0#64 = [] := by simp [lanesOf]

/-- With no lane to park, the plan parks none. -/
theorem parkPlan_zero (G : Group) (qs : List Seq) (free : Nat) : parkPlan G 0#64 qs free = 0#64 := by
  induction qs with
  | nil => rfl
  | cons q qs ih => simp [parkPlan, Group.colsOf, lanesOf_zero, ih]

/-- When no lane consumes, no lane is without its effect. -/
theorem eaten_zero (s : State) (G : Group) (c : Cur) : s.eaten G c 0#64 = 0#64 := by
  unfold State.eaten; split
  · exact parkPlan_zero G _ _
  · rfl

/-- Retiring a unit whose run lanes all complete. -/
theorem retire_ok (s : State) (G : Group) (c : Cur) (u : Unit) (d : Dst) (w : Bool) (vals : Nat → List PWord) (fl : Nat → BitVec 5) :
    s.retire G c u d w ((lanesOf G (u.run G c)).map fun l => (l, LaneOut.ok (vals l) (fl l)))
      = s.laneDone G c u d vals (G.orFlags c u fl) := by
  simp only [State.retire, faultsOf_ok, eatersOf_ok, eaten_zero, worst, flagsOf_ok, if_true, State.laneDone, Group.orFlags]
  rw [writeBack_congr G u c d _ _ _ _ (fun l => some (vals l)) fun l hl => wordsOf_ok vals fl (mem_run.2 hl)]

/-- A register unit whose run lanes all complete. -/
theorem laneUnit_ok {s : State} {c : Cur} {G : Group} {u : Unit} {d : Dst} {f : State → Cur → Group → Nat → LaneOut}
    (h : Ready s c G u) (vals : Nat → List PWord) (fl : Nat → BitVec 5)
    (hf : ∀ l ∈ lanesOf G (u.run G c), f s c G l = .ok (vals l) (fl l)) :
    laneUnit u d f s = .next (s.laneDone G c u d vals (G.orFlags c u fl)) := by
  have e : (lanesOf G (u.run G c)).map (fun l => (l, f s c G l)) = (lanesOf G (u.run G c)).map fun l => (l, LaneOut.ok (vals l) (fl l)) :=
    List.map_congr_left fun l hl => by rw [hf l hl]
  simp only [laneUnit, withUnit, h.cur, h.group, h.check, e, retire_ok]

/-- Words read without poison give the function of their values. -/
theorem onWords_ok {G : Group} {l : Nat} {srcs : List (Nat × Nat)} {f : List Word → List Word × BitVec 5}
    (h : ∀ p ∈ srcs, anyPoison (G.readWords l p.1 p.2) = false) :
    onWords G l srcs f = .ok ((f ((srcs.map fun p => G.readWords l p.1 p.2).flatten.map (·.val))).1.map clean)
      (f ((srcs.map fun p => G.readWords l p.1 p.2).flatten.map (·.val))).2 := by
  have : anyPoison (srcs.map fun p => G.readWords l p.1 p.2).flatten = false := by
    simp only [anyPoison, List.any_flatten, List.any_map]
    simp only [List.any_eq_false, Function.comp]
    intro p hp; have := h p hp; simp [anyPoison] at this ⊢; exact this
  simp [onWords, this]

end Sys2Proof.Machine
end

