-- ==== Sys2Proof/Laws/State.lean ====
section
/-! SUPPORT. What each replacement of a part of the state gives: the part itself, and every other field as it was. -/
namespace Sys2Proof.Machine

/-! ### setGroup -/

@[simp] theorem State.setGroup_live (s : State) (G : Group) : (s.setGroup G).live = { s.live with groups := putGroup s.live.groups G } := rfl
@[simp] theorem State.setGroup_coreNo (s : State) (G : Group) : (s.setGroup G).coreNo = s.coreNo := rfl
@[simp] theorem State.setGroup_shadow (s : State) (G : Group) : (s.setGroup G).shadow = s.shadow := rfl
@[simp] theorem State.setGroup_shares (s : State) (G : Group) : (s.setGroup G).shares = s.shares := rfl
@[simp] theorem State.setGroup_lastWinner (s : State) (G : Group) : (s.setGroup G).lastWinner = s.lastWinner := rfl
@[simp] theorem State.setGroup_grids (s : State) (G : Group) : (s.setGroup G).grids = s.grids := rfl
@[simp] theorem State.setGroup_nextGrid (s : State) (G : Group) : (s.setGroup G).nextGrid = s.nextGrid := rfl
@[simp] theorem State.setGroup_reformAge (s : State) (G : Group) : (s.setGroup G).reformAge = s.reformAge := rfl
@[simp] theorem State.setGroup_replays (s : State) (G : Group) : (s.setGroup G).replays = s.replays := rfl
@[simp] theorem State.setGroup_replaySerial (s : State) (G : Group) : (s.setGroup G).replaySerial = s.replaySerial := rfl
@[simp] theorem State.setGroup_cloned (s : State) (G : Group) : (s.setGroup G).cloned = s.cloned := rfl
@[simp] theorem State.setGroup_tick (s : State) (G : Group) : (s.setGroup G).tick = s.tick := rfl
@[simp] theorem State.setGroup_idle (s : State) (G : Group) : (s.setGroup G).idle = s.idle := rfl
@[simp] theorem State.setGroup_nextUid (s : State) (G : Group) : (s.setGroup G).nextUid = s.nextUid := rfl
@[simp] theorem State.setGroup_mx (s : State) (G : Group) : (s.setGroup G).mx = s.mx := rfl
@[simp] theorem State.setGroup_tcs (s : State) (G : Group) : (s.setGroup G).tcs = s.tcs := rfl
@[simp] theorem State.setGroup_evq (s : State) (G : Group) : (s.setGroup G).evq = s.evq := rfl
@[simp] theorem State.setGroup_held (s : State) (G : Group) : (s.setGroup G).held = s.held := rfl
@[simp] theorem State.setGroup_engs (s : State) (G : Group) : (s.setGroup G).engs = s.engs := rfl
@[simp] theorem State.setGroup_bank (s : State) (G : Group) : (s.setGroup G).bank = s.bank := rfl
@[simp] theorem State.setGroup_paths (s : State) (G : Group) : (s.setGroup G).paths = s.paths := rfl
@[simp] theorem State.setGroup_cx (s : State) (G : Group) : (s.setGroup G).cx = s.cx := rfl
@[simp] theorem State.setGroup_images (s : State) (G : Group) : (s.setGroup G).images = s.images := rfl
@[simp] theorem State.setGroup_cal (s : State) (G : Group) : (s.setGroup G).cal = s.cal := rfl
@[simp] theorem State.setGroup_pkg (s : State) (G : Group) : (s.setGroup G).pkg = s.pkg := rfl
@[simp] theorem State.setGroup_dieCycles (s : State) (G : Group) : (s.setGroup G).dieCycles = s.dieCycles := rfl
@[simp] theorem State.setGroup_slices (s : State) (G : Group) : (s.setGroup G).slices = s.slices := rfl
@[simp] theorem State.setGroup_dram (s : State) (G : Group) : (s.setGroup G).dram = s.dram := rfl
@[simp] theorem State.setGroup_scr (s : State) (G : Group) : (s.setGroup G).scr = s.scr := rfl
@[simp] theorem State.setGroup_host (s : State) (G : Group) : (s.setGroup G).host = s.host := rfl
@[simp] theorem State.setGroup_eccBad (s : State) (G : Group) : (s.setGroup G).eccBad = s.eccBad := rfl
@[simp] theorem State.setGroup_rowBad (s : State) (G : Group) : (s.setGroup G).rowBad = s.rowBad := rfl
@[simp] theorem State.setGroup_tlb (s : State) (G : Group) : (s.setGroup G).tlb = s.tlb := rfl
@[simp] theorem State.setGroup_icache (s : State) (G : Group) : (s.setGroup G).icache = s.icache := rfl
@[simp] theorem State.setGroup_records (s : State) (G : Group) : (s.setGroup G).records = s.records := rfl
@[simp] theorem State.setGroup_rings (s : State) (G : Group) : (s.setGroup G).rings = s.rings := rfl
@[simp] theorem State.setGroup_fc (s : State) (G : Group) : (s.setGroup G).fc = s.fc := rfl
@[simp] theorem State.setGroup_flash (s : State) (G : Group) : (s.setGroup G).flash = s.flash := rfl
@[simp] theorem State.setGroup_points (s : State) (G : Group) : (s.setGroup G).points = s.points := rfl
@[simp] theorem State.setGroup_messages (s : State) (G : Group) : (s.setGroup G).messages = s.messages := rfl
@[simp] theorem State.setGroup_turns (s : State) (G : Group) : (s.setGroup G).turns = s.turns := rfl
@[simp] theorem State.setGroup_device (s : State) (G : Group) : (s.setGroup G).device = s.device := rfl
@[simp] theorem State.setGroup_inputs (s : State) (G : Group) : (s.setGroup G).inputs = s.inputs := rfl
@[simp] theorem State.setGroup_issues (s : State) (G : Group) : (s.setGroup G).issues = s.issues := rfl
@[simp] theorem State.setGroup_cur (s : State) (G : Group) : (s.setGroup G).cur = s.cur := rfl
@[simp] theorem State.setGroup_free (s : State) (G : Group) : (s.setGroup G).free = s.free := rfl

/-! ### setTeam -/

@[simp] theorem State.setTeam_live (s : State) (T : Team) : (s.setTeam T).live = { s.live with teams := s.live.teams.map fun U => if U.slot = T.slot then T else U } := rfl
@[simp] theorem State.setTeam_coreNo (s : State) (T : Team) : (s.setTeam T).coreNo = s.coreNo := rfl
@[simp] theorem State.setTeam_shadow (s : State) (T : Team) : (s.setTeam T).shadow = s.shadow := rfl
@[simp] theorem State.setTeam_shares (s : State) (T : Team) : (s.setTeam T).shares = s.shares := rfl
@[simp] theorem State.setTeam_lastWinner (s : State) (T : Team) : (s.setTeam T).lastWinner = s.lastWinner := rfl
@[simp] theorem State.setTeam_grids (s : State) (T : Team) : (s.setTeam T).grids = s.grids := rfl
@[simp] theorem State.setTeam_nextGrid (s : State) (T : Team) : (s.setTeam T).nextGrid = s.nextGrid := rfl
@[simp] theorem State.setTeam_reformAge (s : State) (T : Team) : (s.setTeam T).reformAge = s.reformAge := rfl
@[simp] theorem State.setTeam_replays (s : State) (T : Team) : (s.setTeam T).replays = s.replays := rfl
@[simp] theorem State.setTeam_replaySerial (s : State) (T : Team) : (s.setTeam T).replaySerial = s.replaySerial := rfl
@[simp] theorem State.setTeam_cloned (s : State) (T : Team) : (s.setTeam T).cloned = s.cloned := rfl
@[simp] theorem State.setTeam_tick (s : State) (T : Team) : (s.setTeam T).tick = s.tick := rfl
@[simp] theorem State.setTeam_idle (s : State) (T : Team) : (s.setTeam T).idle = s.idle := rfl
@[simp] theorem State.setTeam_nextUid (s : State) (T : Team) : (s.setTeam T).nextUid = s.nextUid := rfl
@[simp] theorem State.setTeam_mx (s : State) (T : Team) : (s.setTeam T).mx = s.mx := rfl
@[simp] theorem State.setTeam_tcs (s : State) (T : Team) : (s.setTeam T).tcs = s.tcs := rfl
@[simp] theorem State.setTeam_evq (s : State) (T : Team) : (s.setTeam T).evq = s.evq := rfl
@[simp] theorem State.setTeam_held (s : State) (T : Team) : (s.setTeam T).held = s.held := rfl
@[simp] theorem State.setTeam_engs (s : State) (T : Team) : (s.setTeam T).engs = s.engs := rfl
@[simp] theorem State.setTeam_bank (s : State) (T : Team) : (s.setTeam T).bank = s.bank := rfl
@[simp] theorem State.setTeam_paths (s : State) (T : Team) : (s.setTeam T).paths = s.paths := rfl
@[simp] theorem State.setTeam_cx (s : State) (T : Team) : (s.setTeam T).cx = s.cx := rfl
@[simp] theorem State.setTeam_images (s : State) (T : Team) : (s.setTeam T).images = s.images := rfl
@[simp] theorem State.setTeam_cal (s : State) (T : Team) : (s.setTeam T).cal = s.cal := rfl
@[simp] theorem State.setTeam_pkg (s : State) (T : Team) : (s.setTeam T).pkg = s.pkg := rfl
@[simp] theorem State.setTeam_dieCycles (s : State) (T : Team) : (s.setTeam T).dieCycles = s.dieCycles := rfl
@[simp] theorem State.setTeam_slices (s : State) (T : Team) : (s.setTeam T).slices = s.slices := rfl
@[simp] theorem State.setTeam_dram (s : State) (T : Team) : (s.setTeam T).dram = s.dram := rfl
@[simp] theorem State.setTeam_scr (s : State) (T : Team) : (s.setTeam T).scr = s.scr := rfl
@[simp] theorem State.setTeam_host (s : State) (T : Team) : (s.setTeam T).host = s.host := rfl
@[simp] theorem State.setTeam_eccBad (s : State) (T : Team) : (s.setTeam T).eccBad = s.eccBad := rfl
@[simp] theorem State.setTeam_rowBad (s : State) (T : Team) : (s.setTeam T).rowBad = s.rowBad := rfl
@[simp] theorem State.setTeam_tlb (s : State) (T : Team) : (s.setTeam T).tlb = s.tlb := rfl
@[simp] theorem State.setTeam_icache (s : State) (T : Team) : (s.setTeam T).icache = s.icache := rfl
@[simp] theorem State.setTeam_records (s : State) (T : Team) : (s.setTeam T).records = s.records := rfl
@[simp] theorem State.setTeam_rings (s : State) (T : Team) : (s.setTeam T).rings = s.rings := rfl
@[simp] theorem State.setTeam_fc (s : State) (T : Team) : (s.setTeam T).fc = s.fc := rfl
@[simp] theorem State.setTeam_flash (s : State) (T : Team) : (s.setTeam T).flash = s.flash := rfl
@[simp] theorem State.setTeam_points (s : State) (T : Team) : (s.setTeam T).points = s.points := rfl
@[simp] theorem State.setTeam_messages (s : State) (T : Team) : (s.setTeam T).messages = s.messages := rfl
@[simp] theorem State.setTeam_turns (s : State) (T : Team) : (s.setTeam T).turns = s.turns := rfl
@[simp] theorem State.setTeam_device (s : State) (T : Team) : (s.setTeam T).device = s.device := rfl
@[simp] theorem State.setTeam_inputs (s : State) (T : Team) : (s.setTeam T).inputs = s.inputs := rfl
@[simp] theorem State.setTeam_issues (s : State) (T : Team) : (s.setTeam T).issues = s.issues := rfl
@[simp] theorem State.setTeam_cur (s : State) (T : Team) : (s.setTeam T).cur = s.cur := rfl
@[simp] theorem State.setTeam_free (s : State) (T : Team) : (s.setTeam T).free = s.free := rfl

/-! ### setGrid -/

@[simp] theorem State.setGrid_grids (s : State) (g : Grid) : (s.setGrid g).grids = s.grids.map fun h => if h.id = g.id then g else h := rfl
@[simp] theorem State.setGrid_coreNo (s : State) (g : Grid) : (s.setGrid g).coreNo = s.coreNo := rfl
@[simp] theorem State.setGrid_live (s : State) (g : Grid) : (s.setGrid g).live = s.live := rfl
@[simp] theorem State.setGrid_shadow (s : State) (g : Grid) : (s.setGrid g).shadow = s.shadow := rfl
@[simp] theorem State.setGrid_shares (s : State) (g : Grid) : (s.setGrid g).shares = s.shares := rfl
@[simp] theorem State.setGrid_lastWinner (s : State) (g : Grid) : (s.setGrid g).lastWinner = s.lastWinner := rfl
@[simp] theorem State.setGrid_nextGrid (s : State) (g : Grid) : (s.setGrid g).nextGrid = s.nextGrid := rfl
@[simp] theorem State.setGrid_reformAge (s : State) (g : Grid) : (s.setGrid g).reformAge = s.reformAge := rfl
@[simp] theorem State.setGrid_replays (s : State) (g : Grid) : (s.setGrid g).replays = s.replays := rfl
@[simp] theorem State.setGrid_replaySerial (s : State) (g : Grid) : (s.setGrid g).replaySerial = s.replaySerial := rfl
@[simp] theorem State.setGrid_cloned (s : State) (g : Grid) : (s.setGrid g).cloned = s.cloned := rfl
@[simp] theorem State.setGrid_tick (s : State) (g : Grid) : (s.setGrid g).tick = s.tick := rfl
@[simp] theorem State.setGrid_idle (s : State) (g : Grid) : (s.setGrid g).idle = s.idle := rfl
@[simp] theorem State.setGrid_nextUid (s : State) (g : Grid) : (s.setGrid g).nextUid = s.nextUid := rfl
@[simp] theorem State.setGrid_mx (s : State) (g : Grid) : (s.setGrid g).mx = s.mx := rfl
@[simp] theorem State.setGrid_tcs (s : State) (g : Grid) : (s.setGrid g).tcs = s.tcs := rfl
@[simp] theorem State.setGrid_evq (s : State) (g : Grid) : (s.setGrid g).evq = s.evq := rfl
@[simp] theorem State.setGrid_held (s : State) (g : Grid) : (s.setGrid g).held = s.held := rfl
@[simp] theorem State.setGrid_engs (s : State) (g : Grid) : (s.setGrid g).engs = s.engs := rfl
@[simp] theorem State.setGrid_bank (s : State) (g : Grid) : (s.setGrid g).bank = s.bank := rfl
@[simp] theorem State.setGrid_paths (s : State) (g : Grid) : (s.setGrid g).paths = s.paths := rfl
@[simp] theorem State.setGrid_cx (s : State) (g : Grid) : (s.setGrid g).cx = s.cx := rfl
@[simp] theorem State.setGrid_images (s : State) (g : Grid) : (s.setGrid g).images = s.images := rfl
@[simp] theorem State.setGrid_cal (s : State) (g : Grid) : (s.setGrid g).cal = s.cal := rfl
@[simp] theorem State.setGrid_pkg (s : State) (g : Grid) : (s.setGrid g).pkg = s.pkg := rfl
@[simp] theorem State.setGrid_dieCycles (s : State) (g : Grid) : (s.setGrid g).dieCycles = s.dieCycles := rfl
@[simp] theorem State.setGrid_slices (s : State) (g : Grid) : (s.setGrid g).slices = s.slices := rfl
@[simp] theorem State.setGrid_dram (s : State) (g : Grid) : (s.setGrid g).dram = s.dram := rfl
@[simp] theorem State.setGrid_scr (s : State) (g : Grid) : (s.setGrid g).scr = s.scr := rfl
@[simp] theorem State.setGrid_host (s : State) (g : Grid) : (s.setGrid g).host = s.host := rfl
@[simp] theorem State.setGrid_eccBad (s : State) (g : Grid) : (s.setGrid g).eccBad = s.eccBad := rfl
@[simp] theorem State.setGrid_rowBad (s : State) (g : Grid) : (s.setGrid g).rowBad = s.rowBad := rfl
@[simp] theorem State.setGrid_tlb (s : State) (g : Grid) : (s.setGrid g).tlb = s.tlb := rfl
@[simp] theorem State.setGrid_icache (s : State) (g : Grid) : (s.setGrid g).icache = s.icache := rfl
@[simp] theorem State.setGrid_records (s : State) (g : Grid) : (s.setGrid g).records = s.records := rfl
@[simp] theorem State.setGrid_rings (s : State) (g : Grid) : (s.setGrid g).rings = s.rings := rfl
@[simp] theorem State.setGrid_fc (s : State) (g : Grid) : (s.setGrid g).fc = s.fc := rfl
@[simp] theorem State.setGrid_flash (s : State) (g : Grid) : (s.setGrid g).flash = s.flash := rfl
@[simp] theorem State.setGrid_points (s : State) (g : Grid) : (s.setGrid g).points = s.points := rfl
@[simp] theorem State.setGrid_messages (s : State) (g : Grid) : (s.setGrid g).messages = s.messages := rfl
@[simp] theorem State.setGrid_turns (s : State) (g : Grid) : (s.setGrid g).turns = s.turns := rfl
@[simp] theorem State.setGrid_device (s : State) (g : Grid) : (s.setGrid g).device = s.device := rfl
@[simp] theorem State.setGrid_inputs (s : State) (g : Grid) : (s.setGrid g).inputs = s.inputs := rfl
@[simp] theorem State.setGrid_issues (s : State) (g : Grid) : (s.setGrid g).issues = s.issues := rfl
@[simp] theorem State.setGrid_cur (s : State) (g : Grid) : (s.setGrid g).cur = s.cur := rfl
@[simp] theorem State.setGrid_free (s : State) (g : Grid) : (s.setGrid g).free = s.free := rfl

/-! ### setShare -/

@[simp] theorem State.setShare_shares (s : State) (i : Nat) (x : Share) : (s.setShare i x).shares = s.shares.set i (some x) := rfl
@[simp] theorem State.setShare_coreNo (s : State) (i : Nat) (x : Share) : (s.setShare i x).coreNo = s.coreNo := rfl
@[simp] theorem State.setShare_live (s : State) (i : Nat) (x : Share) : (s.setShare i x).live = s.live := rfl
@[simp] theorem State.setShare_shadow (s : State) (i : Nat) (x : Share) : (s.setShare i x).shadow = s.shadow := rfl
@[simp] theorem State.setShare_lastWinner (s : State) (i : Nat) (x : Share) : (s.setShare i x).lastWinner = s.lastWinner := rfl
@[simp] theorem State.setShare_grids (s : State) (i : Nat) (x : Share) : (s.setShare i x).grids = s.grids := rfl
@[simp] theorem State.setShare_nextGrid (s : State) (i : Nat) (x : Share) : (s.setShare i x).nextGrid = s.nextGrid := rfl
@[simp] theorem State.setShare_reformAge (s : State) (i : Nat) (x : Share) : (s.setShare i x).reformAge = s.reformAge := rfl
@[simp] theorem State.setShare_replays (s : State) (i : Nat) (x : Share) : (s.setShare i x).replays = s.replays := rfl
@[simp] theorem State.setShare_replaySerial (s : State) (i : Nat) (x : Share) : (s.setShare i x).replaySerial = s.replaySerial := rfl
@[simp] theorem State.setShare_cloned (s : State) (i : Nat) (x : Share) : (s.setShare i x).cloned = s.cloned := rfl
@[simp] theorem State.setShare_tick (s : State) (i : Nat) (x : Share) : (s.setShare i x).tick = s.tick := rfl
@[simp] theorem State.setShare_idle (s : State) (i : Nat) (x : Share) : (s.setShare i x).idle = s.idle := rfl
@[simp] theorem State.setShare_nextUid (s : State) (i : Nat) (x : Share) : (s.setShare i x).nextUid = s.nextUid := rfl
@[simp] theorem State.setShare_mx (s : State) (i : Nat) (x : Share) : (s.setShare i x).mx = s.mx := rfl
@[simp] theorem State.setShare_tcs (s : State) (i : Nat) (x : Share) : (s.setShare i x).tcs = s.tcs := rfl
@[simp] theorem State.setShare_evq (s : State) (i : Nat) (x : Share) : (s.setShare i x).evq = s.evq := rfl
@[simp] theorem State.setShare_held (s : State) (i : Nat) (x : Share) : (s.setShare i x).held = s.held := rfl
@[simp] theorem State.setShare_engs (s : State) (i : Nat) (x : Share) : (s.setShare i x).engs = s.engs := rfl
@[simp] theorem State.setShare_bank (s : State) (i : Nat) (x : Share) : (s.setShare i x).bank = s.bank := rfl
@[simp] theorem State.setShare_paths (s : State) (i : Nat) (x : Share) : (s.setShare i x).paths = s.paths := rfl
@[simp] theorem State.setShare_cx (s : State) (i : Nat) (x : Share) : (s.setShare i x).cx = s.cx := rfl
@[simp] theorem State.setShare_images (s : State) (i : Nat) (x : Share) : (s.setShare i x).images = s.images := rfl
@[simp] theorem State.setShare_cal (s : State) (i : Nat) (x : Share) : (s.setShare i x).cal = s.cal := rfl
@[simp] theorem State.setShare_pkg (s : State) (i : Nat) (x : Share) : (s.setShare i x).pkg = s.pkg := rfl
@[simp] theorem State.setShare_dieCycles (s : State) (i : Nat) (x : Share) : (s.setShare i x).dieCycles = s.dieCycles := rfl
@[simp] theorem State.setShare_slices (s : State) (i : Nat) (x : Share) : (s.setShare i x).slices = s.slices := rfl
@[simp] theorem State.setShare_dram (s : State) (i : Nat) (x : Share) : (s.setShare i x).dram = s.dram := rfl
@[simp] theorem State.setShare_scr (s : State) (i : Nat) (x : Share) : (s.setShare i x).scr = s.scr := rfl
@[simp] theorem State.setShare_host (s : State) (i : Nat) (x : Share) : (s.setShare i x).host = s.host := rfl
@[simp] theorem State.setShare_eccBad (s : State) (i : Nat) (x : Share) : (s.setShare i x).eccBad = s.eccBad := rfl
@[simp] theorem State.setShare_rowBad (s : State) (i : Nat) (x : Share) : (s.setShare i x).rowBad = s.rowBad := rfl
@[simp] theorem State.setShare_tlb (s : State) (i : Nat) (x : Share) : (s.setShare i x).tlb = s.tlb := rfl
@[simp] theorem State.setShare_icache (s : State) (i : Nat) (x : Share) : (s.setShare i x).icache = s.icache := rfl
@[simp] theorem State.setShare_records (s : State) (i : Nat) (x : Share) : (s.setShare i x).records = s.records := rfl
@[simp] theorem State.setShare_rings (s : State) (i : Nat) (x : Share) : (s.setShare i x).rings = s.rings := rfl
@[simp] theorem State.setShare_fc (s : State) (i : Nat) (x : Share) : (s.setShare i x).fc = s.fc := rfl
@[simp] theorem State.setShare_flash (s : State) (i : Nat) (x : Share) : (s.setShare i x).flash = s.flash := rfl
@[simp] theorem State.setShare_points (s : State) (i : Nat) (x : Share) : (s.setShare i x).points = s.points := rfl
@[simp] theorem State.setShare_messages (s : State) (i : Nat) (x : Share) : (s.setShare i x).messages = s.messages := rfl
@[simp] theorem State.setShare_turns (s : State) (i : Nat) (x : Share) : (s.setShare i x).turns = s.turns := rfl
@[simp] theorem State.setShare_device (s : State) (i : Nat) (x : Share) : (s.setShare i x).device = s.device := rfl
@[simp] theorem State.setShare_inputs (s : State) (i : Nat) (x : Share) : (s.setShare i x).inputs = s.inputs := rfl
@[simp] theorem State.setShare_issues (s : State) (i : Nat) (x : Share) : (s.setShare i x).issues = s.issues := rfl
@[simp] theorem State.setShare_cur (s : State) (i : Nat) (x : Share) : (s.setShare i x).cur = s.cur := rfl
@[simp] theorem State.setShare_free (s : State) (i : Nat) (x : Share) : (s.setShare i x).free = s.free := rfl

/-! ### setSlice -/

@[simp] theorem State.setSlice_slices (s : State) (f : Nat) (x : Slice) : (s.setSlice f x).slices = s.slices.set f x := rfl
@[simp] theorem State.setSlice_coreNo (s : State) (f : Nat) (x : Slice) : (s.setSlice f x).coreNo = s.coreNo := rfl
@[simp] theorem State.setSlice_live (s : State) (f : Nat) (x : Slice) : (s.setSlice f x).live = s.live := rfl
@[simp] theorem State.setSlice_shadow (s : State) (f : Nat) (x : Slice) : (s.setSlice f x).shadow = s.shadow := rfl
@[simp] theorem State.setSlice_shares (s : State) (f : Nat) (x : Slice) : (s.setSlice f x).shares = s.shares := rfl
@[simp] theorem State.setSlice_lastWinner (s : State) (f : Nat) (x : Slice) : (s.setSlice f x).lastWinner = s.lastWinner := rfl
@[simp] theorem State.setSlice_grids (s : State) (f : Nat) (x : Slice) : (s.setSlice f x).grids = s.grids := rfl
@[simp] theorem State.setSlice_nextGrid (s : State) (f : Nat) (x : Slice) : (s.setSlice f x).nextGrid = s.nextGrid := rfl
@[simp] theorem State.setSlice_reformAge (s : State) (f : Nat) (x : Slice) : (s.setSlice f x).reformAge = s.reformAge := rfl
@[simp] theorem State.setSlice_replays (s : State) (f : Nat) (x : Slice) : (s.setSlice f x).replays = s.replays := rfl
@[simp] theorem State.setSlice_replaySerial (s : State) (f : Nat) (x : Slice) : (s.setSlice f x).replaySerial = s.replaySerial := rfl
@[simp] theorem State.setSlice_cloned (s : State) (f : Nat) (x : Slice) : (s.setSlice f x).cloned = s.cloned := rfl
@[simp] theorem State.setSlice_tick (s : State) (f : Nat) (x : Slice) : (s.setSlice f x).tick = s.tick := rfl
@[simp] theorem State.setSlice_idle (s : State) (f : Nat) (x : Slice) : (s.setSlice f x).idle = s.idle := rfl
@[simp] theorem State.setSlice_nextUid (s : State) (f : Nat) (x : Slice) : (s.setSlice f x).nextUid = s.nextUid := rfl
@[simp] theorem State.setSlice_mx (s : State) (f : Nat) (x : Slice) : (s.setSlice f x).mx = s.mx := rfl
@[simp] theorem State.setSlice_tcs (s : State) (f : Nat) (x : Slice) : (s.setSlice f x).tcs = s.tcs := rfl
@[simp] theorem State.setSlice_evq (s : State) (f : Nat) (x : Slice) : (s.setSlice f x).evq = s.evq := rfl
@[simp] theorem State.setSlice_held (s : State) (f : Nat) (x : Slice) : (s.setSlice f x).held = s.held := rfl
@[simp] theorem State.setSlice_engs (s : State) (f : Nat) (x : Slice) : (s.setSlice f x).engs = s.engs := rfl
@[simp] theorem State.setSlice_bank (s : State) (f : Nat) (x : Slice) : (s.setSlice f x).bank = s.bank := rfl
@[simp] theorem State.setSlice_paths (s : State) (f : Nat) (x : Slice) : (s.setSlice f x).paths = s.paths := rfl
@[simp] theorem State.setSlice_cx (s : State) (f : Nat) (x : Slice) : (s.setSlice f x).cx = s.cx := rfl
@[simp] theorem State.setSlice_images (s : State) (f : Nat) (x : Slice) : (s.setSlice f x).images = s.images := rfl
@[simp] theorem State.setSlice_cal (s : State) (f : Nat) (x : Slice) : (s.setSlice f x).cal = s.cal := rfl
@[simp] theorem State.setSlice_pkg (s : State) (f : Nat) (x : Slice) : (s.setSlice f x).pkg = s.pkg := rfl
@[simp] theorem State.setSlice_dieCycles (s : State) (f : Nat) (x : Slice) : (s.setSlice f x).dieCycles = s.dieCycles := rfl
@[simp] theorem State.setSlice_dram (s : State) (f : Nat) (x : Slice) : (s.setSlice f x).dram = s.dram := rfl
@[simp] theorem State.setSlice_scr (s : State) (f : Nat) (x : Slice) : (s.setSlice f x).scr = s.scr := rfl
@[simp] theorem State.setSlice_host (s : State) (f : Nat) (x : Slice) : (s.setSlice f x).host = s.host := rfl
@[simp] theorem State.setSlice_eccBad (s : State) (f : Nat) (x : Slice) : (s.setSlice f x).eccBad = s.eccBad := rfl
@[simp] theorem State.setSlice_rowBad (s : State) (f : Nat) (x : Slice) : (s.setSlice f x).rowBad = s.rowBad := rfl
@[simp] theorem State.setSlice_tlb (s : State) (f : Nat) (x : Slice) : (s.setSlice f x).tlb = s.tlb := rfl
@[simp] theorem State.setSlice_icache (s : State) (f : Nat) (x : Slice) : (s.setSlice f x).icache = s.icache := rfl
@[simp] theorem State.setSlice_records (s : State) (f : Nat) (x : Slice) : (s.setSlice f x).records = s.records := rfl
@[simp] theorem State.setSlice_rings (s : State) (f : Nat) (x : Slice) : (s.setSlice f x).rings = s.rings := rfl
@[simp] theorem State.setSlice_fc (s : State) (f : Nat) (x : Slice) : (s.setSlice f x).fc = s.fc := rfl
@[simp] theorem State.setSlice_flash (s : State) (f : Nat) (x : Slice) : (s.setSlice f x).flash = s.flash := rfl
@[simp] theorem State.setSlice_points (s : State) (f : Nat) (x : Slice) : (s.setSlice f x).points = s.points := rfl
@[simp] theorem State.setSlice_messages (s : State) (f : Nat) (x : Slice) : (s.setSlice f x).messages = s.messages := rfl
@[simp] theorem State.setSlice_turns (s : State) (f : Nat) (x : Slice) : (s.setSlice f x).turns = s.turns := rfl
@[simp] theorem State.setSlice_device (s : State) (f : Nat) (x : Slice) : (s.setSlice f x).device = s.device := rfl
@[simp] theorem State.setSlice_inputs (s : State) (f : Nat) (x : Slice) : (s.setSlice f x).inputs = s.inputs := rfl
@[simp] theorem State.setSlice_issues (s : State) (f : Nat) (x : Slice) : (s.setSlice f x).issues = s.issues := rfl
@[simp] theorem State.setSlice_cur (s : State) (f : Nat) (x : Slice) : (s.setSlice f x).cur = s.cur := rfl
@[simp] theorem State.setSlice_free (s : State) (f : Nat) (x : Slice) : (s.setSlice f x).free = s.free := rfl

/-! ### setRing -/

@[simp] theorem State.setRing_rings (s : State) (u : Nat) (r : Ring) : (s.setRing u r).rings = putRing s.rings u r := rfl
@[simp] theorem State.setRing_coreNo (s : State) (u : Nat) (r : Ring) : (s.setRing u r).coreNo = s.coreNo := rfl
@[simp] theorem State.setRing_live (s : State) (u : Nat) (r : Ring) : (s.setRing u r).live = s.live := rfl
@[simp] theorem State.setRing_shadow (s : State) (u : Nat) (r : Ring) : (s.setRing u r).shadow = s.shadow := rfl
@[simp] theorem State.setRing_shares (s : State) (u : Nat) (r : Ring) : (s.setRing u r).shares = s.shares := rfl
@[simp] theorem State.setRing_lastWinner (s : State) (u : Nat) (r : Ring) : (s.setRing u r).lastWinner = s.lastWinner := rfl
@[simp] theorem State.setRing_grids (s : State) (u : Nat) (r : Ring) : (s.setRing u r).grids = s.grids := rfl
@[simp] theorem State.setRing_nextGrid (s : State) (u : Nat) (r : Ring) : (s.setRing u r).nextGrid = s.nextGrid := rfl
@[simp] theorem State.setRing_reformAge (s : State) (u : Nat) (r : Ring) : (s.setRing u r).reformAge = s.reformAge := rfl
@[simp] theorem State.setRing_replays (s : State) (u : Nat) (r : Ring) : (s.setRing u r).replays = s.replays := rfl
@[simp] theorem State.setRing_replaySerial (s : State) (u : Nat) (r : Ring) : (s.setRing u r).replaySerial = s.replaySerial := rfl
@[simp] theorem State.setRing_cloned (s : State) (u : Nat) (r : Ring) : (s.setRing u r).cloned = s.cloned := rfl
@[simp] theorem State.setRing_tick (s : State) (u : Nat) (r : Ring) : (s.setRing u r).tick = s.tick := rfl
@[simp] theorem State.setRing_idle (s : State) (u : Nat) (r : Ring) : (s.setRing u r).idle = s.idle := rfl
@[simp] theorem State.setRing_nextUid (s : State) (u : Nat) (r : Ring) : (s.setRing u r).nextUid = s.nextUid := rfl
@[simp] theorem State.setRing_mx (s : State) (u : Nat) (r : Ring) : (s.setRing u r).mx = s.mx := rfl
@[simp] theorem State.setRing_tcs (s : State) (u : Nat) (r : Ring) : (s.setRing u r).tcs = s.tcs := rfl
@[simp] theorem State.setRing_evq (s : State) (u : Nat) (r : Ring) : (s.setRing u r).evq = s.evq := rfl
@[simp] theorem State.setRing_held (s : State) (u : Nat) (r : Ring) : (s.setRing u r).held = s.held := rfl
@[simp] theorem State.setRing_engs (s : State) (u : Nat) (r : Ring) : (s.setRing u r).engs = s.engs := rfl
@[simp] theorem State.setRing_bank (s : State) (u : Nat) (r : Ring) : (s.setRing u r).bank = s.bank := rfl
@[simp] theorem State.setRing_paths (s : State) (u : Nat) (r : Ring) : (s.setRing u r).paths = s.paths := rfl
@[simp] theorem State.setRing_cx (s : State) (u : Nat) (r : Ring) : (s.setRing u r).cx = s.cx := rfl
@[simp] theorem State.setRing_images (s : State) (u : Nat) (r : Ring) : (s.setRing u r).images = s.images := rfl
@[simp] theorem State.setRing_cal (s : State) (u : Nat) (r : Ring) : (s.setRing u r).cal = s.cal := rfl
@[simp] theorem State.setRing_pkg (s : State) (u : Nat) (r : Ring) : (s.setRing u r).pkg = s.pkg := rfl
@[simp] theorem State.setRing_dieCycles (s : State) (u : Nat) (r : Ring) : (s.setRing u r).dieCycles = s.dieCycles := rfl
@[simp] theorem State.setRing_slices (s : State) (u : Nat) (r : Ring) : (s.setRing u r).slices = s.slices := rfl
@[simp] theorem State.setRing_dram (s : State) (u : Nat) (r : Ring) : (s.setRing u r).dram = s.dram := rfl
@[simp] theorem State.setRing_scr (s : State) (u : Nat) (r : Ring) : (s.setRing u r).scr = s.scr := rfl
@[simp] theorem State.setRing_host (s : State) (u : Nat) (r : Ring) : (s.setRing u r).host = s.host := rfl
@[simp] theorem State.setRing_eccBad (s : State) (u : Nat) (r : Ring) : (s.setRing u r).eccBad = s.eccBad := rfl
@[simp] theorem State.setRing_rowBad (s : State) (u : Nat) (r : Ring) : (s.setRing u r).rowBad = s.rowBad := rfl
@[simp] theorem State.setRing_tlb (s : State) (u : Nat) (r : Ring) : (s.setRing u r).tlb = s.tlb := rfl
@[simp] theorem State.setRing_icache (s : State) (u : Nat) (r : Ring) : (s.setRing u r).icache = s.icache := rfl
@[simp] theorem State.setRing_records (s : State) (u : Nat) (r : Ring) : (s.setRing u r).records = s.records := rfl
@[simp] theorem State.setRing_fc (s : State) (u : Nat) (r : Ring) : (s.setRing u r).fc = s.fc := rfl
@[simp] theorem State.setRing_flash (s : State) (u : Nat) (r : Ring) : (s.setRing u r).flash = s.flash := rfl
@[simp] theorem State.setRing_points (s : State) (u : Nat) (r : Ring) : (s.setRing u r).points = s.points := rfl
@[simp] theorem State.setRing_messages (s : State) (u : Nat) (r : Ring) : (s.setRing u r).messages = s.messages := rfl
@[simp] theorem State.setRing_turns (s : State) (u : Nat) (r : Ring) : (s.setRing u r).turns = s.turns := rfl
@[simp] theorem State.setRing_device (s : State) (u : Nat) (r : Ring) : (s.setRing u r).device = s.device := rfl
@[simp] theorem State.setRing_inputs (s : State) (u : Nat) (r : Ring) : (s.setRing u r).inputs = s.inputs := rfl
@[simp] theorem State.setRing_issues (s : State) (u : Nat) (r : Ring) : (s.setRing u r).issues = s.issues := rfl
@[simp] theorem State.setRing_cur (s : State) (u : Nat) (r : Ring) : (s.setRing u r).cur = s.cur := rfl
@[simp] theorem State.setRing_free (s : State) (u : Nat) (r : Ring) : (s.setRing u r).free = s.free := rfl

/-! ### setRun -/

@[simp] theorem State.setRun_bank (s : State) (r : Run) : (s.setRun r).bank = { s.bank with runs := s.bank.runs.map fun q => if q.id = r.id then r else q } := rfl
@[simp] theorem State.setRun_coreNo (s : State) (r : Run) : (s.setRun r).coreNo = s.coreNo := rfl
@[simp] theorem State.setRun_live (s : State) (r : Run) : (s.setRun r).live = s.live := rfl
@[simp] theorem State.setRun_shadow (s : State) (r : Run) : (s.setRun r).shadow = s.shadow := rfl
@[simp] theorem State.setRun_shares (s : State) (r : Run) : (s.setRun r).shares = s.shares := rfl
@[simp] theorem State.setRun_lastWinner (s : State) (r : Run) : (s.setRun r).lastWinner = s.lastWinner := rfl
@[simp] theorem State.setRun_grids (s : State) (r : Run) : (s.setRun r).grids = s.grids := rfl
@[simp] theorem State.setRun_nextGrid (s : State) (r : Run) : (s.setRun r).nextGrid = s.nextGrid := rfl
@[simp] theorem State.setRun_reformAge (s : State) (r : Run) : (s.setRun r).reformAge = s.reformAge := rfl
@[simp] theorem State.setRun_replays (s : State) (r : Run) : (s.setRun r).replays = s.replays := rfl
@[simp] theorem State.setRun_replaySerial (s : State) (r : Run) : (s.setRun r).replaySerial = s.replaySerial := rfl
@[simp] theorem State.setRun_cloned (s : State) (r : Run) : (s.setRun r).cloned = s.cloned := rfl
@[simp] theorem State.setRun_tick (s : State) (r : Run) : (s.setRun r).tick = s.tick := rfl
@[simp] theorem State.setRun_idle (s : State) (r : Run) : (s.setRun r).idle = s.idle := rfl
@[simp] theorem State.setRun_nextUid (s : State) (r : Run) : (s.setRun r).nextUid = s.nextUid := rfl
@[simp] theorem State.setRun_mx (s : State) (r : Run) : (s.setRun r).mx = s.mx := rfl
@[simp] theorem State.setRun_tcs (s : State) (r : Run) : (s.setRun r).tcs = s.tcs := rfl
@[simp] theorem State.setRun_evq (s : State) (r : Run) : (s.setRun r).evq = s.evq := rfl
@[simp] theorem State.setRun_held (s : State) (r : Run) : (s.setRun r).held = s.held := rfl
@[simp] theorem State.setRun_engs (s : State) (r : Run) : (s.setRun r).engs = s.engs := rfl
@[simp] theorem State.setRun_paths (s : State) (r : Run) : (s.setRun r).paths = s.paths := rfl
@[simp] theorem State.setRun_cx (s : State) (r : Run) : (s.setRun r).cx = s.cx := rfl
@[simp] theorem State.setRun_images (s : State) (r : Run) : (s.setRun r).images = s.images := rfl
@[simp] theorem State.setRun_cal (s : State) (r : Run) : (s.setRun r).cal = s.cal := rfl
@[simp] theorem State.setRun_pkg (s : State) (r : Run) : (s.setRun r).pkg = s.pkg := rfl
@[simp] theorem State.setRun_dieCycles (s : State) (r : Run) : (s.setRun r).dieCycles = s.dieCycles := rfl
@[simp] theorem State.setRun_slices (s : State) (r : Run) : (s.setRun r).slices = s.slices := rfl
@[simp] theorem State.setRun_dram (s : State) (r : Run) : (s.setRun r).dram = s.dram := rfl
@[simp] theorem State.setRun_scr (s : State) (r : Run) : (s.setRun r).scr = s.scr := rfl
@[simp] theorem State.setRun_host (s : State) (r : Run) : (s.setRun r).host = s.host := rfl
@[simp] theorem State.setRun_eccBad (s : State) (r : Run) : (s.setRun r).eccBad = s.eccBad := rfl
@[simp] theorem State.setRun_rowBad (s : State) (r : Run) : (s.setRun r).rowBad = s.rowBad := rfl
@[simp] theorem State.setRun_tlb (s : State) (r : Run) : (s.setRun r).tlb = s.tlb := rfl
@[simp] theorem State.setRun_icache (s : State) (r : Run) : (s.setRun r).icache = s.icache := rfl
@[simp] theorem State.setRun_records (s : State) (r : Run) : (s.setRun r).records = s.records := rfl
@[simp] theorem State.setRun_rings (s : State) (r : Run) : (s.setRun r).rings = s.rings := rfl
@[simp] theorem State.setRun_fc (s : State) (r : Run) : (s.setRun r).fc = s.fc := rfl
@[simp] theorem State.setRun_flash (s : State) (r : Run) : (s.setRun r).flash = s.flash := rfl
@[simp] theorem State.setRun_points (s : State) (r : Run) : (s.setRun r).points = s.points := rfl
@[simp] theorem State.setRun_messages (s : State) (r : Run) : (s.setRun r).messages = s.messages := rfl
@[simp] theorem State.setRun_turns (s : State) (r : Run) : (s.setRun r).turns = s.turns := rfl
@[simp] theorem State.setRun_device (s : State) (r : Run) : (s.setRun r).device = s.device := rfl
@[simp] theorem State.setRun_inputs (s : State) (r : Run) : (s.setRun r).inputs = s.inputs := rfl
@[simp] theorem State.setRun_issues (s : State) (r : Run) : (s.setRun r).issues = s.issues := rfl
@[simp] theorem State.setRun_cur (s : State) (r : Run) : (s.setRun r).cur = s.cur := rfl
@[simp] theorem State.setRun_free (s : State) (r : Run) : (s.setRun r).free = s.free := rfl

/-! ### setInst -/

@[simp] theorem State.setInst_bank (s : State) (i : Inst) : (s.setInst i).bank = { s.bank with insts := s.bank.insts.map fun j => if j.run = i.run ∧ j.k = i.k then i else j } := rfl
@[simp] theorem State.setInst_coreNo (s : State) (i : Inst) : (s.setInst i).coreNo = s.coreNo := rfl
@[simp] theorem State.setInst_live (s : State) (i : Inst) : (s.setInst i).live = s.live := rfl
@[simp] theorem State.setInst_shadow (s : State) (i : Inst) : (s.setInst i).shadow = s.shadow := rfl
@[simp] theorem State.setInst_shares (s : State) (i : Inst) : (s.setInst i).shares = s.shares := rfl
@[simp] theorem State.setInst_lastWinner (s : State) (i : Inst) : (s.setInst i).lastWinner = s.lastWinner := rfl
@[simp] theorem State.setInst_grids (s : State) (i : Inst) : (s.setInst i).grids = s.grids := rfl
@[simp] theorem State.setInst_nextGrid (s : State) (i : Inst) : (s.setInst i).nextGrid = s.nextGrid := rfl
@[simp] theorem State.setInst_reformAge (s : State) (i : Inst) : (s.setInst i).reformAge = s.reformAge := rfl
@[simp] theorem State.setInst_replays (s : State) (i : Inst) : (s.setInst i).replays = s.replays := rfl
@[simp] theorem State.setInst_replaySerial (s : State) (i : Inst) : (s.setInst i).replaySerial = s.replaySerial := rfl
@[simp] theorem State.setInst_cloned (s : State) (i : Inst) : (s.setInst i).cloned = s.cloned := rfl
@[simp] theorem State.setInst_tick (s : State) (i : Inst) : (s.setInst i).tick = s.tick := rfl
@[simp] theorem State.setInst_idle (s : State) (i : Inst) : (s.setInst i).idle = s.idle := rfl
@[simp] theorem State.setInst_nextUid (s : State) (i : Inst) : (s.setInst i).nextUid = s.nextUid := rfl
@[simp] theorem State.setInst_mx (s : State) (i : Inst) : (s.setInst i).mx = s.mx := rfl
@[simp] theorem State.setInst_tcs (s : State) (i : Inst) : (s.setInst i).tcs = s.tcs := rfl
@[simp] theorem State.setInst_evq (s : State) (i : Inst) : (s.setInst i).evq = s.evq := rfl
@[simp] theorem State.setInst_held (s : State) (i : Inst) : (s.setInst i).held = s.held := rfl
@[simp] theorem State.setInst_engs (s : State) (i : Inst) : (s.setInst i).engs = s.engs := rfl
@[simp] theorem State.setInst_paths (s : State) (i : Inst) : (s.setInst i).paths = s.paths := rfl
@[simp] theorem State.setInst_cx (s : State) (i : Inst) : (s.setInst i).cx = s.cx := rfl
@[simp] theorem State.setInst_images (s : State) (i : Inst) : (s.setInst i).images = s.images := rfl
@[simp] theorem State.setInst_cal (s : State) (i : Inst) : (s.setInst i).cal = s.cal := rfl
@[simp] theorem State.setInst_pkg (s : State) (i : Inst) : (s.setInst i).pkg = s.pkg := rfl
@[simp] theorem State.setInst_dieCycles (s : State) (i : Inst) : (s.setInst i).dieCycles = s.dieCycles := rfl
@[simp] theorem State.setInst_slices (s : State) (i : Inst) : (s.setInst i).slices = s.slices := rfl
@[simp] theorem State.setInst_dram (s : State) (i : Inst) : (s.setInst i).dram = s.dram := rfl
@[simp] theorem State.setInst_scr (s : State) (i : Inst) : (s.setInst i).scr = s.scr := rfl
@[simp] theorem State.setInst_host (s : State) (i : Inst) : (s.setInst i).host = s.host := rfl
@[simp] theorem State.setInst_eccBad (s : State) (i : Inst) : (s.setInst i).eccBad = s.eccBad := rfl
@[simp] theorem State.setInst_rowBad (s : State) (i : Inst) : (s.setInst i).rowBad = s.rowBad := rfl
@[simp] theorem State.setInst_tlb (s : State) (i : Inst) : (s.setInst i).tlb = s.tlb := rfl
@[simp] theorem State.setInst_icache (s : State) (i : Inst) : (s.setInst i).icache = s.icache := rfl
@[simp] theorem State.setInst_records (s : State) (i : Inst) : (s.setInst i).records = s.records := rfl
@[simp] theorem State.setInst_rings (s : State) (i : Inst) : (s.setInst i).rings = s.rings := rfl
@[simp] theorem State.setInst_fc (s : State) (i : Inst) : (s.setInst i).fc = s.fc := rfl
@[simp] theorem State.setInst_flash (s : State) (i : Inst) : (s.setInst i).flash = s.flash := rfl
@[simp] theorem State.setInst_points (s : State) (i : Inst) : (s.setInst i).points = s.points := rfl
@[simp] theorem State.setInst_messages (s : State) (i : Inst) : (s.setInst i).messages = s.messages := rfl
@[simp] theorem State.setInst_turns (s : State) (i : Inst) : (s.setInst i).turns = s.turns := rfl
@[simp] theorem State.setInst_device (s : State) (i : Inst) : (s.setInst i).device = s.device := rfl
@[simp] theorem State.setInst_inputs (s : State) (i : Inst) : (s.setInst i).inputs = s.inputs := rfl
@[simp] theorem State.setInst_issues (s : State) (i : Inst) : (s.setInst i).issues = s.issues := rfl
@[simp] theorem State.setInst_cur (s : State) (i : Inst) : (s.setInst i).cur = s.cur := rfl
@[simp] theorem State.setInst_free (s : State) (i : Inst) : (s.setInst i).free = s.free := rfl

/-! ### setPart -/

@[simp] theorem State.setPart_evq (s : State) (core f : Nat) (l : List EvRecord) : (s.setPart core f l).evq = (core * 64 + f, l) :: s.evq.filter fun p => p.1 != core * 64 + f := rfl
@[simp] theorem State.setPart_coreNo (s : State) (core f : Nat) (l : List EvRecord) : (s.setPart core f l).coreNo = s.coreNo := rfl
@[simp] theorem State.setPart_live (s : State) (core f : Nat) (l : List EvRecord) : (s.setPart core f l).live = s.live := rfl
@[simp] theorem State.setPart_shadow (s : State) (core f : Nat) (l : List EvRecord) : (s.setPart core f l).shadow = s.shadow := rfl
@[simp] theorem State.setPart_shares (s : State) (core f : Nat) (l : List EvRecord) : (s.setPart core f l).shares = s.shares := rfl
@[simp] theorem State.setPart_lastWinner (s : State) (core f : Nat) (l : List EvRecord) : (s.setPart core f l).lastWinner = s.lastWinner := rfl
@[simp] theorem State.setPart_grids (s : State) (core f : Nat) (l : List EvRecord) : (s.setPart core f l).grids = s.grids := rfl
@[simp] theorem State.setPart_nextGrid (s : State) (core f : Nat) (l : List EvRecord) : (s.setPart core f l).nextGrid = s.nextGrid := rfl
@[simp] theorem State.setPart_reformAge (s : State) (core f : Nat) (l : List EvRecord) : (s.setPart core f l).reformAge = s.reformAge := rfl
@[simp] theorem State.setPart_replays (s : State) (core f : Nat) (l : List EvRecord) : (s.setPart core f l).replays = s.replays := rfl
@[simp] theorem State.setPart_replaySerial (s : State) (core f : Nat) (l : List EvRecord) : (s.setPart core f l).replaySerial = s.replaySerial := rfl
@[simp] theorem State.setPart_cloned (s : State) (core f : Nat) (l : List EvRecord) : (s.setPart core f l).cloned = s.cloned := rfl
@[simp] theorem State.setPart_tick (s : State) (core f : Nat) (l : List EvRecord) : (s.setPart core f l).tick = s.tick := rfl
@[simp] theorem State.setPart_idle (s : State) (core f : Nat) (l : List EvRecord) : (s.setPart core f l).idle = s.idle := rfl
@[simp] theorem State.setPart_nextUid (s : State) (core f : Nat) (l : List EvRecord) : (s.setPart core f l).nextUid = s.nextUid := rfl
@[simp] theorem State.setPart_mx (s : State) (core f : Nat) (l : List EvRecord) : (s.setPart core f l).mx = s.mx := rfl
@[simp] theorem State.setPart_tcs (s : State) (core f : Nat) (l : List EvRecord) : (s.setPart core f l).tcs = s.tcs := rfl
@[simp] theorem State.setPart_held (s : State) (core f : Nat) (l : List EvRecord) : (s.setPart core f l).held = s.held := rfl
@[simp] theorem State.setPart_engs (s : State) (core f : Nat) (l : List EvRecord) : (s.setPart core f l).engs = s.engs := rfl
@[simp] theorem State.setPart_bank (s : State) (core f : Nat) (l : List EvRecord) : (s.setPart core f l).bank = s.bank := rfl
@[simp] theorem State.setPart_paths (s : State) (core f : Nat) (l : List EvRecord) : (s.setPart core f l).paths = s.paths := rfl
@[simp] theorem State.setPart_cx (s : State) (core f : Nat) (l : List EvRecord) : (s.setPart core f l).cx = s.cx := rfl
@[simp] theorem State.setPart_images (s : State) (core f : Nat) (l : List EvRecord) : (s.setPart core f l).images = s.images := rfl
@[simp] theorem State.setPart_cal (s : State) (core f : Nat) (l : List EvRecord) : (s.setPart core f l).cal = s.cal := rfl
@[simp] theorem State.setPart_pkg (s : State) (core f : Nat) (l : List EvRecord) : (s.setPart core f l).pkg = s.pkg := rfl
@[simp] theorem State.setPart_dieCycles (s : State) (core f : Nat) (l : List EvRecord) : (s.setPart core f l).dieCycles = s.dieCycles := rfl
@[simp] theorem State.setPart_slices (s : State) (core f : Nat) (l : List EvRecord) : (s.setPart core f l).slices = s.slices := rfl
@[simp] theorem State.setPart_dram (s : State) (core f : Nat) (l : List EvRecord) : (s.setPart core f l).dram = s.dram := rfl
@[simp] theorem State.setPart_scr (s : State) (core f : Nat) (l : List EvRecord) : (s.setPart core f l).scr = s.scr := rfl
@[simp] theorem State.setPart_host (s : State) (core f : Nat) (l : List EvRecord) : (s.setPart core f l).host = s.host := rfl
@[simp] theorem State.setPart_eccBad (s : State) (core f : Nat) (l : List EvRecord) : (s.setPart core f l).eccBad = s.eccBad := rfl
@[simp] theorem State.setPart_rowBad (s : State) (core f : Nat) (l : List EvRecord) : (s.setPart core f l).rowBad = s.rowBad := rfl
@[simp] theorem State.setPart_tlb (s : State) (core f : Nat) (l : List EvRecord) : (s.setPart core f l).tlb = s.tlb := rfl
@[simp] theorem State.setPart_icache (s : State) (core f : Nat) (l : List EvRecord) : (s.setPart core f l).icache = s.icache := rfl
@[simp] theorem State.setPart_records (s : State) (core f : Nat) (l : List EvRecord) : (s.setPart core f l).records = s.records := rfl
@[simp] theorem State.setPart_rings (s : State) (core f : Nat) (l : List EvRecord) : (s.setPart core f l).rings = s.rings := rfl
@[simp] theorem State.setPart_fc (s : State) (core f : Nat) (l : List EvRecord) : (s.setPart core f l).fc = s.fc := rfl
@[simp] theorem State.setPart_flash (s : State) (core f : Nat) (l : List EvRecord) : (s.setPart core f l).flash = s.flash := rfl
@[simp] theorem State.setPart_points (s : State) (core f : Nat) (l : List EvRecord) : (s.setPart core f l).points = s.points := rfl
@[simp] theorem State.setPart_messages (s : State) (core f : Nat) (l : List EvRecord) : (s.setPart core f l).messages = s.messages := rfl
@[simp] theorem State.setPart_turns (s : State) (core f : Nat) (l : List EvRecord) : (s.setPart core f l).turns = s.turns := rfl
@[simp] theorem State.setPart_device (s : State) (core f : Nat) (l : List EvRecord) : (s.setPart core f l).device = s.device := rfl
@[simp] theorem State.setPart_inputs (s : State) (core f : Nat) (l : List EvRecord) : (s.setPart core f l).inputs = s.inputs := rfl
@[simp] theorem State.setPart_issues (s : State) (core f : Nat) (l : List EvRecord) : (s.setPart core f l).issues = s.issues := rfl
@[simp] theorem State.setPart_cur (s : State) (core f : Nat) (l : List EvRecord) : (s.setPart core f l).cur = s.cur := rfl
@[simp] theorem State.setPart_free (s : State) (core f : Nat) (l : List EvRecord) : (s.setPart core f l).free = s.free := rfl

/-! ### setEng -/

@[simp] theorem State.setEng_engs (s : State) (i : Nat) (e : ChainEng) : (s.setEng i e).engs = s.engs.set i e := rfl
@[simp] theorem State.setEng_coreNo (s : State) (i : Nat) (e : ChainEng) : (s.setEng i e).coreNo = s.coreNo := rfl
@[simp] theorem State.setEng_live (s : State) (i : Nat) (e : ChainEng) : (s.setEng i e).live = s.live := rfl
@[simp] theorem State.setEng_shadow (s : State) (i : Nat) (e : ChainEng) : (s.setEng i e).shadow = s.shadow := rfl
@[simp] theorem State.setEng_shares (s : State) (i : Nat) (e : ChainEng) : (s.setEng i e).shares = s.shares := rfl
@[simp] theorem State.setEng_lastWinner (s : State) (i : Nat) (e : ChainEng) : (s.setEng i e).lastWinner = s.lastWinner := rfl
@[simp] theorem State.setEng_grids (s : State) (i : Nat) (e : ChainEng) : (s.setEng i e).grids = s.grids := rfl
@[simp] theorem State.setEng_nextGrid (s : State) (i : Nat) (e : ChainEng) : (s.setEng i e).nextGrid = s.nextGrid := rfl
@[simp] theorem State.setEng_reformAge (s : State) (i : Nat) (e : ChainEng) : (s.setEng i e).reformAge = s.reformAge := rfl
@[simp] theorem State.setEng_replays (s : State) (i : Nat) (e : ChainEng) : (s.setEng i e).replays = s.replays := rfl
@[simp] theorem State.setEng_replaySerial (s : State) (i : Nat) (e : ChainEng) : (s.setEng i e).replaySerial = s.replaySerial := rfl
@[simp] theorem State.setEng_cloned (s : State) (i : Nat) (e : ChainEng) : (s.setEng i e).cloned = s.cloned := rfl
@[simp] theorem State.setEng_tick (s : State) (i : Nat) (e : ChainEng) : (s.setEng i e).tick = s.tick := rfl
@[simp] theorem State.setEng_idle (s : State) (i : Nat) (e : ChainEng) : (s.setEng i e).idle = s.idle := rfl
@[simp] theorem State.setEng_nextUid (s : State) (i : Nat) (e : ChainEng) : (s.setEng i e).nextUid = s.nextUid := rfl
@[simp] theorem State.setEng_mx (s : State) (i : Nat) (e : ChainEng) : (s.setEng i e).mx = s.mx := rfl
@[simp] theorem State.setEng_tcs (s : State) (i : Nat) (e : ChainEng) : (s.setEng i e).tcs = s.tcs := rfl
@[simp] theorem State.setEng_evq (s : State) (i : Nat) (e : ChainEng) : (s.setEng i e).evq = s.evq := rfl
@[simp] theorem State.setEng_held (s : State) (i : Nat) (e : ChainEng) : (s.setEng i e).held = s.held := rfl
@[simp] theorem State.setEng_bank (s : State) (i : Nat) (e : ChainEng) : (s.setEng i e).bank = s.bank := rfl
@[simp] theorem State.setEng_paths (s : State) (i : Nat) (e : ChainEng) : (s.setEng i e).paths = s.paths := rfl
@[simp] theorem State.setEng_cx (s : State) (i : Nat) (e : ChainEng) : (s.setEng i e).cx = s.cx := rfl
@[simp] theorem State.setEng_images (s : State) (i : Nat) (e : ChainEng) : (s.setEng i e).images = s.images := rfl
@[simp] theorem State.setEng_cal (s : State) (i : Nat) (e : ChainEng) : (s.setEng i e).cal = s.cal := rfl
@[simp] theorem State.setEng_pkg (s : State) (i : Nat) (e : ChainEng) : (s.setEng i e).pkg = s.pkg := rfl
@[simp] theorem State.setEng_dieCycles (s : State) (i : Nat) (e : ChainEng) : (s.setEng i e).dieCycles = s.dieCycles := rfl
@[simp] theorem State.setEng_slices (s : State) (i : Nat) (e : ChainEng) : (s.setEng i e).slices = s.slices := rfl
@[simp] theorem State.setEng_dram (s : State) (i : Nat) (e : ChainEng) : (s.setEng i e).dram = s.dram := rfl
@[simp] theorem State.setEng_scr (s : State) (i : Nat) (e : ChainEng) : (s.setEng i e).scr = s.scr := rfl
@[simp] theorem State.setEng_host (s : State) (i : Nat) (e : ChainEng) : (s.setEng i e).host = s.host := rfl
@[simp] theorem State.setEng_eccBad (s : State) (i : Nat) (e : ChainEng) : (s.setEng i e).eccBad = s.eccBad := rfl
@[simp] theorem State.setEng_rowBad (s : State) (i : Nat) (e : ChainEng) : (s.setEng i e).rowBad = s.rowBad := rfl
@[simp] theorem State.setEng_tlb (s : State) (i : Nat) (e : ChainEng) : (s.setEng i e).tlb = s.tlb := rfl
@[simp] theorem State.setEng_icache (s : State) (i : Nat) (e : ChainEng) : (s.setEng i e).icache = s.icache := rfl
@[simp] theorem State.setEng_records (s : State) (i : Nat) (e : ChainEng) : (s.setEng i e).records = s.records := rfl
@[simp] theorem State.setEng_rings (s : State) (i : Nat) (e : ChainEng) : (s.setEng i e).rings = s.rings := rfl
@[simp] theorem State.setEng_fc (s : State) (i : Nat) (e : ChainEng) : (s.setEng i e).fc = s.fc := rfl
@[simp] theorem State.setEng_flash (s : State) (i : Nat) (e : ChainEng) : (s.setEng i e).flash = s.flash := rfl
@[simp] theorem State.setEng_points (s : State) (i : Nat) (e : ChainEng) : (s.setEng i e).points = s.points := rfl
@[simp] theorem State.setEng_messages (s : State) (i : Nat) (e : ChainEng) : (s.setEng i e).messages = s.messages := rfl
@[simp] theorem State.setEng_turns (s : State) (i : Nat) (e : ChainEng) : (s.setEng i e).turns = s.turns := rfl
@[simp] theorem State.setEng_device (s : State) (i : Nat) (e : ChainEng) : (s.setEng i e).device = s.device := rfl
@[simp] theorem State.setEng_inputs (s : State) (i : Nat) (e : ChainEng) : (s.setEng i e).inputs = s.inputs := rfl
@[simp] theorem State.setEng_issues (s : State) (i : Nat) (e : ChainEng) : (s.setEng i e).issues = s.issues := rfl
@[simp] theorem State.setEng_cur (s : State) (i : Nat) (e : ChainEng) : (s.setEng i e).cur = s.cur := rfl
@[simp] theorem State.setEng_free (s : State) (i : Nat) (e : ChainEng) : (s.setEng i e).free = s.free := rfl

/-! ### setTier -/

@[simp] theorem State.setTier_coreNo (s : State) (t : TierBlock) : (s.setTier t).coreNo = s.coreNo := rfl
@[simp] theorem State.setTier_live (s : State) (t : TierBlock) : (s.setTier t).live = s.live := rfl
@[simp] theorem State.setTier_shadow (s : State) (t : TierBlock) : (s.setTier t).shadow = s.shadow := rfl
@[simp] theorem State.setTier_shares (s : State) (t : TierBlock) : (s.setTier t).shares = s.shares := rfl
@[simp] theorem State.setTier_lastWinner (s : State) (t : TierBlock) : (s.setTier t).lastWinner = s.lastWinner := rfl
@[simp] theorem State.setTier_grids (s : State) (t : TierBlock) : (s.setTier t).grids = s.grids := rfl
@[simp] theorem State.setTier_nextGrid (s : State) (t : TierBlock) : (s.setTier t).nextGrid = s.nextGrid := rfl
@[simp] theorem State.setTier_reformAge (s : State) (t : TierBlock) : (s.setTier t).reformAge = s.reformAge := rfl
@[simp] theorem State.setTier_replays (s : State) (t : TierBlock) : (s.setTier t).replays = s.replays := rfl
@[simp] theorem State.setTier_replaySerial (s : State) (t : TierBlock) : (s.setTier t).replaySerial = s.replaySerial := rfl
@[simp] theorem State.setTier_cloned (s : State) (t : TierBlock) : (s.setTier t).cloned = s.cloned := rfl
@[simp] theorem State.setTier_tick (s : State) (t : TierBlock) : (s.setTier t).tick = s.tick := rfl
@[simp] theorem State.setTier_idle (s : State) (t : TierBlock) : (s.setTier t).idle = s.idle := rfl
@[simp] theorem State.setTier_nextUid (s : State) (t : TierBlock) : (s.setTier t).nextUid = s.nextUid := rfl
@[simp] theorem State.setTier_mx (s : State) (t : TierBlock) : (s.setTier t).mx = s.mx := rfl
@[simp] theorem State.setTier_tcs (s : State) (t : TierBlock) : (s.setTier t).tcs = s.tcs := rfl
@[simp] theorem State.setTier_evq (s : State) (t : TierBlock) : (s.setTier t).evq = s.evq := rfl
@[simp] theorem State.setTier_held (s : State) (t : TierBlock) : (s.setTier t).held = s.held := rfl
@[simp] theorem State.setTier_engs (s : State) (t : TierBlock) : (s.setTier t).engs = s.engs := rfl
@[simp] theorem State.setTier_bank (s : State) (t : TierBlock) : (s.setTier t).bank = s.bank := rfl
@[simp] theorem State.setTier_paths (s : State) (t : TierBlock) : (s.setTier t).paths = s.paths := rfl
@[simp] theorem State.setTier_cx (s : State) (t : TierBlock) : (s.setTier t).cx = s.cx := rfl
@[simp] theorem State.setTier_images (s : State) (t : TierBlock) : (s.setTier t).images = s.images := rfl
@[simp] theorem State.setTier_cal (s : State) (t : TierBlock) : (s.setTier t).cal = s.cal := rfl
@[simp] theorem State.setTier_dieCycles (s : State) (t : TierBlock) : (s.setTier t).dieCycles = s.dieCycles := rfl
@[simp] theorem State.setTier_slices (s : State) (t : TierBlock) : (s.setTier t).slices = s.slices := rfl
@[simp] theorem State.setTier_dram (s : State) (t : TierBlock) : (s.setTier t).dram = s.dram := rfl
@[simp] theorem State.setTier_scr (s : State) (t : TierBlock) : (s.setTier t).scr = s.scr := rfl
@[simp] theorem State.setTier_host (s : State) (t : TierBlock) : (s.setTier t).host = s.host := rfl
@[simp] theorem State.setTier_eccBad (s : State) (t : TierBlock) : (s.setTier t).eccBad = s.eccBad := rfl
@[simp] theorem State.setTier_rowBad (s : State) (t : TierBlock) : (s.setTier t).rowBad = s.rowBad := rfl
@[simp] theorem State.setTier_tlb (s : State) (t : TierBlock) : (s.setTier t).tlb = s.tlb := rfl
@[simp] theorem State.setTier_icache (s : State) (t : TierBlock) : (s.setTier t).icache = s.icache := rfl
@[simp] theorem State.setTier_records (s : State) (t : TierBlock) : (s.setTier t).records = s.records := rfl
@[simp] theorem State.setTier_rings (s : State) (t : TierBlock) : (s.setTier t).rings = s.rings := rfl
@[simp] theorem State.setTier_fc (s : State) (t : TierBlock) : (s.setTier t).fc = s.fc := rfl
@[simp] theorem State.setTier_flash (s : State) (t : TierBlock) : (s.setTier t).flash = s.flash := rfl
@[simp] theorem State.setTier_points (s : State) (t : TierBlock) : (s.setTier t).points = s.points := rfl
@[simp] theorem State.setTier_messages (s : State) (t : TierBlock) : (s.setTier t).messages = s.messages := rfl
@[simp] theorem State.setTier_turns (s : State) (t : TierBlock) : (s.setTier t).turns = s.turns := rfl
@[simp] theorem State.setTier_device (s : State) (t : TierBlock) : (s.setTier t).device = s.device := rfl
@[simp] theorem State.setTier_inputs (s : State) (t : TierBlock) : (s.setTier t).inputs = s.inputs := rfl
@[simp] theorem State.setTier_issues (s : State) (t : TierBlock) : (s.setTier t).issues = s.issues := rfl
@[simp] theorem State.setTier_cur (s : State) (t : TierBlock) : (s.setTier t).cur = s.cur := rfl
@[simp] theorem State.setTier_free (s : State) (t : TierBlock) : (s.setTier t).free = s.free := rfl

/-! ### setEnclave -/

@[simp] theorem State.setEnclave_coreNo (s : State) (e : Enclave) : (s.setEnclave e).coreNo = s.coreNo := rfl
@[simp] theorem State.setEnclave_live (s : State) (e : Enclave) : (s.setEnclave e).live = s.live := rfl
@[simp] theorem State.setEnclave_shadow (s : State) (e : Enclave) : (s.setEnclave e).shadow = s.shadow := rfl
@[simp] theorem State.setEnclave_shares (s : State) (e : Enclave) : (s.setEnclave e).shares = s.shares := rfl
@[simp] theorem State.setEnclave_lastWinner (s : State) (e : Enclave) : (s.setEnclave e).lastWinner = s.lastWinner := rfl
@[simp] theorem State.setEnclave_grids (s : State) (e : Enclave) : (s.setEnclave e).grids = s.grids := rfl
@[simp] theorem State.setEnclave_nextGrid (s : State) (e : Enclave) : (s.setEnclave e).nextGrid = s.nextGrid := rfl
@[simp] theorem State.setEnclave_reformAge (s : State) (e : Enclave) : (s.setEnclave e).reformAge = s.reformAge := rfl
@[simp] theorem State.setEnclave_replays (s : State) (e : Enclave) : (s.setEnclave e).replays = s.replays := rfl
@[simp] theorem State.setEnclave_replaySerial (s : State) (e : Enclave) : (s.setEnclave e).replaySerial = s.replaySerial := rfl
@[simp] theorem State.setEnclave_cloned (s : State) (e : Enclave) : (s.setEnclave e).cloned = s.cloned := rfl
@[simp] theorem State.setEnclave_tick (s : State) (e : Enclave) : (s.setEnclave e).tick = s.tick := rfl
@[simp] theorem State.setEnclave_idle (s : State) (e : Enclave) : (s.setEnclave e).idle = s.idle := rfl
@[simp] theorem State.setEnclave_nextUid (s : State) (e : Enclave) : (s.setEnclave e).nextUid = s.nextUid := rfl
@[simp] theorem State.setEnclave_mx (s : State) (e : Enclave) : (s.setEnclave e).mx = s.mx := rfl
@[simp] theorem State.setEnclave_tcs (s : State) (e : Enclave) : (s.setEnclave e).tcs = s.tcs := rfl
@[simp] theorem State.setEnclave_evq (s : State) (e : Enclave) : (s.setEnclave e).evq = s.evq := rfl
@[simp] theorem State.setEnclave_held (s : State) (e : Enclave) : (s.setEnclave e).held = s.held := rfl
@[simp] theorem State.setEnclave_engs (s : State) (e : Enclave) : (s.setEnclave e).engs = s.engs := rfl
@[simp] theorem State.setEnclave_bank (s : State) (e : Enclave) : (s.setEnclave e).bank = s.bank := rfl
@[simp] theorem State.setEnclave_paths (s : State) (e : Enclave) : (s.setEnclave e).paths = s.paths := rfl
@[simp] theorem State.setEnclave_cx (s : State) (e : Enclave) : (s.setEnclave e).cx = s.cx := rfl
@[simp] theorem State.setEnclave_images (s : State) (e : Enclave) : (s.setEnclave e).images = s.images := rfl
@[simp] theorem State.setEnclave_cal (s : State) (e : Enclave) : (s.setEnclave e).cal = s.cal := rfl
@[simp] theorem State.setEnclave_dieCycles (s : State) (e : Enclave) : (s.setEnclave e).dieCycles = s.dieCycles := rfl
@[simp] theorem State.setEnclave_slices (s : State) (e : Enclave) : (s.setEnclave e).slices = s.slices := rfl
@[simp] theorem State.setEnclave_dram (s : State) (e : Enclave) : (s.setEnclave e).dram = s.dram := rfl
@[simp] theorem State.setEnclave_scr (s : State) (e : Enclave) : (s.setEnclave e).scr = s.scr := rfl
@[simp] theorem State.setEnclave_host (s : State) (e : Enclave) : (s.setEnclave e).host = s.host := rfl
@[simp] theorem State.setEnclave_eccBad (s : State) (e : Enclave) : (s.setEnclave e).eccBad = s.eccBad := rfl
@[simp] theorem State.setEnclave_rowBad (s : State) (e : Enclave) : (s.setEnclave e).rowBad = s.rowBad := rfl
@[simp] theorem State.setEnclave_tlb (s : State) (e : Enclave) : (s.setEnclave e).tlb = s.tlb := rfl
@[simp] theorem State.setEnclave_icache (s : State) (e : Enclave) : (s.setEnclave e).icache = s.icache := rfl
@[simp] theorem State.setEnclave_records (s : State) (e : Enclave) : (s.setEnclave e).records = s.records := rfl
@[simp] theorem State.setEnclave_rings (s : State) (e : Enclave) : (s.setEnclave e).rings = s.rings := rfl
@[simp] theorem State.setEnclave_fc (s : State) (e : Enclave) : (s.setEnclave e).fc = s.fc := rfl
@[simp] theorem State.setEnclave_flash (s : State) (e : Enclave) : (s.setEnclave e).flash = s.flash := rfl
@[simp] theorem State.setEnclave_points (s : State) (e : Enclave) : (s.setEnclave e).points = s.points := rfl
@[simp] theorem State.setEnclave_messages (s : State) (e : Enclave) : (s.setEnclave e).messages = s.messages := rfl
@[simp] theorem State.setEnclave_turns (s : State) (e : Enclave) : (s.setEnclave e).turns = s.turns := rfl
@[simp] theorem State.setEnclave_device (s : State) (e : Enclave) : (s.setEnclave e).device = s.device := rfl
@[simp] theorem State.setEnclave_inputs (s : State) (e : Enclave) : (s.setEnclave e).inputs = s.inputs := rfl
@[simp] theorem State.setEnclave_issues (s : State) (e : Enclave) : (s.setEnclave e).issues = s.issues := rfl
@[simp] theorem State.setEnclave_cur (s : State) (e : Enclave) : (s.setEnclave e).cur = s.cur := rfl
@[simp] theorem State.setEnclave_free (s : State) (e : Enclave) : (s.setEnclave e).free = s.free := rfl

/-! ### endUnit -/

@[simp] theorem State.endUnit_cur (s : State) : (s.endUnit).cur = none := rfl
@[simp] theorem State.endUnit_coreNo (s : State) : (s.endUnit).coreNo = s.coreNo := rfl
@[simp] theorem State.endUnit_live (s : State) : (s.endUnit).live = s.live := rfl
@[simp] theorem State.endUnit_shadow (s : State) : (s.endUnit).shadow = s.shadow := rfl
@[simp] theorem State.endUnit_shares (s : State) : (s.endUnit).shares = s.shares := rfl
@[simp] theorem State.endUnit_lastWinner (s : State) : (s.endUnit).lastWinner = s.lastWinner := rfl
@[simp] theorem State.endUnit_grids (s : State) : (s.endUnit).grids = s.grids := rfl
@[simp] theorem State.endUnit_nextGrid (s : State) : (s.endUnit).nextGrid = s.nextGrid := rfl
@[simp] theorem State.endUnit_reformAge (s : State) : (s.endUnit).reformAge = s.reformAge := rfl
@[simp] theorem State.endUnit_replays (s : State) : (s.endUnit).replays = s.replays := rfl
@[simp] theorem State.endUnit_replaySerial (s : State) : (s.endUnit).replaySerial = s.replaySerial := rfl
@[simp] theorem State.endUnit_cloned (s : State) : (s.endUnit).cloned = s.cloned := rfl
@[simp] theorem State.endUnit_tick (s : State) : (s.endUnit).tick = s.tick := rfl
@[simp] theorem State.endUnit_idle (s : State) : (s.endUnit).idle = s.idle := rfl
@[simp] theorem State.endUnit_nextUid (s : State) : (s.endUnit).nextUid = s.nextUid := rfl
@[simp] theorem State.endUnit_mx (s : State) : (s.endUnit).mx = s.mx := rfl
@[simp] theorem State.endUnit_tcs (s : State) : (s.endUnit).tcs = s.tcs := rfl
@[simp] theorem State.endUnit_evq (s : State) : (s.endUnit).evq = s.evq := rfl
@[simp] theorem State.endUnit_held (s : State) : (s.endUnit).held = s.held := rfl
@[simp] theorem State.endUnit_engs (s : State) : (s.endUnit).engs = s.engs := rfl
@[simp] theorem State.endUnit_bank (s : State) : (s.endUnit).bank = s.bank := rfl
@[simp] theorem State.endUnit_paths (s : State) : (s.endUnit).paths = s.paths := rfl
@[simp] theorem State.endUnit_cx (s : State) : (s.endUnit).cx = s.cx := rfl
@[simp] theorem State.endUnit_images (s : State) : (s.endUnit).images = s.images := rfl
@[simp] theorem State.endUnit_cal (s : State) : (s.endUnit).cal = s.cal := rfl
@[simp] theorem State.endUnit_pkg (s : State) : (s.endUnit).pkg = s.pkg := rfl
@[simp] theorem State.endUnit_dieCycles (s : State) : (s.endUnit).dieCycles = s.dieCycles := rfl
@[simp] theorem State.endUnit_slices (s : State) : (s.endUnit).slices = s.slices := rfl
@[simp] theorem State.endUnit_dram (s : State) : (s.endUnit).dram = s.dram := rfl
@[simp] theorem State.endUnit_scr (s : State) : (s.endUnit).scr = s.scr := rfl
@[simp] theorem State.endUnit_host (s : State) : (s.endUnit).host = s.host := rfl
@[simp] theorem State.endUnit_eccBad (s : State) : (s.endUnit).eccBad = s.eccBad := rfl
@[simp] theorem State.endUnit_rowBad (s : State) : (s.endUnit).rowBad = s.rowBad := rfl
@[simp] theorem State.endUnit_tlb (s : State) : (s.endUnit).tlb = s.tlb := rfl
@[simp] theorem State.endUnit_icache (s : State) : (s.endUnit).icache = s.icache := rfl
@[simp] theorem State.endUnit_records (s : State) : (s.endUnit).records = s.records := rfl
@[simp] theorem State.endUnit_rings (s : State) : (s.endUnit).rings = s.rings := rfl
@[simp] theorem State.endUnit_fc (s : State) : (s.endUnit).fc = s.fc := rfl
@[simp] theorem State.endUnit_flash (s : State) : (s.endUnit).flash = s.flash := rfl
@[simp] theorem State.endUnit_points (s : State) : (s.endUnit).points = s.points := rfl
@[simp] theorem State.endUnit_messages (s : State) : (s.endUnit).messages = s.messages := rfl
@[simp] theorem State.endUnit_turns (s : State) : (s.endUnit).turns = s.turns := rfl
@[simp] theorem State.endUnit_device (s : State) : (s.endUnit).device = s.device := rfl
@[simp] theorem State.endUnit_inputs (s : State) : (s.endUnit).inputs = s.inputs := rfl
@[simp] theorem State.endUnit_issues (s : State) : (s.endUnit).issues = s.issues := rfl
@[simp] theorem State.endUnit_free (s : State) : (s.endUnit).free = s.free := rfl

/-! ### spaWrite -/

@[simp] theorem spaWrite_coreNo (s : State) (f spa : Nat) (bs : List Byte) : (spaWrite s f spa bs).coreNo = s.coreNo := rfl
@[simp] theorem spaWrite_live (s : State) (f spa : Nat) (bs : List Byte) : (spaWrite s f spa bs).live = s.live := rfl
@[simp] theorem spaWrite_shadow (s : State) (f spa : Nat) (bs : List Byte) : (spaWrite s f spa bs).shadow = s.shadow := rfl
@[simp] theorem spaWrite_shares (s : State) (f spa : Nat) (bs : List Byte) : (spaWrite s f spa bs).shares = s.shares := rfl
@[simp] theorem spaWrite_lastWinner (s : State) (f spa : Nat) (bs : List Byte) : (spaWrite s f spa bs).lastWinner = s.lastWinner := rfl
@[simp] theorem spaWrite_grids (s : State) (f spa : Nat) (bs : List Byte) : (spaWrite s f spa bs).grids = s.grids := rfl
@[simp] theorem spaWrite_nextGrid (s : State) (f spa : Nat) (bs : List Byte) : (spaWrite s f spa bs).nextGrid = s.nextGrid := rfl
@[simp] theorem spaWrite_reformAge (s : State) (f spa : Nat) (bs : List Byte) : (spaWrite s f spa bs).reformAge = s.reformAge := rfl
@[simp] theorem spaWrite_replays (s : State) (f spa : Nat) (bs : List Byte) : (spaWrite s f spa bs).replays = s.replays := rfl
@[simp] theorem spaWrite_replaySerial (s : State) (f spa : Nat) (bs : List Byte) : (spaWrite s f spa bs).replaySerial = s.replaySerial := rfl
@[simp] theorem spaWrite_cloned (s : State) (f spa : Nat) (bs : List Byte) : (spaWrite s f spa bs).cloned = s.cloned := rfl
@[simp] theorem spaWrite_tick (s : State) (f spa : Nat) (bs : List Byte) : (spaWrite s f spa bs).tick = s.tick := rfl
@[simp] theorem spaWrite_idle (s : State) (f spa : Nat) (bs : List Byte) : (spaWrite s f spa bs).idle = s.idle := rfl
@[simp] theorem spaWrite_nextUid (s : State) (f spa : Nat) (bs : List Byte) : (spaWrite s f spa bs).nextUid = s.nextUid := rfl
@[simp] theorem spaWrite_mx (s : State) (f spa : Nat) (bs : List Byte) : (spaWrite s f spa bs).mx = s.mx := rfl
@[simp] theorem spaWrite_tcs (s : State) (f spa : Nat) (bs : List Byte) : (spaWrite s f spa bs).tcs = s.tcs := rfl
@[simp] theorem spaWrite_evq (s : State) (f spa : Nat) (bs : List Byte) : (spaWrite s f spa bs).evq = s.evq := rfl
@[simp] theorem spaWrite_held (s : State) (f spa : Nat) (bs : List Byte) : (spaWrite s f spa bs).held = s.held := rfl
@[simp] theorem spaWrite_engs (s : State) (f spa : Nat) (bs : List Byte) : (spaWrite s f spa bs).engs = s.engs := rfl
@[simp] theorem spaWrite_bank (s : State) (f spa : Nat) (bs : List Byte) : (spaWrite s f spa bs).bank = s.bank := rfl
@[simp] theorem spaWrite_paths (s : State) (f spa : Nat) (bs : List Byte) : (spaWrite s f spa bs).paths = s.paths := rfl
@[simp] theorem spaWrite_cx (s : State) (f spa : Nat) (bs : List Byte) : (spaWrite s f spa bs).cx = s.cx := rfl
@[simp] theorem spaWrite_images (s : State) (f spa : Nat) (bs : List Byte) : (spaWrite s f spa bs).images = s.images := rfl
@[simp] theorem spaWrite_cal (s : State) (f spa : Nat) (bs : List Byte) : (spaWrite s f spa bs).cal = s.cal := rfl
@[simp] theorem spaWrite_pkg (s : State) (f spa : Nat) (bs : List Byte) : (spaWrite s f spa bs).pkg = s.pkg := rfl
@[simp] theorem spaWrite_dieCycles (s : State) (f spa : Nat) (bs : List Byte) : (spaWrite s f spa bs).dieCycles = s.dieCycles := rfl
@[simp] theorem spaWrite_slices (s : State) (f spa : Nat) (bs : List Byte) : (spaWrite s f spa bs).slices = s.slices := rfl
@[simp] theorem spaWrite_scr (s : State) (f spa : Nat) (bs : List Byte) : (spaWrite s f spa bs).scr = s.scr := rfl
@[simp] theorem spaWrite_host (s : State) (f spa : Nat) (bs : List Byte) : (spaWrite s f spa bs).host = s.host := rfl
@[simp] theorem spaWrite_rowBad (s : State) (f spa : Nat) (bs : List Byte) : (spaWrite s f spa bs).rowBad = s.rowBad := rfl
@[simp] theorem spaWrite_tlb (s : State) (f spa : Nat) (bs : List Byte) : (spaWrite s f spa bs).tlb = s.tlb := rfl
@[simp] theorem spaWrite_icache (s : State) (f spa : Nat) (bs : List Byte) : (spaWrite s f spa bs).icache = s.icache := rfl
@[simp] theorem spaWrite_records (s : State) (f spa : Nat) (bs : List Byte) : (spaWrite s f spa bs).records = s.records := rfl
@[simp] theorem spaWrite_rings (s : State) (f spa : Nat) (bs : List Byte) : (spaWrite s f spa bs).rings = s.rings := rfl
@[simp] theorem spaWrite_fc (s : State) (f spa : Nat) (bs : List Byte) : (spaWrite s f spa bs).fc = s.fc := rfl
@[simp] theorem spaWrite_flash (s : State) (f spa : Nat) (bs : List Byte) : (spaWrite s f spa bs).flash = s.flash := rfl
@[simp] theorem spaWrite_points (s : State) (f spa : Nat) (bs : List Byte) : (spaWrite s f spa bs).points = s.points := rfl
@[simp] theorem spaWrite_messages (s : State) (f spa : Nat) (bs : List Byte) : (spaWrite s f spa bs).messages = s.messages := rfl
@[simp] theorem spaWrite_turns (s : State) (f spa : Nat) (bs : List Byte) : (spaWrite s f spa bs).turns = s.turns := rfl
@[simp] theorem spaWrite_device (s : State) (f spa : Nat) (bs : List Byte) : (spaWrite s f spa bs).device = s.device := rfl
@[simp] theorem spaWrite_inputs (s : State) (f spa : Nat) (bs : List Byte) : (spaWrite s f spa bs).inputs = s.inputs := rfl
@[simp] theorem spaWrite_issues (s : State) (f spa : Nat) (bs : List Byte) : (spaWrite s f spa bs).issues = s.issues := rfl
@[simp] theorem spaWrite_cur (s : State) (f spa : Nat) (bs : List Byte) : (spaWrite s f spa bs).cur = s.cur := rfl
@[simp] theorem spaWrite_free (s : State) (f spa : Nat) (bs : List Byte) : (spaWrite s f spa bs).free = s.free := rfl

end Sys2Proof.Machine
end

