-- ==== Sys2Proof/Laws/Group.lean ====
section
/-! SUPPORT. Reading the named parts of a state after they are replaced, and what the end of a unit leaves alone. -/
namespace Sys2Proof.Machine

/-! ## Lookups -/

theorem find_put {α β : Type} [DecidableEq β] (key : α → β) (l : List α) (x : α) (k : β) :
    (l.map fun y => if key y = key x then x else y).find? (fun y => decide (key y = k))
      = if k = key x then (l.find? fun y => decide (key y = k)).map (fun _ => x) else l.find? fun y => decide (key y = k) := by
  have kept : ((fun y => decide (key y = k)) ∘ fun y => if key y = key x then x else y) = fun y => decide (key y = k) := by
    funext y; by_cases h : key y = key x <;> simp [h]
  rw [List.find?_map, kept]
  cases e : l.find? fun y => decide (key y = k) with
  | none => simp
  | some y => have : key y = k := by simpa using List.find?_some e
              subst this; simp only [Option.map_some]; split <;> rfl

/-- A group after one is replaced. -/
theorem group_setGroup (s : State) (G : Group) (g : Nat) :
    (s.setGroup G).group g = if g = G.gctx then (s.group g).map (fun _ => G) else s.group g := by
  have := find_put Group.gctx s.live.groups G g
  simpa [State.group, putGroup, beq_eq_decide] using this

theorem group_setGroup_self {s : State} {G H : Group} (h : s.group G.gctx = some H) : (s.setGroup G).group G.gctx = some G := by
  rw [group_setGroup, if_pos rfl, h]; rfl

theorem group_setGroup_ne {s : State} {G : Group} {g : Nat} (h : g ≠ G.gctx) : (s.setGroup G).group g = s.group g := by
  rw [group_setGroup, if_neg h]

/-- A team after one is replaced. -/
theorem team_setTeam (s : State) (T : Team) (k : Nat) :
    (s.setTeam T).team k = if k = T.slot then (s.team k).map (fun _ => T) else s.team k := by
  have := find_put Team.slot s.live.teams T k
  simpa [State.team, beq_eq_decide] using this

@[simp] theorem team_setGroup (s : State) (G : Group) (k : Nat) : (s.setGroup G).team k = s.team k := rfl
@[simp] theorem group_setTeam (s : State) (T : Team) (g : Nat) : (s.setTeam T).group g = s.group g := rfl
@[simp] theorem group_endUnit (s : State) (g : Nat) : s.endUnit.group g = s.group g := rfl
@[simp] theorem team_endUnit (s : State) (k : Nat) : s.endUnit.team k = s.team k := rfl
@[simp] theorem grid_setGroup (s : State) (G : Group) (i : Nat) : (s.setGroup G).grid i = s.grid i := rfl
@[simp] theorem slice_setGroup (s : State) (G : Group) (f : Nat) : (s.setGroup G).slice f = s.slice f := rfl
@[simp] theorem share_setGroup (s : State) (G : Group) (i : Nat) : (s.setGroup G).share i = s.share i := rfl
@[simp] theorem now_setGroup (s : State) (G : Group) : (s.setGroup G).now = s.now := rfl

/-- A slice after one is replaced. -/
theorem slice_setSlice (s : State) (f : Nat) (x : Slice) (h : f < s.slices.length) : (s.setSlice f x).slice f = x := by
  simp [State.slice, State.setSlice, List.getD, h]

theorem slice_setSlice_ne (s : State) {f g : Nat} (x : Slice) (h : g ≠ f) : (s.setSlice f x).slice g = s.slice g := by
  simp [State.slice, State.setSlice, List.getD, List.getElem?_set_ne (Ne.symm h)]

/-! ## The end of a unit -/

/-- The end of a unit answers no unit in progress. -/
@[simp] theorem advance_cur (s : State) (c : Cur) : (s.advance c).cur = none := by
  unfold State.advance; split <;> rfl

/-- The end of a unit changes the sequencers of its group and nothing else. -/
theorem advance_cases (s : State) (c : Cur) :
    (s.group c.gctx = none ∧ s.advance c = s.endUnit)
    ∨ ∃ G, s.group c.gctx = some G ∧ s.advance c = (s.setGroup { G with
        seqs := G.seqs.map fun q => if c.seqs.contains q.id ∧ (q.st = .run ∨ q.st = .cwait) then { q.goto (c.pc + 4#56) s.now with st := .run } else q }).endUnit := by
  unfold State.advance
  split
  · exact .inl ⟨‹_›, rfl⟩
  · exact .inr ⟨_, ‹_›, rfl⟩

@[simp] theorem advance_dram (s : State) (c : Cur) : (s.advance c).dram = s.dram := by unfold State.advance; split <;> rfl
@[simp] theorem advance_scr (s : State) (c : Cur) : (s.advance c).scr = s.scr := by unfold State.advance; split <;> rfl
@[simp] theorem advance_host (s : State) (c : Cur) : (s.advance c).host = s.host := by unfold State.advance; split <;> rfl
@[simp] theorem advance_slices (s : State) (c : Cur) : (s.advance c).slices = s.slices := by unfold State.advance; split <;> rfl
@[simp] theorem advance_team (s : State) (c : Cur) (k : Nat) : (s.advance c).team k = s.team k := by unfold State.advance; split <;> rfl

/-- The frame buffer's bytes of a frame number 64 (R363). -/
theorem natLe_length (n v : Nat) : (natLe n v).length = n := by
  induction n generalizing v with
  | zero => rfl
  | succ n ih => simp [natLe, ih]

theorem frame_bytes_length (f : Frame) : f.bytes.length = 64 := by simp [Frame.bytes, natLe_length]

/-- A trap of a whole unit ends the unit. -/
@[simp] theorem trapUnit_cur (s : State) (G : Group) (c : Cur) (cause : BitVec 8) (code : Nat) : (s.trapUnit G c cause code).cur = none := rfl

/-- A unit whose check fails takes the trap of the check (R28). -/
theorem laneUnit_trap {s : State} {c : Cur} {G : Group} {u : Unit} {d : Dst} {f : State → Cur → Group → Nat → LaneOut} {cause : BitVec 8}
    (h : InUnit s c G) (k : u.check G c = some cause) : laneUnit u d f s = .next (s.trapUnit G c cause 0) := by
  simp only [laneUnit, withUnit, h.cur, h.group, k]

end Sys2Proof.Machine
end

