-- ==== Sys2Proof/Laws/Memory.lean ====
section
/-! SUPPORT. The laws of memory: every operation keeps the canonical form, a byte written reads back, every other byte stays,
and two memories in the form that read alike are equal. -/
namespace Sys2Proof.Machine

/-! ## The canonical form -/

theorem memWfFrom_mono {lo hi : Nat} {m : Memory} (h : lo ≤ hi) (w : memWfFrom hi m = true) : memWfFrom lo m = true := by
  cases m with
  | nil => rfl
  | cons c m => simp only [memWfFrom, Bool.and_eq_true, decide_eq_true_eq] at w ⊢; exact ⟨⟨by omega, w.1.2⟩, w.2⟩

/-- Below its bound a memory in the form reads zero. -/
theorem memGet_below {m : Memory} {lo a : Nat} (w : memWfFrom lo m = true) (h : a < lo) : memGet m a = 0#8 := by
  cases m with
  | nil => rfl
  | cons c m =>
    simp only [memWfFrom, Bool.and_eq_true, decide_eq_true_eq] at w
    rw [memGet, if_neg (by omega), if_pos (by omega)]

theorem memPut_wfFrom {m : Memory} {lo a : Nat} (b : Byte) (w : memWfFrom lo m = true) (h : lo ≤ a) :
    memWfFrom lo (memPut m a b) = true := by
  induction m generalizing lo with
  | nil => rw [memPut]; split <;> simp_all [memWfFrom]
  | cons c m ih =>
    obtain ⟨k, v⟩ := c
    simp only [memWfFrom, Bool.and_eq_true, decide_eq_true_eq, bne_iff_ne] at w
    rw [memPut]
    split
    · split
      · simpa [memWfFrom] using w
      · simp only [memWfFrom, Bool.and_eq_true, decide_eq_true_eq, bne_iff_ne]
        exact ⟨⟨h, ‹_›⟩, ⟨by omega, w.1.2⟩, w.2⟩
    · split
      · rename_i hk; subst hk
        split
        · exact memWfFrom_mono (by omega) w.2
        · simp only [memWfFrom, Bool.and_eq_true, decide_eq_true_eq, bne_iff_ne]; exact ⟨⟨h, ‹_›⟩, w.2⟩
      · simp only [memWfFrom, Bool.and_eq_true, decide_eq_true_eq, bne_iff_ne]
        exact ⟨⟨w.1.1, w.1.2⟩, ih w.2 (by omega)⟩

/-- Writing a byte keeps the form. -/
theorem memPut_wf {m : Memory} (a : Nat) (b : Byte) (w : m.wf = true) : (memPut m a b).wf = true := memPut_wfFrom b w (Nat.zero_le a)

/-- Writing consecutive bytes keeps the form. -/
theorem memWrite_keeps (m : Memory) (a : Nat) : ∀ bs, m.wf = true → (memWrite m a bs).wf = true
  | [], w => w
  | b :: bs, w => memWrite_keeps (memPut m a b) (a + 1) bs (memPut_wf a b w)

/-- Writing bytes at addresses of their own keeps the form. -/
theorem memPuts_wf (m : Memory) (ps : List (Nat × Byte)) (w : m.wf = true) : (memPuts m ps).wf = true := match ps with
  | [] => w
  | (a, b) :: r => memPuts_wf (memPut m a b) r (memPut_wf a b w)

theorem filter_wfFrom (p : Host.Cell → Bool) (m : Memory) {lo : Nat} (w : memWfFrom lo m = true) : memWfFrom lo (m.filter p) = true := by
  induction m generalizing lo with
  | nil => rfl
  | cons c m ih =>
    obtain ⟨k, v⟩ := c
    simp only [memWfFrom, Bool.and_eq_true, decide_eq_true_eq, bne_iff_ne] at w
    rw [List.filter_cons]
    split
    · simp only [memWfFrom, Bool.and_eq_true, decide_eq_true_eq, bne_iff_ne]; exact ⟨w.1, ih w.2⟩
    · exact memWfFrom_mono (by omega) (ih w.2)

/-- A part of a memory that a test picks out keeps the form. -/
theorem filter_wf (p : Host.Cell → Bool) (m : Memory) (w : m.wf = true) : Memory.wf (m.filter p) = true := filter_wfFrom p m w

theorem memSlice_wf (m : Memory) (lo hi : Nat) (w : m.wf = true) : (memSlice m lo hi).wf = true := filter_wf _ m w

theorem memClear_wf (m : Memory) (lo hi : Nat) (w : m.wf = true) : (memClear m lo hi).wf = true := filter_wf _ m w

/-! ## Reading -/

/-- A byte written reads back, and every other address reads as before. -/
theorem memGet_memPut {m : Memory} {lo : Nat} (w : memWfFrom lo m = true) (a : Nat) (b : Byte) (x : Nat) :
    memGet (memPut m a b) x = if x = a then b else memGet m x := by
  induction m generalizing lo with
  | nil =>
    rw [memPut]
    split
    · simp_all [memGet]
    · simp [memGet]
  | cons c m ih =>
    obtain ⟨k, v⟩ := c
    simp only [memWfFrom, Bool.and_eq_true, decide_eq_true_eq, bne_iff_ne] at w
    have below : ∀ y, y < k + 1 → memGet m y = 0#8 := fun y => memGet_below w.2
    rw [memPut]
    split
    · split
      · rename_i hb; split
        · rename_i hx; subst hx; rw [memGet, if_neg (by omega), if_pos ‹_›, hb]
        · rfl
      · simp only [memGet]
        split
        · rfl
        · split
          · rw [if_neg (by omega), if_pos (by omega)]
          · rfl
    · split
      · rename_i hk; subst hk
        split
        · rename_i hb
          simp only [memGet]
          split
          · rename_i hx; rw [hx, below _ (by omega), hb]
          · split
            · exact below x (by omega)
            · rfl
        · simp only [memGet]; split <;> rfl
      · simp only [memGet]
        split
        · rw [if_neg (by omega)]
        · split
          · rw [if_neg (by omega)]
          · exact ih w.2

/-- A byte of a memory with a range made zero. -/
theorem memGet_memClear {m : Memory} {b : Nat} (w : memWfFrom b m = true) (lo hi x : Nat) :
    memGet (memClear m lo hi) x = if lo ≤ x ∧ x < hi then 0#8 else memGet m x := by
  induction m generalizing b with
  | nil => simp [memClear, memGet]
  | cons c m ih =>
    obtain ⟨k, v⟩ := c
    simp only [memWfFrom, Bool.and_eq_true, decide_eq_true_eq, bne_iff_ne] at w
    have i := ih w.2
    unfold memClear at i ⊢
    rw [List.filter_cons]
    split
    · rename_i hp; simp only [Bool.not_eq_true', Bool.and_eq_false_imp, decide_eq_true_eq, decide_eq_false_iff_not] at hp
      simp only [memGet]; split
      · rename_i hx; subst hx; rw [if_neg (by omega)]
      · split
        · split <;> rfl
        · exact i
    · rename_i hp; simp only [Bool.not_eq_true', Bool.and_eq_false_imp, decide_eq_true_eq, decide_eq_false_iff_not] at hp
      rw [i]; simp only [memGet]
      split
      · rfl
      · split
        · omega
        · split
          · exact memGet_below w.2 (by omega)
          · rfl

/-! ## Canonicity -/

/-- Memories in the form that read alike are equal. -/
theorem mem_ext {m n : Memory} {lo : Nat} (w : memWfFrom lo m = true) (u : memWfFrom lo n = true) (h : ∀ a, memGet m a = memGet n a) : m = n := by
  induction m generalizing n lo with
  | nil => cases n with
    | nil => rfl
    | cons c n =>
      obtain ⟨k, v⟩ := c
      have := h k; simp only [memWfFrom, Bool.and_eq_true, bne_iff_ne] at u
      simp [memGet] at this; exact absurd this.symm u.1.2
  | cons c m ih =>
    obtain ⟨k, v⟩ := c
    simp only [memWfFrom, Bool.and_eq_true, decide_eq_true_eq, bne_iff_ne] at w
    cases n with
    | nil => have := h k; simp [memGet] at this; exact absurd this w.1.2
    | cons d n =>
      obtain ⟨j, x⟩ := d
      simp only [memWfFrom, Bool.and_eq_true, decide_eq_true_eq, bne_iff_ne] at u
      have hk := h k; have hj := h j
      simp only [memGet, if_true] at hk hj
      have e : k = j := by
        by_contra hne
        rcases Nat.lt_or_gt_of_ne hne with l | l
        · rw [if_neg hne, if_pos l] at hk; exact w.1.2 hk
        · rw [if_neg (Ne.symm hne), if_pos l] at hj; exact u.1.2 hj.symm
      subst e; simp only [if_true] at hk
      subst hk; congr 1
      refine ih w.2 u.2 fun a => ?_
      have := h a; simp only [memGet] at this
      by_cases ha : a < k + 1
      · rw [memGet_below w.2 ha, memGet_below u.2 ha]
      · rwa [if_neg (by omega), if_neg (by omega), if_neg (by omega), if_neg (by omega)] at this

/-! ## The memories of a state -/

/-- A store request of a slice keeps the form of its memory. -/
theorem spaWrites_wf (s : State) (f : Nat) (ws : List (Nat × Byte)) (w : s.dram.wf = true) : (spaWrites s f ws).dram.wf = true :=
  memPuts_wf _ _ w

theorem spaWrite_wf (s : State) (f spa : Nat) (bs : List Byte) (w : s.dram.wf = true) : (spaWrite s f spa bs).dram.wf = true :=
  spaWrites_wf _ _ _ w

theorem spaWrites_scr (s : State) (f : Nat) (ws : List (Nat × Byte)) : (spaWrites s f ws).scr = s.scr := rfl
theorem spaWrites_host (s : State) (f : Nat) (ws : List (Nat × Byte)) : (spaWrites s f ws).host = s.host := rfl
theorem spaWrites_live (s : State) (f : Nat) (ws : List (Nat × Byte)) : (spaWrites s f ws).live = s.live := rfl

end Sys2Proof.Machine
end

