-- ==== Sys2Proof/Laws/PerInstr.lean ====
section
/-! SUPPORT. One lemma per instruction: the major opcode of its word is one that the opcode map assigns (spec/02 R40). -/
namespace Sys2Proof.Laws

/-- The major opcodes that the opcode map assigns, as ranges (spec/02 R40). -/
def Major.assigned (m : BitVec 7) : Bool :=
  [(0x00, 0x06), (0x08, 0x08), (0x10, 0x23), (0x30, 0x34), (0x38, 0x39), (0x40, 0x45), (0x48, 0x50), (0x52, 0x55), (0x58, 0x6D),
    (0x70, 0x74), (0x78, 0x7C), (0x7E, 0x7F)].any fun p => Nat.ble p.1 m.toNat && Nat.ble m.toNat p.2

/-- The major opcode of a word: bits 31 to 25 (spec/02 R32). -/
def Major.of (w : Word) : BitVec 7 := fld w 25 7

/-- An instruction that is a word has an assigned major opcode. -/
def Major.Statement (i : Instr) : Prop := isWord i = true → Major.assigned (Major.of (encode i)) = true

theorem Major.of_append (op : BitVec 7) (x : BitVec 25) : Major.of (op ++ x) = op := by
  apply BitVec.eq_of_getLsbD_eq; intro i hi
  simp only [Major.of, fld, BitVec.getLsbD_extractLsb', BitVec.getLsbD_append]
  interval_cases i <;> simp

theorem Major.encR {op : BitVec 7} (h : Major.assigned op = true) (nw : BitVec 1) (fn : BitVec 3) (d a b : BitVec 7) :
    Major.assigned (Major.of (Sys2Proof.encR op nw fn d a b)) = true := by
  have : Major.of (Sys2Proof.encR op nw fn d a b) = op := by
    apply BitVec.eq_of_getLsbD_eq; intro i hi
    simp only [Major.of, fld, Sys2Proof.encR, BitVec.getLsbD_extractLsb', BitVec.getLsbD_append]
    interval_cases i <;> simp
  rw [this]; exact h

theorem Major.encI {op : BitVec 7} (h : Major.assigned op = true) (d a : BitVec 7) (imm : BitVec 11) :
    Major.assigned (Major.of (Sys2Proof.encI op d a imm)) = true := by
  have : Major.of (Sys2Proof.encI op d a imm) = op := by
    apply BitVec.eq_of_getLsbD_eq; intro i hi
    simp only [Major.of, fld, Sys2Proof.encI, BitVec.getLsbD_extractLsb', BitVec.getLsbD_append]
    interval_cases i <;> simp
  rw [this]; exact h

theorem Major.encB {op : BitVec 7} (h : Major.assigned op = true) (cc : BitVec 4) (a : BitVec 7) (off : BitVec 14) :
    Major.assigned (Major.of (Sys2Proof.encB op cc a off)) = true := by
  have : Major.of (Sys2Proof.encB op cc a off) = op := by
    apply BitVec.eq_of_getLsbD_eq; intro i hi
    simp only [Major.of, fld, Sys2Proof.encB, BitVec.getLsbD_extractLsb', BitVec.getLsbD_append]
    interval_cases i <;> simp
  rw [this]; exact h

theorem Major.encM {op : BitVec 7} (h : Major.assigned op = true) (sp cp : BitVec 2) (d a off : BitVec 7) :
    Major.assigned (Major.of (Sys2Proof.encM op sp cp d a off)) = true := by
  have : Major.of (Sys2Proof.encM op sp cp d a off) = op := by
    apply BitVec.eq_of_getLsbD_eq; intro i hi
    simp only [Major.of, fld, Sys2Proof.encM, BitVec.getLsbD_extractLsb', BitVec.getLsbD_append]
    interval_cases i <;> simp
  rw [this]; exact h

theorem Major.encC {op : BitVec 7} (h : Major.assigned op = true) (ch : BitVec 6) (d a : BitVec 7) (f : BitVec 5) :
    Major.assigned (Major.of (Sys2Proof.encC op ch d a f)) = true := by
  have : Major.of (Sys2Proof.encC op ch d a f) = op := by
    apply BitVec.eq_of_getLsbD_eq; intro i hi
    simp only [Major.of, fld, Sys2Proof.encC, BitVec.getLsbD_extractLsb', BitVec.getLsbD_append]
    interval_cases i <;> simp
  rw [this]; exact h

theorem Major.encS {op : BitVec 7} (h : Major.assigned op = true) (fn : BitVec 4) (a : BitVec 7) (imm : BitVec 14) :
    Major.assigned (Major.of (Sys2Proof.encS op fn a imm)) = true := by
  have : Major.of (Sys2Proof.encS op fn a imm) = op := by
    apply BitVec.eq_of_getLsbD_eq; intro i hi
    simp only [Major.of, fld, Sys2Proof.encS, BitVec.getLsbD_extractLsb', BitVec.getLsbD_append]
    interval_cases i <;> simp
  rw [this]; exact h

theorem Major.encK {op : BitVec 7} (h : Major.assigned op = true) (fn : BitVec 4) (opnd : BitVec 21) :
    Major.assigned (Major.of (Sys2Proof.encK op fn opnd)) = true := by
  have : Major.of (Sys2Proof.encK op fn opnd) = op := by
    apply BitVec.eq_of_getLsbD_eq; intro i hi
    simp only [Major.of, fld, Sys2Proof.encK, BitVec.getLsbD_extractLsb', BitVec.getLsbD_append]
    interval_cases i <;> simp
  rw [this]; exact h

theorem Major.pfxWord (k : BitVec 3) (z : BitVec 1) (r : BitVec 3) (c : BitVec 7) (x : BitVec 3) :
    Major.assigned (Major.of (encPfx k z r c x)) = true := by
  have : Major.of (encPfx k z r c x) = 126#7 := by
    apply BitVec.eq_of_getLsbD_eq; intro i hi
    simp only [Major.of, fld, encPfx, BitVec.getLsbD_extractLsb', BitVec.getLsbD_append]
    interval_cases i <;> simp
  rw [this]; rfl

theorem Major.limmWord (i : BitVec 25) : Major.assigned (Major.of (encLimm i)) = true := by
  rw [encLimm, Major.of_append]; rfl

/-! ## The instructions -/

theorem Major.pfx (k : BitVec 3) (z : BitVec 1) (r : BitVec 3) (c : BitVec 7) (x : BitVec 3) : Major.Statement (.pfx k z r c x) := fun _ => Major.pfxWord k z r c x
theorem Major.limm (i : BitVec 25) : Major.Statement (.limm i) := fun _ => Major.limmWord i
theorem Major.iadd (n : BitVec 1) (d : BitVec 7) (a : BitVec 7) (b : BitVec 7) : Major.Statement (.iadd n d a b) := fun _ => Major.encR (op := 0#7) rfl _ _ _ _ _
theorem Major.isub (n : BitVec 1) (d : BitVec 7) (a : BitVec 7) (b : BitVec 7) : Major.Statement (.isub n d a b) := fun _ => Major.encR (op := 0#7) rfl _ _ _ _ _
theorem Major.iadds (n : BitVec 1) (d : BitVec 7) (a : BitVec 7) (b : BitVec 7) : Major.Statement (.iadds n d a b) := fun _ => Major.encR (op := 0#7) rfl _ _ _ _ _
theorem Major.isubs (n : BitVec 1) (d : BitVec 7) (a : BitVec 7) (b : BitVec 7) : Major.Statement (.isubs n d a b) := fun _ => Major.encR (op := 0#7) rfl _ _ _ _ _
theorem Major.iaddns (n : BitVec 1) (d : BitVec 7) (a : BitVec 7) (b : BitVec 7) : Major.Statement (.iaddns n d a b) := fun _ => Major.encR (op := 0#7) rfl _ _ _ _ _
theorem Major.isubns (n : BitVec 1) (d : BitVec 7) (a : BitVec 7) (b : BitVec 7) : Major.Statement (.isubns n d a b) := fun _ => Major.encR (op := 0#7) rfl _ _ _ _ _
theorem Major.iadd64 (n : BitVec 1) (d : BitVec 7) (a : BitVec 7) (b : BitVec 7) : Major.Statement (.iadd64 n d a b) := fun _ => Major.encR (op := 0#7) rfl _ _ _ _ _
theorem Major.isub64 (n : BitVec 1) (d : BitVec 7) (a : BitVec 7) (b : BitVec 7) : Major.Statement (.isub64 n d a b) := fun _ => Major.encR (op := 0#7) rfl _ _ _ _ _
theorem Major.imul (n : BitVec 1) (d : BitVec 7) (a : BitVec 7) (b : BitVec 7) : Major.Statement (.imul n d a b) := fun _ => Major.encR (op := 1#7) rfl _ _ _ _ _
theorem Major.imulh (n : BitVec 1) (d : BitVec 7) (a : BitVec 7) (b : BitVec 7) : Major.Statement (.imulh n d a b) := fun _ => Major.encR (op := 1#7) rfl _ _ _ _ _
theorem Major.imulhn (n : BitVec 1) (d : BitVec 7) (a : BitVec 7) (b : BitVec 7) : Major.Statement (.imulhn n d a b) := fun _ => Major.encR (op := 1#7) rfl _ _ _ _ _
theorem Major.imad (n : BitVec 1) (d : BitVec 7) (a : BitVec 7) (b : BitVec 7) : Major.Statement (.imad n d a b) := fun _ => Major.encR (op := 1#7) rfl _ _ _ _ _
theorem Major.idiv (n : BitVec 1) (d : BitVec 7) (a : BitVec 7) (b : BitVec 7) : Major.Statement (.idiv n d a b) := fun _ => Major.encR (op := 2#7) rfl _ _ _ _ _
theorem Major.idivn (n : BitVec 1) (d : BitVec 7) (a : BitVec 7) (b : BitVec 7) : Major.Statement (.idivn n d a b) := fun _ => Major.encR (op := 2#7) rfl _ _ _ _ _
theorem Major.irem (n : BitVec 1) (d : BitVec 7) (a : BitVec 7) (b : BitVec 7) : Major.Statement (.irem n d a b) := fun _ => Major.encR (op := 2#7) rfl _ _ _ _ _
theorem Major.iremn (n : BitVec 1) (d : BitVec 7) (a : BitVec 7) (b : BitVec 7) : Major.Statement (.iremn n d a b) := fun _ => Major.encR (op := 2#7) rfl _ _ _ _ _
theorem Major.imin (n : BitVec 1) (d : BitVec 7) (a : BitVec 7) (b : BitVec 7) : Major.Statement (.imin n d a b) := fun _ => Major.encR (op := 3#7) rfl _ _ _ _ _
theorem Major.imax (n : BitVec 1) (d : BitVec 7) (a : BitVec 7) (b : BitVec 7) : Major.Statement (.imax n d a b) := fun _ => Major.encR (op := 3#7) rfl _ _ _ _ _
theorem Major.iminn (n : BitVec 1) (d : BitVec 7) (a : BitVec 7) (b : BitVec 7) : Major.Statement (.iminn n d a b) := fun _ => Major.encR (op := 3#7) rfl _ _ _ _ _
theorem Major.imaxn (n : BitVec 1) (d : BitVec 7) (a : BitVec 7) (b : BitVec 7) : Major.Statement (.imaxn n d a b) := fun _ => Major.encR (op := 3#7) rfl _ _ _ _ _
theorem Major.iabs (n : BitVec 1) (d : BitVec 7) (a : BitVec 7) : Major.Statement (.iabs n d a) := fun _ => Major.encR (op := 3#7) rfl _ _ _ _ _
theorem Major.ineg (n : BitVec 1) (d : BitVec 7) (a : BitVec 7) : Major.Statement (.ineg n d a) := fun _ => Major.encR (op := 3#7) rfl _ _ _ _ _
theorem Major.andW (n : BitVec 1) (d : BitVec 7) (a : BitVec 7) (b : BitVec 7) : Major.Statement (.andW n d a b) := fun _ => Major.encR (op := 4#7) rfl _ _ _ _ _
theorem Major.orW (n : BitVec 1) (d : BitVec 7) (a : BitVec 7) (b : BitVec 7) : Major.Statement (.orW n d a b) := fun _ => Major.encR (op := 4#7) rfl _ _ _ _ _
theorem Major.xorW (n : BitVec 1) (d : BitVec 7) (a : BitVec 7) (b : BitVec 7) : Major.Statement (.xorW n d a b) := fun _ => Major.encR (op := 4#7) rfl _ _ _ _ _
theorem Major.andn (n : BitVec 1) (d : BitVec 7) (a : BitVec 7) (b : BitVec 7) : Major.Statement (.andn n d a b) := fun _ => Major.encR (op := 4#7) rfl _ _ _ _ _
theorem Major.orn (n : BitVec 1) (d : BitVec 7) (a : BitVec 7) (b : BitVec 7) : Major.Statement (.orn n d a b) := fun _ => Major.encR (op := 4#7) rfl _ _ _ _ _
theorem Major.xnor (n : BitVec 1) (d : BitVec 7) (a : BitVec 7) (b : BitVec 7) : Major.Statement (.xnor n d a b) := fun _ => Major.encR (op := 4#7) rfl _ _ _ _ _
theorem Major.mov (n : BitVec 1) (d : BitVec 7) (a : BitVec 7) : Major.Statement (.mov n d a) := fun _ => Major.encR (op := 4#7) rfl _ _ _ _ _
theorem Major.shl (n : BitVec 1) (d : BitVec 7) (a : BitVec 7) (b : BitVec 7) : Major.Statement (.shl n d a b) := fun _ => Major.encR (op := 5#7) rfl _ _ _ _ _
theorem Major.shr (n : BitVec 1) (d : BitVec 7) (a : BitVec 7) (b : BitVec 7) : Major.Statement (.shr n d a b) := fun _ => Major.encR (op := 5#7) rfl _ _ _ _ _
theorem Major.sar (n : BitVec 1) (d : BitVec 7) (a : BitVec 7) (b : BitVec 7) : Major.Statement (.sar n d a b) := fun _ => Major.encR (op := 5#7) rfl _ _ _ _ _
theorem Major.rol (n : BitVec 1) (d : BitVec 7) (a : BitVec 7) (b : BitVec 7) : Major.Statement (.rol n d a b) := fun _ => Major.encR (op := 5#7) rfl _ _ _ _ _
theorem Major.ror (n : BitVec 1) (d : BitVec 7) (a : BitVec 7) (b : BitVec 7) : Major.Statement (.ror n d a b) := fun _ => Major.encR (op := 5#7) rfl _ _ _ _ _
theorem Major.fshl (n : BitVec 1) (d : BitVec 7) (a : BitVec 7) (b : BitVec 7) : Major.Statement (.fshl n d a b) := fun _ => Major.encR (op := 5#7) rfl _ _ _ _ _
theorem Major.fshr (n : BitVec 1) (d : BitVec 7) (a : BitVec 7) (b : BitVec 7) : Major.Statement (.fshr n d a b) := fun _ => Major.encR (op := 5#7) rfl _ _ _ _ _
theorem Major.popc (n : BitVec 1) (d : BitVec 7) (a : BitVec 7) : Major.Statement (.popc n d a) := fun _ => Major.encR (op := 6#7) rfl _ _ _ _ _
theorem Major.clz (n : BitVec 1) (d : BitVec 7) (a : BitVec 7) : Major.Statement (.clz n d a) := fun _ => Major.encR (op := 6#7) rfl _ _ _ _ _
theorem Major.ctz (n : BitVec 1) (d : BitVec 7) (a : BitVec 7) : Major.Statement (.ctz n d a) := fun _ => Major.encR (op := 6#7) rfl _ _ _ _ _
theorem Major.brev (n : BitVec 1) (d : BitVec 7) (a : BitVec 7) : Major.Statement (.brev n d a) := fun _ => Major.encR (op := 6#7) rfl _ _ _ _ _
theorem Major.lea64 (n : BitVec 1) (s : BitVec 3) (d : BitVec 7) (a : BitVec 7) (b : BitVec 7) : Major.Statement (.lea64 n s d a b) := fun _ => Major.encR (op := 8#7) rfl _ _ _ _ _
theorem Major.addi (d : BitVec 7) (a : BitVec 7) (i : BitVec 11) : Major.Statement (.addi d a i) := fun _ => Major.encI (op := 16#7) rfl _ _ _
theorem Major.andi (d : BitVec 7) (a : BitVec 7) (i : BitVec 11) : Major.Statement (.andi d a i) := fun _ => Major.encI (op := 17#7) rfl _ _ _
theorem Major.ori (d : BitVec 7) (a : BitVec 7) (i : BitVec 11) : Major.Statement (.ori d a i) := fun _ => Major.encI (op := 18#7) rfl _ _ _
theorem Major.xori (d : BitVec 7) (a : BitVec 7) (i : BitVec 11) : Major.Statement (.xori d a i) := fun _ => Major.encI (op := 19#7) rfl _ _ _
theorem Major.shli (d : BitVec 7) (a : BitVec 7) (c : BitVec 5) : Major.Statement (.shli d a c) := fun _ => Major.encI (op := 20#7) rfl _ _ _
theorem Major.shri (d : BitVec 7) (a : BitVec 7) (c : BitVec 5) : Major.Statement (.shri d a c) := fun _ => Major.encI (op := 20#7) rfl _ _ _
theorem Major.sari (d : BitVec 7) (a : BitVec 7) (c : BitVec 5) : Major.Statement (.sari d a c) := fun _ => Major.encI (op := 20#7) rfl _ _ _
theorem Major.movi (d : BitVec 7) (i : BitVec 11) : Major.Statement (.movi d i) := fun _ => Major.encI (op := 21#7) rfl _ _ _
theorem Major.addi64 (d : BitVec 7) (a : BitVec 7) (i : BitVec 11) : Major.Statement (.addi64 d a i) := fun _ => Major.encI (op := 22#7) rfl _ _ _
theorem Major.lea64i (d : BitVec 7) (a : BitVec 7) (x : BitVec 8) (s : BitVec 3) : Major.Statement (.lea64i d a x s) := fun _ => Major.encI (op := 23#7) rfl _ _ _
theorem Major.icmp (f : BitVec 3) (k : BitVec 3) (a : BitVec 7) (b : BitVec 7) : Major.Statement (.icmp f k a b) := fun _ => Major.encR (op := 24#7) rfl _ _ _ _ _
theorem Major.icmpN (f : BitVec 3) (k : BitVec 3) (a : BitVec 7) (b : BitVec 7) : Major.Statement (.icmpN f k a b) := fun _ => Major.encR (op := 25#7) rfl _ _ _ _ _
theorem Major.icmpv (n : BitVec 1) (f : BitVec 3) (d : BitVec 7) (a : BitVec 7) (b : BitVec 7) : Major.Statement (.icmpv n f d a b) := fun _ => Major.encR (op := 26#7) rfl _ _ _ _ _
theorem Major.icmpvN (n : BitVec 1) (f : BitVec 3) (d : BitVec 7) (a : BitVec 7) (b : BitVec 7) : Major.Statement (.icmpvN n f d a b) := fun _ => Major.encR (op := 27#7) rfl _ _ _ _ _
theorem Major.fcmp (f : BitVec 3) (k : BitVec 3) (a : BitVec 7) (b : BitVec 7) : Major.Statement (.fcmp f k a b) := fun _ => Major.encR (op := 28#7) rfl _ _ _ _ _
theorem Major.fcmpv (n : BitVec 1) (f : BitVec 3) (d : BitVec 7) (a : BitVec 7) (b : BitVec 7) : Major.Statement (.fcmpv n f d a b) := fun _ => Major.encR (op := 29#7) rfl _ _ _ _ _
theorem Major.sel (n : BitVec 1) (d : BitVec 7) (a : BitVec 7) (b : BitVec 7) : Major.Statement (.sel n d a b) := fun _ => Major.encR (op := 30#7) rfl _ _ _ _ _
theorem Major.prmb (n : BitVec 1) (d : BitVec 7) (a : BitVec 7) (b : BitVec 7) : Major.Statement (.prmb n d a b) := fun _ => Major.encR (op := 30#7) rfl _ _ _ _ _
theorem Major.fclass (n : BitVec 1) (d : BitVec 7) (a : BitVec 7) : Major.Statement (.fclass n d a) := fun _ => Major.encR (op := 30#7) rfl _ _ _ _ _
theorem Major.bfx (n : BitVec 1) (d : BitVec 7) (a : BitVec 7) (b : BitVec 7) : Major.Statement (.bfx n d a b) := fun _ => Major.encR (op := 31#7) rfl _ _ _ _ _
theorem Major.bfxs (n : BitVec 1) (d : BitVec 7) (a : BitVec 7) (b : BitVec 7) : Major.Statement (.bfxs n d a b) := fun _ => Major.encR (op := 31#7) rfl _ _ _ _ _
theorem Major.bfi (n : BitVec 1) (d : BitVec 7) (a : BitVec 7) (b : BitVec 7) : Major.Statement (.bfi n d a b) := fun _ => Major.encR (op := 31#7) rfl _ _ _ _ _
theorem Major.fadd (n : BitVec 1) (d : BitVec 7) (a : BitVec 7) (b : BitVec 7) : Major.Statement (.fadd n d a b) := fun _ => Major.encR (op := 32#7) rfl _ _ _ _ _
theorem Major.fsub (n : BitVec 1) (d : BitVec 7) (a : BitVec 7) (b : BitVec 7) : Major.Statement (.fsub n d a b) := fun _ => Major.encR (op := 32#7) rfl _ _ _ _ _
theorem Major.fmul (n : BitVec 1) (d : BitVec 7) (a : BitVec 7) (b : BitVec 7) : Major.Statement (.fmul n d a b) := fun _ => Major.encR (op := 32#7) rfl _ _ _ _ _
theorem Major.ffma (n : BitVec 1) (d : BitVec 7) (a : BitVec 7) (b : BitVec 7) : Major.Statement (.ffma n d a b) := fun _ => Major.encR (op := 32#7) rfl _ _ _ _ _
theorem Major.fmac (n : BitVec 1) (d : BitVec 7) (a : BitVec 7) (b : BitVec 7) : Major.Statement (.fmac n d a b) := fun _ => Major.encR (op := 32#7) rfl _ _ _ _ _
theorem Major.fmin (n : BitVec 1) (d : BitVec 7) (a : BitVec 7) (b : BitVec 7) : Major.Statement (.fmin n d a b) := fun _ => Major.encR (op := 32#7) rfl _ _ _ _ _
theorem Major.fmax (n : BitVec 1) (d : BitVec 7) (a : BitVec 7) (b : BitVec 7) : Major.Statement (.fmax n d a b) := fun _ => Major.encR (op := 32#7) rfl _ _ _ _ _
theorem Major.fcpysgn (n : BitVec 1) (d : BitVec 7) (a : BitVec 7) (b : BitVec 7) : Major.Statement (.fcpysgn n d a b) := fun _ => Major.encR (op := 32#7) rfl _ _ _ _ _
theorem Major.fabs (n : BitVec 1) (d : BitVec 7) (a : BitVec 7) : Major.Statement (.fabs n d a) := fun _ => Major.encR (op := 33#7) rfl _ _ _ _ _
theorem Major.fneg (n : BitVec 1) (d : BitVec 7) (a : BitVec 7) : Major.Statement (.fneg n d a) := fun _ => Major.encR (op := 33#7) rfl _ _ _ _ _
theorem Major.frnd (n : BitVec 1) (d : BitVec 7) (a : BitVec 7) : Major.Statement (.frnd n d a) := fun _ => Major.encR (op := 33#7) rfl _ _ _ _ _
theorem Major.fdiv (n : BitVec 1) (d : BitVec 7) (a : BitVec 7) (b : BitVec 7) : Major.Statement (.fdiv n d a b) := fun _ => Major.encR (op := 33#7) rfl _ _ _ _ _
theorem Major.fsqrt (n : BitVec 1) (d : BitVec 7) (a : BitVec 7) : Major.Statement (.fsqrt n d a) := fun _ => Major.encR (op := 33#7) rfl _ _ _ _ _
theorem Major.frcp (n : BitVec 1) (d : BitVec 7) (a : BitVec 7) : Major.Statement (.frcp n d a) := fun _ => Major.encR (op := 34#7) rfl _ _ _ _ _
theorem Major.frsq (n : BitVec 1) (d : BitVec 7) (a : BitVec 7) : Major.Statement (.frsq n d a) := fun _ => Major.encR (op := 34#7) rfl _ _ _ _ _
theorem Major.fexp2 (n : BitVec 1) (d : BitVec 7) (a : BitVec 7) : Major.Statement (.fexp2 n d a) := fun _ => Major.encR (op := 34#7) rfl _ _ _ _ _
theorem Major.flog2 (n : BitVec 1) (d : BitVec 7) (a : BitVec 7) : Major.Statement (.flog2 n d a) := fun _ => Major.encR (op := 34#7) rfl _ _ _ _ _
theorem Major.fsin (n : BitVec 1) (d : BitVec 7) (a : BitVec 7) : Major.Statement (.fsin n d a) := fun _ => Major.encR (op := 34#7) rfl _ _ _ _ _
theorem Major.fcos (n : BitVec 1) (d : BitVec 7) (a : BitVec 7) : Major.Statement (.fcos n d a) := fun _ => Major.encR (op := 34#7) rfl _ _ _ _ _
theorem Major.ftanh (n : BitVec 1) (d : BitVec 7) (a : BitVec 7) : Major.Statement (.ftanh n d a) := fun _ => Major.encR (op := 34#7) rfl _ _ _ _ _
theorem Major.hadd2 (n : BitVec 1) (d : BitVec 7) (a : BitVec 7) (b : BitVec 7) : Major.Statement (.hadd2 n d a b) := fun _ => Major.encR (op := 35#7) rfl _ _ _ _ _
theorem Major.hmul2 (n : BitVec 1) (d : BitVec 7) (a : BitVec 7) (b : BitVec 7) : Major.Statement (.hmul2 n d a b) := fun _ => Major.encR (op := 35#7) rfl _ _ _ _ _
theorem Major.hfma2 (n : BitVec 1) (d : BitVec 7) (a : BitVec 7) (b : BitVec 7) : Major.Statement (.hfma2 n d a b) := fun _ => Major.encR (op := 35#7) rfl _ _ _ _ _
theorem Major.badd2 (n : BitVec 1) (d : BitVec 7) (a : BitVec 7) (b : BitVec 7) : Major.Statement (.badd2 n d a b) := fun _ => Major.encR (op := 35#7) rfl _ _ _ _ _
theorem Major.bmul2 (n : BitVec 1) (d : BitVec 7) (a : BitVec 7) (b : BitVec 7) : Major.Statement (.bmul2 n d a b) := fun _ => Major.encR (op := 35#7) rfl _ _ _ _ _
theorem Major.bfma2 (n : BitVec 1) (d : BitVec 7) (a : BitVec 7) (b : BitVec 7) : Major.Statement (.bfma2 n d a b) := fun _ => Major.encR (op := 35#7) rfl _ _ _ _ _
theorem Major.f2i (n : BitVec 1) (u : BitVec 1) (d : BitVec 7) (a : BitVec 7) : Major.Statement (.f2i n u d a) := fun _ => Major.encR (op := 48#7) rfl _ _ _ _ _
theorem Major.i2f (n : BitVec 1) (u : BitVec 1) (d : BitVec 7) (a : BitVec 7) : Major.Statement (.i2f n u d a) := fun _ => Major.encR (op := 48#7) rfl _ _ _ _ _
theorem Major.fcvtF16F32 (n : BitVec 1) (d : BitVec 7) (a : BitVec 7) (b : BitVec 7) : Major.Statement (.fcvtF16F32 n d a b) := fun _ => Major.encR (op := 49#7) rfl _ _ _ _ _
theorem Major.fcvtF32F16 (n : BitVec 1) (d : BitVec 7) (a : BitVec 7) : Major.Statement (.fcvtF32F16 n d a) := fun _ => Major.encR (op := 49#7) rfl _ _ _ _ _
theorem Major.fcvtBf16F32 (n : BitVec 1) (d : BitVec 7) (a : BitVec 7) (b : BitVec 7) : Major.Statement (.fcvtBf16F32 n d a b) := fun _ => Major.encR (op := 49#7) rfl _ _ _ _ _
theorem Major.fcvtF32Bf16 (n : BitVec 1) (d : BitVec 7) (a : BitVec 7) : Major.Statement (.fcvtF32Bf16 n d a) := fun _ => Major.encR (op := 49#7) rfl _ _ _ _ _
theorem Major.fcvtE4m3F32 (n : BitVec 1) (d : BitVec 7) (a : BitVec 7) : Major.Statement (.fcvtE4m3F32 n d a) := fun _ => Major.encR (op := 49#7) rfl _ _ _ _ _
theorem Major.fcvtF32E4m3 (n : BitVec 1) (d : BitVec 7) (a : BitVec 7) : Major.Statement (.fcvtF32E4m3 n d a) := fun _ => Major.encR (op := 49#7) rfl _ _ _ _ _
theorem Major.fcvtE5m2F32 (n : BitVec 1) (d : BitVec 7) (a : BitVec 7) : Major.Statement (.fcvtE5m2F32 n d a) := fun _ => Major.encR (op := 49#7) rfl _ _ _ _ _
theorem Major.fcvtF32E5m2 (n : BitVec 1) (d : BitVec 7) (a : BitVec 7) : Major.Statement (.fcvtF32E5m2 n d a) := fun _ => Major.encR (op := 49#7) rfl _ _ _ _ _
theorem Major.fcvtE2m1F32 (n : BitVec 1) (d : BitVec 7) (a : BitVec 7) : Major.Statement (.fcvtE2m1F32 n d a) := fun _ => Major.encR (op := 50#7) rfl _ _ _ _ _
theorem Major.fcvtF32E2m1 (n : BitVec 1) (d : BitVec 7) (a : BitVec 7) : Major.Statement (.fcvtF32E2m1 n d a) := fun _ => Major.encR (op := 50#7) rfl _ _ _ _ _
theorem Major.fcvtBf16F16 (n : BitVec 1) (d : BitVec 7) (a : BitVec 7) : Major.Statement (.fcvtBf16F16 n d a) := fun _ => Major.encR (op := 50#7) rfl _ _ _ _ _
theorem Major.fcvtF16Bf16 (n : BitVec 1) (d : BitVec 7) (a : BitVec 7) : Major.Statement (.fcvtF16Bf16 n d a) := fun _ => Major.encR (op := 50#7) rfl _ _ _ _ _
theorem Major.cvtdlF32 (n : BitVec 1) (d : BitVec 7) (a : BitVec 7) : Major.Statement (.cvtdlF32 n d a) := fun _ => Major.encR (op := 51#7) rfl _ _ _ _ _
theorem Major.cvtdlDl8 (n : BitVec 1) (d : BitVec 7) (a : BitVec 7) (b : BitVec 7) : Major.Statement (.cvtdlDl8 n d a b) := fun _ => Major.encR (op := 51#7) rfl _ _ _ _ _
theorem Major.mxq (n : BitVec 1) (f : BitVec 2) (d : BitVec 7) (a : BitVec 7) : Major.Statement (.mxq n f d a) := fun _ => Major.encR (op := 52#7) rfl _ _ _ _ _
theorem Major.mxdq (n : BitVec 1) (f : BitVec 2) (d : BitVec 7) (a : BitVec 7) (b : BitVec 7) : Major.Statement (.mxdq n f d a b) := fun _ => Major.encR (op := 52#7) rfl _ _ _ _ _
theorem Major.dot4e (n : BitVec 1) (e : BitVec 1) (d : BitVec 7) (a : BitVec 7) (b : BitVec 7) : Major.Statement (.dot4e n e d a b) := fun _ => Major.encR (op := 56#7) rfl _ _ _ _ _
theorem Major.dot4i (n : BitVec 1) (d : BitVec 7) (a : BitVec 7) (b : BitVec 7) : Major.Statement (.dot4i n d a b) := fun _ => Major.encR (op := 56#7) rfl _ _ _ _ _
theorem Major.dot8q (n : BitVec 1) (d : BitVec 7) (a : BitVec 7) (b : BitVec 7) : Major.Statement (.dot8q n d a b) := fun _ => Major.encR (op := 56#7) rfl _ _ _ _ _
theorem Major.dot2b (n : BitVec 1) (d : BitVec 7) (a : BitVec 7) (b : BitVec 7) : Major.Statement (.dot2b n d a b) := fun _ => Major.encR (op := 56#7) rfl _ _ _ _ _
theorem Major.mxdot (n : BitVec 1) (e : BitVec 1) (d : BitVec 7) (a : BitVec 7) (b : BitVec 7) : Major.Statement (.mxdot n e d a b) := fun _ => Major.encR (op := 57#7) rfl _ _ _ _ _
theorem Major.mxi8dot (n : BitVec 1) (d : BitVec 7) (a : BitVec 7) (b : BitVec 7) : Major.Statement (.mxi8dot n d a b) := fun _ => Major.encR (op := 57#7) rfl _ _ _ _ _
theorem Major.bra (o : BitVec 14) : Major.Statement (.bra o) := fun _ => Major.encB (op := 64#7) rfl _ _ _
theorem Major.brc (c : BitVec 1) (k : BitVec 3) (o : BitVec 14) : Major.Statement (.brc c k o) := fun _ => Major.encB (op := 65#7) rfl _ _ _
theorem Major.pjn (o : BitVec 14) : Major.Statement (.pjn o) := fun _ => Major.encB (op := 66#7) rfl _ _ _
theorem Major.call (a : BitVec 7) (o : BitVec 14) : Major.Statement (.call a o) := fun _ => Major.encB (op := 67#7) rfl _ _ _
theorem Major.brx (a : BitVec 7) : Major.Statement (.brx a) := fun _ => Major.encR (op := 68#7) rfl _ _ _ _ _
theorem Major.callx (d : BitVec 7) (a : BitVec 7) : Major.Statement (.callx d a) := fun _ => Major.encR (op := 68#7) rfl _ _ _ _ _
theorem Major.ret (a : BitVec 7) : Major.Statement (.ret a) := fun _ => Major.encR (op := 68#7) rfl _ _ _ _ _
theorem Major.join : Major.Statement (.join) := fun _ => Major.encR (op := 68#7) rfl _ _ _ _ _
theorem Major.exitThread : Major.Statement (.exitThread) := fun _ => Major.encR (op := 68#7) rfl _ _ _ _ _
theorem Major.yield : Major.Statement (.yield) := fun _ => Major.encR (op := 68#7) rfl _ _ _ _ _
theorem Major.nop : Major.Statement (.nop) := fun _ => Major.encR (op := 68#7) rfl _ _ _ _ _
theorem Major.reform (a : BitVec 7) : Major.Statement (.reform a) := fun _ => Major.encR (op := 68#7) rfl _ _ _ _ _
theorem Major.trap (c : BitVec 14) : Major.Statement (.trap c) := fun _ => Major.encS (op := 69#7) rfl _ _ _
theorem Major.brk (c : BitVec 14) : Major.Statement (.brk c) := fun _ => Major.encS (op := 69#7) rfl _ _ _
theorem Major.vote (f : BitVec 3) (k : BitVec 3) (a : BitVec 7) : Major.Statement (.vote f k a) := fun _ => Major.encR (op := 72#7) rfl _ _ _ _ _
theorem Major.matchLanes (w : BitVec 1) (d : BitVec 7) (a : BitVec 7) (k : BitVec 3) : Major.Statement (.matchLanes w d a k) := fun _ => Major.encR (op := 73#7) rfl _ _ _ _ _
theorem Major.shfl (f : BitVec 2) (d : BitVec 7) (a : BitVec 7) (b : BitVec 7) : Major.Statement (.shfl f d a b) := fun _ => Major.encR (op := 74#7) rfl _ _ _ _ _
theorem Major.bcast (d : BitVec 7) (a : BitVec 7) (b : BitVec 7) : Major.Statement (.bcast d a b) := fun _ => Major.encR (op := 74#7) rfl _ _ _ _ _
theorem Major.red (f : BitVec 3) (d : BitVec 7) (a : BitVec 7) : Major.Statement (.red f d a) := fun _ => Major.encR (op := 75#7) rfl _ _ _ _ _
theorem Major.fred (f : BitVec 2) (d : BitVec 7) (a : BitVec 7) : Major.Statement (.fred f d a) := fun _ => Major.encR (op := 76#7) rfl _ _ _ _ _
theorem Major.fscan (f : BitVec 2) (d : BitVec 7) (a : BitVec 7) : Major.Statement (.fscan f d a) := fun _ => Major.encR (op := 76#7) rfl _ _ _ _ _
theorem Major.scan (f : BitVec 3) (d : BitVec 7) (a : BitVec 7) : Major.Statement (.scan f d a) := fun _ => Major.encR (op := 77#7) rfl _ _ _ _ _
theorem Major.rgt (f : BitVec 3) (d : BitVec 7) : Major.Statement (.rgt f d) := fun _ => Major.encR (op := 78#7) rfl _ _ _ _ _
theorem Major.kop (f : BitVec 2) (d : BitVec 3) (a : BitVec 3) (b : BitVec 3) : Major.Statement (.kop f d a b) := fun _ => Major.encR (op := 79#7) rfl _ _ _ _ _
theorem Major.kopNot (d : BitVec 3) (a : BitVec 3) : Major.Statement (.kopNot d a) := fun _ => Major.encR (op := 79#7) rfl _ _ _ _ _
theorem Major.kmovTor (d : BitVec 7) (a : BitVec 3) : Major.Statement (.kmovTor d a) := fun _ => Major.encR (op := 79#7) rfl _ _ _ _ _
theorem Major.kmovTok (d : BitVec 3) (a : BitVec 7) : Major.Statement (.kmovTok d a) := fun _ => Major.encR (op := 79#7) rfl _ _ _ _ _
theorem Major.bar (c : BitVec 10) (i : BitVec 4) : Major.Statement (.bar c i) := fun _ => Major.encS (op := 80#7) rfl _ _ _
theorem Major.bara (c : BitVec 10) (i : BitVec 4) : Major.Statement (.bara c i) := fun _ => Major.encS (op := 80#7) rfl _ _ _
theorem Major.barw (a : BitVec 7) (i : BitVec 4) : Major.Statement (.barw a i) := fun _ => Major.encS (op := 80#7) rfl _ _ _
theorem Major.elect (k : BitVec 3) : Major.Statement (.elect k) := fun _ => Major.encS (op := 80#7) rfl _ _ _
theorem Major.winb (b : BitVec 5) : Major.Statement (.winb b) := fun _ => Major.encS (op := 80#7) rfl _ _ _
theorem Major.trig : Major.Statement (.trig) := fun _ => Major.encS (op := 80#7) rfl _ _ _
theorem Major.rclaim (n : BitVec 5) : Major.Statement (.rclaim n) := fun _ => Major.encS (op := 80#7) rfl _ _ _
theorem Major.rrel (n : BitVec 5) : Major.Statement (.rrel n) := fun _ => Major.encS (op := 80#7) rfl _ _ _
theorem Major.send (c : BitVec 6) (d : BitVec 7) (a : BitVec 7) (r : BitVec 3) : Major.Statement (.send c d a r) := fun _ => Major.encC (op := 82#7) rfl _ _ _ _
theorem Major.sendw (c : BitVec 6) (a : BitVec 7) (r : BitVec 3) : Major.Statement (.sendw c a r) := fun _ => Major.encC (op := 83#7) rfl _ _ _ _
theorem Major.recv (c : BitVec 6) (d : BitVec 7) : Major.Statement (.recv c d) := fun _ => Major.encC (op := 84#7) rfl _ _ _ _
theorem Major.chq (c : BitVec 6) (d : BitVec 7) (q : BitVec 1) : Major.Statement (.chq c d q) := fun _ => Major.encC (op := 85#7) rfl _ _ _ _
theorem Major.ldB (s : BitVec 2) (p : BitVec 2) (d : BitVec 7) (a : BitVec 7) (o : BitVec 5) : Major.Statement (.ldB s p d a o) := fun _ => Major.encM (op := 88#7) rfl _ _ _ _ _
theorem Major.ldH (s : BitVec 2) (p : BitVec 2) (d : BitVec 7) (a : BitVec 7) (o : BitVec 5) : Major.Statement (.ldH s p d a o) := fun _ => Major.encM (op := 88#7) rfl _ _ _ _ _
theorem Major.ldsB (s : BitVec 2) (p : BitVec 2) (d : BitVec 7) (a : BitVec 7) (o : BitVec 5) : Major.Statement (.ldsB s p d a o) := fun _ => Major.encM (op := 88#7) rfl _ _ _ _ _
theorem Major.ldsH (s : BitVec 2) (p : BitVec 2) (d : BitVec 7) (a : BitVec 7) (o : BitVec 5) : Major.Statement (.ldsH s p d a o) := fun _ => Major.encM (op := 88#7) rfl _ _ _ _ _
theorem Major.ldW (s : BitVec 2) (p : BitVec 2) (d : BitVec 7) (a : BitVec 7) (o : BitVec 7) : Major.Statement (.ldW s p d a o) := fun _ => Major.encM (op := 89#7) rfl _ _ _ _ _
theorem Major.ldD (s : BitVec 2) (p : BitVec 2) (d : BitVec 7) (a : BitVec 7) (o : BitVec 7) : Major.Statement (.ldD s p d a o) := fun _ => Major.encM (op := 90#7) rfl _ _ _ _ _
theorem Major.ldQ (s : BitVec 2) (p : BitVec 2) (d : BitVec 7) (a : BitVec 7) (o : BitVec 7) : Major.Statement (.ldQ s p d a o) := fun _ => Major.encM (op := 91#7) rfl _ _ _ _ _
theorem Major.stB (s : BitVec 2) (p : BitVec 2) (d : BitVec 7) (a : BitVec 7) (o : BitVec 6) : Major.Statement (.stB s p d a o) := fun _ => Major.encM (op := 92#7) rfl _ _ _ _ _
theorem Major.stH (s : BitVec 2) (p : BitVec 2) (d : BitVec 7) (a : BitVec 7) (o : BitVec 6) : Major.Statement (.stH s p d a o) := fun _ => Major.encM (op := 92#7) rfl _ _ _ _ _
theorem Major.stW (s : BitVec 2) (p : BitVec 2) (d : BitVec 7) (a : BitVec 7) (o : BitVec 7) : Major.Statement (.stW s p d a o) := fun _ => Major.encM (op := 93#7) rfl _ _ _ _ _
theorem Major.stD (s : BitVec 2) (p : BitVec 2) (d : BitVec 7) (a : BitVec 7) (o : BitVec 7) : Major.Statement (.stD s p d a o) := fun _ => Major.encM (op := 94#7) rfl _ _ _ _ _
theorem Major.stQ (s : BitVec 2) (p : BitVec 2) (d : BitVec 7) (a : BitVec 7) (o : BitVec 7) : Major.Statement (.stQ s p d a o) := fun _ => Major.encM (op := 95#7) rfl _ _ _ _ _
theorem Major.atom (s : BitVec 2) (r : BitVec 2) (d : BitVec 7) (a : BitVec 7) (x : BitVec 3) (y : BitVec 4) : Major.Statement (.atom s r d a x y) := fun _ => Major.encM (op := 96#7) rfl _ _ _ _ _
theorem Major.atom64 (s : BitVec 2) (r : BitVec 2) (d : BitVec 7) (a : BitVec 7) (x : BitVec 3) (y : BitVec 4) : Major.Statement (.atom64 s r d a x y) := fun _ => Major.encM (op := 97#7) rfl _ _ _ _ _
theorem Major.atr (s : BitVec 2) (r : BitVec 2) (d : BitVec 7) (a : BitVec 7) (x : BitVec 3) (y : BitVec 4) : Major.Statement (.atr s r d a x y) := fun _ => Major.encM (op := 98#7) rfl _ _ _ _ _
theorem Major.fence (s : BitVec 3) : Major.Statement (.fence s) := fun _ => Major.encS (op := 99#7) rfl _ _ _
theorem Major.fenceTl : Major.Statement (.fenceTl) := fun _ => Major.encS (op := 99#7) rfl _ _ _
theorem Major.fenceOr : Major.Statement (.fenceOr) := fun _ => Major.encS (op := 99#7) rfl _ _ _
theorem Major.cinv (a : BitVec 7) (l : BitVec 14) : Major.Statement (.cinv a l) := fun _ => Major.encS (op := 99#7) rfl _ _ _
theorem Major.cwb (a : BitVec 7) (l : BitVec 14) : Major.Statement (.cwb a l) := fun _ => Major.encS (op := 99#7) rfl _ _ _
theorem Major.icinv (a : BitVec 7) (l : BitVec 14) : Major.Statement (.icinv a l) := fun _ => Major.encS (op := 99#7) rfl _ _ _
theorem Major.pref (s : BitVec 2) (p : BitVec 2) (a : BitVec 7) (o : BitVec 7) : Major.Statement (.pref s p a o) := fun _ => Major.encM (op := 100#7) rfl _ _ _ _ _
theorem Major.ldg (s : BitVec 2) (p : BitVec 2) (d : BitVec 7) (a : BitVec 7) (o : BitVec 7) : Major.Statement (.ldg s p d a o) := fun _ => Major.encM (op := 101#7) rfl _ _ _ _ _
theorem Major.tlw (d : BitVec 7) (a : BitVec 7) (b : BitVec 7) : Major.Statement (.tlw d a b) := fun _ => Major.encR (op := 102#7) rfl _ _ _ _ _
theorem Major.tlrd (d : BitVec 7) (a : BitVec 7) (b : BitVec 7) : Major.Statement (.tlrd d a b) := fun _ => Major.encR (op := 102#7) rfl _ _ _ _ _
theorem Major.tli (a : BitVec 7) : Major.Statement (.tli a) := fun _ => Major.encR (op := 102#7) rfl _ _ _ _ _
theorem Major.invt (a : BitVec 7) (b : BitVec 7) : Major.Statement (.invt a b) := fun _ => Major.encR (op := 103#7) rfl _ _ _ _ _
theorem Major.vprobe (d : BitVec 7) (a : BitVec 7) (b : BitVec 7) : Major.Statement (.vprobe d a b) := fun _ => Major.encR (op := 103#7) rfl _ _ _ _ _
theorem Major.bact (s : BitVec 2) (r : BitVec 1) (e : BitVec 1) (p : BitVec 4) (i : BitVec 10) : Major.Statement (.bact s r e p i) := fun _ => Major.encK (op := 104#7) rfl _ _
theorem Major.bpre (s : BitVec 2) : Major.Statement (.bpre s) := fun _ => Major.encK (op := 104#7) rfl _ _
theorem Major.browsh (s : BitVec 2) (t : BitVec 2) : Major.Statement (.browsh s t) := fun _ => Major.encK (op := 104#7) rfl _ _
theorem Major.brcpy (s : BitVec 2) (t : BitVec 2) : Major.Statement (.brcpy s t) := fun _ => Major.encK (op := 104#7) rfl _ _
theorem Major.brdc (s : BitVec 2) (c : BitVec 7) (o : BitVec 4) : Major.Statement (.brdc s c o) := fun _ => Major.encK (op := 105#7) rfl _ _
theorem Major.bwrc (s : BitVec 2) (c : BitVec 7) (o : BitVec 4) : Major.Statement (.bwrc s c o) := fun _ => Major.encK (op := 105#7) rfl _ _
theorem Major.bldt (t : BitVec 2) (x : BitVec 7) (s : BitVec 2) (y : BitVec 7) : Major.Statement (.bldt t x s y) := fun _ => Major.encK (op := 106#7) rfl _ _
theorem Major.blut (s : BitVec 2) (x : BitVec 7) (t : BitVec 2) (y : BitVec 7) : Major.Statement (.blut s x t y) := fun _ => Major.encK (op := 106#7) rfl _ _
theorem Major.beadd (d : BitVec 2) (a : BitVec 2) (b : BitVec 2) (c : BitVec 7) (v : BitVec 2) : Major.Statement (.beadd d a b c v) := fun _ => Major.encK (op := 107#7) rfl _ _
theorem Major.befma (d : BitVec 2) (a : BitVec 2) (b : BitVec 2) (c : BitVec 7) (v : BitVec 2) (p : BitVec 4) : Major.Statement (.befma d a b c v p) := fun _ => Major.encK (op := 107#7) rfl _ _
theorem Major.bescl (d : BitVec 2) (a : BitVec 2) (c : BitVec 7) (v : BitVec 2) (p : BitVec 4) : Major.Statement (.bescl d a c v p) := fun _ => Major.encK (op := 107#7) rfl _ _
theorem Major.bacc (n : BitVec 3) (o : BitVec 1) (i : BitVec 10) (r : BitVec 1) (z : BitVec 1) : Major.Statement (.bacc n o i r z) := fun _ => Major.encK (op := 108#7) rfl _ _
theorem Major.bloop (e : BitVec 1) (p : BitVec 4) (c : BitVec 10) (l : BitVec 6) : Major.Statement (.bloop e p c l) := fun _ => Major.encK (op := 109#7) rfl _ _
theorem Major.byld : Major.Statement (.byld) := fun _ => Major.encK (op := 109#7) rfl _ _
theorem Major.bend : Major.Statement (.bend) := fun _ => Major.encK (op := 109#7) rfl _ _
theorem Major.macq (a : BitVec 7) : Major.Statement (.macq a) := fun _ => Major.encS (op := 112#7) rfl _ _ _
theorem Major.mrel (e : BitVec 1) (s : BitVec 8) : Major.Statement (.mrel e s) := fun _ => Major.encS (op := 112#7) rfl _ _ _
theorem Major.mswap : Major.Statement (.mswap) := fun _ => Major.encS (op := 112#7) rfl _ _ _
theorem Major.mstat (d : BitVec 7) (s : BitVec 3) : Major.Statement (.mstat d s) := fun _ => Major.encS (op := 112#7) rfl _ _ _
theorem Major.mlds (a : BitVec 7) (o : BitVec 14) : Major.Statement (.mlds a o) := fun _ => Major.encS (op := 113#7) rfl _ _ _
theorem Major.mscl (a : BitVec 7) : Major.Statement (.mscl a) := fun _ => Major.encS (op := 114#7) rfl _ _ _
theorem Major.mexec (f : BitVec 3) (a : BitVec 7) : Major.Statement (.mexec f a) := fun _ => Major.encS (op := 115#7) rfl _ _ _
theorem Major.macz (s : BitVec 3) : Major.Statement (.macz s) := fun _ => Major.encS (op := 116#7) rfl _ _ _
theorem Major.macrd (a : BitVec 7) (k : BitVec 4) (s : BitVec 3) : Major.Statement (.macrd a k s) := fun _ => Major.encS (op := 116#7) rfl _ _ _
theorem Major.macwr (a : BitVec 7) (k : BitVec 4) (s : BitVec 3) : Major.Statement (.macwr a k s) := fun _ => Major.encS (op := 116#7) rfl _ _ _
theorem Major.tcopy (a : BitVec 7) (o : BitVec 14) : Major.Statement (.tcopy a o) := fun _ => Major.encS (op := 120#7) rfl _ _ _
theorem Major.tcopyr (a : BitVec 7) (o : BitVec 14) : Major.Statement (.tcopyr a o) := fun _ => Major.encS (op := 120#7) rfl _ _ _
theorem Major.bkrun (a : BitVec 7) (p : BitVec 1) (s : BitVec 3) : Major.Statement (.bkrun a p s) := fun _ => Major.encS (op := 120#7) rfl _ _ _
theorem Major.chtail (a : BitVec 7) : Major.Statement (.chtail a) := fun _ => Major.encS (op := 121#7) rfl _ _ _
theorem Major.chseq (a : BitVec 7) : Major.Statement (.chseq a) := fun _ => Major.encS (op := 121#7) rfl _ _ _
theorem Major.evpop (a : BitVec 7) : Major.Statement (.evpop a) := fun _ => Major.encS (op := 122#7) rfl _ _ _
theorem Major.evwait (a : BitVec 7) : Major.Statement (.evwait a) := fun _ => Major.encS (op := 122#7) rfl _ _ _
theorem Major.cbar (a : BitVec 7) (c : BitVec 3) : Major.Statement (.cbar a c) := fun _ => Major.encS (op := 122#7) rfl _ _ _
theorem Major.mig (a : BitVec 7) : Major.Statement (.mig a) := fun _ => Major.encS (op := 123#7) rfl _ _ _
theorem Major.mret : Major.Statement (.mret) := fun _ => Major.encS (op := 123#7) rfl _ _ _
theorem Major.crd (a : BitVec 7) (n : BitVec 12) : Major.Statement (.crd a n) := fun _ => Major.encS (op := 124#7) rfl _ _ _
theorem Major.cwr (a : BitVec 7) (n : BitVec 12) : Major.Statement (.cwr a n) := fun _ => Major.encS (op := 124#7) rfl _ _ _
theorem Major.eret (a : BitVec 7) (x : BitVec 14) : Major.Statement (.eret a x) := fun _ => Major.encS (op := 124#7) rfl _ _ _
theorem Major.tsetImm (c : BitVec 14) : Major.Statement (.tsetImm c) := fun _ => Major.encS (op := 124#7) rfl _ _ _
theorem Major.tsetReg (a : BitVec 7) : Major.Statement (.tsetReg a) := fun _ => Major.encS (op := 124#7) rfl _ _ _
theorem Major.evmark (a : BitVec 7) (k : BitVec 6) : Major.Statement (.evmark a k) := fun _ => Major.encS (op := 124#7) rfl _ _ _
theorem Major.mslot (d : BitVec 7) (w : BitVec 1) : Major.Statement (.mslot d w) := fun _ => Major.encS (op := 124#7) rfl _ _ _
theorem Major.ctxsw : Major.Statement (.ctxsw) := fun _ => Major.encS (op := 124#7) rfl _ _ _
theorem Major.dsrd (a : BitVec 7) : Major.Statement (.dsrd a) := fun _ => Major.encS (op := 124#7) rfl _ _ _
theorem Major.dswr (a : BitVec 7) : Major.Statement (.dswr a) := fun _ => Major.encS (op := 124#7) rfl _ _ _
theorem Major.flgrd (a : BitVec 7) : Major.Statement (.flgrd a) := fun _ => Major.encS (op := 124#7) rfl _ _ _
theorem Major.flgclr (m : BitVec 5) : Major.Statement (.flgclr m) := fun _ => Major.encS (op := 124#7) rfl _ _ _
theorem Major.capsFreeze (a : BitVec 7) : Major.Statement (.capsFreeze a) := fun _ => Major.encS (op := 124#7) rfl _ _ _
theorem Major.capsEvent (a : BitVec 7) : Major.Statement (.capsEvent a) := fun _ => Major.encS (op := 124#7) rfl _ _ _
theorem Major.replayCheck (mismatch : Bool) : Major.Statement (.replayCheck mismatch) := fun h => Bool.noConfusion h
theorem Major.teamRollback (team : Nat) : Major.Statement (.teamRollback team) := fun h => Bool.noConfusion h
theorem Major.claimGrant : Major.Statement (.claimGrant) := fun h => Bool.noConfusion h
theorem Major.claimDeadlock (team : Nat) : Major.Statement (.claimDeadlock team) := fun h => Bool.noConfusion h
theorem Major.binDrawAge (bin : Nat) : Major.Statement (.binDrawAge bin) := fun h => Bool.noConfusion h
theorem Major.timerTrap (gctx : Nat) : Major.Statement (.timerTrap gctx) := fun h => Bool.noConfusion h
theorem Major.framePost (share : Nat) : Major.Statement (.framePost share) := fun h => Bool.noConfusion h
theorem Major.handlerGroupStart (share : Nat) : Major.Statement (.handlerGroupStart share) := fun h => Bool.noConfusion h
theorem Major.channelWaitServed (team : Nat) (ch : Nat) : Major.Statement (.channelWaitServed team ch) := fun h => Bool.noConfusion h
theorem Major.readLaunchEntry (f : Nat) : Major.Statement (.readLaunchEntry f) := fun h => Bool.noConfusion h
theorem Major.placement (f : Nat) : Major.Statement (.placement f) := fun h => Bool.noConfusion h
theorem Major.gdQpostWrite (f : Nat) (count : BitVec 16) : Major.Statement (.gdQpostWrite f count) := fun h => Bool.noConfusion h
theorem Major.hostQpostWrite (f : Nat) (count : BitVec 16) : Major.Statement (.hostQpostWrite f count) := fun h => Bool.noConfusion h
theorem Major.retryHead (f : Nat) : Major.Statement (.retryHead f) := fun h => Bool.noConfusion h
theorem Major.skipHead (f : Nat) : Major.Statement (.skipHead f) := fun h => Bool.noConfusion h
theorem Major.skipHeadTrigger (f : Nat) : Major.Statement (.skipHeadTrigger f) := fun h => Bool.noConfusion h
theorem Major.tsReformWrite (value : BitVec 32) : Major.Statement (.tsReformWrite value) := fun h => Bool.noConfusion h
theorem Major.registerWrite (f : Nat) (reg : HostReg) (value : BitVec 64) : Major.Statement (.registerWrite f reg value) := fun h => Bool.noConfusion h
theorem Major.mmioWrite (f : Nat) (off : Nat) (size : Nat) (value : BitVec 64) (tee : Bool) : Major.Statement (.mmioWrite f off size value tee) := fun h => Bool.noConfusion h
theorem Major.contextSwap : Major.Statement (.contextSwap) := fun h => Bool.noConfusion h
theorem Major.preemptionRequest : Major.Statement (.preemptionRequest) := fun h => Bool.noConfusion h
theorem Major.contextSpill : Major.Statement (.contextSpill) := fun h => Bool.noConfusion h
theorem Major.contextLoad : Major.Statement (.contextLoad) := fun h => Bool.noConfusion h
theorem Major.migrationArrival (gctx : Nat) : Major.Statement (.migrationArrival gctx) := fun h => Bool.noConfusion h
theorem Major.leaseHandoff : Major.Statement (.leaseHandoff) := fun h => Bool.noConfusion h
theorem Major.scanComplete : Major.Statement (.scanComplete) := fun h => Bool.noConfusion h
theorem Major.clearComplete : Major.Statement (.clearComplete) := fun h => Bool.noConfusion h
theorem Major.matrixOpStart (upset : EngineUpset) : Major.Statement (.matrixOpStart upset) := fun h => Bool.noConfusion h
theorem Major.matrixOpComplete : Major.Statement (.matrixOpComplete) := fun h => Bool.noConfusion h
theorem Major.tileCopyStart (op : Nat) : Major.Statement (.tileCopyStart op) := fun h => Bool.noConfusion h
theorem Major.tileCopyComplete (op : Nat) : Major.Statement (.tileCopyComplete op) := fun h => Bool.noConfusion h
theorem Major.completionRecordPost (pos : Nat) : Major.Statement (.completionRecordPost pos) := fun h => Bool.noConfusion h
theorem Major.runPrecheck (run : Nat) : Major.Statement (.runPrecheck run) := fun h => Bool.noConfusion h
theorem Major.bankAdmission (stack : Nat) (bank : Nat) : Major.Statement (.bankAdmission stack bank) := fun h => Bool.noConfusion h
theorem Major.bankAccessServed (stack : Nat) (bank : Nat) (row : Nat) (write : Bool) : Major.Statement (.bankAccessServed stack bank row write) := fun h => Bool.noConfusion h
theorem Major.runComplete (run : Nat) : Major.Statement (.runComplete run) := fun h => Bool.noConfusion h
theorem Major.copyEntry (engine : Nat) : Major.Statement (.copyEntry engine) := fun h => Bool.noConfusion h
theorem Major.copy2dEntry (engine : Nat) : Major.Statement (.copy2dEntry engine) := fun h => Bool.noConfusion h
theorem Major.fillEntry (engine : Nat) : Major.Statement (.fillEntry engine) := fun h => Bool.noConfusion h
theorem Major.nopEntry (engine : Nat) : Major.Statement (.nopEntry engine) := fun h => Bool.noConfusion h
theorem Major.tierDown (engine : Nat) : Major.Statement (.tierDown engine) := fun h => Bool.noConfusion h
theorem Major.tierUp (engine : Nat) : Major.Statement (.tierUp engine) := fun h => Bool.noConfusion h
theorem Major.zeroRows (engine : Nat) : Major.Statement (.zeroRows engine) := fun h => Bool.noConfusion h
theorem Major.rowCopy (engine : Nat) : Major.Statement (.rowCopy engine) := fun h => Bool.noConfusion h
theorem Major.engineChunk (engine : Nat) : Major.Statement (.engineChunk engine) := fun h => Bool.noConfusion h
theorem Major.engineRetry (engine : Nat) : Major.Statement (.engineRetry engine) := fun h => Bool.noConfusion h
theorem Major.engineSkip (engine : Nat) : Major.Statement (.engineSkip engine) := fun h => Bool.noConfusion h
theorem Major.beacon : Major.Statement (.beacon) := fun h => Bool.noConfusion h
theorem Major.beaconMissed (die : Nat) : Major.Statement (.beaconMissed die) := fun h => Bool.noConfusion h
theorem Major.drainPoint (die : Nat) : Major.Statement (.drainPoint die) := fun h => Bool.noConfusion h
theorem Major.slotStart : Major.Statement (.slotStart) := fun h => Bool.noConfusion h
theorem Major.slotEnd : Major.Statement (.slotEnd) := fun h => Bool.noConfusion h
theorem Major.fatalSignal (unit : Nat) (device : Bool) (f : Nat) (code : BitVec 8) : Major.Statement (.fatalSignal unit device f code) := fun h => Bool.noConfusion h
theorem Major.ringCopy : Major.Statement (.ringCopy) := fun h => Bool.noConfusion h
theorem Major.capsuleBuild : Major.Statement (.capsuleBuild) := fun h => Bool.noConfusion h
theorem Major.capsuleFlush : Major.Statement (.capsuleFlush) := fun h => Bool.noConfusion h
theorem Major.listCapsules (f : Nat) : Major.Statement (.listCapsules f) := fun h => Bool.noConfusion h
theorem Major.readCapsule (f : Nat) (seq : BitVec 32) (off : Nat) (len : Nat) : Major.Statement (.readCapsule f seq off len) := fun h => Bool.noConfusion h
theorem Major.doorbell (f : Nat) (len : Nat) : Major.Statement (.doorbell f len) := fun h => Bool.noConfusion h
theorem Major.validSet (f : Nat) (ctl : BitVec 64) : Major.Statement (.validSet f ctl) := fun h => Bool.noConfusion h
theorem Major.validClear (f : Nat) : Major.Statement (.validClear f) := fun h => Bool.noConfusion h
theorem Major.keyprog (f : Nat) (key : BitVec 128) (owner : BitVec 512) : Major.Statement (.keyprog f key owner) := fun h => Bool.noConfusion h
theorem Major.lockInterfaceRequest (f : Nat) : Major.Statement (.lockInterfaceRequest f) := fun h => Bool.noConfusion h
theorem Major.startInterfaceRequest (f : Nat) (nonce : BitVec 256) : Major.Statement (.startInterfaceRequest f nonce) := fun h => Bool.noConfusion h
theorem Major.bootEnd (f : Nat) : Major.Statement (.bootEnd f) := fun h => Bool.noConfusion h
theorem Major.stopInterfaceRequest (f : Nat) : Major.Statement (.stopInterfaceRequest f) := fun h => Bool.noConfusion h
theorem Major.getDeviceInterfaceState (f : Nat) : Major.Statement (.getDeviceInterfaceState f) := fun h => Bool.noConfusion h
theorem Major.getDeviceInterfaceReport (f : Nat) : Major.Statement (.getDeviceInterfaceReport f) := fun h => Bool.noConfusion h
theorem Major.growSlice (f : Nat) (digest : BitVec 256) (sig : BitVec 512) : Major.Statement (.growSlice f digest sig) := fun h => Bool.noConfusion h
theorem Major.liveGranuleMove (f : Nat) (ordinal : Nat) (granule : Nat) : Major.Statement (.liveGranuleMove f ordinal granule) := fun h => Bool.noConfusion h
theorem Major.getVersion (f : Nat) : Major.Statement (.getVersion f) := fun h => Bool.noConfusion h
theorem Major.getCapabilities (f : Nat) : Major.Statement (.getCapabilities f) := fun h => Bool.noConfusion h
theorem Major.getMeasurements (f : Nat) : Major.Statement (.getMeasurements f) := fun h => Bool.noConfusion h
theorem Major.ideKm (f : Nat) (key : BitVec 256) : Major.Statement (.ideKm f key) := fun h => Bool.noConfusion h
theorem Major.ideIntegrityFailure (f : Nat) : Major.Statement (.ideIntegrityFailure f) := fun h => Bool.noConfusion h
theorem Major.hostReadTimeout (addr : Nat) : Major.Statement (.hostReadTimeout addr) := fun h => Bool.noConfusion h
theorem Major.flitReceived (port : Nat) (seq : BitVec 12) (kind : BitVec 4) (ack : BitVec 16) (rest : List (BitVec 8)) : Major.Statement (.flitReceived port seq kind ack rest) := fun h => Bool.noConfusion h
theorem Major.remoteAccess (slot : Nat) (src : Nat) (epoch : BitVec 8) (ia : BitVec 48) (op : LinkOp) (body : LinkBody) : Major.Statement (.remoteAccess slot src epoch ia op body) := fun h => Bool.noConfusion h
theorem Major.remoteTimeout (gctx : Nat) (lanes : BitVec 64) (write : Bool) : Major.Statement (.remoteTimeout gctx lanes write) := fun h => Bool.noConfusion h
theorem Major.encjoin (f : Nat) (part : Nat) (n : Nat) (q : Nat) (enclave : BitVec 64) (secret : BitVec 128) (digests : List (BitVec 256)) : Major.Statement (.encjoin f part n q enclave secret digests) := fun h => Bool.noConfusion h
theorem Major.revoke (f : Nat) (enclave : BitVec 64) (part : Nat × BitVec 8) (sigs : List (Nat × BitVec 512)) : Major.Statement (.revoke f enclave part sigs) := fun h => Bool.noConfusion h
theorem Major.enclaveRekey (slot : Nat) : Major.Statement (.enclaveRekey slot) := fun h => Bool.noConfusion h
theorem Major.epochGraceEnd (slot : Nat) : Major.Statement (.epochGraceEnd slot) := fun h => Bool.noConfusion h
theorem Major.coldReset (heat : List Nat) : Major.Statement (.coldReset heat) := fun h => Bool.noConfusion h
theorem Major.flashUpdate (image : List (BitVec 8)) (sig : BitVec 512) : Major.Statement (.flashUpdate image sig) := fun h => Bool.noConfusion h
theorem Major.warmReset : Major.Statement (.warmReset) := fun h => Bool.noConfusion h
theorem Major.hotReset : Major.Statement (.hotReset) := fun h => Bool.noConfusion h
theorem Major.functionReset (f : Nat) : Major.Statement (.functionReset f) := fun h => Bool.noConfusion h
theorem Major.powerGating (gated : Bool) : Major.Statement (.powerGating gated) := fun h => Bool.noConfusion h
theorem Major.srIovCapabilityWrite (off : Nat) (value : BitVec 64) : Major.Statement (.srIovCapabilityWrite off value) := fun h => Bool.noConfusion h
theorem Major.keyEx (f : Nat) : Major.Statement (.keyEx f) := fun h => Bool.noConfusion h
theorem Major.negotiation (f : Nat) (sm3 : Bool) (sm2 : Bool) (sm4 : Bool) : Major.Statement (.negotiation f sm3 sm2 sm4) := fun h => Bool.noConfusion h
theorem Major.linkTraining (speed : Nat) (width : Nat) : Major.Statement (.linkTraining speed width) := fun h => Bool.noConfusion h

end Sys2Proof.Laws
end

