-- ==== Sys2Proof/Tests/Slice0.lean ====
section
/-! SUPPORT. The model's own tests: ill-formed instructions refused, words written out from the spec's encodings, single steps with
results from the spec's rules, and for each statement a concrete state that meets its hypotheses. -/
set_option Elab.async false

namespace Sys2Proof.Machine.Tests


/-! The theorems `wit_<name>` show, for the statement `Claim.<name>` or `Obligations.<name>`, concrete values that meet the hypotheses of its
clauses together; a suffix names one clause. -/
/-! ## Witnesses: a concrete state for the hypotheses of each statement -/

/-- Slice 0 with one thread of 104 registers, whose unit is being issued at address 4096. -/
def demo : State := State.reset.withProbe 0#32 []
/-- Its unit. -/
def demoC : Cur := ⟨false, 0, [0], 4096#56, 4096#56, 0#32, none, none, 1⟩
/-- Its group. -/
def demoG : Group := probeGroup 4096#56

theorem demo_in : InUnit demo demoC demoG := ⟨rfl, rfl⟩
theorem demo_ready {u : Unit} (h : u.check demoG demoC = none) : Ready demo demoC demoG u := ⟨demo_in, h⟩
theorem demo_teamReady {u : Unit} (h : u.check demoG demoC = none) : TeamReady demo demoC demoG probeTeam u := ⟨demo_ready h, rfl, rfl, rfl⟩

/-- The unit is ready in the demonstration state and its sources hold no poison. -/
def Fits (u : Unit) (srcs : List (Nat × Nat)) : Prop := Ready demo demoC demoG u ∧ demoG.Clean demoC u srcs

theorem fits {u : Unit} {srcs : List (Nat × Nat)} (h : u.check demoG demoC = none)
    (k : (lanesOf demoG (u.run demoG demoC)).all (fun l => srcs.all fun p => !anyPoison (demoG.readWords l p.1 p.2)) = true) : Fits u srcs :=
  ⟨demo_ready h, fun l hl p hp => by simpa using List.all_eq_true.1 (List.all_eq_true.1 k l hl) p hp⟩

/-! ### The vector arithmetic -/

theorem wit_IntegerBinaryResults : intBinary ≠ [] ∧ Fits (aluUnit 0#1 0 [(16#7, 1), (24#7, 1), (40#7, 1)]) [(24, 1), (40, 1)] :=
  ⟨by simp [intBinary], fits (by decide +kernel) (by decide +kernel)⟩
theorem wit_IntegerUnaryResults : intUnary ≠ [] ∧ Fits (aluUnit 0#1 0 [(16#7, 1), (24#7, 1)]) [(24, 1)] :=
  ⟨by simp [intUnary], fits (by decide +kernel) (by decide +kernel)⟩
theorem wit_IntegerTernaryResults : intTernary ≠ [] ∧ Fits (aluUnit 0#1 1 [(16#7, 1), (24#7, 1), (40#7, 1)]) [(24, 1), (40, 1), ((pfxC demoC).toNat, 1)] :=
  ⟨by simp [intTernary], fits (by decide +kernel) (by decide +kernel)⟩
theorem wit_PairResults : Fits (aluUnit 0#1 0 [(16#7, 2), (24#7, 2), (40#7, 2)]) [(24, 2), (40, 2)]
    ∧ Fits (aluUnit 0#1 0 [(16#7, 2), (24#7, 2), (40#7, 1)]) [(24, 2), (40, 1)] ∧ Fits (immUnit true [(16#7, 2), (24#7, 2)]) [(24, 2)] :=
  ⟨fits (by decide +kernel) (by decide +kernel), fits (by decide +kernel) (by decide +kernel), fits (by decide +kernel) (by decide +kernel)⟩
theorem wit_ImmediateResults : immBinary ≠ [] ∧ immShift ≠ [] ∧ Fits (immUnit true [(16#7, 1), (24#7, 1)]) [(24, 1)]
    ∧ Ready demo demoC demoG (immUnit true [(16#7, 1), (124#7, 1)]) ∧ Fits (immUnit false [(16#7, 1), (24#7, 1)]) [(24, 1)] :=
  ⟨by simp [immBinary], by simp [immShift], fits (by decide +kernel) (by decide +kernel), demo_ready (by decide +kernel), fits (by decide +kernel) (by decide +kernel)⟩
theorem wit_CompareResults : 2 ≤ (3#3).toNat ∧ Fits (aluUnit 0#1 0 [(24#7, 1), (40#7, 1)]) [(24, 1), (40, 1)]
    ∧ Fits (aluUnit 0#1 0 [(16#7, 1), (24#7, 1), (40#7, 1)]) [(24, 1), (40, 1)] :=
  ⟨by decide, fits (by decide +kernel) (by decide +kernel), fits (by decide +kernel) (by decide +kernel)⟩
theorem wit_MoveResults : Ready demo demoC demoG (aluUnit 0#1 0 [(16#7, 1), (24#7, 1)]) ∧ Ready demo demoC demoG (selUnit 0#1 16#7 24#7 40#7) :=
  ⟨demo_ready (by decide +kernel), demo_ready (by decide +kernel)⟩

theorem wit_FloatBinaryResults : fpBinaryTable ≠ [] ∧ Fits (fpUnit 0#1 0 0 [(16#7, 1), (24#7, 1), (40#7, 1)]) [(24, 1), (40, 1)] :=
  ⟨by simp [fpBinaryTable], fits (by decide +kernel) (by decide +kernel)⟩
theorem wit_FloatUnaryResults : fpUnaryTable ≠ [] ∧ Fits (fpUnit 0#1 0 0 [(16#7, 1), (24#7, 1)]) [(24, 1)] :=
  ⟨by simp [fpUnaryTable], fits (by decide +kernel) (by decide +kernel)⟩
theorem wit_FloatTernaryResults : fpTernaryTable ≠ []
    ∧ Fits (fpUnit 0#1 1 0 [(16#7, 1), (24#7, 1), (40#7, 1)]) [(24, 1), (40, 1), ((pfxC demoC).toNat, 1)]
    ∧ Fits (fpUnit 0#1 0 0 [(16#7, 1), (24#7, 1), (40#7, 1)]) [(24, 1), (40, 1), (16, 1)] :=
  ⟨by simp [fpTernaryTable], fits (by decide +kernel) (by decide +kernel), fits (by decide +kernel) (by decide +kernel)⟩
theorem wit_FloatCompareResults : Fits (aluUnit 0#1 0 [(24#7, 1), (40#7, 1)]) [(24, 1), (40, 1)]
    ∧ Fits (aluUnit 0#1 0 [(16#7, 1), (24#7, 1), (40#7, 1)]) [(24, 1), (40, 1)] ∧ Fits (aluUnit 0#1 0 [(16#7, 1), (24#7, 1)]) [(24, 1)] :=
  ⟨fits (by decide +kernel) (by decide +kernel), fits (by decide +kernel) (by decide +kernel), fits (by decide +kernel) (by decide +kernel)⟩
theorem wit_PackedConversionResults :
    (∃ p ∈ narrowTable 0#1 16#7 24#7 40#7, Fits (fpUnit 0#1 0 0 ((16#7, 1) :: p.2.1)) (p.2.1.map fun q => (q.1.toNat, q.2)))
    ∧ ∃ p ∈ widenTable 0#1 16#7 24#7, Fits (fpUnit 0#1 0 0 [(16#7, p.2.1), (24#7, 1)]) [(24, 1)] :=
  ⟨⟨_, List.mem_cons_self, fits (by decide +kernel) (by decide +kernel)⟩, ⟨_, List.mem_cons_self, fits (by decide +kernel) (by decide +kernel)⟩⟩
theorem wit_DeepLinkConversionResults : Fits (fpUnit 0#1 0 3 [(16#7, 1), (24#7, 1)]) [(24, 1)]
    ∧ Fits (fpUnit 0#1 0 3 [(16#7, 1), (24#7, 1), (40#7, 1)]) [(24, 1), (40, 1)] :=
  ⟨fits (by decide +kernel) (by decide +kernel), fits (by decide +kernel) (by decide +kernel)⟩
theorem wit_BlockConversionResults : (Ready demo demoC demoG (fpUnit 0#1 0 0 [(16#7, 2), (24#7, 4)])
      ∧ ∀ l ∈ lanesOf demoG (demoG.run demoC), ∀ i ∈ demoG.blockRun demoC l, anyPoison (demoG.readWords i 24 4) = false)
    ∧ Fits (fpUnit 0#1 0 0 [(16#7, 4), (24#7, 1), (40#7, 1)]) [(24, 1), (40, 1)] :=
  ⟨⟨demo_ready (by decide +kernel), by decide +kernel⟩, fits (by decide +kernel) (by decide +kernel)⟩
theorem wit_ScaledDotResults : Fits (fpUnit 0#1 1 3 [(16#7, 1), (24#7, 1), (40#7, 1)]) [(24, 1), (40, 1), (16, 1)]
    ∧ ∀ l ∈ lanesOf demoG (demoG.run demoC), (demoG.scaleWord demoC (8 * (l / 8))).poison = false ∧ (demoG.scaleWord demoC (8 * (l / 8) + 1)).poison = false :=
  ⟨fits (by decide +kernel) (by decide +kernel), by decide +kernel⟩


/-- The demonstration state with another group and another unit of it. -/
def demoWith (G : Group) (c : Cur) : State := { demo with
  live := { demo.live with groups := [G] }
  cur := some c }

theorem with_in {G : Group} {c : Cur} (h : G.gctx = c.gctx) : InUnit (demoWith G c) c G :=
  ⟨rfl, by simp [State.group, demoWith, h]⟩
theorem with_ready {G : Group} {c : Cur} {u : Unit} (h : G.gctx = c.gctx) (k : u.check G c = none) : Ready (demoWith G c) c G u := ⟨with_in h, k⟩
theorem with_teamReady {G : Group} {c : Cur} {u : Unit} (h : G.gctx = c.gctx) (k : u.check G c = none) (t : G.team = some 0) (m : G.mig = none) :
    TeamReady (demoWith G c) c G probeTeam u := ⟨with_ready h k, t, rfl, m⟩

/-- The group on its way, on a spar core of stack 0. -/
def awayG : Group := { demoG with mig := some ⟨0, some 0, 0#32, 0#5, 0#5⟩ }
/-- The group with a window base that leaves few names within the allocation. -/
def highG : Group := { demoG with winb := 16 }
/-- The group with a poisoned register 24. -/
def eatG : Group := { demoG with threads := demoG.threads.map fun t => { t with regs := t.regs.set 24 ⟨0#32, true⟩ } }
/-- A unit with a prefix that its instruction does not admit: a byte select. -/
def badC : Cur := { demoC with pfx := some 0xFC1FE100#32 }

theorem wit_RegisterWriteBack : (InUnit demo demoC demoG ∧ (∀ l : Nat, ((fun _ => [pzero]) l : List PWord).length = 1)
      ∧ (aluUnit 0#1 0 [(16#7, 1)]).names.contains (BitVec.ofNat 7 16, 1) = true ∧ Ready demo demoC demoG (aluUnit 0#1 0 [(16#7, 1)]) ∧ 16 + 1 ≤ 96)
    ∧ (aluUnit 0#1 0 [(96#7, 1)]).names.contains (BitVec.ofNat 7 96, 1) = true ∧ Ready demo demoC demoG (aluUnit 0#1 0 [(96#7, 1)])
      ∧ 96 ≤ 96 ∧ 96 + 1 ≤ 104 ∧ (∀ t ∈ demoG.threads, t.opf.length = 8) :=
  ⟨⟨demo_in, fun _ => rfl, by decide, demo_ready (by decide +kernel), by decide⟩, by decide, demo_ready (by decide +kernel), by decide, by decide,
    by decide +kernel⟩
theorem wit_LatchPush : InUnit demo demoC demoG ∧ (16 : Nat) < 104 ∧ (∀ l : Nat, ((fun _ => [pzero]) l : List PWord).length = 1)
    ∧ (aluUnit 0#1 0 [(16#7, 1)]).latch = true := ⟨demo_in, by decide, fun _ => rfl, rfl⟩
theorem wit_MaskAndUniformWriteBack : InUnit demo demoC demoG ∧ 1 ≤ 7 ∧ 7 ≤ demoG.masks.length ∧ 108 ≤ 123 ∧ 123 < 124 ∧ demoG.unif.length = 16
    ∧ lowest (demoG.k0 demoC) = some 0 ∧ ((aluUnit 0#1 0 []).run demoG demoC).getLsbD 0 = true :=
  ⟨demo_in, by decide, by decide +kernel, by decide, by decide, by decide +kernel, by decide +kernel, by decide +kernel⟩
theorem wit_FlagsRaised : (InUnit demo demoC demoG ∧ demoG.team = some 0 ∧ demo.team 0 = some probeTeam ∧ demoG.mig = none)
    ∧ InUnit (demoWith awayG demoC) demoC awayG ∧ awayG.team = some 0 ∧ (demoWith awayG demoC).team 0 = some probeTeam ∧ awayG.mig ≠ none :=
  ⟨⟨demo_in, rfl, rfl, rfl⟩, with_in rfl, rfl, rfl, by simp [awayG]⟩
theorem wit_LaneFrame : InUnit demo demoC demoG := demo_in
theorem wit_UnitChecksTrap : (InUnit (demoWith demoG badC) badC demoG ∧ (aluUnit 0#1 0 [(16#7, 1), (24#7, 1), (40#7, 1)]).prefixOk badC = false)
    ∧ InUnit (demoWith highG demoC) demoC highG ∧ (aluUnit 0#1 0 [(95#7, 1), (24#7, 1), (40#7, 1)]).prefixOk demoC = true
      ∧ (lanesOf highG (highG.k0 demoC)).any (fun l => match highG.thread l with
        | some t => decide ((95#7).toNat < 96 ∧ t.regs.length < highG.winb + (95#7).toNat + 1)
        | none => false) = true :=
  ⟨⟨with_in rfl, by decide +kernel⟩, with_in rfl, by decide +kernel, by decide +kernel⟩
theorem wit_PoisonConsumed : let u := aluUnit 0#1 0 [(16#7, 1), (24#7, 1), (40#7, 1)]
    Ready (demoWith eatG demoC) demoC eatG u ∧ (1#64 : BitVec 64) ≠ 0#64
    ∧ ∀ l, l < 64 → (1#64).getLsbD l = ((u.run eatG demoC).getLsbD l && ((eatG.readWord l 24).poison || (eatG.readWord l 40).poison)) :=
  ⟨with_ready rfl (by decide +kernel), by decide, by decide +kernel⟩


/-! ### Control flow and traps -/

/-- The slice with its supervisor running: both stages of its tables map the first 2 MiB to themselves, for every level. -/
def mapped (s : State) : State :=
  let t := s.setSlice 0 { s.slice 0 with trCtl := 0#32, s2root := 0x10001#64, asbase := 0x20000#64 }
  { t with dram := [(0x10000, 0x03#8), (0x10001, 0x10#8), (0x10002, 0x01#8), (0x11000, 0x03#8), (0x11001, 0x20#8), (0x11002, 0x01#8),
    (0x12000, 0x03#8), (0x12001, 0x30#8), (0x12002, 0x01#8), (0x13000, 0x1D#8), (0x20000, 0x01#8), (0x20001, 0x10#8), (0x20002, 0x02#8),
    (0x21000, 0x03#8), (0x21001, 0x20#8), (0x21002, 0x02#8), (0x22000, 0x03#8), (0x22001, 0x30#8), (0x22002, 0x02#8),
    (0x23000, 0x03#8), (0x23001, 0x40#8), (0x23002, 0x02#8), (0x24000, 0x1D#8)] }

theorem mapped_in {G : Group} {c : Cur} (h : G.gctx = c.gctx) : InUnit (mapped (demoWith G c)) c G := ⟨rfl, (with_in h).group⟩
theorem mapped_teamReady {G : Group} {c : Cur} {u : Unit} (h : G.gctx = c.gctx) (k : u.check G c = none) (t : G.team = some 0) (m : G.mig = none) :
    TeamReady (mapped (demoWith G c)) c G probeTeam u := ⟨⟨mapped_in h, k⟩, t, rfl, m⟩

/-- The tables of the mapped state translate an address to itself. -/
theorem mapped_translates : (globalRes (mapped demo) ((mapped demo).superView 0) .store 0x5040).1 = .ok (.dram 0 0x5040) := by decide +kernel

theorem wit_BraResult : Ready demo demoC demoG (ctlUnit true []) ∧ ((4112#56).toNat : Int) = demoC.pc.toNat + 4 * fullOff demoC 4#14 :=
  ⟨demo_ready (by decide +kernel), by decide +kernel⟩
theorem wit_BranchResults : Ready demo demoC demoG (ctlUnit true []) ∧ ((4092#56).toNat : Int) = demoC.pc.toNat + 4 * fullOff demoC 0x3FFF#14
    ∧ ∀ q ∈ demoG.seqs, q.id ∈ demoC.seqs → q.stack.length < 16 :=
  ⟨demo_ready (by decide +kernel), by decide +kernel, by decide +kernel⟩
/-- A unit in the last word of the address space. -/
def lastC : Cur := { demoC with pc := 0xFFFFFFFFFFFFFC#56, unitPc := 0xFFFFFFFFFFFFFC#56 }
theorem wit_BranchOutOfRangeTraps :
    (Ready demo demoC demoG (ctlUnit true []) ∧ (demoC.pc.toNat : Int) + 4 * fullOff demoC 0x2000#14 < 0)
    ∧ Ready (demoWith demoG lastC) lastC demoG (ctlUnit true []) ∧ (2 : Int) ^ 56 ≤ lastC.pc.toNat + 4 * fullOff lastC 1#14 :=
  ⟨⟨demo_ready (by decide +kernel), by decide +kernel⟩, with_ready rfl (by decide +kernel), by decide +kernel⟩
theorem wit_CallResult : Ready demo demoC demoG (ctlUnit true [(16#7, 2)]) ∧ ((4112#56).toNat : Int) = demoC.pc.toNat + 4 * fullOff demoC 4#14 :=
  ⟨demo_ready (by decide +kernel), by decide +kernel⟩
theorem wit_IndirectBranchResults : InUnit demo demoC demoG ∧ goodTargets demoG demoC 24#7
    ∧ (∀ i ∈ demoC.seqs, ∃ q, demoG.seq i = some q ∧ q.st = .run
      ∧ demoG.targetSets q 24 (demoG.k0 demoC) ≠ [] ∧ q.stack.length + (demoG.targetSets q 24 (demoG.k0 demoC)).length ≤ 17)
    ∧ (ctlUnit false [(24#7, 2)]).check demoG demoC = none ∧ (ctlUnit false [(16#7, 2), (24#7, 2)]).check demoG demoC = none :=
  ⟨demo_in, by unfold goodTargets; decide +kernel,
    fun i hi => by obtain rfl : i = 0 := by simpa [demoC] using hi
                   exact ⟨Seq.fresh 0 0 1#4 4096#56 0, rfl, rfl, by decide +kernel, by decide +kernel⟩,
    by decide +kernel, by decide +kernel⟩
theorem wit_JoinYieldResults : Ready demo demoC demoG (ctlUnit false [])
    ∧ ∀ i ∈ demoC.seqs, ∃ q, demoG.seq i = some q ∧ q.st = .run ∧ ((∃ r, demoG.pop q true = .go r) ∨ ∃ st, demoG.pop q true = .join st) :=
  ⟨demo_ready (by decide +kernel),
    fun i hi => by obtain rfl : i = 0 := by simpa [demoC] using hi
                   exact ⟨Seq.fresh 0 0 1#4 4096#56 0, rfl, rfl, .inl ⟨_, rfl⟩⟩⟩
theorem wit_NopResult : Ready demo demoC demoG (ctlUnit false []) ∧ ∀ i ∈ demoC.seqs, ∃ q, demoG.seq i = some q ∧ q.st = .run :=
  ⟨demo_ready (by decide +kernel), fun i hi => by obtain rfl : i = 0 := by simpa [demoC] using hi
                                                  exact ⟨Seq.fresh 0 0 1#4 4096#56 0, rfl, rfl⟩⟩
theorem wit_ResumePopRule : let q := Seq.fresh 0 0 1#4 4096#56 0
    let e := stackEntry false 2#4 64#56
    (entryMask e &&& 1#4 = 0#4) ∧ (entryMask e &&& 3#4 &&& 2#4 ≠ 0#4 ∧ q.own ≠ 0#4) ∧ (entryMask e &&& 3#4 ≠ 0#4 ∧ entryMask e &&& 3#4 &&& 1#4 = 0#4)
    ∧ q.spill = 0 ∧ 0 < { q with spill := 1 }.spill := by decide +kernel
theorem wit_ExitResult : Ready demo demoC demoG (ctlUnit false []) ∧ demo.live.claims = [] ∧ ∀ q ∈ demoG.seqs, q.spill = 0 :=
  ⟨demo_ready (by decide +kernel), rfl, by decide +kernel⟩
theorem wit_PrefixWordResults : (InUnit demo demoC demoG ∧ demoC.pfx = none ∧ demoC.limm = none)
    ∧ (InUnit (demoWith demoG badC) badC demoG ∧ badC.pfx ≠ none)
    ∧ InUnit (demoWith demoG { demoC with limm := some 1#25 }) { demoC with limm := some 1#25 } demoG :=
  ⟨⟨demo_in, rfl, rfl⟩, ⟨with_in rfl, by decide⟩, with_in rfl⟩
theorem wit_SoftwareTraps : let q := Seq.fresh 0 0 1#4 4096#56 0
    Ready demo demoC demoG (ctlUnit false []) ∧ demoG.level ≠ .M ∧ demoG.issuing demoC = [q] ∧ demoG.seq q.id = some q ∧ demoG.mig = none ∧ q.active ≠ 0#4
    ∧ demoG.threads.length ≤ 64 ∧ demoG.thread 0 = some (Thread.fresh 0 0 0 104) ∧ (Thread.fresh 0 0 0 104).live = true
    ∧ (∀ i, i < 4 → q.active.getLsbD i = true → (Thread.fresh 0 0 0 104).col = 4 * q.pos + i) :=
  ⟨demo_ready (by decide +kernel), by decide +kernel, by decide +kernel, by decide +kernel, rfl, by decide +kernel, by decide +kernel, rfl, rfl, by decide +kernel⟩
theorem wit_LatchRedirect : let t : Thread := { Thread.fresh 0 0 0 104 with lats := [⟨pzero, BitVec.ofNat 9 5, false⟩] }
    t.lats = ⟨pzero, BitVec.ofNat 9 5, false⟩ :: [] ∧ 5 < 256 ∧ 5 < t.regs.length := by decide +kernel
/-- A frame of the demonstration group. -/
def demoF (monitor : Bool) : Frame := { demo.frameOf demoG [0] ⟨0x20#8, false, 0#8, 0, 1#64, 0, 4096#56, 0#32⟩ with monitor := monitor }
theorem wit_FramePosting : (demoF true).monitor = true
    ∧ ((demoF false).monitor = false ∧ (demo.slice (bits (demoF false).ids.toNat 17 12)).trCtl.getLsbD 12 = true)
    ∧ let s := mapped demo
      let f := demoF false
      f.monitor = false ∧ (s.slice (bits f.ids.toNat 17 12)).trCtl.getLsbD 12 = false
      ∧ (∀ g ∈ s.live.frames, g.share = f.share → g.monitor = false → g.handle ≠ none)
      ∧ (s.share f.share).isSome = true ∧ (0 : Nat) < 64 ∧ (0 : Nat) ∉ s.usedHandles f.share
      ∧ (globalRes s (s.superView 0) .store (bits (s.slice 0).trFbase.toNat 55 12 * 4096 + 4096 * s.coreNo + 64 * 0)).1 = .ok (.dram 0 0)
      ∧ 0 % 2 ^ 40 + 64 ≤ 2 ^ 40 ∧ s.memOk = true := by decide +kernel


/-! ### Cross-lane instructions and teams -/

theorem demo_ganged {u : Unit} (h : u.check demoG demoC = none) : Ganged demo demoC demoG u := ⟨demo_ready h, by decide +kernel⟩

/-- The group with a second quad, which is not in the unit. -/
def twoG : Group := { demoG with
  threads := [Thread.fresh 0 0 0 104, Thread.fresh 4 1 1 104]
  seqs := [Seq.fresh 0 0 1#4 4096#56 0, Seq.fresh 1 1 1#4 4096#56 0] }
theorem wit_CollectiveWaits : InUnit (demoWith twoG demoC) demoC twoG ∧ twoG.ganged demoC = false := ⟨with_in rfl, by decide +kernel⟩
/-- Ready, ganged, and without poison in the sources. -/
def FitsGanged (u : Unit) (srcs : List (Nat × Nat)) : Prop := Ganged demo demoC demoG u ∧ demoG.Clean demoC u srcs
theorem fitsGanged {u : Unit} {srcs : List (Nat × Nat)} (h : u.check demoG demoC = none)
    (k : (lanesOf demoG (u.run demoG demoC)).all (fun l => srcs.all fun p => !anyPoison (demoG.readWords l p.1 p.2)) = true) : FitsGanged u srcs :=
  ⟨demo_ganged h, (fits h k).2⟩
theorem wit_VoteResults : (2#3).toNat < 3 ∧ FitsGanged (crossOf false [(24#7, 1)]) [(24, 1)] := ⟨by decide, fitsGanged (by decide +kernel) (by decide +kernel)⟩
theorem wit_MatchResults : FitsGanged (crossOf false [(16#7, 2), (24#7, 1)]) [(24, 1)] ∧ FitsGanged (crossOf false [(16#7, 2), (24#7, 2)]) [(24, 2)] :=
  ⟨fitsGanged (by decide +kernel) (by decide +kernel), fitsGanged (by decide +kernel) (by decide +kernel)⟩
theorem wit_ShuffleResults : FitsGanged (crossOf false [(16#7, 1), (24#7, 1), (40#7, 1)]) [(40, 1)] ∧ 0 < demoG.width
    ∧ lowest (demoG.run demoC) = some 0 ∧ (demoG.readWord 0 40).poison = false :=
  ⟨fitsGanged (by decide +kernel) (by decide +kernel), by decide +kernel, by decide +kernel, by decide +kernel⟩
theorem wit_IntegerReductions : FitsGanged (crossOf false [(16#7, 1), (24#7, 1)]) [(24, 1)] := fitsGanged (by decide +kernel) (by decide +kernel)
theorem wit_FloatReductionResults : FitsGanged (crossOf true [(16#7, 1), (24#7, 1)]) [(24, 1)] := fitsGanged (by decide +kernel) (by decide +kernel)
theorem wit_ReductionTreeShape : demoG.width = 64 ∧ 5 < log2Width 64 ∧ 0 < 64 / 2 ^ 6 ∧ 63 < demoG.width := by decide +kernel
/-- The group as one of width 8. -/
def narrowG : Group := { demoG with width := 8 }
theorem wit_TransposeResults : Ganged demo demoC demoG (crossOf false [(16#7, 8)]) ∧ (2#3).toNat < 3 ∧ 8 * (32 / (8 * 2 ^ 0)) ≤ demoG.width
    ∧ Ganged (demoWith narrowG demoC) demoC narrowG (crossOf false [(16#7, 8)]) ∧ narrowG.width < 8 * (32 / (8 * 2 ^ 0)) :=
  ⟨demo_ganged (by decide +kernel), by decide, by decide +kernel, ⟨with_ready rfl (by decide +kernel), by decide +kernel⟩, by decide +kernel⟩
theorem wit_MaskMoveResults : Ganged demo demoC demoG (crossOf false []) ∧ FitsGanged (crossOf false [(16#7, 2)]) [(16, 2)] :=
  ⟨demo_ganged (by decide +kernel), fitsGanged (by decide +kernel) (by decide +kernel)⟩

/-- The team with barrier 3 open: 1 of 7 expected threads has arrived. -/
def openT : Team := { probeTeam with bars := probeTeam.bars.set 3 ⟨0#16, 1, 7, none⟩ }
/-- The demonstration state with another team. -/
def demoTeam (T : Team) : State := { demo with live := { demo.live with teams := [T] } }
theorem demoTeam_ready {T : Team} {u : Unit} (h : u.check demoG demoC = none) (k : T.slot = 0) : TeamReady (demoTeam T) demoC demoG T u :=
  ⟨⟨⟨rfl, rfl⟩, h⟩, by rw [k]; rfl, by simp [State.team, demoTeam], rfl⟩

theorem wit_BarrierArrivals : (TeamReady (demoTeam openT) demoC demoG openT (ctlUnit false []) ∧ demoG.ganged demoC = true ∧ openT.bars.length = 16
      ∧ (openT.bar 3).arrived ≠ 0 ∧ (openT.bar 3).expect ≠ (6#10).toNat)
    ∧ ((openT.bar 3).expect = (7#10).toNat ∧ (openT.bar 3).arrived + popc64 (demoG.k0 demoC) < (7#10).toNat)
    ∧ (TeamReady demo demoC demoG probeTeam (ctlUnit false []) ∧ (probeTeam.bar 3).arrived = 0 ∧ (1#10) ≠ 0#10
      ∧ 0 < (probeTeam.bar 3).arrived + popc64 (demoG.k0 demoC) ∧ (1#10).toNat ≤ (probeTeam.bar 3).arrived + popc64 (demoG.k0 demoC)) :=
  ⟨⟨demoTeam_ready (by decide +kernel) rfl, by decide +kernel, by decide +kernel, by decide +kernel, by decide +kernel⟩, by decide +kernel,
    demo_teamReady (by decide +kernel), by decide +kernel, by decide, by decide +kernel, by decide +kernel⟩
/-- The group with the ticket 65,535 in register 24. -/
def ticketG : Group := { demoG with threads := demoG.threads.map fun t => { t with regs := t.regs.set 24 (clean 0xFFFF#32) } }
theorem wit_BarrierTicketWait : (TeamReady demo demoC demoG probeTeam (ctlUnit false [(24#7, 1)]) ∧ demoG.ganged demoC = true
      ∧ lowest (demoG.k0 demoC) = some 0 ∧ (demoG.readWord 0 24).poison = false
      ∧ ((probeTeam.bar 3).phase - (demoG.val 0 24#7).setWidth 16).toNat = 0)
    ∧ TeamReady (demoWith ticketG demoC) demoC ticketG probeTeam (ctlUnit false [(24#7, 1)])
      ∧ 0 < ((probeTeam.bar 3).phase - (ticketG.val 0 24#7).setWidth 16).toNat ∧ ((probeTeam.bar 3).phase - (ticketG.val 0 24#7).setWidth 16).toNat < 2 ^ 15 :=
  ⟨⟨demo_teamReady (by decide +kernel), by decide +kernel, by decide +kernel, by decide +kernel, by decide +kernel⟩,
    with_teamReady rfl (by decide +kernel) rfl rfl, by decide +kernel, by decide +kernel⟩
theorem wit_ElectResult : Ready demo demoC demoG (ctlUnit false []) ∧ demoG.ganged demoC = true ∧ 1 ≤ (7#3).toNat ∧ (7#3).toNat ≤ demoG.masks.length :=
  ⟨demo_ready (by decide +kernel), by decide +kernel, by decide, by decide +kernel⟩
theorem wit_WindowResult : Ready demo demoC demoG (ctlUnit false []) ∧ demoG.ganged demoC = true ∧ demoG.mig = none :=
  ⟨demo_ready (by decide +kernel), by decide +kernel, rfl⟩
theorem wit_TriggerResult : TeamReady demo demoC demoG probeTeam (ctlUnit false []) ∧ demoG.k0 demoC ≠ 0#64 :=
  ⟨demo_teamReady (by decide +kernel), by decide +kernel⟩
/-- The state with an empty register pool, and the one with a claim queued that does not fit. -/
def fullS : State := { demo with live := { demo.live with free := 0 } }
theorem wit_RegisterPoolResults : (TeamReady demo demoC demoG probeTeam (ctlUnit false []) ∧ demoG.ganged demoC = true ∧ evenAlloc demoG 104 ∧ (2#5) ≠ 0#5
      ∧ 104 + 8 * (2#5).toNat ≤ 256 ∧ demo.live.claims = [] ∧ (2#5).toNat * demoG.liveCount ≤ demo.live.free
      ∧ ∀ i q, demoG.seq i = some q → i ∈ demoC.seqs ∧ q.st = .run ∨ i ∉ demoC.seqs ∧ q.wait.isClaim = false)
    ∧ (TeamReady fullS demoC demoG probeTeam (ctlUnit false []) ∧ fullS.live.claims = [] ∧ fullS.live.free < (2#5).toNat * demoG.liveCount)
    ∧ 8 * (2#5).toNat + 8 ≤ 104 := by
  refine ⟨⟨demo_teamReady (by decide +kernel), by decide +kernel, by unfold evenAlloc; decide +kernel, by decide, by decide, rfl, by decide +kernel, ?_⟩,
    ⟨⟨⟨⟨rfl, rfl⟩, by decide +kernel⟩, rfl, rfl, rfl⟩, rfl, by decide +kernel⟩, by decide⟩
  intro i q h
  have hq := List.mem_of_find?_eq_some h
  have e : q = Seq.fresh 0 0 1#4 4096#56 0 := List.mem_singleton.1 hq
  have hi : i = 0 := by have := List.find?_some h; rw [e] at this; exact (beq_iff_eq.1 this).symm
  subst hi; subst e; exact .inl ⟨by decide, rfl⟩
/-- The team with channel 0 of two slots empty, and full. -/
def fullT : Team := { probeTeam with chans := some ⟨2, 0, 0, 2, List.replicate 2 0#64⟩ :: List.replicate 47 none }
theorem fullT_ready {u : Unit} (h : u.check demoG demoC = none) : TeamReady (demoTeam fullT) demoC demoG fullT u := demoTeam_ready h rfl
/-- The first team of a cluster of two, whose second has ended; and the second team of that cluster. -/
def pairT : Team := { probeTeam with csize := 2 }
def pairU : Team := { pairT with slot := 1, uid := 1, linear := 1, crank := 1 }
/-- The second team in the shadow context, and on another core. -/
def awayS : State := { demoTeam pairT with shadow := some { demo.live with teams := [pairU], groups := [] } }
def elseS : State := { demoTeam pairT with grids := demo.grids.map fun g => { g with remote := [⟨1, 1, false⟩] } }
theorem wit_SendResults : let u := ctlUnit false [(16#7, 1), (24#7, 1)]
    (TeamReady demo demoC demoG probeTeam u ∧ (0#6).toNat < 48 ∧ probeTeam.chans.getD 0 none = some ⟨2, 0, 0, 0, List.replicate 2 0#64⟩)
    ∧ (TeamReady (demoTeam fullT) demoC demoG fullT u ∧ fullT.chans.getD 0 none = some ⟨2, 0, 0, 2, List.replicate 2 0#64⟩)
    ∧ clusterCh probeTeam 48#6 0#3 ∧ demo.peer probeTeam 0 = .here 0 ∧ demo.chan 0 0 = some ⟨2, 0, 0, 0, List.replicate 2 0#64⟩ := by
  refine ⟨⟨demo_teamReady (by decide +kernel), by decide, rfl⟩, ⟨fullT_ready (by decide +kernel), rfl⟩, ⟨by decide, by decide, rfl, by decide⟩, ?_, ?_⟩
    <;> decide +kernel
theorem wit_SendResults_peers : let u := ctlUnit false [(16#7, 1), (24#7, 1)]
    clusterCh pairT 48#6 1#3
    ∧ (TeamReady (demoTeam pairT) demoC demoG pairT u ∧ (demoTeam pairT).peer pairT 1 = .ended)
    ∧ (TeamReady awayS demoC demoG pairT u ∧ awayS.peer pairT 1 = .away)
    ∧ TeamReady elseS demoC demoG pairT u ∧ elseS.peer pairT 1 = .elsewhere := by
  refine ⟨⟨by decide, by decide, rfl, by decide⟩, ⟨demoTeam_ready (by decide +kernel) rfl, ?_⟩, ⟨⟨⟨⟨rfl, rfl⟩, by decide +kernel⟩, rfl, rfl, rfl⟩, ?_⟩,
    ⟨⟨⟨rfl, rfl⟩, by decide +kernel⟩, rfl, rfl, rfl⟩, ?_⟩ <;> decide +kernel
theorem wit_SendWaitResults : let u := ctlUnit false [(24#7, 1)]
    TeamReady demo demoC demoG probeTeam u ∧ TeamReady (demoTeam fullT) demoC demoG fullT u ∧ clusterCh pairT 48#6 1#3
    ∧ clusterCh fullT 48#6 0#3 ∧ (demoTeam fullT).peer fullT 0 = .here 0 ∧ (demoTeam fullT).chan 0 0 = some ⟨2, 0, 0, 2, List.replicate 2 0#64⟩
    ∧ TeamReady (demoTeam pairT) demoC demoG pairT u ∧ TeamReady awayS demoC demoG pairT u ∧ TeamReady elseS demoC demoG pairT u := by
  refine ⟨demo_teamReady (by decide +kernel), fullT_ready (by decide +kernel), ⟨by decide, by decide, rfl, by decide⟩,
    ⟨by decide, by decide, rfl, by decide⟩, by decide +kernel, by decide +kernel, demoTeam_ready (by decide +kernel) rfl,
    ⟨⟨⟨rfl, rfl⟩, by decide +kernel⟩, rfl, rfl, rfl⟩, ⟨⟨⟨rfl, rfl⟩, by decide +kernel⟩, rfl, rfl, rfl⟩⟩
theorem wit_ReceiveResults : TeamReady demo demoC demoG probeTeam (ctlUnit false [(24#7, 1)]) ∧ (0#6).toNat < 48
    ∧ probeTeam.chans.getD 0 none = some ⟨2, 0, 0, 0, List.replicate 2 0#64⟩
    ∧ TeamReady (demoTeam fullT) demoC demoG fullT (ctlUnit false [(24#7, 1)]) ∧ fullT.chans.getD 0 none = some ⟨2, 0, 0, 2, List.replicate 2 0#64⟩ ∧ 0 < 2 :=
  ⟨demo_teamReady (by decide +kernel), by decide, rfl, fullT_ready (by decide +kernel), rfl, by decide⟩
theorem wit_ChannelCount : (0#6).toNat < 48 ∧ probeTeam.chans.getD 0 none = some ⟨2, 0, 0, 0, List.replicate 2 0#64⟩
    ∧ TeamReady demo demoC demoG probeTeam (ctlUnit false [(108#7, 1)]) := ⟨by decide, rfl, demo_teamReady (by decide +kernel)⟩
theorem wit_ChannelFifo : demo.team probeTeam.slot = some probeTeam ∧ probeTeam.chans.getD 0 none = some ⟨2, 0, 0, 0, List.replicate 2 0#64⟩
    ∧ 0 < probeTeam.chans.length ∧ 0 < 2 ∧ (List.replicate 2 0#64).length = 2 ∧ (List.replicate 64 pzero).length = 64
    ∧ demo.memOk = true :=
  ⟨rfl, rfl, by decide, by decide, by decide, by decide, by decide +kernel⟩


/-! ### Memory -/

/-- The group at level U, and with the address 0x3000 in the pair 24. -/
def userG : Group := { demoG with
  level := .U
  threads := demoG.threads.map fun t => { t with regs := t.regs.set 24 (clean 0x3000#32) } }
/-- A place in the slice's memory, and one in scratch. -/
def placeD : Loc := .dram 0 0x3000
/-- The state mapped, with that group. -/
def userS : State := mapped (demoWith userG demoC)
theorem userS_in : InUnit userS demoC userG := ⟨rfl, rfl⟩

theorem wit_LaneLoads : let u := loadOf 1#2 16#7 1 24#7
    (Instr.ldW 1#2 0#2 16#7 24#7 0#7, 4, false, (0#7).toInt) ∈ loadTable 1#2 0#2 16#7 24#7 0#5 0#7
    ∧ MemReady userS demoC userG u 1 ∧ (∀ l ∈ lanesOf userG (u.run userG demoC), addrIs userG 1 24#7 l (0 * 4) 0x3000)
    ∧ ∃ s1, Reaches userS s1 demoC userG u .load 1 4 4 (fun _ => 0x3000) (fun _ => placeD) := by
  refine ⟨by simp [loadTable], ⟨userS_in, by decide +kernel⟩, by unfold addrIs; decide +kernel, _, Prod.ext ?_ rfl, ?_⟩ <;> decide +kernel
theorem wit_LaneStores : let u := storeOf 1#2 16#7 1 24#7
    (Instr.stW 1#2 0#2 16#7 24#7 0#7, 4, (0#7).toInt) ∈ storeTable 1#2 0#2 16#7 24#7 0#6 0#7
    ∧ MemReady userS demoC userG u 1 ∧ userG.Clean demoC u [(16, 1)]
    ∧ ∃ s1, Reaches userS s1 demoC userG u .store 1 4 4 (fun _ => 0x3000) (fun _ => placeD)
      ∧ ∀ l ∈ lanesOf userG (u.run userG demoC), addrIs userG 1 24#7 l (0 * 4) 0x3000 ∧ placeD.lost s1 = false := by
  refine ⟨by simp [storeTable], ⟨userS_in, by decide +kernel⟩, by unfold Group.Clean; decide +kernel, _, ⟨Prod.ext ?_ rfl, ?_⟩, ?_⟩
  · decide +kernel
  · decide +kernel
  · unfold addrIs; decide +kernel
theorem wit_StoreFrame : demo.memOk = true ∧ (Loc.scratch 0 16 = .scratch 0 16) ∧ (0x3000 % 2 ^ 40 + 4 ≤ 2 ^ 40) := by decide +kernel
theorem wit_HighestLaneWins : demo.memOk = true ∧ [1#8].length = [2#8].length := by decide +kernel
theorem wit_ScratchAndConstantAccess : demoG.team = some probeTeam.slot ∧ demo.team probeTeam.slot = some probeTeam ∧ demo.grid probeTeam.grid = some probeGrid
    ∧ 0 < 4 ∧ (4092 + 4 ≤ probeTeam.scrSize ∧ 4092 % 4 = 0) ∧ (4090 + 4 ≤ probeTeam.scrSize ∧ 4090 % 4 ≠ 0) ∧ probeTeam.scrSize < 4093 + 4
    ∧ (65532 < 65536 ∧ 65532 % 4 = 0) ∧ 65536 ≤ 65536 ∧ Acc.store ≠ .load := by decide +kernel
theorem wit_AtomicLaneResult : (atomTable (32 * 1))[9]?.isSome = true ∧ (atomTable (32 * 2))[0]?.isSome = true ∧ placeD.lost demo = false := by
  refine ⟨rfl, rfl, rfl⟩
theorem wit_LaneAtomics : let u := atomOf 1#2 true false 16#7 1 24#7
    (Instr.atom 1#2 0#2 16#7 24#7 0#3 0#4, 1, true) ∈ atomInstrs 1#2 0#2 16#7 24#7 0#3 0#4
    ∧ MemReady userS demoC userG u 1 ∧ userG.Clean demoC u [(16, 1)] ∧ lanesOf userG (u.run userG demoC) = [0]
    ∧ (∀ l ∈ lanesOf userG (u.run userG demoC), addrIs userG 1 24#7 l 0 0x3000)
    ∧ ∃ s1, Reaches userS s1 demoC userG u .atomic 1 (4 * 1) (4 * 1) (fun _ => 0x3000) (fun _ => placeD) := by
  refine ⟨by simp [atomInstrs], ⟨userS_in, by decide +kernel⟩, by unfold Group.Clean; decide +kernel, by decide +kernel, by unfold addrIs; decide +kernel,
    _, Prod.ext ?_ rfl, ?_⟩ <;> decide +kernel
theorem wit_UniformLoadAndPrefetch :
    (MemReady userS demoC userG { pfx := false, latch := false, names := [addrName 1 24#7] } 1 ∧ lowest (userG.k0 demoC) = some 0
      ∧ addrIs userG 1 24#7 0 (0 * 4) 0x3000
      ∧ ∃ s1, userS.locate userG .load 1 4 4 (.ea 0x3000) = (.at 0x3000 placeD, s1) ∧ s1.accessWaits demoC userG .load 4 [(0, .at 0x3000 placeD)] = none)
    ∧ MemReady userS demoC userG { latch := false, zm := false, names := [addrName 1 24#7] } 1
    ∧ userG.Clean demoC { latch := false, zm := false, names := [addrName 1 24#7] } [(24, 2)] := by
  refine ⟨⟨⟨userS_in, by decide +kernel⟩, by decide +kernel, by unfold addrIs; decide +kernel, _, Prod.ext ?_ rfl, ?_⟩, ⟨userS_in, by decide +kernel⟩,
    by unfold Group.Clean; decide +kernel⟩ <;> decide +kernel
theorem wit_ReadAfterWrite : Memory.wf demo.dram = true := by decide +kernel
theorem wit_FenceResults : Ready demo demoC demoG (ctlUnit false []) ∧ demoG.k0 demoC ≠ 0#64 ∧ 4 ≤ (5#3).toNat ∧ 3 ≤ (3#3).toNat ∧ (2#3).toNat < 3
    ∧ demoG.team ≠ none ∧ demoG.mig = none ∧ demo.drains demoG = false :=
  ⟨demo_ready (by decide +kernel), by decide +kernel, by decide, by decide, by decide, by decide +kernel, rfl, by decide +kernel⟩
/-- A cached translation of page 3 that the group has marked, and a bank run that uses it. -/
def drainS : State := { userS with
  tlb := (xlate userS 0 0#12 0x3000).2.tlb.map fun e => { e with marks := [demoG.uid] }
  bank := { userS.bank with runs := [{ probeRun 0#32 with pages := [(3, 0, 0)] }] } }
theorem wit_FenceResults_drain : Ready drainS demoC userG (ctlUnit false []) ∧ userG.k0 demoC ≠ 0#64 ∧ drainS.drains userG = true
    ∧ (drainS.tlb.map (·.page)) = [3] := ⟨⟨⟨rfl, rfl⟩, by decide +kernel⟩, by decide +kernel, by decide +kernel, by decide +kernel⟩
/-- The group with the address 2^56 in the pair 24. -/
def tagG : Group := { demoG with threads := demoG.threads.map fun t => { t with regs := t.regs.set 25 (clean 0x1000000#32) } }
theorem wit_CacheMaintenanceResults : (Ready demo demoC demoG (ctlUnit false [(24#7, 2)]) ∧ demoG.k0 demoC ≠ 0#64 ∧ lineAt demoG demoC 24#7 0)
    ∧ Ready (demoWith tagG demoC) demoC tagG (ctlUnit false [(24#7, 2)]) ∧ lowest (tagG.k0 demoC) = some 0
      ∧ anyPoison (tagG.readWords 0 24 2) = false ∧ 2 ^ 56 ≤ tagG.pair 0 24#7 :=
  ⟨⟨demo_ready (by decide +kernel), by decide +kernel, 0, by decide +kernel, by decide +kernel, by decide +kernel, by decide +kernel⟩,
    with_ready rfl (by decide +kernel), by decide +kernel, by decide +kernel, by decide +kernel⟩
theorem wit_RecordResults : let u := plainUnit [(16#7, 1), (24#7, 2), (40#7, 1)]
    lanesOf userG (userG.k0 demoC) = [0] ∧ addrIs userG 0 24#7 0 0 0x3000 ∧ addrIs userG 2 40#7 0 0 0 ∧ userG.mig = none ∧ Ready userS demoC userG u
    ∧ (∃ s1 s2, userS.locate userG .store 0 64 64 (.ea 0x3000) = (.at 0x3000 placeD, s1) ∧ s1.locate userG .load 2 64 16 (.ea 0) = (.at 0 (.scratch 0 0), s2)
      ∧ s2.accessWaits demoC userG .store 64 [(0, .at 0x3000 placeD)] = none ∧ s2.accessWaits demoC userG .load 64 [(0, .at 0 (.scratch 0 0))] = none)
    ∧ (∃ s1 s2, userS.locate userG .load 0 64 64 (.ea 0x3000) = (.at 0x3000 placeD, s1) ∧ s1.locate userG .store 2 64 16 (.ea 0) = (.at 0 (.scratch 0 0), s2)
      ∧ s2.accessWaits demoC userG .load 64 [(0, .at 0x3000 placeD)] = none ∧ s2.accessWaits demoC userG .store 64 [(0, .at 0 (.scratch 0 0))] = none
      ∧ (∀ r ∈ s2.records, ¬ (r.f = s2.fOf userG ∧ r.asid = s2.asidOf userG ∧ r.va = 0x3000)) ∧ s2.paths.olds = [] ∧ s2.paths.linkBad = []
      ∧ spaPoisonRange s2 0 0x3000 64 = false ∧ (s2.readRecord userG (s2.laneAgent userG 0).id 0x3000 placeD).2.1 = false)
    ∧ Ready userS demoC userG (plainUnit [(24#7, 2)]) ∧ 0x3000 < 2 ^ 56 ∧ 0x3000 % 64 = 0 := by
  refine ⟨by decide +kernel, by unfold addrIs; decide +kernel, by unfold addrIs; decide +kernel, rfl, ⟨userS_in, by decide +kernel⟩,
    ⟨_, _, Prod.ext ?_ rfl, Prod.ext ?_ rfl, ?_⟩, ⟨_, _, Prod.ext ?_ rfl, Prod.ext ?_ rfl, ?_⟩, ⟨userS_in, by decide +kernel⟩, by decide, by decide⟩
    <;> decide +kernel
theorem wit_TranslationMaintenanceResults : let u := plainUnit [(24#7, 2), (40#7, 1)]
    let v := plainUnit [(16#7, 4), (24#7, 2), (40#7, 1)]
    (InUnit userS demoC userG ∧ u.prefixOk demoC = true ∧ userG.level = .U)
    ∧ demoG.level ≠ .U ∧ (∀ l ∈ lanesOf demoG (demoG.k0 demoC), anyPoison (demoG.readWords l 24 2) = false ∧ (demoG.readWord l 40).poison = false)
    ∧ Ready demo demoC demoG u ∧ Ready demo demoC demoG v :=
  ⟨⟨userS_in, by decide +kernel, rfl⟩, by decide +kernel, by decide +kernel, demo_ready (by decide +kernel), demo_ready (by decide +kernel)⟩
theorem wit_ProbeWords : (2 ^ 56 ≤ 2 ^ 56) ∧ (∃ w s1, xlate userS (userS.fOf userG) (0#12) 0x200000 = (.fail w, s1))
    ∧ ∃ m s1, xlate userS (userS.fOf userG) (0#12) 0x3000 = (.ok m, s1) :=
  ⟨Nat.le_refl _, ⟨⟨false, 1, false⟩, _, Prod.ext (by decide +kernel) rfl⟩,
    ⟨⟨0x3000, false, none, none, true, true, true, false, true, true, true, false, false, false, 2, 2, 1, 1⟩, _, Prod.ext (by decide +kernel) rfl⟩⟩


/-! ### Banks -/

/-- The demonstration run with an output area, and an instance of it; slot 1 holds row 3 of its page open, slot 2 a table. -/
def bankR : Run := { probeRun 0xDA400000#32 with
  block := (List.replicate 128 0#8).set 0x20 64#8
  pages := [(0, 0, 0)] }
def bankI : Inst := { probeInst with slots := [.closed, .opened 3 false (some 3), .table (List.replicate 64 (List.replicate 8 pzero)), .closed] }
/-- The state in which that instance executes a word. -/
def bankS (i : Inst) : State := { demo with bank := { demo.bank with runs := [bankR], insts := [i], cur := some (0, 0) } }

theorem bank_in (i : Inst) (h : i.run = 0) (k : i.k = 0) (n : i.ended = false) (e : (bankS i).drainedOn i.die = false) : InBank (bankS i) bankR i :=
  ⟨by rw [k]; rfl, rfl, by simp [State.inst, bankS, h, k, n, bankR, probeRun], e⟩

theorem wit_BankRowOps : InBank (bankS bankI) bankR bankI ∧ bankI.slots.length = 4
    ∧ (bactRow bankR bankI 0#1 0#1 0#4 7#10 < 1024 ∧ bankI.slot (0#2).toNat = .closed ∧ bankI.openAt (bactRow bankR bankI 0#1 0#1 0#4 7#10) = none
      ∧ (bankS bankI).rowBad.contains (spaRow bankI.f ((bankS bankI).slice bankI.f) (bankI.rowAddr 7)).1 = false)
    ∧ (bankI.slot (1#2).toNat ≠ .closed ∧ (bankI.openAt (bactRow bankR bankI 0#1 0#1 0#4 3#10)).isSome = true)
    ∧ (bankI.slot (1#2).toNat = .opened 3 false (some 3) ∧ bankI.slot (2#2).toNat ≠ .closed ∧ (bankS bankI).memOk = true
      ∧ bankI.rowAddr 3 % 2 ^ 40 + 2048 ≤ 2 ^ 40 ∧ ∀ c, c < 64 → columnOk (bankS bankI) bankI 2 c)
    ∧ ((∀ q w b, bankI.slot (2#2).toNat ≠ .opened q w b) ∧ bankI.slot (0#2).toNat = .closed) :=
  ⟨bank_in _ rfl rfl rfl (by decide +kernel), rfl, by decide +kernel, by decide +kernel,
    ⟨by decide +kernel, by decide +kernel, by decide +kernel, by decide +kernel,
      by unfold columnOk; rw [show bankI.slot 2 = .table (List.replicate 64 (List.replicate 8 pzero)) from rfl]; decide +kernel⟩,
    fun _ _ _ h => BSlot.noConfusion (show BSlot.table _ = _ from h), rfl⟩
/-- A run whose parameter 0 has bit 16 set, so that with a row number of 1,023 the row is out of range and a loop count is too large. -/
def bigR : Run := { bankR with block := (List.replicate 128 0#8).set 0x42 1#8 }
theorem wit_BankRowOps_range : InBank { bankS bankI with bank := { (bankS bankI).bank with runs := [bigR] } } bigR bankI
    ∧ 1024 ≤ bactRow bigR bankI 0#1 1#1 0#4 1023#10 := ⟨⟨rfl, rfl, rfl, by decide +kernel⟩, by decide +kernel⟩
theorem wit_BankTransfers : InBank (bankS bankI) bankR bankI ∧ bankI.slots.length = 4 ∧ bankI.acc.length = 64 ∧ (bankS bankI).memOk = true
    ∧ columnOk (bankS bankI) bankI 1 (bankI.col 0#7) ∧ columnOk (bankS bankI) bankI 2 (bankI.col 63#7) ∧ (∀ w ∈ bankI.acc, w.poison = false)
    ∧ bankI.slot (3#2).toNat = .closed ∧ bankI.slot (2#2).toNat = .table (List.replicate 64 (List.replicate 8 pzero)) :=
  ⟨bank_in _ rfl rfl rfl (by decide +kernel), rfl, by decide +kernel, by decide +kernel,
    by unfold columnOk; rw [show bankI.slot 1 = .opened 3 false (some 3) from rfl]; decide +kernel,
    by unfold columnOk; rw [show bankI.slot 2 = .table (List.replicate 64 (List.replicate 8 pzero)) from rfl]; decide +kernel,
    by decide +kernel, rfl, rfl⟩
theorem wit_BankArithmetic : InBank (bankS bankI) bankR bankI ∧ bankI.slots.length = 4 ∧ (bankS bankI).memOk = true
    ∧ bankTable bankR 1#2 1#2 2#2 0#7 0#4 ≠ [] ∧ columnOk (bankS bankI) bankI 1 (bankI.col 0#7) ∧ columnOk (bankS bankI) bankI 2 (bankI.col 0#7)
    ∧ bankI.slot (2#2).toNat = .table (List.replicate 64 (List.replicate 8 pzero)) :=
  ⟨bank_in _ rfl rfl rfl (by decide +kernel), rfl, by decide +kernel, by simp [bankTable],
    by unfold columnOk; rw [show bankI.slot 1 = .opened 3 false (some 3) from rfl]; decide +kernel,
    by unfold columnOk; rw [show bankI.slot 2 = .table (List.replicate 64 (List.replicate 8 pzero)) from rfl]; decide +kernel, rfl⟩
theorem wit_BankControl : InBank (bankS bankI) bankR bankI ∧ bankI.acc.length = 64 ∧ (bankS bankI).memOk = true
    ∧ bankR.stride < 32 * ((2#10).toNat + 0) + 32 ∧ (0 < (1#10).toNat ∧ (1023#10).toNat ≤ 65535) ∧ 65535 < (bigR.param 0).val.toNat ∧ bankI.held = [] := by
  refine ⟨bank_in _ rfl rfl rfl (by decide +kernel), ?_⟩; decide +kernel
/-- An instance in another stack, so that the output lies in no instance's bank. -/
def otherI : Inst := { bankI with stack := 5 }
theorem wit_BankControl_out : InBank (bankS otherI) bankR otherI ∧ otherI.acc.length = 64 ∧ (bankS otherI).memOk = true
    ∧ 32 * ((1#10).toNat + 0) + 32 ≤ bankR.stride ∧ (∀ w ∈ (otherI.acc.drop (8 * otherI.octet 0#4)).take 8, w.poison = false)
    ∧ bankR.place (bankR.out + otherI.k * bankR.stride + 32) = some (0, 32) ∧ (bankS otherI).instAt 0 32 = none :=
  ⟨bank_in _ rfl rfl rfl (by decide +kernel), by decide +kernel⟩
/-- The instance with the closing of a slot next, and after the last one. -/
def endI (n : Nat) : Inst := { bankI with ending := some (0, n) }
theorem wit_BankControl_end : InBank (bankS (endI 3)) bankR (endI 3) ∧ (endI 3).slots.length = 4 ∧ (endI 3).ending = some (0, 3)
    ∧ InBank (bankS (endI 4)) bankR (endI 4) ∧ (endI 4).slots.length = 4 ∧ (endI 4).ending = some (0, 4) :=
  ⟨bank_in _ rfl rfl rfl (by decide +kernel), rfl, rfl, bank_in _ rfl rfl rfl (by decide +kernel), rfl, rfl⟩
theorem wit_BankOpInGroupTraps : InUnit demo demoC demoG ∧ demo.bank.cur = none ∧ bankWord 0xDA400000#32 = some .bend :=
  ⟨demo_in, rfl, by decide +kernel⟩


/-! ### Engines, events and migration -/

theorem triple_eta {α β γ : Type} (x : α × β × γ) : x = (x.1, x.2.1, x.2.2) := rfl
theorem triple_of {α β γ : Type} {x : α × β × γ} {a : α} (h : x.1 = a) : x = (a, x.2.1, x.2.2) := by subst h; rfl

theorem userS_cmd {names : List (BitVec 7 × Nat)} (h : (ctlUnit false names).check userG demoC = none) : CmdReady userS demoC userG probeTeam names 0 :=
  ⟨⟨⟨userS_in, h⟩, rfl, rfl, rfl⟩, by decide +kernel⟩
/-- The group has a save area, and owns the engine, waits for it, or neither. -/
def mxS (st : MxSt) : State := { userS with mx := { userS.mx with
  st := st
  areas := [⟨0, 0x40000, 0, 0#12, [], none, [], false⟩] } }
theorem mxS_cmd {st : MxSt} {names : List (BitVec 7 × Nat)} (h : (ctlUnit false names).check userG demoC = none) :
    CmdReady (mxS st) demoC userG probeTeam names 0 := ⟨⟨⟨⟨rfl, rfl⟩, h⟩, rfl, rfl, rfl⟩, by decide +kernel⟩

theorem wit_MatrixOwnership : (CmdReady demo demoC demoG probeTeam [(24#7, 2)] 0 ∧ addrIs demoG 1 24#7 0 0 0 ∧ 0 % 4096 = 0
      ∧ areaWalks demo demoG 0 = [] ∧ ∃ ps s1, demo.areaPages demoG 0 (List.range 35) = (none, ps, s1) ∧ s1.mx.st = .free ∧ s1.mx.fifo = [] ∧ s1.mxFull demoG.uid = false)
    ∧ ((∀ x ∈ userS.mx.areas, x.uid ≠ userG.uid) ∧ CmdReady userS demoC userG probeTeam [] 0 ∧ CmdReady userS demoC userG probeTeam [(24#7, 1)] 0)
    ∧ ((∃ x ∈ (mxS .clear).mx.areas, x.uid = userG.uid) ∧ (mxS .clear).mx.st ≠ .owned userG.uid ∧ (mxS .clear).mxFull userG.uid = false
      ∧ CmdReady (mxS .clear) demoC userG probeTeam [] 0) := by
  refine ⟨⟨⟨demo_teamReady (by decide +kernel), by decide +kernel⟩, by unfold addrIs; decide +kernel, by decide, ?_,
      _, _, triple_of ?_, ?_, ?_, ?_⟩,
    ⟨by decide +kernel, userS_cmd (by decide +kernel), userS_cmd (by decide +kernel)⟩,
    ⟨⟨_, List.mem_singleton.2 rfl, rfl⟩, by simp [mxS], by decide +kernel, mxS_cmd (by decide +kernel)⟩⟩ <;> decide +kernel
/-- An operation of the demonstration group at the head of the matrix engine. -/
def demoOp (cmd : MxCmd) (started : Bool) : MxOp := ⟨0, 0, 0, 0, 0, 0#12, 1#32, cmd, some 0, 0#8, [], [], started, 0#8, 0#5, [], none⟩
/-- The matrix engine in a state, with groups in its queue. -/
def mxQueueS (st : MxSt) (fifo : List Nat) : State := { demo with mx := { demo.mx with
  st := st
  fifo := fifo } }
theorem wit_MatrixOwnership_queue :
    (∀ st fifo, CmdReady (mxQueueS st fifo) demoC demoG probeTeam [(24#7, 2)] 0)
    ∧ (∃ ps s1, (mxQueueS (.owned 0) []).areaPages demoG 0 (List.range 35) = (none, ps, s1) ∧ s1.mx.st = .owned demoG.uid ∧ s1.mx.leaving = false)
    ∧ ∃ ps s1, (mxQueueS (.owned 9) (List.range' 1 16)).areaPages demoG 0 (List.range 35) = (none, ps, s1) ∧ s1.mx.st ≠ .owned demoG.uid ∧ s1.mxFull demoG.uid = true := by
  refine ⟨fun _ _ => ⟨⟨⟨⟨rfl, rfl⟩, by decide +kernel⟩, rfl, rfl, rfl⟩, by decide +kernel⟩, ⟨_, _, triple_of ?_, ?_, ?_⟩, _, _, triple_of ?_, ?_, ?_⟩
    <;> decide +kernel
/-- An instance runs at the bank of a physical address of slice 0. -/
def withInst (s : State) (spa : Nat) : State :=
  let r := (spaRow 0 (s.slice 0) spa).1
  { s with bank := { s.bank with runs := [probeRun 0#32], insts := [{ probeInst with stack := r.stack, bank := rowBank (s.slice 0) r }] } }
/-- The same, and an access of a holder to that row has come to the bank. -/
def withHeld (who : Holder) (s : State) (spa : Nat) : State :=
  let hold (i : Inst) : Inst := { i with held := [⟨who, (spaRow 0 (s.slice 0) spa).1.row, false, none⟩] }
  { withInst s spa with bank := { (withInst s spa).bank with insts := (withInst s spa).bank.insts.map hold } }
/-- It stands at a page of the address space's tables. -/
def walkS : State := withHeld (userS.holder userG) userS 0x21000
theorem wit_MatrixOwnership_held : CmdReady walkS demoC userG probeTeam [(24#7, 2)] 0 ∧ areaWalks walkS userG 0x3000 ≠ [] ∧ 0x3000 % 4096 = 0
    ∧ (userS.mx.areas = []) := ⟨⟨⟨⟨⟨rfl, rfl⟩, by decide +kernel⟩, rfl, rfl, rfl⟩, by decide +kernel⟩, by decide +kernel, rfl, rfl⟩
theorem wit_MatrixOwnership_release : (mxQueueS (.owned 0) []).mx.st = .owned demoG.uid ∧ (mxQueueS (.owned 0) []).mx.ops = []
    ∧ (mxQueueS (.owned 9) []).mx.st = .owned 9 ∧ 9 ≠ demoG.uid
    ∧ ({ (mxQueueS (.owned 0) []).mx with ops := [demoOp .mswap false] } : Matrix).ops ≠ [] := by decide +kernel
theorem wit_MatrixOperations : ownsMatrix (mxS (.owned 0)) userG ∧ CmdReady (mxS (.owned 0)) demoC userG probeTeam [] 0
    ∧ CmdReady (mxS (.owned 0)) demoC userG probeTeam [(24#7, 2)] 0 ∧ cleanIn userG 0 24#7 2
    ∧ CmdReady (mxS (.owned 0)) demoC userG probeTeam [(24#7, 1)] 0 ∧ cleanIn userG 0 24#7 1 ∧ (mxS (.owned 0)).mx.ops = []
    ∧ slotOpen (mxS (.owned 0)) userG probeTeam 0
    ∧ addrIs userG 2 40#7 0 0 0 ∧ CmdReady (mxS (.owned 0)) demoC userG probeTeam [(40#7, 1)] 0
    ∧ (mxS (.owned 0)).recordHolds userG (userG.pair 0 24#7) = []
    ∧ (∃ bad bs s1, (mxS (.owned 0)).recordAt userG ((mxS (.owned 0)).laneAgent userG 0).id (userG.pair 0 24#7) = (bad, bs, s1))
    ∧ ∃ s1 b bp s2 bad bs s3, (mxS (.owned 0)).locate userG .load 2 64 64 (.ea 0) = (.at 0 (.scratch 0 0), s1)
      ∧ s1.accessWaits demoC userG .load 64 [(0, .at 0 (.scratch 0 0))] = none
      ∧ s1.readLoc [(s1.laneAgent userG 0).id] (.scratch 0 0) 0 64 = (b, bp, s2)
      ∧ s2.recordHolds userG (leNat (b.take 8)) = [] ∧ s2.recordAt userG ((mxS (.owned 0)).laneAgent userG 0).id (leNat (b.take 8)) = (bad, bs, s3)
      ∧ slotOpen s2 userG probeTeam (fld b 0x13 1 % 8) := by
  refine ⟨⟨⟨_, List.mem_singleton.2 rfl, rfl⟩, rfl, rfl, by decide +kernel⟩, mxS_cmd (by decide +kernel), mxS_cmd (by decide +kernel), by unfold cleanIn; decide +kernel,
    mxS_cmd (by decide +kernel), by unfold cleanIn; decide +kernel, rfl, by unfold slotOpen; decide +kernel, by unfold addrIs; decide +kernel,
    mxS_cmd (by decide +kernel), by decide +kernel, ⟨_, _, _, triple_eta _⟩, _, _, _, _, _, _, _, Prod.ext ?_ rfl, ?_, triple_eta _, ?_, triple_eta _, ?_⟩
  · decide +kernel
  · decide +kernel
  · decide +kernel
  · unfold slotOpen; decide +kernel
/-- The team with slot 2 held by another group. -/
def heldT : Team := { probeTeam with accs := probeTeam.accs.set 2 ⟨some 9, 0, false, []⟩ }
theorem wit_MatrixOperations_conflict : TeamReady (demoTeam heldT) demoC demoG heldT (ctlUnit false []) ∧ (heldT.acc 2).other demoG.uid = true :=
  ⟨demoTeam_ready (by decide +kernel) rfl, by decide +kernel⟩
theorem wit_MatrixIssue : userS.group demoC.gctx = some userG ∧ userG.team = some probeTeam.slot ∧ userS.team probeTeam.slot = some probeTeam
    ∧ probeTeam.accs.length = 8 ∧ 7 < 8 := ⟨rfl, rfl, rfl, rfl, by decide⟩
theorem wit_AccumulatorPorts : ((userG.unif.getD 0 pzero).poison = false ∧ (probeTeam.acc 0).users = 0
      ∧ (∀ l ∈ lanesOf userG (userG.k0 demoC), (userG.unif.getD 0 pzero).val.toNat + l / 32 < 256) ∧ CmdReady userS demoC userG probeTeam [(24#7, 4)] 0
      ∧ (probeTeam.acc 0).other userG.uid = false ∧ slotOpen userS userG probeTeam 0 ∧ probeTeam.accs.length = 8
      ∧ (∀ p ∈ (probeTeam.acc 0).rows, p.2.length = 128) ∧ userG.threads.length ≤ 64)
    ∧ ((heldT.acc 2).users = 0 ∧ (heldT.acc 2).other demoG.uid = true) ∧ CmdReady userS demoC userG probeTeam [(108#7, 1)] 0 :=
  ⟨⟨by decide +kernel, by decide +kernel, by decide +kernel, userS_cmd (by decide +kernel), by decide +kernel, by unfold slotOpen; decide +kernel,
    by decide +kernel, by decide +kernel, by decide +kernel⟩, by decide +kernel, userS_cmd (by decide +kernel)⟩
/-- A tile copy, and the state with 32 of them in progress. -/
def demoTc : TcOp := ⟨0, 0, 0, 0, 0, 0, 0#12, false, 1#32, false, 0#64, 0, 0, 0, false, 0#8, [], 0, [], false, 0#8, [], [], []⟩
def busyS : State := { userS with
  tcs := List.replicate 32 demoTc
  bank := { userS.bank with runs := List.replicate 64 (probeRun 0#32) } }
/-- The group with an address in the pair 24 that is no multiple of 64. -/
def oddG : Group := { userG with threads := userG.threads.map fun t => { t with regs := t.regs.set 24 (clean 0x3008#32) } }
theorem wit_CopyAndRunIssue : (CmdReady userS demoC userG probeTeam [(24#7, 4)] 0 ∧ cleanIn userG 0 24#7 4 ∧ userS.tcs.length < 32
      ∧ userS.recordHolds userG (userG.pair 0 24#7) = []
      ∧ ∃ bad bs s1, userS.recordAt userG (userS.laneAgent userG 0).id (userG.pair 0 24#7) = (bad, bs, s1) ∧ s1.group demoC.gctx = some userG ∧ s1.team 0 = some probeTeam)
    ∧ (CmdReady busyS demoC userG probeTeam [(24#7, 4)] 0 ∧ 32 ≤ busyS.tcs.length)
    ∧ (Ready userS demoC userG (ctlUnit false [(24#7, 2)]) ∧ addrIs userG 1 24#7 0 0 0x3000 ∧ 0x3000 < 2 ^ 56 ∧ 0x3000 % 64 = 0
      ∧ (userS.bank.runs.filter fun r => decide (r.spar = userG.sparAt)).length < 64)
    ∧ (Ready (mapped (demoWith oddG demoC)) demoC oddG (ctlUnit false [(24#7, 2)]) ∧ addrIs oddG 1 24#7 0 0 0x3008 ∧ 0x3008 % 64 ≠ 0)
    ∧ 64 ≤ (busyS.bank.runs.filter fun r => decide (r.spar = userG.sparAt)).length := by
  refine ⟨⟨userS_cmd (by decide +kernel), by unfold cleanIn; decide +kernel, by decide +kernel, by decide +kernel, _, _, _, triple_eta _, ?_, ?_⟩,
    ⟨⟨⟨⟨⟨rfl, rfl⟩, by decide +kernel⟩, rfl, rfl, rfl⟩, by decide +kernel⟩, by decide +kernel⟩,
    ⟨⟨userS_in, by decide +kernel⟩, by unfold addrIs; decide +kernel, by decide, by decide, by decide +kernel⟩,
    ⟨⟨mapped_in rfl, by decide +kernel⟩, by unfold addrIs; decide +kernel, by decide⟩, by decide +kernel⟩ <;> decide +kernel
/-- The group with a tile index in register 26 that is out of range. -/
def farG : Group := { userG with threads := userG.threads.map fun t => { t with regs := t.regs.set 26 (clean 0x10000000#32) } }
theorem wit_CopyAndRunIssue_odd : CmdReady (mapped (demoWith farG demoC)) demoC farG probeTeam [(24#7, 4)] 0 ∧ cleanIn farG 0 24#7 4
    ∧ 2 ^ 28 ≤ ((farG.readWords 0 24 4).getD 2 pzero).val.toNat :=
  ⟨⟨⟨⟨mapped_in rfl, by decide +kernel⟩, rfl, rfl, rfl⟩, by decide +kernel⟩, by unfold cleanIn; decide +kernel, by decide +kernel⟩
/-- An engine of slice 0, in IDLE; the team selects it. -/
def demoEng : ChainEng := ⟨0x3FF, 0, 0#32, 0#32, 0#64, 0#64, 0#64, 0, 0#8, 0#64, [], 0, 0#8⟩
def engS (e : ChainEng) : State := { userS with engs := [e] }
theorem engS_in (e : ChainEng) : InUnit (engS e) demoC userG := ⟨rfl, rfl⟩
theorem wit_ChainResults : lowest (userG.k0 demoC) = some 0 ∧ Ready (engS demoEng) demoC userG (ctlUnit false [(24#7, 2)]) ∧ addrIs userG 1 24#7 0 0 0x3000
    ∧ (engS demoEng).engOf userG = some 0 ∧ (engS demoEng).eng 0 = some demoEng ∧ Ready (engS demoEng) demoC userG (ctlUnit false [(24#7, 1)])
    ∧ userS.engOf userG = none ∧ Ready userS demoC userG (ctlUnit false [(24#7, 2)]) :=
  ⟨by decide +kernel, ⟨engS_in _, by decide +kernel⟩, by unfold addrIs; decide +kernel, by decide +kernel, rfl, ⟨engS_in _, by decide +kernel⟩,
    by decide +kernel, ⟨userS_in, by decide +kernel⟩⟩
/-- The state with a completion record in the slice's partition. -/
def recS : State := userS.setPart 0 0 [⟨5#128, 7, 0⟩]
theorem wit_EventResults : lowest (userG.k0 demoC) = some 0 ∧ Ready userS demoC userG (ctlUnit false [(24#7, 4)])
    ∧ userS.part userS.coreNo (userS.fOf userG) = [] ∧ Ready recS demoC userG (ctlUnit false [(24#7, 4)])
    ∧ recS.part recS.coreNo (recS.fOf userG) = [⟨5#128, 7, 0⟩] ∧ (EvRecord.mk 5#128 7 0).poisonSeq userG = none
    ∧ Ready userS demoC userG (ctlUnit false [(24#7, 1)]) ∧ (userG.readWord 0 24).poison = false ∧ userG.unret = []
    ∧ (0 < (userG.val 0 24#7 - userG.bk.issued).toNat ∧ (userG.val 0 24#7 - userG.bk.issued).toNat < 2 ^ 31)
    ∧ ((userG.val 0 16#7 - userG.bk.issued).toNat = 0 ∧ (userG.bk.upTo - userG.val 0 16#7).toNat < 2 ^ 31)
    ∧ 2 ^ 31 ≤ (demoEng.seq - userG.val 0 24#7).toNat ∧ (demoEng.seq - userG.val 0 16#7).toNat < 2 ^ 31 :=
  ⟨by decide +kernel, ⟨userS_in, by decide +kernel⟩, by decide +kernel, ⟨⟨rfl, rfl⟩, by decide +kernel⟩, by decide +kernel, by decide +kernel,
    ⟨userS_in, by decide +kernel⟩, by decide +kernel, rfl, by decide +kernel, by decide +kernel, by decide +kernel, by decide +kernel⟩
/-- A sequence with one operation issued and none completed. -/
theorem wit_EventResults_waits : let q : ClassSeq := { ClassSeq.empty with
      issued := 1#32
      pend := [⟨1#32, false, 0#32⟩] }
    ((1#32 - q.issued).toNat = 0 ∧ 2 ^ 31 ≤ (q.upTo - 1#32).toNat) := by decide +kernel
/-- The slice has a share of spar core 0 of stack 0. -/
def sparS : State := (mapped (demoWith userG demoC)).setSlice 0 { (mapped (demoWith userG demoC)).slice 0 with spar := [(0, 16)] }
theorem wit_MigrateAndReturn : (CmdReady userS demoC userG probeTeam [(24#7, 2)] 0 ∧ userG.ganged demoC = true ∧ addrIs userG 1 24#7 0 0 0x3000
      ∧ (∃ s1, (userS.spoil userG).locate userG .load 1 1 1 (.ea 0x3000) = (.at 0x3000 (.dram (s1.fOf userG) 0x3000), s1)
        ∧ s1.sparShares (s1.fOf userG) (spaRow (s1.fOf userG) (s1.slice (s1.fOf userG)) 0x3000).1.stack = []))
    ∧ (Ready demo demoC demoG (ctlUnit false []) ∧ demoG.mig = none)
    ∧ (Ready (demoWith awayG demoC) demoC awayG (ctlUnit false []) ∧ awayG.mig ≠ none ∧ awayG.k0 demoC ≠ 0#64 ∧ demoC.away = false ∧ awayG.liveSeqs ≠ []
      ∧ ∀ q ∈ awayG.seqs, q.st ≠ .done → q.id ∈ demoC.seqs ∧ q.st = .run) :=
  ⟨⟨userS_cmd (by decide +kernel), by decide +kernel, by unfold addrIs; decide +kernel, _, Prod.ext (by decide +kernel) rfl, by decide +kernel⟩,
    ⟨demo_ready (by decide +kernel), rfl⟩, with_ready rfl (by decide +kernel), by decide +kernel, by decide +kernel, rfl, by decide +kernel, by decide +kernel⟩
/-- Both quads of a migrated group, of which one issues. -/
def awayTwoG : Group := { twoG with mig := awayG.mig }
theorem wit_MigrateAndReturn_ship : (sparS.sparShares 0 0 ≠ [] ∧ (sparS.sparChoice userG 0).isSome = true ∧ sparS.group demoC.gctx = some userG
      ∧ (sparS.bank.arrivals.filter (· != userG.uid)).any (sparS.waitsFor 0) = false)
    ∧ (Ready (demoWith awayTwoG demoC) demoC awayTwoG (ctlUnit false []) ∧ awayTwoG.k0 demoC ≠ 0#64
      ∧ awayTwoG.seqs.any (fun q => decide (q.st ≠ .done ∧ q.id ∉ demoC.seqs ∧ q.wait ≠ .home)) = true) :=
  ⟨⟨by decide +kernel, by decide +kernel, rfl, by decide +kernel⟩, with_ready rfl (by decide +kernel), by decide +kernel, by decide +kernel⟩


/-! ### Special registers, traps, timers, the recorder -/

theorem demo_sys {names : List (BitVec 7 × Nat)} (h : (ctlUnit false names).check demoG demoC = none) : SysReady demo demoC demoG names .S :=
  ⟨demo_ready h, by decide +kernel, by decide +kernel⟩
theorem wit_RegisterReads : (demoG.team = some probeTeam.slot ∧ demo.team probeTeam.slot = some probeTeam)
    ∧ (crOf 0x080 = some (.word 0x080) ∧ demoG.mig = none ∧ wd 16#7 = true ∧ lowest (demoG.k0 demoC) = some 0
      ∧ (crLevel 0x080).code ≤ demoG.level.code ∧ Ready demo demoC demoG (ctlUnit false [(16#7, 1)]))
    ∧ (crOf 0x400 = some (.full 0x400) ∧ pairCode 16#7 = true ∧ (crLevel 0x400).code ≤ demoG.level.code ∧ Ready demo demoC demoG (ctlUnit false [(16#7, 2)]))
    ∧ (crOf 0x7FF = none ∧ InUnit demo demoC demoG)
    ∧ (InUnit userS demoC userG ∧ (ctlUnit false []).prefixOk demoC = true ∧ userG.level.code < (crLevel 0x400).code) :=
  ⟨⟨rfl, rfl⟩, ⟨by decide +kernel, rfl, by decide +kernel, by decide +kernel, by decide +kernel, demo_ready (by decide +kernel)⟩,
    ⟨by decide +kernel, by decide +kernel, by decide +kernel, demo_ready (by decide +kernel)⟩, ⟨by decide +kernel, demo_in⟩, userS_in, by decide +kernel, by decide +kernel⟩
theorem wit_RegisterWrites : (crOf 0x080 = some (.word 0x080) ∧ (16#7).toNat ≤ 124 ∧ lowest (demoG.k0 demoC) = some 0
      ∧ (crLevel 0x080).code ≤ demoG.level.code ∧ Ready demo demoC demoG (ctlUnit false [(16#7, 1)]) ∧ cleanIn demoG 0 16#7 1
      ∧ crReserved 0x080 (demoG.val 0 16#7).toNat = false ∧ (cwTable demo demoG probeTeam 0).any (fun p => p.1 == 0x080 && p.2.1) = true)
    ∧ (Ready userS demoC userG (ctlUnit false [(24#7, 1)]) ∧ crReserved 0x080 (userG.val 0 24#7).toNat = true)
    ∧ (crOf 0x400 = some (.full 0x400) ∧ Ready demo demoC demoG (ctlUnit false [(16#7, 2)]) ∧ crReserved 0x400 (demoG.pair 0 16#7) = false) :=
  ⟨⟨by decide +kernel, by decide, by decide +kernel, by decide +kernel, demo_ready (by decide +kernel), by unfold cleanIn; decide +kernel, by decide +kernel, by decide +kernel⟩,
    ⟨⟨userS_in, by decide +kernel⟩, by decide +kernel⟩, by decide +kernel, demo_ready (by decide +kernel), by decide +kernel⟩
theorem wit_PrivilegeTraps : (InUnit userS demoC userG ∧ (ctlUnit false []).prefixOk demoC = true ∧ userG.level = .U ∧ (2#14).toNat ≤ 2 ∧ rd 16#7 = true)
    ∧ InUnit demo demoC demoG ∧ demoG.level ≠ .M := ⟨⟨userS_in, by decide +kernel, rfl, by decide, by decide +kernel⟩, demo_in, by decide +kernel⟩
/-- The frame with handle 0, and the state in which it is pending. -/
def handF : Frame := { demoF false with handle := some 0#14 }
def frameS : State := { demo with live := { demo.live with frames := [handF] } }
theorem frameS_sys : SysReady frameS demoC demoG [(40#7, 1)] .S := ⟨⟨⟨rfl, rfl⟩, by decide +kernel⟩, by decide +kernel, by decide +kernel⟩
theorem wit_ReturnFromTrap : (SysReady demo demoC demoG [(40#7, 1)] .S ∧ demoG.level = .S ∧ lowest (demoG.k0 demoC) = some 0
      ∧ (demoG.readWord 0 40).poison = false ∧ (demoG.val 0 40#7).toNat < 2 ^ 14 ∧ demo.live.frames = [])
    ∧ (SysReady frameS demoC demoG [(40#7, 1)] .S ∧ ownFrame frameS demoG (demoG.val 0 40#7) handF
      ∧ ∃ s1, frameS.locate demoG .load 1 8 8 (.ea ((frameS.slice (frameS.fOf demoG)).trFbase.toNat + 4096 * frameS.coreNo + 64 * ((demoG.val 0 40#7).toNat % 64)))
          = (.at 0 (.dram 0 0), s1) ∧ s1.accessWaits demoC demoG .load 8 [(0, .at 0 (.dram 0 0))] = none ∧ (s1.readLoc [(s1.laneAgent demoG 0).id] (.dram 0 0) 0 8).2.1 = false)
    ∧ (handF.team = some probeTeam.slot ∧ ((frameS.endFrame handF 1).advance demoC).team 0 = some probeTeam
      ∧ ((frameS.endFrame handF 2).advance demoC).team 0 = some probeTeam) :=
  ⟨⟨demo_sys (by decide +kernel), rfl, by decide +kernel, by decide +kernel, by decide +kernel, rfl⟩,
    ⟨frameS_sys, by unfold ownFrame; decide +kernel, _, Prod.ext (by decide +kernel) rfl, by decide +kernel, by decide +kernel⟩,
    by decide +kernel, by decide +kernel, by decide +kernel⟩
theorem wit_ReturnRestores : frameS.group handF.gctx = some demoG ∧ ∀ q ∈ demoG.seqs, q.popNext = false := ⟨rfl, by decide +kernel⟩
/-- A core whose live context holds a team of another function besides. -/
def barredS : State := { demo with
  live := { demo.live with teams := [probeTeam, { probeTeam with slot := 1, grid := 7 }] }
  grids := [probeGrid, { probeGrid with id := 7, f := 5 }] }
theorem wit_TimerFlagsAndSwap_swap : (demoG.level = .S ∧ demo.swapBarred demoG = false)
    ∧ (Ready barredS demoC demoG (ctlUnit false []) ∧ barredS.swapBarred demoG = true) :=
  ⟨by decide +kernel, ⟨⟨rfl, rfl⟩, by decide +kernel⟩, by decide +kernel⟩
theorem wit_TimerFlagsAndSwap : (Ready demo demoC demoG (ctlUnit true []) ∧ 0 ≤ fullOff demoC 5#14 ∧ fullOff demoC 0x3FFF#14 < 0)
    ∧ (lowest (demoG.k0 demoC) = some 0 ∧ (demoG.readWord 0 24).poison = false ∧ Ready demo demoC demoG (ctlUnit true [(24#7, 1)]))
    ∧ (wd 16#7 = true ∧ Ready demo demoC demoG (ctlUnit false [(16#7, 1)]) ∧ demoG.holding demoC = [] ∧ demoG.mig = none)
    ∧ (Ready demo demoC demoG (ctlUnit false []) ∧ demoG.k0 demoC ≠ 0#64 ∧ demoG.level ≠ .U)
    ∧ (Ready (demoWith awayG demoC) demoC awayG (ctlUnit false []) ∧ awayG.k0 demoC ≠ 0#64 ∧ awayG.mig ≠ none) :=
  ⟨⟨demo_ready (by decide +kernel), by decide +kernel, by decide +kernel⟩, ⟨by decide +kernel, by decide +kernel, demo_ready (by decide +kernel)⟩,
    ⟨by decide +kernel, demo_ready (by decide +kernel), by decide +kernel, rfl⟩, ⟨demo_ready (by decide +kernel), by decide +kernel, by decide +kernel⟩,
    with_ready rfl (by decide +kernel), by decide +kernel, by decide +kernel⟩
/-- Two quads, of which the second waits in a unit that it has issued. -/
def heldG : Group := { twoG with seqs := [Seq.fresh 0 0 1#4 4096#56 0, { Seq.fresh 1 1 1#4 4096#56 0 with wait := .chan }] }
theorem wit_TimerFlagsAndSwap_hold : Ready (demoWith heldG demoC) demoC heldG (ctlUnit false [(16#7, 1)]) ∧ wd 16#7 = true ∧ heldG.holding demoC ≠ []
    ∧ heldG.flagsDue demoC = false :=
  ⟨with_ready rfl (by decide +kernel), by decide +kernel, by decide +kernel, by decide +kernel⟩
/-- The first quad has waited at a `flgrd`, and the units before it are over. -/
def dueG : Group := { twoG with seqs := [{ Seq.fresh 0 0 1#4 4096#56 0 with wait := .flags [] }, Seq.fresh 1 1 1#4 4096#56 0] }
/-- A unit with a LIMM word whose part is 1. -/
def limmC : Cur := { demoC with limm := some 1#25 }
theorem wit_TimerFlagsAndSwap_forms : (Ready (demoWith dueG demoC) demoC dueG (ctlUnit false [(16#7, 1)]) ∧ dueG.flagsDue demoC = true)
    ∧ immS demoC 0#14 = 0#64 ∧ (Ready (demoWith demoG limmC) limmC demoG (ctlUnit true [(24#7, 1)]) ∧ immS limmC 0#14 ≠ 0#64)
    ∧ ((demo.comingOn (demo.dieOf demoG))[(1#1).toNat]?).isSome = true
    ∧ demo.offOf demo.die = 0 ∧ demo.cal.last = none ∧ demo.now < demo.cal.next.start ∧ demo.now < demo.cal.after.start :=
  ⟨⟨with_ready rfl (by decide +kernel), by decide +kernel⟩, by decide +kernel, ⟨with_ready rfl (by decide +kernel), by decide +kernel⟩,
    by decide +kernel, by decide +kernel, by decide +kernel, by decide +kernel, by decide +kernel⟩
/-- A trapped group beside the handler's: one entry on its quad's stack, one spilled. -/
def trapQ : Seq := { Seq.fresh 0 0 1#4 4096#56 0 with
  st := .trap
  stack := [stackEntry true 1#4 64#56]
  spill := 1 }
def trapGroup (q : Seq) : Group := { demoG with
  gctx := 5
  uid := 5
  seqs := [q] }
def trapG : Group := trapGroup trapQ
def trapState (q : Seq) : State := { demo with live := { demo.live with
  groups := [demoG, trapGroup q]
  frames := [{ handF with gctx := 5 }] } }
def trapS : State := trapState trapQ
theorem trap_sys (q : Seq) {names : List (BitVec 7 × Nat)} (h : (ctlUnit false names).check demoG demoC = none) :
    SysReady (trapState q) demoC demoG names .S := ⟨⟨⟨rfl, rfl⟩, h⟩, by decide +kernel, by decide +kernel⟩
theorem wit_TrappedStackResults_dropped : SysReady trapS demoC demoG [(124#7, 4)] .S ∧ rd 124#7 = true ∧ cleanIn demoG 0 124#7 4
    ∧ trapS.trapped demoG ((demoG.readWords 0 124 4).getD 0 pzero).val = some (trapG, trapQ) :=
  ⟨trap_sys _ (by decide +kernel), by decide +kernel, by unfold cleanIn; decide +kernel, by decide +kernel⟩
theorem wit_TrappedStackResults_refused :
    (SysReady demo demoC demoG [(16#7, 4)] .S ∧ demo.trapped demoG (demoG.val 0 16#7) = none)
    ∧ (let q := { trapQ with stack := [], spill := 0 }
       SysReady (trapState q) demoC demoG [(16#7, 4)] .S ∧ (trapState q).trapped demoG (demoG.val 0 16#7) = some (trapGroup q, q))
    ∧ (let q := { trapQ with stack := List.replicate 16 (stackEntry true 1#4 64#56), spill := 65535 }
       SysReady (trapState q) demoC demoG [(16#7, 4)] .S ∧ (trapState q).trapped demoG (demoG.val 0 16#7) = some (trapGroup q, q))
    ∧ (SysReady trapS demoC demoG [(24#7, 4)] .S ∧ (demoG.val 0 24#7) = 0#32 ∧ entryOk (1#64) = false) :=
  ⟨⟨⟨demo_ready (by decide +kernel), by decide +kernel, by decide +kernel⟩, by decide +kernel⟩, ⟨trap_sys _ (by decide +kernel), by decide +kernel⟩,
    ⟨trap_sys _ (by decide +kernel), by decide +kernel⟩, trap_sys _ (by decide +kernel), by decide +kernel, by decide +kernel⟩
theorem wit_TrappedStackResults : SysReady trapS demoC demoG [(16#7, 4)] .S ∧ rd 16#7 = true ∧ (16#7) ≠ 124#7 ∧ lowest (demoG.k0 demoC) = some 0
    ∧ cleanIn demoG 0 16#7 4 ∧ trapS.trapped demoG (demoG.val 0 16#7) = some (trapG, trapQ) ∧ trapG.gctx ≠ demoG.gctx
    ∧ (trapQ.stack = [] ++ [stackEntry true 1#4 64#56] ∧ trapQ.spill < 65535) ∧ (trapQ.stack.length < 16 ∧ 0 < trapQ.spill)
    ∧ entryOk (pairVal ((demoG.readWords 0 16 4).drop 2)) = true :=
  ⟨⟨⟨⟨rfl, rfl⟩, by decide +kernel⟩, by decide +kernel, by decide +kernel⟩, by decide +kernel, by decide, by decide +kernel, by unfold cleanIn; decide +kernel,
    by decide +kernel, by decide +kernel, by decide +kernel, by decide +kernel, by decide +kernel⟩
/-- A group with its level at M, whose registers 16 to 19 hold an event of class 0x0B and register 40 the number 2, register 41 the number 200. -/
def topG : Group := { demoG with
  level := .M
  threads := demoG.threads.map fun t => { t with regs := ((t.regs.set 19 (clean 0x2C100000#32)).set 40 (clean 2#32)).set 41 (clean 200#32) |>.set 42 (clean 1#32) } }
theorem topG_sys {names : List (BitVec 7 × Nat)} (h : (ctlUnit false names).check topG demoC = none) : SysReady (demoWith topG demoC) demoC topG names .M :=
  ⟨with_ready rfl h, by decide +kernel, by decide +kernel⟩
theorem wit_RecorderResults : (lowest (demoG.k0 demoC) = some 0 ∧ Ready demo demoC demoG (ctlUnit false [(24#7, 1)]) ∧ (3#6) ≠ 0#6 ∧ demoG.level ≠ .M ∧ demoG.mig = none
      ∧ (demoG.readWord 0 24).poison = false)
    ∧ (SysReady (demoWith topG demoC) demoC topG [(16#7, 4)] .M ∧ cleanIn topG 0 16#7 4
      ∧ (let e : BitVec 128 := pairVal ((topG.readWords 0 16 4).drop 2) ++ pairVal (topG.readWords 0 16 4)
         e.extractLsb' 122 6 = 0x0B#6 ∧ e.extractLsb' 116 6 ≠ 0#6)
      ∧ (let e : BitVec 128 := pairVal ((topG.readWords 0 24 4).drop 2) ++ pairVal (topG.readWords 0 24 4)
         e.extractLsb' 122 6 ≠ 0x0B#6))
    ∧ (SysReady (demoWith topG demoC) demoC topG [(40#7, 1)] .M ∧ (topG.readWord 0 40).poison = false ∧ (topG.val 0 40#7).toNat % 2 = 0
      ∧ (topG.val 0 42#7).toNat % 2 = 1 ∧ 128 ≤ (topG.val 0 41#7).toNat) ∧ (demo.ring 0).frozen = false :=
  ⟨⟨by decide +kernel, demo_ready (by decide +kernel), by decide, by decide +kernel, rfl, by decide +kernel⟩,
    ⟨topG_sys (by decide +kernel), by unfold cleanIn; decide +kernel, by decide +kernel, by decide +kernel⟩,
    ⟨topG_sys (by decide +kernel), by decide +kernel, by decide +kernel, by decide +kernel, by decide +kernel⟩, by decide +kernel⟩
theorem wit_RecorderResults_places : Ready (demoWith awayG demoC) demoC awayG (ctlUnit false [(24#7, 1)]) ∧ awayG.mig ≠ none ∧ awayG.level ≠ .M
    ∧ (awayG.readWord 0 24).poison = false ∧ ((demo.setRing 0 { Ring.empty with frozen := true }).ring 0).frozen = true :=
  ⟨with_ready rfl (by decide +kernel), by decide +kernel, by decide +kernel, by decide +kernel, by decide +kernel⟩
/-- Two quads at level U, of which one issues. -/
def reformG : Group := { twoG with level := .U }
/-- The same, with the address 0x2000 in the pair 24. -/
def reformToG : Group := { reformG with threads := reformG.threads.map fun t => { t with regs := t.regs.set 24 (clean 0x2000#32) } }
theorem wit_ReformResults_ready : TeamReady (demoWith reformG demoC) demoC reformG probeTeam (ctlUnit false [])
    ∧ TeamReady (demoWith reformToG demoC) demoC reformToG probeTeam (ctlUnit false [(24#7, 2)])
    ∧ (InUnit demo demoC demoG ∧ (ctlUnit false []).prefixOk demoC = true ∧ demoG.team = some probeTeam.slot ∧ demoG.level ≠ .U) :=
  ⟨with_teamReady rfl (by decide +kernel) rfl rfl, with_teamReady rfl (by decide +kernel) rfl rfl, demo_in, by decide +kernel, rfl, by decide +kernel⟩
theorem wit_ReformResults : ∀ G ∈ [reformG, reformToG], G.width = 64 ∧ G.level = .U ∧ (∀ q ∈ G.seqs, q.stack = [] ∧ q.spill = 0 ∧ q.st ≠ .trap)
    ∧ G.k0 demoC ≠ 0#64 ∧ (G.seqs.map (·.id)).Nodup ∧ (G.seq 0).isSome = true ∧ (demoWith G demoC).live.bins = List.replicate 32 none
    ∧ (demoWith G demoC).binEmpty 0 = true ∧ (G.threads.map (·.col)).Nodup ∧ (∀ t ∈ G.threads, t.col < 64) ∧ G.threads.length ≤ 64
    ∧ 1 < G.threads.length ∧ (G.k0 demoC).getLsbD 1 = false ∧ (G.k0 demoC) = 1#64 := by decide +kernel
theorem wit_ReformResults_target : reformToG.target 24 0 = .ok 0x2000#56 := by decide +kernel


/-! ### Between the instructions, the dispatcher, contexts -/

/-- The demonstration state with its live context changed. -/
def withLive (f : Ctx → Ctx) : State := { demo with live := f demo.live }
/-- A replay entry of the demonstration group. -/
def replS : State := { demo with replays := [⟨0, 0, some 0, 0⟩] }
theorem wit_ReplayChecks : replS.replays = ⟨0, 0, some 0, 0⟩ :: [] ∧ (∀ T ∈ replS.live.teams, ∀ b ∈ T.bars, b.owed = none)
    ∧ (let t := ({ replS with replays := [] } : State).onShare 0 coverChecked
       t.team 0 = some probeTeam ∧ t.grid probeTeam.grid = some probeGrid) ∧ probeTeam.stopping = none ∧ probeTeam.eligible = false
    ∧ (Replay.mk 0 0 none 0).team = none := by decide +kernel
/-- The entry of a team that may be rolled back, with or without an operation in flight. -/
def replBackS (tcs : List TcOp) : State := { withLive fun x => { x with
  teams := [{ probeTeam with eligible := true }]
  snaps := [⟨probeTeam, [demoG], [], []⟩] } with
  replays := [⟨0, 0, some 0, 0⟩]
  tcs := tcs }
theorem wit_ReplayChecks_back : ∀ tcs ∈ [[], [demoTc]], let s := replBackS tcs
    let t := ({ s with replays := [] } : State).onShare 0 coverChecked
    s.replays = ⟨0, 0, some 0, 0⟩ :: [] ∧ (∀ T ∈ s.live.teams, ∀ b ∈ T.bars, b.owed = none) ∧ t.grid 0 = some probeGrid
    ∧ (t.team 0).map (fun T => (T.stopping, T.eligible, T.rollbacks, T.grid)) = some (none, true, 0, 0)
    ∧ (s.live.snaps.any fun p => p.team.slot == 0) = true
    ∧ s.opsInFlight { probeTeam with eligible := true } = !tcs.isEmpty := by decide +kernel
/-- A team that rolls back, with its snapshot. -/
def backT : Team := { probeTeam with stopping := some 0 }
def backS (tcs : List TcOp) : State := { withLive fun x => { x with
  teams := [backT]
  snaps := [⟨probeTeam, [demoG], [], []⟩] } with tcs := tcs }
theorem wit_RollbackResults : (backS []).team 0 = some backT ∧ backT.stopping = some 0 ∧ backT.slot = 0
    ∧ (backS []).live.snaps.find? (fun p => p.team.slot == 0) = some ⟨probeTeam, [demoG], [], []⟩ ∧ (backS []).opsInFlight backT = false
    ∧ (∀ G ∈ [demoG], G.team = some 0 ∧ G.waitingClaim = none) ∧ (backS []).live.claims = [] ∧ (backS [demoTc]).opsInFlight backT = true := by decide +kernel
/-- The group waits for a claim of 16 registers for its one thread. -/
def claimG : Group := { demoG with seqs := demoG.seqs.map fun q => { q with wait := .claim 16 } }
def claimS (free blocked : Nat) : State := withLive fun x => { x with
  groups := [claimG]
  teams := [{ probeTeam with blocked := blocked }]
  claims := [⟨0, 16, 16⟩]
  free := free }
theorem wit_ClaimEvents : (claimS 100 0).live.claims = ⟨0, 16, 16⟩ :: [] ∧ (claimS 100 0).group 0 = some claimG ∧ 16 ≤ (claimS 100 0).live.free
    ∧ (claimS 0 0).live.free < 16 ∧ claimG.team = some 0 ∧ (claimS 0 65536).teamBlocked 0 = true ∧ 65536 ≤ ({ probeTeam with blocked := 65536 } : Team).blocked
    ∧ (claimG.seqs.filter (·.wait.isClaim)).length = 1 ∧ probeTeam.blocked < 65536 := by decide +kernel
/-- A bin with one thread, filed at cycle 10; the cycle counter is at 10, or well past the limit. -/
def binS (now : BitVec 64) : State := { withLive fun x => { x with bins := some ⟨0, 0, 64#56, 0, .U, [⟨Thread.fresh 3 2 1 8, List.replicate 16 pzero, 10, 0⟩]⟩ :: List.replicate 31 none } with dieCycles := now }
theorem wit_AgedBin : ((binS 10#64).live.bins.getD 0 none).isSome = true ∧ (binS 10#64).now < 10 + (binS 10#64).reformAge.toNat
    ∧ 10 + (binS 522#64).reformAge.toNat ≤ (binS 522#64).now := by decide +kernel
/-- A frame waits for the handler of share 0, posted or without a handle. -/
def fileS (f : Frame) : State := mapped (withLive fun x => { x with frames := [f] })
theorem wit_TimerAndHandlers : (demo.group 0 = some demoG ∧ demoG.timer ≠ 1) ∧ ({ demoG with timer := 1 } : Group).timer = 1
    ∧ (FrameWaits (fileS handF) 0 ⟨0, 16, 0, 0#64, 0#32, List.replicate 64 0#8, 64⟩ handF ∧ handF.handle = some 0#14)
    ∧ ((fileS (demoF false)).share 0 = some ⟨0, 16, 0, 0#64, 0#32, List.replicate 64 0#8, 64⟩ ∧ ((fileS (demoF false)).slice 0).trCtl.getLsbD 12 = false
      ∧ ((fileS (demoF false)).slice 0).halted = false
      ∧ (fileS (demoF false)).live.frames.find? (fun g => g.share == 0 && !g.monitor && g.handle.isNone) = some (demoF false)
      ∧ 0 ∉ (fileS (demoF false)).usedHandles 0) :=
  ⟨⟨rfl, by decide +kernel⟩, rfl, ⟨⟨by decide +kernel, rfl, by decide +kernel, by decide +kernel, by decide +kernel⟩, rfl⟩, by decide +kernel⟩
theorem wit_TimerAndHandlers_held : (fileS (demoF false)).frameHeld (demoF false) 0 = [] ∧ let s := withInst (fileS (demoF false)) 0
    s.share 0 = some ⟨0, 16, 0, 0#64, 0#32, List.replicate 64 0#8, 64⟩ ∧ (s.slice 0).trCtl.getLsbD 12 = false ∧ (s.slice 0).halted = false
    ∧ s.live.frames.find? (fun g => g.share == 0 && !g.monitor && g.handle.isNone) = some (demoF false) ∧ 0 ∉ s.usedHandles 0
    ∧ s.frameHeld (demoF false) 0 ≠ [] := by decide +kernel
/-- All 64 handles of the share are taken. -/
def allHandS : State := mapped (withLive fun x => { x with frames := demoF false :: (List.range 64).map fun i => { demoF false with handle := some (BitVec.ofNat 14 i) } })
theorem wit_TimerAndHandlers_full : ∀ j, j < 64 → j ∈ allHandS.usedHandles 0 := by decide +kernel
/-- An operation that waits on channel 0: a `sendw` or a `recv`. -/
def waitW (e : Option (List PWord)) : ChWait := ⟨0, 0, [0], 0, 0, 16#7, 1#64, e⟩
def waitS (T : Team) (e : Option (List PWord)) : State := withLive fun x => { x with
  teams := [T]
  waits := [waitW e] }
theorem wit_WaitsServed : ((waitS probeTeam (some (List.replicate 64 pzero))).live.waits.filter ((waitS probeTeam (some (List.replicate 64 pzero))).waitsOn · 0 0)
        = [waitW (some (List.replicate 64 pzero))]
      ∧ (waitS probeTeam (some (List.replicate 64 pzero))).chan 0 0 = some ⟨2, 0, 0, 0, List.replicate 2 0#64⟩)
    ∧ ((waitS fullT none).live.waits.filter ((waitS fullT none).waitsOn · 0 0) = [waitW none]
      ∧ (waitS fullT none).chan 0 0 = some ⟨2, 0, 0, 2, List.replicate 2 0#64⟩) := by decide +kernel
/-- The launch queue of slice 0 on die 0. -/
def queueS (q : LaunchQ) : State := (mapped demo).setSlice 0 { (mapped demo).slice 0 with gd := (mapped demo |>.slice 0).gd.set 0 q }
theorem wit_LaunchQueueControl : ((queueS { LaunchQ.empty with halted := true }).queue 0 0).halted = true ∧ ((queueS LaunchQ.empty).queue 0 0).halted = false
    ∧ ((queueS { LaunchQ.empty with halted := true, nextUnread := true }).queue 0 0).nextUnread = true ∧ hostOpen demo 0 true
    ∧ ¬ hostOpen (demo.setSlice 3 { demo.slice 3 with tdi := 1#2 }) 3 true := by unfold hostOpen; decide +kernel
theorem wit_OutsideWrites_closed : (let s := demo.setSlice 0 { demo.slice 0 with trust := { (demo.slice 0).trust with ide := 2 } }
      (s.slice 0).trust.ide = 2 ∧ ¬ hostOpen s 0 true) ∧ (demo.slice 0).trust.ide ≠ 2 ∧ demo.die < 4
    ∧ ((demo.setSlice 3 { demo.slice 3 with tdi := 2#2 }).slice 3).tdi = 2#2 := by unfold hostOpen; decide +kernel
theorem wit_CounterWrites : 0 < demo.slices.length ∧ (demo.slice 0).lcnt.length = 16 ∧ 15 < 16 ∧ (0xFF#16).toNat < 0x100 ∧ 0x10F < (0x110#16).toNat := by decide +kernel
theorem wit_OutsideWrites : (crReserved 0x408 (0#64).toNat = false ∧ (0 : Nat) < 64 ∧ hostOpen demo 0 false ∧ hostOpen demo 5 true) ∧ crReserved 0x402 (1#64).toNat = true
    ∧ ((demo.setSlice 3 { demo.slice 3 with tdi := 1#2 }).slice 3).tdi = 1#2 ∧ (16 ≤ (16#32).toNat ∧ (16#32).toNat < 65536 ∧ demo.live.bins = List.replicate 32 none)
    ∧ (15#32).toNat < 16 ∧ 65536 ≤ (65536#32).toNat := by unfold hostOpen; decide +kernel
/-- A launch entry at 0x6000 and its descriptor at 0x7000: one role of one group of 64 threads with 8 registers. -/
def launchS (qhead : BitVec 64) (gx : Byte) : State :=
  let s := queueS { LaunchQ.empty with
    qpost := 1#16
    qhead := qhead }
  { s with dram := memPuts s.dram [(0x6001, 0x60#8), (0x6009, 0x70#8), (0x6018, gx), (0x601A, 1#8), (0x601C, 1#8), (0x601E, 64#8), (0x6022, 1#8), (0x602C, 0xFF#8),
    (0x602D, 0xFF#8), (0x6034, 0xFF#8), (0x6035, 0xFF#8), (0x603C, 0xFF#8), (0x603D, 0xFF#8), (0x7000, 0x48#8), (0x7001, 0x49#8), (0x7002, 0x45#8), (0x7003, 0x4C#8),
    (0x7004, 1#8), (0x7009, 0x80#8), (0x7011, 0x10#8), (0x703C, 1#8), (0x7044, 3#8), (0x7045, 1#8)] }
/-- The entry and the descriptor that the dispatcher reads, and what the checks say. -/
def launchReadsOf (s : State) : Option (Nat × Bool × Nat) :=
  let v : View := ⟨0, 0#12, false, false⟩
  match s.dispatchRead v (s.queue 0 s.die).qhead.toNat 64 with
  | (some e, s1) => match s1.dispatchRead v (fld e 8 8) 256 with
    | (some d, s2) => match s2.launchReads v d e with
      | (some _, s3) => some (launchCheck (s.slice 0) d e, s3.placeable 0 (rolesOf d e) (scratchOf d e) (fld e 0x22 1), fld e 0 8)
      | _ => none
    | _ => none
  | _ => none
theorem wit_LaunchEntries : (((launchS 0x6000#64 1#8).slice 0).valid = true ∧ ((launchS 0x6000#64 1#8).slice 0).halted = false
      ∧ ((launchS 0x6000#64 1#8).slice 0).trCtl.getLsbD 12 = false ∧ ((launchS 0x6000#64 1#8).queue 0 0).walking = true ∧ ((launchS 0x6000#64 1#8).queue 0 0).grid = none)
    ∧ launchReadsOf (launchS 0x6000#64 1#8) = some (0, true, 0x6000) ∧ launchReadsOf (launchS 0x6000#64 0#8) = some (6, true, 0x6000)
    ∧ ((launchS 0x200000#64 1#8).dispatchRead ⟨0, 0#12, false, false⟩ 0x200000 64).1 = none
    ∧ (queueS LaunchQ.empty |>.queue 0 0).walking = false := by decide +kernel
/-- The entry with its descriptor, or with its code, where no page is. -/
def farLaunchS (desc : Bool) : State :=
  let s := launchS 0x6000#64 1#8
  { s with dram := memPuts s.dram (if desc then [(0x600A, 0x20#8)] else [(0x700A, 0x20#8)]) }
theorem wit_LaunchEntries_unread : let v : View := ⟨0, 0#12, false, false⟩
    (match (farLaunchS true).dispatchRead v 0x6000 64 with
      | (some e, s1) => (s1.dispatchRead v (fld e 8 8) 256).1.isNone
      | _ => false) = true
    ∧ (match (farLaunchS false).dispatchRead v 0x6000 64 with
      | (some e, s1) => (match s1.dispatchRead v (fld e 8 8) 256 with
        | (some d, s2) => (s2.launchReads v d e).1.isNone
        | _ => false)
      | _ => false) = true := by decide +kernel
/-- The entry with a NEXT that is no multiple of 64. -/
def badNextS : State :=
  let s := launchS 0x6000#64 1#8
  { s with dram := memPuts s.dram [(0x6000, 1#8)] }
theorem wit_LaunchEntries_held : let v : View := ⟨0, 0#12, false, false⟩
    (let s := launchS 0x6000#64 1#8
     s.rangesHeld (dispatchHolder 0) v .load (s.launchRanges v 0x6000) = [] ∧ (s.unhold (dispatchHolder 0)) = s)
    ∧ let s := withHeld (dispatchHolder 0) (launchS 0x6000#64 1#8) 0x6000
      (s.slice 0).valid = true ∧ (s.queue 0 s.die).walking = true ∧ s.rangesHeld (dispatchHolder 0) v .load (s.launchRanges v 0x6000) ≠ [] := by decide +kernel
theorem wit_LaunchEntries_next : launchReadsOf badNextS = some (0, true, 0x6001) := by decide +kernel
/-- The dispatcher holds a grid, whose dependences are reached or not, and which fits the room or not. -/
def heldGrid (dep : BitVec 64) (scr : Nat) : Grid := { probeGrid with
  nextCluster := 0
  placing := true
  deps := [dep]
  scr := scr
  roles := [(0, 64, 1, 8)] }
def placeS (dep : BitVec 64) (scr : Nat) : State := { queueS { LaunchQ.empty with grid := some 0 } with
  grids := [heldGrid dep scr]
  live := Ctx.empty }
theorem wit_PlacementResults : (((placeS 0xFFFF00000000#64 4096).queue 0 0).grid.bind (placeS 0xFFFF00000000#64 4096).grid = some (heldGrid 0xFFFF00000000#64 4096)
      ∧ ((placeS 0xFFFF00000000#64 4096).slice 0).halted = false ∧ ((placeS 0xFFFF00000000#64 4096).slice 0).trCtl.getLsbD 12 = false
      ∧ (placeS 0xFFFF00000000#64 4096).shareOf 0 = some 0)
    ∧ (heldGrid 0xFFFF00000000#64 4096).deps.all ((placeS 0xFFFF00000000#64 4096).reachedDep 0) = true
    ∧ (heldGrid 0x10000000005#64 4096).deps.all ((placeS 0x10000000005#64 4096).reachedDep 0) = false
    ∧ ({ heldGrid 0x10000000005#64 4096 with released := true } : Grid).released = true
    ∧ ((placeS 0xFFFF00000000#64 4096).placeCluster 0 (heldGrid 0xFFFF00000000#64 4096)).isSome = true
    ∧ (placeS 0xFFFF00000000#64 786433).placeCluster 0 (heldGrid 0xFFFF00000000#64 786433) = none
    ∧ (∀ k ∈ ((placeS 0xFFFF00000000#64 4096).slice 0).coresOn (placeS 0xFFFF00000000#64 4096).die, k = (placeS 0xFFFF00000000#64 4096).coreNo)
    ∧ (heldGrid 0xFFFF00000000#64 4096).teams ≤ (0 + 1) * 1 ∧ (0 + 1) * 1 < ({ heldGrid 0xFFFF00000000#64 4096 with gx := 2 } : Grid).teams
    ∧ (placeS 0xFFFF00000000#64 4096).freeSlot < 16 ∧ (∀ T ∈ (placeS 0xFFFF00000000#64 4096).allTeams, T.slot ≠ (placeS 0xFFFF00000000#64 4096).freeSlot)
    ∧ (heldGrid 0xFFFF00000000#64 4096).roles[0]? = some (0, 64, 1, 8) := by decide +kernel
/-- A swap is ready. -/
def swapS : State := { demo with cx := { demo.cx with swap := true } }
theorem wit_SwapResults : demo.cx.swap = false ∧ swapS.cx.swap = true ∧ swapS.replays = [] ∧ swapS.overScratch = false ∧ (swapS.shadow.getD swapS.emptyCtx).spilled = []
    ∧ (swapS.shadow.getD Ctx.empty).spilled = [] := by decide +kernel
/-- A context stands in the shadow bank, and a save or a load is asked for. -/
def cxS (x : Option Ctx) (spill load : Bool) : State := { mapped demo with
  shadow := x
  cx := { demo.cx with spill := spill, load := load, rva := 0x9000#64 } }
/-- The bytes of an image of one page, and the state whose memory holds it. -/
def imageBytes : List Byte := [0x44#8, 0x54#8, 0x43#8, 0x58#8, 0x00#8, 0x10#8] ++ List.replicate 4090 0#8
def demoImage : Image := ⟨0, 0, 0#32, Ctx.empty, [], imageBytes, false⟩
def loadS : State := { cxS none false true with
  dram := memPuts (cxS none false true).dram [(0x9000, 0x44#8), (0x9001, 0x54#8), (0x9002, 0x43#8), (0x9003, 0x58#8), (0x9005, 0x10#8)]
  images := [demoImage] }
set_option maxRecDepth 100000 in
theorem wit_SaveAndLoad : ((cxS (some Ctx.empty) true false).shadow = some Ctx.empty ∧ (cxS (some Ctx.empty) true false).cx.spill = true
      ∧ (cxS (some Ctx.empty) true false).opsOf Ctx.empty = false ∧ (cxS (some Ctx.empty) true false).planesOf Ctx.empty = false)
    ∧ ((cxS (some Ctx.empty) false true).shadow ≠ none ∧ (cxS (some Ctx.empty) false true).cx.spill = false)
    ∧ demo.shadow = none ∧ demo.cx.load = false ∧ (cxS (some Ctx.empty) false true).shadow ≠ none
    ∧ ((cxS none false true).cx.load = true ∧ (cxS none false true).cx.spill = false ∧ (cxS none false true).shadow = none
      ∧ (match (cxS none false true).readImage.1 with
        | .error c => c
        | .ok _ => 0) = 2)
    ∧ ((match loadS.readImage.1 with
        | .ok bs => decide (bs = imageBytes)
        | _ => false) = true ∧ loadS.readImage.2.images.find? (fun j => j.bytes == imageBytes) = some demoImage ∧ loadS.readImage.2.loadCheck imageBytes = 0
      ∧ loadS.readImage.2.quiet = true) := by decide +kernel
set_option maxRecDepth 100000 in
theorem wit_SaveAndLoad_held : (let s := cxS (some Ctx.empty) true false
      s.rangesHeld contextHolder s.cxView .store [(s.cx.sva.toNat, s.imageSize)] = [])
    ∧ (let s := withHeld contextHolder (cxS (some Ctx.empty) true false) 0x21000
      s.shadow = some Ctx.empty ∧ s.cx.spill = true ∧ s.opsOf Ctx.empty = false ∧ s.planesOf Ctx.empty = false ∧ s.recall.shadow ≠ none
      ∧ s.rangesHeld contextHolder s.cxView .store [(s.cx.sva.toNat, s.imageSize)] ≠ [])
    ∧ loadS.rangesHeld contextHolder loadS.cxView .load loadS.imageRanges = []
    ∧ (let s := withHeld contextHolder loadS 0x9000
      s.cx.load = true ∧ s.cx.spill = false ∧ s.shadow = none ∧ s.rangesHeld contextHolder s.cxView .load s.imageRanges ≠ []) := by decide +kernel
theorem wit_ArrivalResults : let G : Group := { demoG with mig := some ⟨0, none, 0#32, 0#5, 0#5⟩ }
    let s : State := { (withLive fun x => { x with groups := [G] }).setSlice 0 { demo.slice 0 with spar := [(0, 16)] } with bank := { demo.bank with arrivals := [0] } }
    s.group 0 = some G ∧ s.bank.arrivals.find? (s.waitsFor 0) = some G.uid ∧ (s.sparChoice G 0).isSome = true
    ∧ demo.sparChoice demoG 0 = none ∧ (demo.bank.arrivals.find? (demo.waitsFor 0) ≠ some G.uid) := by decide +kernel


/-! ### The engines beside the core, the calendar, the recorder -/

/-- A second live group, and the matrix engine in a state, with a queue and save areas. -/
def leaseS (st : MxSt) (fifo : List Nat) (count : Nat) (areas : List SaveArea) : State := { withLive fun x => { x with groups := [demoG, { demoG with gctx := 1, uid := 1 }] } with
  mx := { demo.mx with
    st := st
    fifo := fifo
    lease := 64
    count := count
    areas := areas } }
/-- A saved image of one page of zeros. -/
def areaOf (b : Byte) : SaveArea := ⟨1, 0x40000, 0, 0#12, [(0, 0x40000)], some (Plane.empty, Plane.empty), List.replicate 4096 b, false⟩
theorem wit_MatrixEngineSteps : (demoOp .mswap false).started = false ∧ (demoOp .mswap true).started = true ∧ (demo.slice (demoOp .mswap false).f).halted = false
    ∧ ({ demo with mx := { demo.mx with ops := [demoOp .mswap false] } } : State).mx.ops = demoOp .mswap false :: []
    ∧ (({ demo with slices := demo.slices.set 0 { demo.slice 0 with halted := true } } : State).slice 0).halted = true
    ∧ (∀ h ∈ demo.held, h.eng ≠ Cls.mx.engine 0)
    ∧ (∃ h ∈ ({ demo with held := [⟨Cls.mx.engine 0, 0, 0, ⟨5#128, 7, 0⟩⟩] } : State).held, h.eng = Cls.mx.engine 0)
    ∧ (demoOp .macz false).slot = some 0 ∧ ({ demoOp .mswap false with slot := none } : MxOp).slot = none
    ∧ demo.teamUid (demoOp .macz false).tuid = some probeTeam ∧ demo.teamUid 5 = none
    ∧ ({ demoOp .macz true with left := [3] } : MxOp).left = 3 :: [] ∧ (demoOp .macz true).left = [] := by decide +kernel
theorem wit_MatrixEngineSteps_errors : planeError .clean none ∧ planeError (.planeEcc 5) (some 5) := ⟨.inl ⟨rfl, rfl⟩, .inr ⟨5, rfl, rfl⟩⟩
/-- A load of the shadow plane at the head with a record. -/
def loadOp (bs : List Byte) : MxOp := { demoOp (.mlds 0) false with recBytes := bs }
theorem wit_MatrixEngineSteps_loads : mldsStatus (loadOp (List.replicate 64 0#8)).recBad (loadOp (List.replicate 64 0#8)).recBytes 0 4096 ≠ 0
    ∧ (let r := natLe 8 0x6000 ++ natLe 4 32 ++ natLe 4 1 ++ natLe 8 32 ++ natLe 4 0x10020 ++ List.replicate 36 0#8
       mldsStatus (loadOp r).recBad (loadOp r).recBytes 0 4096 = 0)
    ∧ planeScaled demo.mx.shadow.code = false ∧ ({ demo.mx with plost := true } : Matrix).plost = true ∧ demo.mx.plost = false := by decide +kernel
set_option maxRecDepth 100000 in
theorem wit_MatrixHandoff : ((leaseS (.owned 0) [1] 64 []).mx.st = .owned 0 ∧ (leaseS (.owned 0) [1] 64 []).mx.ops = [] ∧ (leaseS (.owned 0) [1] 64 []).mx.leaving = false
      ∧ (leaseS (.owned 0) [1] 64 []).leaseOver 0 = true ∧ (leaseS (.owned 0) [1] 64 []).liveHead (some 0) = some 1
      ∧ (leaseS (.owned 0) [1] 0 []).leaseOver 0 = false ∧ (leaseS (.owned 0) [1] 0 []).liveUid 0 = true)
    ∧ ((leaseS .free [1] 0 []).mx.st = .free ∧ (leaseS .free [1] 0 []).liveHead none = some 1)
    ∧ ((leaseS (.swap none none) [] 0 []).mx.st = .swap none none ∧ (leaseS (.swap (some 1) none) [] 0 [areaOf 0#8]).mx.st = .swap (some 1) none
      ∧ (leaseS (.swap (some 1) none) [] 0 [areaOf 0#8]).mx.areas.find? (fun a => a.uid == 1) = some (areaOf 0#8))
    ∧ ((areaOf 0#8).image = some (Plane.empty, Plane.empty) ∧ (∀ i, i < (areaOf 0#8).locs.length → ((areaOf 0#8).locs.getD i (65, 0)).1 ≠ 65)
      ∧ (leaseS .clear [] 0 []).mx.st = .clear ∧ (leaseS .clear [] 0 []).liveHead none = none ∧ (leaseS .clear [1] 0 []).liveHead none = some 1)
    ∧ (leaseS (.swap none (some 1)) [] 0 [areaOf 0#8]).mx.leaving = false
    ∧ (leaseS (.swap none (some 1)) [] 0 [areaOf 0#8]).areaBytes (0, 0x40000) = some (List.replicate 4096 0#8)
    ∧ (leaseS (.swap none (some 1)) [] 0 [areaOf 1#8]).areaBytes (0, 0x40000) ≠ some (areaOf 1#8).bytes
    ∧ ({ areaOf 0#8 with image := none } : SaveArea).image = none
    ∧ (leaseS (.swap (some 0) (some 1)) [] 0 []).mx.st = .swap (some 0) (some 1) ∧ (leaseS .free [] 0 []).liveHead none = none
    ∧ (leaseS (.owned 9) [] 0 []).liveUid 9 = false := by decide +kernel
set_option maxRecDepth 100000 in
theorem wit_MatrixHandoff_held : (leaseS (.swap (some 1) none) [] 0 [areaOf 0#8]).busyBanks = false
    ∧ (let s := withInst (leaseS (.swap (some 1) none) [] 0 [areaOf 0#8]) 0x40000
      s.mx.st = .swap (some 1) none ∧ s.busyBanks = true ∧ s.reqsHeld matrixHolder (s.scanReqs (some 1) none) = true) := by decide +kernel

/-- A tile copy of one row of 16 bytes from 0x6000, before it starts. -/
def tileTc : TcOp := { demoTc with recBytes := natLe 8 0x6000 ++ natLe 4 16 ++ natLe 4 1 ++ natLe 8 16 ++ natLe 4 0x10010 ++ List.replicate 36 0#8 }
def tcS (o : TcOp) : State := { mapped demo with
  tcs := [o]
  live := { (mapped demo).live with teams := [{ probeTeam with scrSize := 4096 }] } }
/-- The pages of a tile copy, and how many of its rules its record breaks. -/
def tilePages (o : TcOp) : Option Flt := ((tcS o).findPages o.view .load (o.ranges_.flatMap fun p => pageNums p.1 p.2).dedup).2.1
/-- The same with the whole of its memory in one bank of stack 0, where an instance runs. -/
def tcBankS (cached : Bool) : State :=
  let s0 := (tcS tileTc).setSlice 0 { (tcS tileTc).slice 0 with band := 1 }
  let s : State := { s0 with dram := memPuts s0.dram [(0x13001, 2#8)] }
  { s with
    bank := { s.bank with runs := [bankR], insts := [bankI] }
    tlb := if cached then (xlate s 0 0#12 0x6000).2.tlb else [] }
theorem wit_TileCopySteps_held : let pages := (tileTc.ranges_.flatMap fun p => pageNums p.1 p.2).dedup
    (tcBankS false).walksHeld tileTc.holder tileTc.view pages ≠ [] ∧ (tcBankS true).walksHeld tileTc.holder tileTc.view pages = []
    ∧ (let x := (tcBankS true).findPages tileTc.view .load pages
       x.2.1.isNone && x.2.2.reqsHeld tileTc.holder (tileTc.ranges_.flatMap fun p => x.1.reqs false p.1 p.2)) = true
    ∧ (tcS tileTc).walksHeld tileTc.holder tileTc.view pages = []
    ∧ (let x := (tcS tileTc).findPages tileTc.view .load pages
       x.2.1.isNone && !x.2.2.reqsHeld tileTc.holder (tileTc.ranges_.flatMap fun p => x.1.reqs false p.1 p.2)) = true := by decide +kernel
/-- Records held for partition 0 of core 0. -/
def heldS (n : Nat) : State := { demo.setPart 0 0 (List.replicate n ⟨5#128, 7, 0⟩) with held := [⟨0x3FF, 0, 0, ⟨5#128, 7, 0⟩⟩] }
theorem wit_TileCopySteps : ((tcS demoTc).tcs.find? (fun x => !x.started) = some demoTc ∧ ((tcS demoTc).tcs.filter (·.started)).length < 8
      ∧ (tcS demoTc).teamUid demoTc.tuid = some { probeTeam with scrSize := 4096 } ∧ ((tcS demoTc).slice demoTc.f).halted = false ∧ demoTc.check 4096 ≠ 0)
    ∧ ((tcS tileTc).tcs.find? (fun x => !x.started) = some tileTc ∧ tileTc.check 4096 = 0 ∧ tileTc.ranges_ = [(0x6000, 16)] ∧ tilePages tileTc = none)
    ∧ (tcS { demoTc with started := true }).tcs.find? (fun x => x.id == 0 && x.started) = some { demoTc with started := true }
    ∧ ((heldS 0).held[0]? = some ⟨0x3FF, 0, 0, ⟨5#128, 7, 0⟩⟩ ∧ (heldS 0).engs = [] ∧ ((heldS 0).part 0 0).length < (heldS 0).partCap 0
      ∧ (heldS 256).partCap 0 ≤ ((heldS 256).part 0 0).length)
    ∧ (∀ h ∈ (tcS tileTc).held, h.eng ≠ Cls.tc.engine 0)
    ∧ (∃ h ∈ ({ tcS tileTc with held := [⟨Cls.tc.engine 0, 0, 0, ⟨5#128, 7, 0⟩⟩] } : State).held, h.eng = Cls.tc.engine 0)
    ∧ (∀ x ∈ (tcS { demoTc with started := true }).tcs, x.started = true)
    ∧ (tcS demoTc).tcs.find? (fun x => x.id == 0 && x.started) = none
    ∧ (let hold (e : ChainEng) : Bool := e.id == 0x3FF && e.f == 0 && e.st == 4
       (heldS 0).engs.findIdx? hold = none
       ∧ ({ heldS 0 with engs := [{ demoEng with st := 4 }] } : State).engs.findIdx? hold = some 0) := by decide +kernel
/-- A tile copy whose row no page maps. -/
theorem wit_TileCopySteps_fault : (tcS { tileTc with recBytes := tileTc.recBytes.set 2 0x40#8 }).tcs ≠ []
    ∧ (tilePages { tileTc with recBytes := tileTc.recBytes.set 2 0x40#8 }).isSome = true := by decide +kernel

/-- A run, checked or not, with an instance of it at the head of its bank. -/
def runS (r : Run) (is : List Inst) : State := { demo with bank := { demo.bank with
  runs := [r]
  insts := is } }
theorem wit_BankRunSteps : (runS bankR []).run 0 = some bankR ∧ bankR.checked = true ∧ (runS bankR []).cal.inSlot = none
    ∧ (∃ u, ({ bankR with checked := false, va := 2 ^ 56 } : Run).bytes (runS { bankR with checked := false, va := 2 ^ 56 } []) (2 ^ 56) 128 = (.error (fltSpace (2 ^ 56)), u))
    ∧ ((runS bankR [{ bankI with started := false }]).bankHead 0 0 = some { bankI with started := false }
      ∧ (runS bankR [{ bankI with started := false }]).run bankI.run = some bankR ∧ bankR.bound ≤ (runS bankR [{ bankI with started := false }]).window
      ∧ (runS bankR [{ bankI with started := false }]).fits bankI.die bankR.bound = true ∧ (runS bankR []).bankMoving bankI = false)
    ∧ (runS { bankR with bound := 15001 } []).window < ({ bankR with bound := 15001 } : Run).bound
    ∧ ((runS bankR [bankI]).bankHead 0 0 = some bankI ∧ bankI.openAt (3 : Nat) = some 1 ∧ bankI.started = true ∧ bankI.rowAddr 3 + 2048 ≤ 2 ^ 40
      ∧ (runS bankR [bankI]).memOk = true) := by
  refine ⟨by decide +kernel, by decide +kernel, rfl, ⟨_, rfl⟩, ?_⟩; decide +kernel
/-- The instance at its bank, with the slice's memory in that bank. -/
def bankRowS (i : Inst) : State := (runS bankR [i]).setSlice 0 { demo.slice 0 with band := 1 }
theorem wit_BankRunSteps_rows : (bankRowS bankI).bankHead 0 0 = some bankI ∧ (bankRowS bankI).run bankI.run = some bankR
    ∧ bankI.openAt (4 : Nat) = none ∧ bankI.openAt (3 : Nat) = some 1 ∧ bankI.started = true ∧ (bankRowS bankI).memOk = true
    ∧ ∀ c, c < 64 → (bankRowS bankI).instAt bankI.f (bankI.rowAddr 3 + 32 * c) = some bankI
      ∧ bankI.rowIn ((bankRowS bankI).slice bankI.f) (bankI.rowAddr 3 + 32 * c) = ((3 : Nat) : Int) := by decide +kernel
/-- A run that has ended while an instance of another run holds the bank of its status word, and the same run with its write still held. -/
def waitRunS (held : Bool) : State := { bankRowS bankI with bank := { (bankRowS bankI).bank with
  runs := [bankR, { bankR with id := 1 }]
  insts := [{ bankI with
    run := 1
    held := if held then [⟨outsideHolder, 0, true, some ⟨0, 0, 0, []⟩⟩] else [] }] } }
theorem wit_BankRunSteps_waits : (waitRunS false).run 0 = some bankR ∧ bankR.checked = true
    ∧ (∀ i ∈ (waitRunS false).bank.insts, i.run = 0 → i.ended = true) ∧ (waitRunS false).cal.inSlot = none ∧ (waitRunS false).runHeld 0 = false
    ∧ bankR.written = false ∧ (((waitRunS false).writeSaves bankR).writeStatus bankR).runHeld 0 = true
    ∧ (runS bankR []).runHeld 0 = false ∧ (((runS bankR []).writeSaves bankR).writeStatus bankR).runHeld 0 = false
    ∧ (waitRunS true).runHeld 0 = true := by decide +kernel
theorem wit_BankRunSteps_move : ({ bankI with started := false } : Inst).started = false
    ∧ (let s := runS bankR [{ bankI with started := false }]
       ({ s with bank := { s.bank with insts := s.bank.insts } } : State).fits bankI.die (bankR.bound + 15000) = false) := by decide +kernel
/-- An engine in FETCH at an entry at 0x6000 of a kind, and the memory that holds it. -/
def chainE (st : Nat) (head : BitVec 64) : ChainEng := { demoEng with
  id := 0
  st := st
  head := head }
def chainS (e : ChainEng) (kind n : Byte) : State := { mapped demo with
  engs := [e]
  dram := memPuts (mapped demo).dram ([(0x6009, 3#8), (0x6011, 0x70#8), (0x6019, 0x80#8)] ++ (if kind = 0#8 then [] else [(0x6008, kind)])
    ++ (if n = 0#8 then [] else [(0x600C, n)])) }
/-- The entry that the engine reads, its kind, and what its rules say. -/
def entryOf (s : State) (e : ChainEng) : Option (Nat × Nat × Bool × Bool) := match s.fetchEntry e with
  | (a, .ok b, s1) => some (a.getD 0, fld b 8 1, entryValid s1 e b, (geometry b).overlap)
  | _ => none
theorem wit_ChainFetches : ((chainS (chainE 1 0x6000#64) 0#8 0#8).eng 0 = some (chainE 1 0x6000#64) ∧ (chainE 1 0x6000#64).st = 1
      ∧ ((chainS (chainE 1 0x6000#64) 0#8 0#8).slice 0).halted = false)
    ∧ entryOf (chainS (chainE 1 0x6000#64) 0#8 0#8) (chainE 1 0x6000#64) = some (0x6000, 0, true, false)
    ∧ entryOf (chainS (chainE 1 0x6000#64) 1#8 63#8) (chainE 1 0x6000#64) = some (0x6000, 1, true, false)
    ∧ entryOf (chainS (chainE 1 0x6000#64) 3#8 3#8) (chainE 1 0x6000#64) = some (0x6000, 3, true, false)
    ∧ entryOf (chainS (chainE 1 0x6000#64) 3#8 2#8) (chainE 1 0x6000#64) = some (0x6000, 3, false, false)
    ∧ entryOf (chainS (chainE 1 0x400000#64) 0#8 0#8) (chainE 1 0x400000#64) = none ∧ chainStep 0 (.nopEntry 0) 0 ∧ chainStep 0 (.rowCopy 0) 11 := by
  refine ⟨by decide +kernel, by decide +kernel, by decide +kernel, by decide +kernel, by decide +kernel, by decide +kernel, ?_, ?_⟩ <;> simp [chainStep]
/-- An entry with overlapping ranges: a copy of 64 bytes onto itself. -/
theorem wit_ChainFetches_overlap : (geometry ((List.replicate 64 0#8).set 8 1#8)).overlap = true ∧ blocksOverlap ((List.replicate 64 0#8).set 8 11#8) = true := by decide +kernel
/-- The tile copy with its row left to move, out of memory or into it. -/
def rowTc (back : Bool) : TcOp := { tileTc with
  started := true
  back := back
  left := [0]
  pages := ((tcS tileTc).findPages tileTc.view .load (tileTc.ranges_.flatMap fun p => pageNums p.1 p.2).dedup).1 }
theorem wit_TileCopySteps_rows : ∀ back, let o := rowTc back
    let s := tcS o
    let reqs := Pages.reqs o.pages back (o.rowRange (tileRec o.recBytes) 0).1 (o.rowRange (tileRec o.recBytes) 0).2
    s.tcs.find? (fun x => x.id == o.id) = some o ∧ o.left = [0] ∧ (s.teamUid o.tuid).isSome = true ∧ (s.slice o.f).halted = false
    ∧ s.portHolds o.f o.pages = false ∧ s.reqsHeld o.holder reqs = false ∧ (withHeld o.holder s 0x6000).reqsHeld o.holder reqs = true
    ∧ s.tcs.find? (fun x => x.id == o.id && x.started && x.left.isEmpty) = none := by decide +kernel
theorem wit_TileCopySteps_over : (tcS { rowTc true with left := [] }).tcs.find? (fun x => x.id == 0 && x.started && x.left.isEmpty)
    = some { rowTc true with left := [] } := by decide +kernel
/-- A run that is not checked, with its block at 0x6000. -/
def freshR : Run := { bankR with
  va := 0x6000
  checked := false }
theorem wit_BankRunSteps_held : let s : State := { mapped demo with bank := { demo.bank with runs := [freshR] } }
    s.run freshR.id = some freshR ∧ s.precheckHeld freshR = []
    ∧ (let t := withHeld freshR.holder (mapped demo) 0x6000
       ({ t with bank := { t.bank with runs := [freshR] } } : State).precheckHeld freshR ≠ []) := by decide +kernel
theorem wit_ChainFetches_held : let s := chainS (chainE 1 0x6000#64) 0#8 0#8
    let e := chainE 1 0x6000#64
    s.rangesHeld e.holder e.view .load (s.fetchRanges e) = []
    ∧ (let t := withHeld e.holder s 0x6000
       t.eng 0 = some e ∧ t.rangesHeld e.holder e.view .load (t.fetchRanges e) ≠ []) := by decide +kernel

/-- An engine in RUN with a FILL at 0x8000, its size less one in two bytes. -/
def fillE (st : Nat) (n1 n2 : Byte) : ChainEng := { chainE st 0x6000#64 with
  cur := 0x6000#64
  entry := (((List.replicate 64 0#8).set 8 3#8 |>.set 9 3#8 |>.set 0x0C n1 |>.set 0x0D n2).set 0x10 0xAB#8).set 0x19 0x80#8 }
def fillS (e : ChainEng) : State := { mapped demo with engs := [e] }
theorem wit_ChainChunks : ((fillS (fillE 2 3#8 0#8)).eng 0 = some (fillE 2 3#8 0#8) ∧ ((fillS (fillE 2 3#8 0#8)).slice 0).halted = false
      ∧ (fillS (fillE 2 3#8 0#8)).cal.drained = false ∧ (fillS (fillE 2 3#8 0#8)).cal.inSlot = none
      ∧ (fillS (fillE 2 3#8 0#8)).now + 987 ≤ (fillS (fillE 2 3#8 0#8)).cal.next.start ∧ (fillE 2 3#8 0#8).id < 0x200 ∧ fld (fillE 2 3#8 0#8).entry 8 1 = 3)
    ∧ (let x := (fillS (fillE 2 3#8 0#8)).findPages (fillE 2 3#8 0#8).view .store [8]
       x.2.1 = none ∧ (fillS (fillE 2 3#8 0#8)).walksHeld (fillE 2 3#8 0#8).holder (fillE 2 3#8 0#8).view [0, 8] = [] ∧ (∀ p ∈ x.1, x.2.2.revokedLoc p.2 = false) ∧ x.2.2.reqsHeld (fillE 2 3#8 0#8).holder (x.1.reqs true 0x8000 4) = false)
    ∧ (fld (fillE 2 3#8 0#8).entry 0x0C 4 + 1 = 4 ∧ fld (fillE 2 0xFF#8 0x3F#8).entry 0x0C 4 + 1 = 16384)
    ∧ ((fillE 7 3#8 0#8).st = 7 ∧ (fillE 7 3#8 0#8).entry ≠ [] ∧ (chainE 7 0x6000#64).entry = []) := by decide +kernel

/-- A FILL at 0x208000, which no page maps. -/
def farFill : ChainEng := { fillE 2 3#8 0#8 with entry := (fillE 2 3#8 0#8).entry.set 0x1A 0x20#8 }
theorem wit_ChainChunks_fault : (fillS farFill).eng 0 = some farFill ∧ farFill.st = 2 ∧ fld farFill.entry 8 1 = 3
    ∧ ((fillS farFill).findPages farFill.view .store [0x208]).2.1.isSome = true := by decide +kernel
/-- The calendar's cycle counter at a number. -/
def atCycle (n : BitVec 64) : State := { demo with dieCycles := n }
/-- Three beacons in a row missed by die 2. -/
def missS : State := { atCycle 25000#64 with cal := { demo.cal with missed := [(2, 3, 6)] } }
theorem wit_BeaconsAndDrains : (atCycle 25000#64).beaconDue = true ∧ demo.beaconDue = false
    ∧ (atCycle 25000#64).cal.missedBy 2 = (0, 0, false) ∧ missS.cal.missedBy 2 = (3, 3, false) ∧ missS.beaconDue = true
    ∧ ((atCycle 28300#64).cal.drained = false ∧ (atCycle 28300#64).cal.inSlot = none ∧ (atCycle 28300#64).cal.next.start ≤ (atCycle 28300#64).now + 235)
    ∧ demo.now + 235 < demo.cal.next.start := by decide +kernel
/-- A slot in progress. -/
def slotS : State := { demo with cal := { demo.cal with inSlot := some (demo.cal.next, 100) } }
theorem wit_SlotResults : (∀ i ∈ (atCycle 28435#64).bank.insts, ((atCycle 28435#64).run i.run).isSome = true) ∧ ((atCycle 28435#64).cal.inSlot = none ∧ (atCycle 28435#64).cal.next.start ≤ (atCycle 28435#64).now) ∧ demo.now < demo.cal.next.start
    ∧ slotS.cal.inSlot = some (demo.cal.next, 100) ∧ slotS.now < 100 ∧ 100 ≤ ({ slotS with dieCycles := 100#64 } : State).now := by decide +kernel
/-- The freeze controller in a state. -/
def fcS (st : FcSt) (kind : Nat) (skip : Bool) (copy : Option (List Section)) : State := { demo with fc := { demo.fc with
  st := st
  kind := kind
  skip := skip
  copy := copy } }
theorem wit_FreezeResults : (0 ∈ allUnits ∧ 0xFFFF ∉ allUnits ∧ (demo.slice 0).valid = true)
    ∧ ((fcS .freezing 1 false none).fc.st = .freezing ∧ (fcS .freezing 1 false none).fc.copy = none ∧ (fcS .freezing 0 false (some [])).fc.copy ≠ none)
    ∧ ((fcS .copying 1 false (some [])).fc.st = .copying ∧ (fcS .building 1 false (some [])).fc.st = .building ∧ (fcS .building 1 false (some [])).fc.skip = false)
    ∧ ((fcS .flushing 1 false (some [])).fc.st = .flushing ∧ (fcS .flushing 1 true (some [])).fc.skip = true ∧ (fcS .flushing 1 false (some [])).fc.again = none
      ∧ ({ (fcS .flushing 1 true (some [])).fc with again := some (0#128, 0) } : Freeze).again = some (0#128, 0)
      ∧ (fcS .copying 2 false none).fc.kind ≠ 1 ∧ (demo.slice 5).valid = false) := by
  decide +kernel
/-- A capsule of 64 bytes in flash, and a request in the mailbox. -/
def flashS (req : List Byte) : State := { demo.setSlice 0 { demo.slice 0 with trust := { (demo.slice 0).trust with request := req } } with
  flash := [⟨7, 1, 0, List.replicate 64 0x5A#8⟩] }
theorem wit_RetrievalResults : (0 < 64 ∧ (flashS []).slices.length = 64 ∧ (flashS []).pkg.boot.recovery = false)
    ∧ (flashS []).capsules.find? (fun x => x.seq == (7#32).toNat) = some ⟨7, 1, 0, List.replicate 64 0x5A#8⟩
    ∧ ((flashS []).slice 0).trust.request.take 0 = [] ∧ ((flashS [1#8]).slice 0).trust.request.take 1 = [1#8]
    ∧ ((flashS [1#8, 0#8]).slice 0).trust.request.take 2 = [1#8, 0#8] ∧ ((flashS (2#8 :: List.replicate 12 0#8)).slice 0).trust.request.take 13 = 2#8 :: List.replicate 12 0#8 := by
  decide +kernel
theorem wit_ChainChunks_slots : (let s := fillS (fillE 2 3#8 0#8)
      let e := fillE 2 3#8 0#8
      s.drainedOn e.base = false ∧ s.portHolds e.f (s.findPages e.view .store [8]).1 = false
      ∧ ¬ ∃ x, (s.comingOn e.base).head? = some x ∧ s.startsIn e.base x < e.bound + 235)
    ∧ (fillE 3 3#8 0#8).st = 3
    ∧ (let s : State := { fillS (fillE 2 3#8 0#8) with dieCycles := 28300#64 }
      ∃ x, (s.comingOn (fillE 2 3#8 0#8).base).head? = some x ∧ s.startsIn (fillE 2 3#8 0#8).base x < (fillE 2 3#8 0#8).bound + 235) := by
  refine ⟨⟨by decide +kernel, by decide +kernel, ?_⟩, rfl, demo.cal.next, by decide +kernel, by decide +kernel⟩
  rintro ⟨x, h, k⟩
  rw [show ((fillS (fillE 2 3#8 0#8)).comingOn (fillE 2 3#8 0#8).base).head? = some demo.cal.next by decide +kernel] at h
  obtain rfl := Option.some.inj h
  exact absurd k (by decide +kernel)
theorem wit_BeaconsAndDrains_dies : (∀ d, d < 18 → ((atCycle 25000#64).cal.missedBy d).2.2 = false)
    ∧ (({ missS.cal with missed := [(2, 3, 7)] } : Calendar).missedBy 2).2.2 = true
    ∧ (5 ≠ demo.die ∧ (atCycle 28400#64).drainedOn 5 = true ∧ demo.drainedOn 5 = false) := by decide +kernel


/-! ### Slices, the interface, the link, resets -/

/-- Function 3 with a slice of granule 2, its keys and its session, changed by a function. -/
def fn3 : Slice := { demo.slice 3 with
  valid := true
  keyed := true
  gran := some 2 :: List.replicate 63 none
  svlen := 1#32
  s2root := 0x10001#64
  trust := { (demo.slice 3).trust with sess := 2 } }
def fnS (f : Slice → Slice) : State := (mapped demo).setSlice 3 (f fn3)
/-- The checks of VALID and of the write that sets it. -/
def mapOk (x : Slice) (v : BitVec 64) : Bool × Nat := (mapRefused 0 (natLe 8 v.toNat), (fnS fun _ => x).mapCheck 3 (x.putMap 0 (natLe 8 v.toNat)))
/-- The bytes of the write that clears it. -/
def clearBytes : List Byte := natLe 8 (fn3.band % 32 * 4 + (if fn3.nocomp then 128 else 0))
/-- A tile copy of the slice is in flight. -/
def busyFn (f : Slice → Slice) : State := { fnS f with tcs := [{ demoTc with f := 3 }] }
set_option maxRecDepth 100000 in
theorem wit_ValidResults : ((fnS fun x => { x with valid := false }).slices.length = 64 ∧ ((fnS id).slice 0).trust.ide ≠ 2 ∧ (fnS id).pkg.boot.recovery = false
      ∧ ((fnS id).slice 3).tdi = 0#2 ∧ (fn3.valid = true ∧ mapRefused 0 clearBytes = false))
    ∧ (0x1#64).getLsbD 0 = true ∧ mapOk { fn3 with valid := false } 0x1#64 = (false, 0)
    ∧ mapOk { fn3 with valid := false, gran := some 0 :: List.replicate 63 none } 0x1#64 = (false, 1)
    ∧ (fnS id).busy 3 = false ∧ ((fnS id).markChange 3 (.clear clearBytes)).opsOver 3 = true ∧ (busyFn id).busy 3 = true := by decide +kernel

theorem fn3_bound {f : Slice → Slice} (h : (fnS f).slices.length = 64 ∧ ((fnS f).slice 3).trust.sess = 2 ∧ (fnS f).pkg.boot.recovery = false) :
    Bound (fnS f) 3 := ⟨by decide, h.1, h.2.1, h.2.2⟩
set_option maxRecDepth 100000 in
theorem wit_InterfaceResults : (Bound (fnS id) 3 ∧ fn3.valid = true ∧ fn3.keyed = true ∧ fn3.tdi = 0#2 ∧ fn3.offer = [] ∧ (fnS id).lockPages 3 = some [0x10000, 0x11000, 0x12000, 0x13000])
    ∧ Bound (fnS fun x => { x with tdi := 1#2 }) 3 ∧ Bound (fnS fun x => { x with tdi := 2#2 }) 3 ∧ Bound (fnS fun x => { x with valid := false }) 3 :=
  ⟨⟨fn3_bound (by decide +kernel), by decide +kernel⟩, fn3_bound (by decide +kernel), fn3_bound (by decide +kernel), fn3_bound (by decide +kernel)⟩
set_option maxRecDepth 100000 in
theorem wit_InterfaceResults_changes : ((fnS fun x => { x with tdi := 1#2 }).markChange 3 .stop).opsOver 3 = true
    ∧ ((busyFn fun x => { x with tdi := 1#2 }).markChange 3 .stop).opsOver 3 = false ∧ ((fnS id).markChange 3 (.rekey 1#128 1#512)).opsOver 3 = true
    ∧ ((busyFn id).markChange 3 (.rekey 1#128 1#512)).opsOver 3 = false := by decide +kernel
theorem wit_InterfaceReports : Bound (fnS id) 3 ∧ fn3.tdi = 0#2 ∧ Bound (fnS fun x => { x with tdi := 1#2 }) 3 := ⟨fn3_bound (by decide +kernel), by decide +kernel, fn3_bound (by decide +kernel)⟩
/-- A running interface with an offer of granule 5 at ordinal 1. -/
def growX (x : Slice) : Slice := { x with
  tdi := 2#2
  offer := [(0x041, 0x85#8)] }
set_option maxRecDepth 100000 in
theorem wit_GrowthAndMoves : (Bound (fnS growX) 3 ∧ (growX fn3).tdi = 2#2 ∧ (growX fn3).offerOk = true ∧ (fnS growX).mapCheck 3 (growX fn3).merged = 0)
    ∧ (Bound (fnS id) 3 ∧ fn3.tdi ≠ 2#2)
    ∧ ((growX fn3).gran.getD 0 none = some 2 ∧ (3 : Nat) < (fnS growX).slices.length ∧ 0 < (growX fn3).gran.length ∧ 5 ∉ (fnS growX).pkg.retired ∧ some 5 ∉ (growX fn3).gran
      ∧ (∀ y ∈ (fnS growX).others 3, some 5 ∉ y.gran) ∧ (growX fn3).trust.change = none ∧ (growX fn3).trust.move = none)
    ∧ (∀ g, g < 64 → (demo.slice g).tdi = 0#2 ∨ (demo.slice g).tdi = 3#2) :=
  ⟨⟨fn3_bound (by decide +kernel), by decide +kernel⟩, ⟨fn3_bound (by decide +kernel), by decide +kernel⟩, by decide +kernel, by decide +kernel⟩
/-- A running interface whose granule 2 moves to granule 5, at a bank. -/
def moveX (k : Nat) (x : Slice) : Slice := { x with
  tdi := 1#2
  trust := { x.trust with move := some (0, 5, k) } }
theorem wit_GrowthAndMoves_moves : (∀ k ∈ [0, 383], (moveX k fn3).trust.move = some (0, 5, k) ∧ (fnS (moveX k)).drainedOn (4 + k / 32) = false
      ∧ (fnS (moveX k)).instanceAt 3 k 2 = false)
    ∧ ({ fnS (moveX 0) with dieCycles := 28400#64 } : State).drainedOn 4 = true
    ∧ SrIov.reset.put 0x10 3 = some { SrIov.reset with numVfs := 3#16 } ∧ SrIov.reset.put 0x40 3 = none ∧ (fnS id).pkg.sriov = SrIov.reset
    ∧ ((fnS id).slice 0).trust.ide ≠ 2 ∧ ((fnS (moveX 0)).slice 3).tdi = 1#2 := by decide +kernel
theorem wit_SpdmResults : demo.slices.length = 64 ∧ demo.pkg.boot.recovery = false ∧ (demo.slice 3).trust.sess = 0 ∧ fn3.trust.sess = 2
    ∧ demo.pkg.identity = false ∧ ({ demo with pkg := { demo.pkg with boot := { demo.pkg.boot with recovery := true } } } : State).pkg.boot.recovery = true := by decide +kernel
theorem wit_LinkResults : (∃ p, demo.pkg.ports[17]? = some p ∧ p.up = true ∧ p.rx = 0#12 ∧ p.buffer = [])
    ∧ flitGood (flitBytes 0#12 0#4 0#16 []) = false ∧ (1#12) ≠ 0#12 ∧ (2#4).toNat < 3 ∧ (List.replicate 244 0#8).length = 244
    ∧ (demo.slice 0).trust.ide ≠ 1 ∧ ((demo.setSlice 0 { demo.slice 0 with trust := { (demo.slice 0).trust with ide := 1 } }).slice 0).trust.ide = 1
    ∧ (let p : Port := ⟨true, 1#12, 0#12, [[]], 3, false⟩
       ahead 0#12 p.oldest < p.buffer.length ∧ p.buffer.length ≤ ahead 5#12 p.oldest) := by
  refine ⟨⟨_, rfl, rfl, rfl, rfl⟩, ?_⟩; decide +kernel
/-- Function 3 in an enclave in slot 0 as participant 1 of 2. -/
def encE : Enclave := ⟨0, 7#64, 5#128, 2, 2, [0#256, 1#256], [(1, 3)], [], 4#8, true, []⟩
def encS : State := let s := fnS fun x => { x with tdi := 2#2, s2root := 0x10001#64 }
  { s with pkg := { s.pkg with enclaves := [encE] } }
/-- A packet for participant 1 of the enclave from participant 0, sealed under the key of its direction. -/
def packet (op : LinkOp) (ia : BitVec 48) (data : List Byte) : LinkPacket :=
  let p : LinkPacket := ⟨⟨0, 1#64, 0, 8, data, []⟩, 0, 9, 4#8, ia, op⟩
  { p with sealed := (List.range (p.data.length + 16)).map (Config.sm4Gcm (encE.linkKey p.src p.dst p.epoch) (linkNonce p) (linkHeader p) p.data) }
theorem packet_opens (op : LinkOp) (ia : BitVec 48) (data : List Byte) : encE.opens (packet op ia data) = true :=
  beq_self_eq_true ((List.range (data.length + 16)).map (Config.sm4Gcm (encE.linkKey 9 0 4#8) (linkNonce (packet op ia data)) (linkHeader (packet op ia data)) data))
theorem wit_EnclaveResults_accesses : (encS.pkg.enclaves.find? (fun e => e.id == 7#64) = some encE ∧ (4#8).toNat ≤ encE.epoch.toNat ∧ encE.epoch.toNat < (5#8).toNat
      ∧ (∀ m ∈ encE.members, m.1 ≠ 0) ∧ encS.enclave encE.slot = some encE ∧ encS.enclave 0 = some encE ∧ encS.enclave 5 = none)
    ∧ (encE.accepts 0 4#8 = true ∧ encE.accepts 0 3#8 = true ∧ encE.accepts 2 4#8 = false ∧ encE.accepts 0 5#8 = false)
    ∧ (∀ x ∈ encS.slices, x.trust.change ≠ some (.revoke 0 0 5#8))
    ∧ (∀ q : LinkOp × List Byte, q = (.read, []) ∨ q = (.write, List.replicate 8 1#8) ∨ q = (.atomic 0#4, List.replicate 8 1#8) →
      let p := packet q.1 0x40000005040#48 q.2
      encE.opens p = true ∧ p.dst = encS.pkg.device ∧ linkFits p = true ∧ p.ia.toNat / 2 ^ 42 ∉ encE.revoked ∧ encS.remotePlace p = some (.dram 3 0x5040))
    ∧ (0x40000005040#48).toNat / 2 ^ 42 ∈ ({ encE with revoked := [1] } : Enclave).revoked := by
  refine ⟨by decide +kernel, by decide +kernel, by decide +kernel, ?_, by decide +kernel⟩
  rintro q (rfl | rfl | rfl) <;> exact ⟨packet_opens _ _ _, rfl, by decide +kernel, by decide +kernel, by decide +kernel⟩
theorem wit_EnclaveResults_nowhere : ∀ q : LinkOp × List Byte, q = (.read, []) ∨ q = (.write, List.replicate 8 1#8) →
    let p := packet q.1 0#48 q.2
    encE.opens p = true ∧ linkFits p = true ∧ encS.remotePlace p = none := by
  rintro q (rfl | rfl) <;> exact ⟨packet_opens _ _ _, by decide +kernel, by decide +kernel⟩
/-- The enclave before function 3 has joined it, and one whose revocations need no signature. -/
def joinS (e : Enclave) : State := { encS with pkg := { encS.pkg with enclaves := [e] } }
theorem wit_EnclaveResults_join : (Bound (joinS { encE with members := [] }) 3 ∧ ((joinS { encE with members := [] }).slice 3).tdi = 2#2
      ∧ (joinS { encE with members := [] }).pkg.enclaves.find? (fun e => e.id == 7#64) = some { encE with members := [] }
      ∧ encE.secret = 5#128 ∧ encE.secret ≠ 6#128 ∧ (∀ m ∈ ({ encE with members := [] } : Enclave).members, m.1 ≠ 1))
    ∧ (Bound encS 3 ∧ encS.pkg.enclaves.find? (fun e => e.id == 7#64) = some encE ∧ ∃ m ∈ encE.members, m.1 = 1)
    ∧ ∃ ds : List (BitVec 256), ds.length = 2 ∧ ds.getD 1 0#256 = (encS.slice 3).ownDig := by
  have b (e : Enclave) : Bound (joinS e) 3 := ⟨by decide, rfl, rfl, rfl⟩
  exact ⟨⟨b _, by decide +kernel⟩, ⟨b encE, by decide +kernel⟩, [0#256, _], rfl, rfl⟩
theorem wit_EnclaveResults_revoke : let e : Enclave := { encE with q := 0 }
    (joinS e).pkg.enclaves.find? (fun e => e.id == 7#64) = some e ∧ e.epoch.toNat < (5#8).toNat
    ∧ (∀ text sigs, e.q ≤ (e.signers text sigs).length) ∧ e.members.filter (fun m => m.1 == 1) = [(1, 3)] ∧ (joinS e).slices.length = 64
    ∧ ((joinS e).markChange 3 (.revoke 0 1 5#8)).opsOver 3 = true
    ∧ (({ joinS e with tcs := [{ demoTc with f := 3 }] } : State).markChange 3 (.revoke 0 1 5#8)).opsOver 3 = false := by
  refine ⟨by decide +kernel, by decide +kernel, fun _ _ => Nat.zero_le _, by decide +kernel, by decide +kernel, by decide +kernel, by decide +kernel⟩
/-- A store of the group's lane 0 waits for its acknowledgement. -/
def lateS : State := { demo with
  cur := none
  paths := { demo.paths with unacked := [(demo.laneAgent demoG 0).id] } }
theorem wit_EnclaveResults : (∃ ds : List (BitVec 256), Bound (fnS fun x => { x with tdi := 2#2 }) 3 ∧ ds.length = 2 ∧ ds.getD 1 0#256 = ((fnS fun x => { x with tdi := 2#2 }).slice 3).ownDig)
    ∧ ((fnS id).pkg.enclaves = [] ∧ (List.range 8).find? (fun i => ((fnS id).enclave i).isNone) = some 0 ∧ (List.range 8).find? (fun i => (encS.enclave i).isNone) = some 1)
    ∧ (lateS.group 0 = some demoG ∧ demoG.team = some 0 ∧ (lateS.laneAgent demoG 0).id ∈ lateS.paths.unacked ∧ (demo.laneAgent demoG 0).id ∉ demo.paths.unacked) :=
  ⟨⟨[0#256, _], fn3_bound (by decide +kernel), rfl, rfl⟩, by decide +kernel, by decide +kernel, by decide +kernel, by decide +kernel⟩
theorem wit_ResetsKeep : demo.fc.st = .idle ∧ (fcS .stopped 0 false none).fc.st = .stopped ∧ demo.pkg.boot.recovery = false
    ∧ (∃ d, d < 4 ∧ 115 ≤ [0, 120].getD d (demo.pkg.dieTemps.getD d 25)) := by decide +kernel


/-! ### Encodings and the step -/

/-- The demonstration state with a word at its program counter. -/
def wordS (w : Word) : State := State.reset.withProbe 0#32 [w]

theorem wit_StepRunsDecoded : ((wordS 0x00014184#32).device = false ∧ (wordS 0x00014184#32).bank.cur = none ∧ (wordS 0x00014184#32).cur = some demoC ∧ demoC.away = false
      ∧ (wordS 0x00014184#32).group demoC.gctx = some demoG)
    ∧ ((wordS 0x00014184#32).fetchWord demoG demoC.pc).1 = .word 0x00014184#32 false ∧ decodeWord 0x00014184#32 = some (.iadd 0#1 5#7 3#7 4#7)
    ∧ (wordS 0xAAAAAAAA#32).cur = some demoC ∧ ((wordS 0xFFFFFFFF#32).fetchWord demoG demoC.pc).1 = .word 0xFFFFFFFF#32 false ∧ decodeWord 0x0E000000#32 = none
    ∧ ((wordS 0x0E000000#32).fetchWord demoG demoC.pc).1 = .word 0x0E000000#32 false ∧ (0x0E000000#32).extractLsb' 25 7 ≠ 0x7E#7
    ∧ ((wordS 0xFC000001#32).fetchWord demoG demoC.pc).1 = .word 0xFC000001#32 false ∧ decodeWord 0xFC000001#32 = none
    ∧ (0xFC000001#32).extractLsb' 25 7 = 0x7E#7 ∧ demoC.pfx = none ∧ demoC.limm = none ∧ badC.pfx ≠ none
    ∧ (let s := wordS 0x00014184#32
       let x := globalRes s (s.view demoG) .fetch demoC.pc.toNat
       x.1 = .ok (.dram 0 4096) ∧ demoC.pc.toNat % 4 = 0 ∧ x.2.bankHolds (x.2.holder demoG) 0 4096 = false
        ∧ s.walkReqs (s.holder demoG) (s.view demoG) demoC.pc.toNat = [] ∧ spaPoisonRange x.2 0 4096 4 = false
        ∧ x.2.staleWords demoG.uid 0 4096 (BitVec.ofNat 32 (leNat (spaRead x.2 0 4096 4))) false = []) := by decide +kernel
theorem wit_StepRunsDecoded_bank : (bankS bankI).bank.cur = some (0, 0) ∧ (bankS bankI).run 0 = some bankR ∧ (bankS bankI).inst 0 0 = some bankI
    ∧ bankWord (bankR.image.getD bankI.pc 0#32) = some .bend := by decide +kernel
/-- A unit whose program counter no page maps, and an input that waits for a free step. -/
def farC : Cur := { demoC with pc := 0xFF0000000000#56 }
def inputS : State := { demo with
  cur := none
  inputs := [.beacon] }
theorem wit_StepRunsDecoded_others : (match ((demoWith (probeGroup farC.pc) farC).fetchWord (probeGroup farC.pc) farC.pc).1 with
      | .flt _ => true
      | _ => false) = true
    ∧ inputS.cur = none ∧ inputS.issues = [] ∧ inputS.idle = 0 ∧ inputS.inputs = .beacon :: [] ∧ isWord .beacon = false ∧ ({ inputS with free := inputS.free + 1 } : State).inputWaits .beacon = false := by
  decide +kernel
theorem wit_StepRunsDecoded_poison : (({ wordS 0x00014184#32 with eccBad := [dramKey 0 4096 / 16] } : State).fetchWord demoG demoC.pc).1 = .word 0x00014184#32 true
    ∧ ((withHeld ((wordS 0x00014184#32).holder demoG) (wordS 0x00014184#32) 4096).fetchWord demoG demoC.pc).1 = .wait := by decide +kernel
theorem wit_DecodeEncode : isWord (.iadd 0#1 5#7 3#7 4#7) = true ∧ wellFormed (.iadd 0#1 5#7 3#7 4#7) = true := by decide +kernel
theorem wit_UnassignedRefused : 0x7D ∈ unassignedMajors ∧ (0x19, [2, 3, 4, 5]) ∈ assignedFns ∧ 0 ∉ [2, 3, 4, 5] := by decide +kernel
theorem wit_NoFieldIgnored : decodeWord 0x00014184#32 = some (.iadd 0#1 5#7 3#7 4#7) := by decide +kernel
theorem wit_MemoryForm : demo.memOk = true ∧ ∃ t, step demo = .next t := ⟨by decide +kernel, _, rfl⟩
theorem wit_WorkedEncodings : (0x40610082#32, Instr.ffma 0#1 4#7 1#7 2#7) ∈ workedWords := by decide +kernel


/-! ### Ill-formed instructions are refused, and their words too -/

/-- The instruction is not well formed, and the word of its fields decodes to nothing. -/
def refusedBy (i : Instr) : Bool := !wellFormed i && (decodeWord (encode i)).isNone
/-- Register codes that their roles do not admit (R11, R12, R33, R34, R108, R161): 0x7F, a mask register as a destination, odd pairs, runs that
are no multiple of 4, a destination that must be uniform, an atomic's operand, a block, nw with a uniform destination. -/
theorem test_refuses_register_codes : [.iadd 0#1 16#7 127#7 1#7, .iadd 0#1 104#7 1#7 1#7, .iadd64 0#1 17#7 2#7 4#7, .iadd64 0#1 16#7 3#7 4#7, .mxq 0#1 0#2 16#7 18#7,
  .evpop 18#7, .ldg 1#2 0#2 16#7 24#7 0#7, .atom 1#2 0#2 108#7 24#7 0#3 0#4, .rgt 0#3 12#7, .iadd 1#1 108#7 1#7 1#7, .pfx 0#3 0#1 7#3 127#7 0#3, .mslot 110#7 0#1,
  .addi 16#7 127#7 0#11, .cwr 125#7 0#12].all refusedBy = true := by decide +kernel
/-- Sub-fields whose values are not assigned (R35, R40, R41): compares, votes, types, scopes, operations, statuses, actions, classes. -/
theorem test_refuses_sub_fields : [.icmp 6#3 1#3 1#7 2#7, .icmpN 1#3 1#3 1#7 2#7, .vote 3#3 1#3 1#7, .vote 0#3 0#3 1#7, .matchLanes 0#1 16#7 1#7 0#3, .rgt 3#3 8#7, .elect 0#3,
  .fence 6#3, .mstat 5#7 5#3, .eret 1#7 3#14, .cbar 1#7 4#3, .atom 1#2 0#2 16#7 24#7 6#3 0#4, .atom 1#2 0#2 16#7 24#7 0#3 13#4, .atom64 1#2 0#2 16#7 24#7 0#3 10#4, .atr 1#2 0#2 16#7 24#7 0#3 8#4, .atom 3#2 0#2 16#7 24#7 0#3 0#4,
  .rclaim 0#5, .rrel 0#5].filter (fun i => !refusedBy i) = [] := by decide +kernel
/-- Spaces, policies and channels (R35, R179, R211): a policy outside global space, an odd address pair, a store to constant space, a channel
of 56, a role beside a channel of the own team, equal slots of a row copy, and slots that are no neighbours. -/
theorem test_refuses_places : [.ldW 2#2 1#2 16#7 24#7 0#7, .ldW 1#2 0#2 16#7 25#7 0#7, .stW 3#2 0#2 16#7 24#7 0#7, .send 56#6 16#7 24#7 0#3, .send 5#6 16#7 24#7 1#3,
  .recv 48#6 16#7, .chq 48#6 16#7 0#1, .brcpy 1#2 1#2, .browsh 1#2 3#2, .pref 2#2 0#2 24#7 0#7].filter (fun i => !refusedBy i) = [] := by decide +kernel

/-! ### Words written out from the encoding tables (spec/02 R32 to R40), and the spec's own examples -/

/-- Each word decodes to its instruction, whose word it is. -/
def decodesTo (l : List (Word × Instr)) : Bool := l.all fun p => decodeWord p.1 == some p.2 && encode p.2 == p.1

/-- Examples that the spec gives with their words. -/
theorem test_decode_examples_1 : decodesTo [
  (0xFE000024#32, .limm 36#25),
  (0x200C0B45#32, .addi 3#7 1#7 837#11),
  (0xFCA41800#32, .pfx 2#3 1#1 1#3 3#7 0#3),
  (0x40610082#32, .ffma 0#1 4#7 1#7 2#7),
  (0x00014184#32, .iadd 0#1 5#7 3#7 4#7),
  (0x801F3FFB#32, .bra 16379#14),
  (0x88DF3E7C#32, .nop),
  (0x889F3E7C#32, .exitThread),
  (0x887F3E7C#32, .join),
  (0xF6020000#32, .mig 8#7),
  (0xF63F0000#32, .mret),
  (0xDA200000#32, .byld),
  (0xDA400000#32, .bend)] = true := by decide +kernel
theorem test_decode_examples_2 : decodesTo [
  (0xE824002A#32, .macrd 16#7 5#4 2#3),
  (0xE0028000#32, .macq 10#7),
  (0xE03F0105#32, .mrel 1#1 5#8),
  (0xE05F0000#32, .mswap),
  (0xE0614001#32, .mstat 5#7 1#3),
  (0x904080FC#32, .vote 2#3 2#3 1#7),
  (0x92010082#32, .matchLanes 0#1 4#7 1#7 2#3),
  (0x9441C089#32, .shfl 2#2 7#7 1#7 9#7),
  (0x960180FC#32, .red 0#3 6#7 1#7),
  (0x9A0200FC#32, .scan 0#3 8#7 1#7),
  (0x9C423E7C#32, .rgt 2#3 8#7),
  (0x9EA280FC#32, .kmovTor 10#7 1#3),
  (0xA060C000#32, .elect 3#3)] = true := by decide +kernel
theorem test_decode_examples_3 : decodesTo [
  (0xA09F0005#32, .winb 5#5),
  (0xA0DF0007#32, .rclaim 7#5),
  (0xA0BF0000#32, .trig),
  (0xA42FC060#32, .send 5#6 124#7 3#7 0#3),
  (0xA8287F80#32, .recv 5#6 7#7),
  (0x30408082#32, .icmp 2#3 2#3 1#7 2#7),
  (0x28180825#32, .shri 6#7 1#7 5#5),
  (0xC61F0004#32, .fence 4#3),
  (0xC61F0005#32, .fence 5#3),
  (0xC63F0000#32, .fenceTl),
  (0xC65F0000#32, .fenceOr),
  (0xC682801F#32, .cwb 10#7 31#14),
  (0xCB9E3E08#32, .ldg 3#2 0#2 120#7 124#7 8#7)] = true := by decide +kernel
theorem test_decode_examples_4 : decodesTo [
  (0xCC00850C#32, .tlw 2#7 10#7 12#7),
  (0xCC20C50C#32, .tlrd 3#7 10#7 12#7),
  (0xCC5F057C#32, .tli 10#7),
  (0xCE1F0504#32, .invt 10#7 4#7),
  (0xCE230504#32, .vprobe 12#7 10#7 4#7),
  (0xB2A0C410#32, .ldW 1#2 1#2 3#7 8#7 16#7),
  (0xB1014A63#32, .ldsH 2#2 0#2 5#7 20#7 3#5),
  (0xBB030700#32, .stW 2#2 0#2 12#7 14#7 0#7),
  (0xBC818101#32, .stD 1#2 0#2 6#7 2#7 1#7),
  (0xC8DF0502#32, .pref 1#2 2#2 10#7 2#7),
  (0xC0210540#32, .atom 0#2 1#2 4#7 10#7 4#3 0#4),
  (0xF93B0000#32, .flgrd 108#7),
  (0xF95F0012#32, .flgclr 18#5)] = true := by decide +kernel
theorem test_decode_integer_1 : decodesTo [
  (0xFCA44300#32, .pfx 2#3 1#1 1#3 8#7 3#3),
  (0xFE000005#32, .limm 5#25),
  (0x01040C28#32, .iadd 1#1 16#7 24#7 40#7),
  (0x01240C28#32, .isub 1#1 16#7 24#7 40#7),
  (0x01440C28#32, .iadds 1#1 16#7 24#7 40#7),
  (0x01640C28#32, .isubs 1#1 16#7 24#7 40#7),
  (0x01840C28#32, .iaddns 1#1 16#7 24#7 40#7),
  (0x01A40C28#32, .isubns 1#1 16#7 24#7 40#7),
  (0x01C40C28#32, .iadd64 1#1 16#7 24#7 40#7),
  (0x01E40C28#32, .isub64 1#1 16#7 24#7 40#7),
  (0x03040C28#32, .imul 1#1 16#7 24#7 40#7),
  (0x03240C28#32, .imulh 1#1 16#7 24#7 40#7),
  (0x03440C28#32, .imulhn 1#1 16#7 24#7 40#7),
  (0x03640C28#32, .imad 1#1 16#7 24#7 40#7),
  (0x05040C28#32, .idiv 1#1 16#7 24#7 40#7),
  (0x05240C28#32, .idivn 1#1 16#7 24#7 40#7)] = true := by decide +kernel
theorem test_decode_integer_2 : decodesTo [
  (0x05440C28#32, .irem 1#1 16#7 24#7 40#7),
  (0x05640C28#32, .iremn 1#1 16#7 24#7 40#7),
  (0x07040C28#32, .imin 1#1 16#7 24#7 40#7),
  (0x07240C28#32, .imax 1#1 16#7 24#7 40#7),
  (0x07440C28#32, .iminn 1#1 16#7 24#7 40#7),
  (0x07640C28#32, .imaxn 1#1 16#7 24#7 40#7),
  (0x07840C7C#32, .iabs 1#1 16#7 24#7),
  (0x07A40C7C#32, .ineg 1#1 16#7 24#7),
  (0x09040C28#32, .andW 1#1 16#7 24#7 40#7),
  (0x09240C28#32, .orW 1#1 16#7 24#7 40#7),
  (0x09440C28#32, .xorW 1#1 16#7 24#7 40#7),
  (0x09640C28#32, .andn 1#1 16#7 24#7 40#7),
  (0x09840C28#32, .orn 1#1 16#7 24#7 40#7),
  (0x09A40C28#32, .xnor 1#1 16#7 24#7 40#7),
  (0x09C40C7C#32, .mov 1#1 16#7 24#7),
  (0x0B040C28#32, .shl 1#1 16#7 24#7 40#7)] = true := by decide +kernel
theorem test_decode_integer_3 : decodesTo [
  (0x0B240C28#32, .shr 1#1 16#7 24#7 40#7),
  (0x0B440C28#32, .sar 1#1 16#7 24#7 40#7),
  (0x0B640C28#32, .rol 1#1 16#7 24#7 40#7),
  (0x0B840C28#32, .ror 1#1 16#7 24#7 40#7),
  (0x0BA40C28#32, .fshl 1#1 16#7 24#7 40#7),
  (0x0BC40C28#32, .fshr 1#1 16#7 24#7 40#7),
  (0x0D040C7C#32, .popc 1#1 16#7 24#7),
  (0x0D240C7C#32, .clz 1#1 16#7 24#7),
  (0x0D440C7C#32, .ctz 1#1 16#7 24#7),
  (0x0D640C7C#32, .brev 1#1 16#7 24#7)] = true := by decide +kernel
theorem test_decode_immediate : decodesTo [
  (0x11640C28#32, .lea64 1#1 3#3 16#7 24#7 40#7),
  (0x2040C009#32, .addi 16#7 24#7 9#11),
  (0x2240C009#32, .andi 16#7 24#7 9#11),
  (0x2440C009#32, .ori 16#7 24#7 9#11),
  (0x2640C009#32, .xori 16#7 24#7 9#11),
  (0x2840C009#32, .shli 16#7 24#7 9#5),
  (0x2840C029#32, .shri 16#7 24#7 9#5),
  (0x2840C049#32, .sari 16#7 24#7 9#5),
  (0x2A43E003#32, .movi 16#7 3#11),
  (0x2C40C009#32, .addi64 16#7 24#7 9#11),
  (0x2E40C04A#32, .lea64i 16#7 24#7 9#8 2#3)] = true := by decide +kernel
theorem test_decode_compare : decodesTo [
  (0x3040CC28#32, .icmp 2#3 3#3 24#7 40#7),
  (0x3240CC28#32, .icmpN 2#3 3#3 24#7 40#7),
  (0x35640C28#32, .icmpv 1#1 3#3 16#7 24#7 40#7),
  (0x37640C28#32, .icmpvN 1#1 3#3 16#7 24#7 40#7),
  (0x3840CC28#32, .fcmp 2#3 3#3 24#7 40#7),
  (0x3B640C28#32, .fcmpv 1#1 3#3 16#7 24#7 40#7),
  (0x3D040C28#32, .sel 1#1 16#7 24#7 40#7),
  (0x3D240C28#32, .prmb 1#1 16#7 24#7 40#7),
  (0x3D440C7C#32, .fclass 1#1 16#7 24#7),
  (0x3F040C28#32, .bfx 1#1 16#7 24#7 40#7),
  (0x3F240C28#32, .bfxs 1#1 16#7 24#7 40#7),
  (0x3F440C28#32, .bfi 1#1 16#7 24#7 40#7)] = true := by decide +kernel
theorem test_decode_float_1 : decodesTo [
  (0x41040C28#32, .fadd 1#1 16#7 24#7 40#7),
  (0x41240C28#32, .fsub 1#1 16#7 24#7 40#7),
  (0x41440C28#32, .fmul 1#1 16#7 24#7 40#7),
  (0x41640C28#32, .ffma 1#1 16#7 24#7 40#7),
  (0x41840C28#32, .fmac 1#1 16#7 24#7 40#7),
  (0x41A40C28#32, .fmin 1#1 16#7 24#7 40#7),
  (0x41C40C28#32, .fmax 1#1 16#7 24#7 40#7),
  (0x41E40C28#32, .fcpysgn 1#1 16#7 24#7 40#7),
  (0x43040C7C#32, .fabs 1#1 16#7 24#7),
  (0x43240C7C#32, .fneg 1#1 16#7 24#7),
  (0x43440C7C#32, .frnd 1#1 16#7 24#7),
  (0x43640C28#32, .fdiv 1#1 16#7 24#7 40#7),
  (0x43840C7C#32, .fsqrt 1#1 16#7 24#7),
  (0x45040C7C#32, .frcp 1#1 16#7 24#7),
  (0x45240C7C#32, .frsq 1#1 16#7 24#7),
  (0x45440C7C#32, .fexp2 1#1 16#7 24#7)] = true := by decide +kernel
theorem test_decode_float_2 : decodesTo [
  (0x45640C7C#32, .flog2 1#1 16#7 24#7),
  (0x45840C7C#32, .fsin 1#1 16#7 24#7),
  (0x45A40C7C#32, .fcos 1#1 16#7 24#7),
  (0x45C40C7C#32, .ftanh 1#1 16#7 24#7),
  (0x47040C28#32, .hadd2 1#1 16#7 24#7 40#7),
  (0x47240C28#32, .hmul2 1#1 16#7 24#7 40#7),
  (0x47440C28#32, .hfma2 1#1 16#7 24#7 40#7),
  (0x47840C28#32, .badd2 1#1 16#7 24#7 40#7),
  (0x47A40C28#32, .bmul2 1#1 16#7 24#7 40#7),
  (0x47C40C28#32, .bfma2 1#1 16#7 24#7 40#7)] = true := by decide +kernel
theorem test_decode_convert : decodesTo [
  (0x61240C7C#32, .f2i 1#1 1#1 16#7 24#7),
  (0x61640C7C#32, .i2f 1#1 1#1 16#7 24#7),
  (0x63040C28#32, .fcvtF16F32 1#1 16#7 24#7 40#7),
  (0x63240C7C#32, .fcvtF32F16 1#1 16#7 24#7),
  (0x63440C28#32, .fcvtBf16F32 1#1 16#7 24#7 40#7),
  (0x63640C7C#32, .fcvtF32Bf16 1#1 16#7 24#7),
  (0x63840C7C#32, .fcvtE4m3F32 1#1 16#7 24#7),
  (0x63A40C7C#32, .fcvtF32E4m3 1#1 16#7 24#7),
  (0x63C40C7C#32, .fcvtE5m2F32 1#1 16#7 24#7),
  (0x63E40C7C#32, .fcvtF32E5m2 1#1 16#7 24#7),
  (0x65040C7C#32, .fcvtE2m1F32 1#1 16#7 24#7),
  (0x65240C7C#32, .fcvtF32E2m1 1#1 16#7 24#7),
  (0x65440C7C#32, .fcvtBf16F16 1#1 16#7 24#7),
  (0x65640C7C#32, .fcvtF16Bf16 1#1 16#7 24#7),
  (0x67040C7C#32, .cvtdlF32 1#1 16#7 24#7),
  (0x67240C28#32, .cvtdlDl8 1#1 16#7 24#7 40#7)] = true := by decide +kernel
theorem test_decode_block_and_dot : decodesTo [
  (0x69240C7C#32, .mxq 1#1 1#2 16#7 24#7),
  (0x69A40C28#32, .mxdq 1#1 1#2 16#7 24#7 40#7),
  (0x71240C28#32, .dot4e 1#1 1#1 16#7 24#7 40#7),
  (0x71440C28#32, .dot4i 1#1 16#7 24#7 40#7),
  (0x71640C28#32, .dot8q 1#1 16#7 24#7 40#7),
  (0x71840C28#32, .dot2b 1#1 16#7 24#7 40#7),
  (0x73240C28#32, .mxdot 1#1 1#1 16#7 24#7 40#7),
  (0x73440C28#32, .mxi8dot 1#1 16#7 24#7 40#7)] = true := by decide +kernel
theorem test_decode_control : decodesTo [
  (0x801F0005#32, .bra 5#14),
  (0x8220C009#32, .brc 1#1 3#3 9#14),
  (0x841F0005#32, .pjn 5#14),
  (0x86060003#32, .call 24#7 3#14),
  (0x881F0C7C#32, .brx 24#7),
  (0x88240C7C#32, .callx 16#7 24#7),
  (0x885F0C7C#32, .ret 24#7),
  (0x887F3E7C#32, .join),
  (0x889F3E7C#32, .exitThread),
  (0x88BF3E7C#32, .yield),
  (0x88DF3E7C#32, .nop),
  (0x88FF0C7C#32, .reform 24#7),
  (0x8A1F0005#32, .trap 5#14),
  (0x8A3F0005#32, .brk 5#14)] = true := by decide +kernel
theorem test_decode_cross_lane_1 : decodesTo [
  (0x9040CC7C#32, .vote 2#3 3#3 24#7),
  (0x92240C02#32, .matchLanes 1#1 16#7 24#7 2#3),
  (0x94240C28#32, .shfl 1#2 16#7 24#7 40#7),
  (0x94840C28#32, .bcast 16#7 24#7 40#7),
  (0x96440C7C#32, .red 2#3 16#7 24#7),
  (0x98240C7C#32, .fred 1#2 16#7 24#7),
  (0x98A40C7C#32, .fscan 1#2 16#7 24#7),
  (0x9A440C7C#32, .scan 2#3 16#7 24#7),
  (0x9C443E7C#32, .rgt 2#3 16#7),
  (0x9E20C082#32, .kop 1#2 3#3 1#3 2#3),
  (0x9E8081FC#32, .kopNot 2#3 3#3),
  (0x9EA401FC#32, .kmovTor 16#7 3#3),
  (0x9EC08C7C#32, .kmovTok 2#3 24#7),
  (0xA01F0053#32, .bar 5#10 3#4),
  (0xA03F0053#32, .bara 5#10 3#4),
  (0xA0460003#32, .barw 24#7 3#4)] = true := by decide +kernel
theorem test_decode_cross_lane_2 : decodesTo [
  (0xA0608000#32, .elect 2#3),
  (0xA09F0005#32, .winb 5#5),
  (0xA0BF0000#32, .trig),
  (0xA0DF0005#32, .rclaim 5#5),
  (0xA0FF0005#32, .rrel 5#5)] = true := by decide +kernel
theorem test_decode_channel : decodesTo [
  (0xA4290300#32, .send 5#6 16#7 24#7 0#3),
  (0xA62FC300#32, .sendw 5#6 24#7 0#3),
  (0xA8290F80#32, .recv 5#6 16#7),
  (0xAA290F88#32, .chq 5#6 16#7 1#1)] = true := by decide +kernel
theorem test_decode_load_and_store : decodesTo [
  (0xB0A40C03#32, .ldB 1#2 1#2 16#7 24#7 3#5),
  (0xB0A40C23#32, .ldH 1#2 1#2 16#7 24#7 3#5),
  (0xB0A40C43#32, .ldsB 1#2 1#2 16#7 24#7 3#5),
  (0xB0A40C63#32, .ldsH 1#2 1#2 16#7 24#7 3#5),
  (0xB2A40C08#32, .ldW 1#2 1#2 16#7 24#7 8#7),
  (0xB4A40C08#32, .ldD 1#2 1#2 16#7 24#7 8#7),
  (0xB6A40C08#32, .ldQ 1#2 1#2 16#7 24#7 8#7),
  (0xB8A40C03#32, .stB 1#2 1#2 16#7 24#7 3#6),
  (0xB8A40C43#32, .stH 1#2 1#2 16#7 24#7 3#6),
  (0xBAA40C08#32, .stW 1#2 1#2 16#7 24#7 8#7),
  (0xBCA40C08#32, .stD 1#2 1#2 16#7 24#7 8#7),
  (0xBEA40C08#32, .stQ 1#2 1#2 16#7 24#7 8#7)] = true := by decide +kernel
theorem test_decode_atomic_and_fence : decodesTo [
  (0xC0A40C39#32, .atom 1#2 1#2 16#7 24#7 3#3 9#4),
  (0xC2A40C39#32, .atom64 1#2 1#2 16#7 24#7 3#3 9#4),
  (0xC4A40C23#32, .atr 1#2 1#2 16#7 24#7 2#3 3#4),
  (0xC61F0002#32, .fence 2#3),
  (0xC63F0000#32, .fenceTl),
  (0xC65F0000#32, .fenceOr),
  (0xC6660003#32, .cinv 24#7 3#14),
  (0xC6860003#32, .cwb 24#7 3#14),
  (0xC6A60003#32, .icinv 24#7 3#14),
  (0xC8BF0C08#32, .pref 1#2 1#2 24#7 8#7),
  (0xCABB8C08#32, .ldg 1#2 1#2 110#7 24#7 8#7),
  (0xCC040C28#32, .tlw 16#7 24#7 40#7),
  (0xCC240C28#32, .tlrd 16#7 24#7 40#7),
  (0xCC5F0C7C#32, .tli 24#7),
  (0xCE1F0C28#32, .invt 24#7 40#7),
  (0xCE240C28#32, .vprobe 16#7 24#7 40#7)] = true := by decide +kernel
theorem test_decode_bank : decodesTo [
  (0xD00EA018#32, .bact 1#2 1#1 1#1 5#4 3#10),
  (0xD0280000#32, .bpre 1#2),
  (0xD04C0000#32, .browsh 1#2 2#2),
  (0xD06E0000#32, .brcpy 1#2 3#2),
  (0xD2088900#32, .brdc 1#2 8#7 9#4),
  (0xD2288900#32, .bwrc 1#2 8#7 9#4),
  (0xD4088440#32, .bldt 1#2 8#7 1#2 8#7),
  (0xD4288440#32, .blut 1#2 8#7 1#2 8#7),
  (0xD60A8840#32, .beadd 1#2 1#2 1#2 8#7 1#2),
  (0xD62A8864#32, .befma 1#2 1#2 1#2 8#7 1#2 9#4),
  (0xD64A084C#32, .bescl 1#2 1#2 8#7 1#2 3#4),
  (0xD80A04E0#32, .bacc 2#3 1#1 9#10 1#1 1#1),
  (0xDA030245#32, .bloop 0#1 3#4 9#10 5#6),
  (0xDA200000#32, .byld),
  (0xDA400000#32, .bend)] = true := by decide +kernel
theorem test_decode_matrix : decodesTo [
  (0xE0060000#32, .macq 24#7),
  (0xE03F0103#32, .mrel 1#1 3#8),
  (0xE05F0000#32, .mswap),
  (0xE0640003#32, .mstat 16#7 3#3),
  (0xE2060003#32, .mlds 24#7 3#14),
  (0xE4060000#32, .mscl 24#7),
  (0xE6460000#32, .mexec 2#3 24#7),
  (0xE81F0002#32, .macz 2#3),
  (0xE8260019#32, .macrd 24#7 3#4 1#3),
  (0xE8460019#32, .macwr 24#7 3#4 1#3)] = true := by decide +kernel
theorem test_decode_engine : decodesTo [
  (0xF0060003#32, .tcopy 24#7 3#14),
  (0xF0260003#32, .tcopyr 24#7 3#14),
  (0xF0460009#32, .bkrun 24#7 1#1 1#3),
  (0xF2060000#32, .chtail 24#7),
  (0xF2260000#32, .chseq 24#7),
  (0xF4060000#32, .evpop 24#7),
  (0xF4260000#32, .evwait 24#7),
  (0xF4460003#32, .cbar 24#7 3#3),
  (0xF6060000#32, .mig 24#7),
  (0xF63F0000#32, .mret)] = true := by decide +kernel
theorem test_decode_system : decodesTo [
  (0xF8060003#32, .crd 24#7 3#12),
  (0xF8260003#32, .cwr 24#7 3#12),
  (0xF8460001#32, .eret 24#7 1#14),
  (0xF87F0005#32, .tsetImm 5#14),
  (0xF8660000#32, .tsetReg 24#7),
  (0xF8860003#32, .evmark 24#7 3#6),
  (0xF8BB0001#32, .mslot 108#7 1#1),
  (0xF8DF0000#32, .ctxsw),
  (0xF8E60000#32, .dsrd 24#7),
  (0xF9060000#32, .dswr 24#7),
  (0xF9260000#32, .flgrd 24#7),
  (0xF95F0005#32, .flgclr 5#5),
  (0xF9660000#32, .capsFreeze 24#7),
  (0xF9660001#32, .capsEvent 24#7)] = true := by decide +kernel

/-! ### Single steps, with results that the spec's text works out -/

/-- Register d of thread 0 after one step that runs a word, behind a prefix word or none, with registers of thread 0 set. -/
def after (w : Word) (p : Option Word) (rs : List (Nat × Word)) (d : BitVec 7) : Option Word :=
  let G : Group := { demoG with threads := demoG.threads.map fun t => { t with regs := rs.foldl (fun l q => l.set q.1 (clean q.2)) t.regs } }
  let s := wordS w
  match step { s with live := { s.live with groups := [G] }, cur := some { demoC with pfx := p } } with
  | .next t => (t.group 0).map fun H => H.val 0 d
  | _ => none

/-- R79. -/
theorem test_iadds : after 0x00414082#32 none [(1, 0x7FFFFFF0#32), (2, 0x20#32)] 5#7 = some 0x7FFFFFFF#32 := by decide +kernel
/-- R79. -/
theorem test_isubns : after 0x00A14082#32 none [(1, 0x3#32), (2, 0x5#32)] 5#7 = some 0x0#32 := by decide +kernel
/-- R80. -/
theorem test_imulh : after 0x02214082#32 none [(1, 0xFFFFFFFF#32), (2, 0x2#32)] 5#7 = some 0xFFFFFFFF#32 := by decide +kernel
/-- R81. -/
theorem test_idiv_truncates : after 0x04014082#32 none [(1, 0xFFFFFFF9#32), (2, 0x2#32)] 5#7 = some 0xFFFFFFFD#32 := by decide +kernel
/-- R81. -/
theorem test_irem_by_zero : after 0x04414082#32 none [(1, 0x5#32)] 5#7 = some 0x5#32 := by decide +kernel
/-- R81. -/
theorem test_iremn_overflow : after 0x04614082#32 none [(1, 0x80000000#32), (2, 0xFFFFFFFF#32)] 5#7 = some 0x80000000#32 := by decide +kernel
/-- R84. -/
theorem test_fshl : after 0x0AA14082#32 (some 0xFC1C1800#32) [(1, 0x12345678#32), (2, 0x8#32), (3, 0x9ABCDEF0#32)] 5#7 = some 0x3456789A#32 := by decide +kernel
/-- R84. -/
theorem test_fshr : after 0x0AC14082#32 (some 0xFC1C1800#32) [(1, 0x12345678#32), (2, 0x8#32), (3, 0x9ABCDEF0#32)] 5#7 = some 0xF0123456#32 := by decide +kernel
/-- R94. -/
theorem test_prmb : after 0x3C214082#32 (some 0xFC1C1800#32) [(1, 0x44332211#32), (2, 0x88776655#32), (3, 0xF4C7#32)] 5#7 = some 0xFF550088#32 := by decide +kernel
/-- R95. -/
theorem test_bfxs : after 0x3E214082#32 none [(1, 0xABCD1234#32), (2, 0x80C#32)] 5#7 = some 0xFFFFFFD1#32 := by decide +kernel
/-- R95. -/
theorem test_bfi : after 0x3E414082#32 (some 0xFC1C1800#32) [(1, 0x5A#32), (2, 0x804#32), (3, 0xFFFFFFFF#32)] 5#7 = some 0xFFFFF5AF#32 := by decide +kernel
/-- R113. -/
theorem test_i2f : after 0x604140FC#32 none [(1, 0x7FFFFFFF#32)] 5#7 = some 0x4F000000#32 := by decide +kernel
/-- R113. -/
theorem test_f2i_negative : after 0x602140FC#32 (some 0xFC03E000#32) [(1, 0xBF333333#32)] 5#7 = some 0x0#32 := by decide +kernel
/-- R114. -/
theorem test_fcvt_e4m3_saturates : after 0x6281447C#32 none [(8, 0x43FA0000#32), (9, 0xFF800000#32), (10, 0xFFC00000#32)] 5#7 = some 0x7FFE7E#32 := by decide +kernel
/-- R114. -/
theorem test_fcvt_e2m1_tie : after 0x6401447C#32 none [(8, 0x40200000#32)] 5#7 = some 0x4#32 := by decide +kernel

end Sys2Proof.Machine.Tests
end

section
/-! What a cold reset leaves: the blocks of the slice map, the matrix engine's health word and the memories. -/
namespace Sys2Proof.Machine

/-- Outside the map too, where `State.slice` falls back on the empty block. -/
@[simp] theorem State.reset_slice (f : Nat) : State.reset.slice f = Slice.empty := by
  have hmap : State.reset.slices = List.replicate 64 Slice.empty := rfl
  rw [State.slice, hmap, List.getD_eq_getElem?_getD, List.getElem?_replicate]
  split
  · rfl
  · rfl

/-- The three cfg fields read zero until the health record is loaded (R8, R314), so the JURYFREE of 4 stays hidden. -/
@[simp] theorem Matrix.empty_healthWord : Matrix.empty.healthWord = 0 := by
  have hloaded : Matrix.empty.healthLoaded = false := rfl
  have hhealth : Matrix.empty.health = 4#64 := rfl
  rw [Matrix.healthWord, hloaded, hhealth]
  decide

theorem State.memOk_of_nil {s : State} (hdram : s.dram = []) (hscr : s.scr = []) (hhost : s.host = [])
    (hfirmware : s.pkg.firmware = []) : s.memOk = true := by
  have hnil : Memory.wf [] = true := rfl
  simp only [State.memOk, hdram, hscr, hhost, hfirmware, hnil, Bool.and_self]

theorem State.reset_memOk : State.reset.memOk = true := State.memOk_of_nil rfl rfl rfl rfl

/-- Settles O56: the registers of the part and of the engines, then each block of the slice map, then what exists and what the
memories list; every one is read off `State.reset`. -/
theorem resetValues : Obligations.ResetValues := by
  unfold Obligations.ResetValues
  refine ⟨rfl, rfl, rfl, rfl, rfl, rfl, rfl, Matrix.empty_healthWord, fun f _ => ?slice,
    rfl, rfl, rfl, rfl, rfl, rfl, rfl, rfl, rfl, rfl, rfl, State.reset_memOk⟩
  case slice =>
    rw [State.reset_slice]
    exact ⟨rfl, rfl, rfl, rfl, rfl, rfl, rfl, rfl, rfl, rfl, rfl, rfl⟩

end Sys2Proof.Machine
end

section
/-! Units that work on registers alone: what the write-back, the flags and the end of such a unit change (spec/01 R28; spec/03 R75). -/
namespace Sys2Proof.Machine

/-! ## What a change of groups and teams leaves -/

namespace RegisterOnly

theorem refl (s : State) (g : Nat) : RegisterOnly s s g := ⟨rfl, rfl, fun _ _ => rfl⟩

theorem trans {s t u : State} {g : Nat} (h : RegisterOnly s t g) (k : RegisterOnly t u g) : RegisterOnly s u g where
  rest := calc
    { u with live := s.live, cur := s.cur } = { ({ u with live := t.live, cur := t.cur } : State) with live := s.live, cur := s.cur } := rfl
    _ = { t with live := s.live, cur := s.cur } := by rw [k.rest]
    _ = s := h.rest
  live := calc
    { u.live with groups := s.live.groups, teams := s.live.teams }
        = { ({ u.live with groups := t.live.groups, teams := t.live.teams } : Ctx) with groups := s.live.groups, teams := s.live.teams } := rfl
    _ = { t.live with groups := s.live.groups, teams := s.live.teams } := by rw [k.live]
    _ = s.live := h.live
  others := fun x hx => (k.others x hx).trans (h.others x hx)

theorem setGroup (s : State) (G : Group) : RegisterOnly s (s.setGroup G) G.gctx := ⟨rfl, rfl, fun _ h => group_setGroup_ne h⟩

theorem setTeam (s : State) (T : Team) (g : Nat) : RegisterOnly s (s.setTeam T) g := ⟨rfl, rfl, fun _ _ => rfl⟩

theorem endUnit (s : State) (g : Nat) : RegisterOnly s s.endUnit g := ⟨rfl, rfl, fun _ _ => rfl⟩

theorem setFp (s : State) (G : Group) (x : FpCtx) : RegisterOnly s (s.setFp G x) G.gctx := by
  unfold State.setFp
  split
  · split
    next H hH => exact group_gctx hH ▸ setGroup s { H with own := x }
    next => exact refl s _
  · split
    next T _ => exact setTeam s { T with fp := x } _
    next => exact refl s _

theorem raiseFlags (s : State) (g : Nat) (fl : BitVec 5) : RegisterOnly s (s.raiseFlags g fl) g := by
  unfold State.raiseFlags
  split
  · exact refl s g
  split
  next => exact refl s g
  next G hG =>
    obtain rfl := group_gctx hG
    split
    next m _ => exact setGroup s { G with mig := some { m with flags := m.flags ||| fl } }
    next => exact setFp s G _

theorem advance (s : State) (c : Cur) : RegisterOnly s (s.advance c) c.gctx := by
  rcases advance_cases s c with ⟨_, e⟩ | ⟨G, hG, e⟩
  · exact e ▸ endUnit s _
  · have hset : ∀ qs, RegisterOnly s (s.setGroup { G with seqs := qs }) c.gctx := fun qs => group_gctx hG ▸ setGroup s { G with seqs := qs }
    exact e ▸ (hset _).trans (endUnit _ _)

section
variable {s t : State} {g : Nat} (h : RegisterOnly s t g)
include h

theorem dieCycles_eq : t.dieCycles = s.dieCycles := by have := congrArg State.dieCycles h.rest; exact this
theorem now_eq : t.now = s.now := congrArg BitVec.toNat h.dieCycles_eq
theorem dram_eq : t.dram = s.dram := by have := congrArg State.dram h.rest; exact this
theorem scr_eq : t.scr = s.scr := by have := congrArg State.scr h.rest; exact this
theorem host_eq : t.host = s.host := by have := congrArg State.host h.rest; exact this

end

end RegisterOnly

/-! ## The write-back of a group -/

theorem writeUnif_eq (G : Group) (r : Nat) (ws : List PWord) : ∃ xs, G.writeUnif r ws = { G with unif := xs } := by
  unfold Group.writeUnif
  induction List.range ws.length generalizing G with
  | nil => exact ⟨G.unif, rfl⟩
  | cons i is ih => exact ih { G with unif := G.unif.set (r - 108 + i) (ws.getD i pzero) }

theorem setMask_eq (G : Group) (k : Nat) (v : BitVec 64) : ∃ ms, G.setMask k v = { G with masks := ms } := by
  unfold Group.setMask
  split
  · exact ⟨G.masks, rfl⟩
  · exact ⟨_, rfl⟩

/-- The write-back changes the masks, the uniform registers and the threads, and nothing else of the group. -/
theorem writeBack_eq (G : Group) (u : Unit) (c : Cur) (d : Dst) (k0 run gone : BitVec 64) (out : Nat → Option (List PWord)) :
    ∃ xs ms ts, G.writeBack u c d k0 run gone out = { G with unif := xs, masks := ms, threads := ts } := by
  have unchanged : ∃ xs ms ts, G = { G with unif := xs, masks := ms, threads := ts } := ⟨G.unif, G.masks, G.threads, rfl⟩
  have uniform (r : Nat) (ws : List PWord) : ∃ xs ms ts, G.writeUnif r ws = { G with unif := xs, masks := ms, threads := ts } := by
    obtain ⟨xs, e⟩ := writeUnif_eq G r ws
    exact ⟨xs, G.masks, G.threads, e⟩
  cases d with
  | none => exact unchanged
  | mask k =>
    obtain ⟨ms, e⟩ := setMask_eq G k _
    exact ⟨G.unif, ms, G.threads, e⟩
  | regs r n =>
    unfold Group.writeBack
    dsimp only
    split
    case isFalse => exact ⟨G.unif, G.masks, _, rfl⟩
    case isTrue =>
      split
      next => exact unchanged
      next l _ =>
        split
        · exact unchanged
        · split
          · split
            · exact uniform _ _
            · exact unchanged
          · split
            · exact uniform _ _
            · exact unchanged

section WriteBack
variable (G : Group) (u : Unit) (c : Cur) (d : Dst) (k0 run gone : BitVec 64) (out : Nat → Option (List PWord))

@[simp] theorem writeBack_gctx : (G.writeBack u c d k0 run gone out).gctx = G.gctx := by
  obtain ⟨_, _, _, e⟩ := writeBack_eq G u c d k0 run gone out; rw [e]
@[simp] theorem writeBack_team : (G.writeBack u c d k0 run gone out).team = G.team := by
  obtain ⟨_, _, _, e⟩ := writeBack_eq G u c d k0 run gone out; rw [e]
@[simp] theorem writeBack_level : (G.writeBack u c d k0 run gone out).level = G.level := by
  obtain ⟨_, _, _, e⟩ := writeBack_eq G u c d k0 run gone out; rw [e]
@[simp] theorem writeBack_width : (G.writeBack u c d k0 run gone out).width = G.width := by
  obtain ⟨_, _, _, e⟩ := writeBack_eq G u c d k0 run gone out; rw [e]
@[simp] theorem writeBack_timer : (G.writeBack u c d k0 run gone out).timer = G.timer := by
  obtain ⟨_, _, _, e⟩ := writeBack_eq G u c d k0 run gone out; rw [e]
@[simp] theorem writeBack_seqs : (G.writeBack u c d k0 run gone out).seqs = G.seqs := by
  obtain ⟨_, _, _, e⟩ := writeBack_eq G u c d k0 run gone out; rw [e]
@[simp] theorem writeBack_mig : (G.writeBack u c d k0 run gone out).mig = G.mig := by
  obtain ⟨_, _, _, e⟩ := writeBack_eq G u c d k0 run gone out; rw [e]

theorem group_setGroup_writeBack {s : State} {g : Nat} (hG : s.group g = some G) :
    (s.setGroup (G.writeBack u c d k0 run gone out)).group g = some (G.writeBack u c d k0 run gone out) := by
  rw [group_setGroup, writeBack_gctx, if_pos (group_gctx hG).symm, hG, Option.map_some]

end WriteBack

/-! ## Where the flags go (R75) -/

/-- Raised flags reach the group itself only when it carries flags of its own: a migrated group's, or a handler group's. -/
theorem raiseFlags_group {s : State} {g : Nat} {G : Group} (hG : s.group g = some G) (fl : BitVec 5) :
    ∃ m x, (s.raiseFlags g fl).group g = some { G with mig := m, own := x }
      ∧ ∀ a, G.mig = some a → m = some { a with flags := a.flags ||| fl } := by
  obtain rfl := group_gctx hG
  unfold State.raiseFlags
  split
  next hfl =>
    subst hfl
    exact ⟨G.mig, G.own, hG, fun a ha => by rw [ha, BitVec.or_zero]⟩
  rw [hG]
  dsimp only
  split
  next m hm =>
    refine ⟨some { m with flags := m.flags ||| fl }, G.own, group_setGroup_self (G := { G with mig := _ }) hG, fun a ha => ?_⟩
    obtain rfl := Option.some.inj (hm.symm.trans ha)
    rfl
  next hm =>
    have none_carried : ∀ a, G.mig = some a → G.mig = some { a with flags := a.flags ||| fl } := fun a ha => by simp [hm] at ha
    unfold State.setFp
    split
    · rw [hG]
      exact ⟨G.mig, _, group_setGroup_self (G := { G with own := _ }) hG, none_carried⟩
    · split
      · exact ⟨G.mig, G.own, hG, none_carried⟩
      · exact ⟨G.mig, G.own, hG, none_carried⟩

/-- A group that carries flags of its own leaves every team as it is. -/
theorem raiseFlags_team_of_mig {s : State} {g : Nat} {G : Group} {m : Mig} (hG : s.group g = some G) (hm : G.mig = some m) (fl : BitVec 5)
    (k : Nat) : (s.raiseFlags g fl).team k = s.team k := by
  unfold State.raiseFlags
  split
  · rfl
  · simp only [hG, hm, team_setGroup]

theorem team_slot {s : State} {k : Nat} {T : Team} (h : s.team k = some T) : T.slot = k := by simpa using List.find?_some h

/-- The flags of a group at home join the pending set of its team. -/
theorem raiseFlags_team {s : State} {g : Nat} {G : Group} {k : Nat} {T : Team} (hG : s.group g = some G) (hm : G.mig = none)
    (hk : G.team = some k) (hT : s.team k = some T) (fl : BitVec 5) (j : Nat) : (s.raiseFlags g fl).team j
      = if j = k then some { T with fp := { T.fp with pending := T.fp.pending ||| fl } } else s.team j := by
  unfold State.raiseFlags
  split
  next hfl =>
    subst hfl
    split
    next hj => rw [hj, hT, BitVec.or_zero]
    next => rfl
  · simp only [hG, hm, State.setFp, State.fp, hk, hT, team_setTeam, team_slot hT]
    split
    next hj => rw [hj, hT]; rfl
    next => rfl

/-! ## A unit whose lanes all complete -/

/-- A sequencer after a unit of its group (R28): one that issued and runs goes on at the next word. -/
def Seq.afterUnit (c : Cur) (now : Nat) (q : Seq) : Seq :=
  if c.seqs.contains q.id ∧ (q.st = .run ∨ q.st = .cwait) then { q.goto (c.pc + 4#56) now with st := .run } else q

theorem Seq.afterUnit_id (c : Cur) (now : Nat) (q : Seq) : (q.afterUnit c now).id = q.id := by
  unfold Seq.afterUnit; split <;> rfl

theorem advance_group {s : State} {c : Cur} {G : Group} (hG : s.group c.gctx = some G) :
    (s.advance c).group c.gctx = some { G with seqs := G.seqs.map (Seq.afterUnit c s.now) } := by
  have hg := group_gctx hG
  rcases advance_cases s c with ⟨hn, _⟩ | ⟨H, hH, e⟩
  · rw [hG] at hn; cases hn
  · obtain rfl := Option.some.inj (hG.symm.trans hH)
    rw [e, group_endUnit, ← hg]
    exact group_setGroup_self (G := { G with seqs := _ }) (H := G) (hg ▸ hG)

/-- A sequencer looked up after a unit. -/
theorem seq_afterUnit {G H : Group} {c : Cur} {now i : Nat} {q : Seq} (hH : H.seqs = G.seqs.map (Seq.afterUnit c now)) (hq : G.seq i = some q) :
    H.seq i = some (q.afterUnit c now) := by
  have hid : ((fun r : Seq => r.id == i) ∘ Seq.afterUnit c now) = fun r => r.id == i := by
    funext r; simp [Seq.afterUnit_id]
  rw [Group.seq, hH, List.find?_map, hid]
  exact congrArg (Option.map (Seq.afterUnit c now)) hq

section LaneDone
variable {s : State} {c : Cur} {G : Group} (h : InUnit s c G) (u : Unit) (d : Dst) (vals : Nat → List PWord) (fl : BitVec 5)
include h

theorem laneDone_registerOnly : RegisterOnly s (s.laneDone G c u d vals fl) c.gctx := by
  have hwrite := RegisterOnly.setGroup s (G.writeBack u c d (G.k0 c) (u.run G c) 0#64 fun l => some (vals l))
  rw [writeBack_gctx, group_gctx h.group] at hwrite
  rw [State.laneDone, group_gctx h.group]
  exact (hwrite.trans (RegisterOnly.raiseFlags _ _ _)).trans (RegisterOnly.advance _ _)

/-- The group after a completed unit: as the write-back gives it, with the flags that it carries itself, each issuing sequencer at the next
word. -/
theorem laneDone_group : ∃ m x, (s.laneDone G c u d vals fl).group c.gctx
      = some { G.writeBack u c d (G.k0 c) (u.run G c) 0#64 (fun l => some (vals l)) with
        mig := m, own := x, seqs := G.seqs.map (Seq.afterUnit c s.now) }
    ∧ ∀ a, G.mig = some a → m = some { a with flags := a.flags ||| fl } := by
  have hwritten := group_setGroup_writeBack G u c d (G.k0 c) (u.run G c) 0#64 (fun l => some (vals l)) h.group
  obtain ⟨m, x, hraised, hm⟩ := raiseFlags_group hwritten fl
  refine ⟨m, x, ?_, fun a ha => hm a ((writeBack_mig ..).trans ha)⟩
  rw [State.laneDone, group_gctx h.group, advance_group hraised, (RegisterOnly.raiseFlags _ _ _).now_eq, now_setGroup, writeBack_seqs]

theorem laneDone_team_of_mig {m : Mig} (hm : G.mig = some m) (j : Nat) : (s.laneDone G c u d vals fl).team j = s.team j := by
  have hwritten := group_setGroup_writeBack G u c d (G.k0 c) (u.run G c) 0#64 (fun l => some (vals l)) h.group
  rw [State.laneDone, group_gctx h.group, advance_team, raiseFlags_team_of_mig hwritten ((writeBack_mig ..).trans hm), team_setGroup]

theorem laneDone_team {k : Nat} {T : Team} (hm : G.mig = none) (hk : G.team = some k) (hT : s.team k = some T) (j : Nat) :
    (s.laneDone G c u d vals fl).team j
      = if j = k then some { T with fp := { T.fp with pending := T.fp.pending ||| fl } } else s.team j := by
  have hwritten := group_setGroup_writeBack G u c d (G.k0 c) (u.run G c) 0#64 (fun l => some (vals l)) h.group
  rw [State.laneDone, group_gctx h.group, advance_team,
    raiseFlags_team hwritten ((writeBack_mig ..).trans hm) ((writeBack_team ..).trans hk) hT, team_setGroup]

end LaneDone

theorem laneFrame : Claim.LaneFrame := by
  intro s c G u d vals fl h
  have only := laneDone_registerOnly h u d vals fl
  obtain ⟨m, x, hgroup, -⟩ := laneDone_group h u d vals fl
  refine ⟨advance_cur _ _, only, fun a => ?memory, _, hgroup, ?team, ?level, ?width, ?timer, fun i q hq => ?seqs⟩
  case memory =>
    rw [only.dram_eq, only.scr_eq, only.host_eq]
    exact ⟨rfl, rfl, rfl⟩
  case team => simp only [writeBack_team]
  case level => simp only [writeBack_level]
  case width => simp only [writeBack_width]
  case timer => simp only [writeBack_timer]
  case seqs =>
    have hid : q.id = i := by simpa using List.find?_some hq
    rw [seq_afterUnit rfl hq, Seq.afterUnit]
    subst hid
    simp only [List.contains_iff_mem, Seq.goto]

theorem flagsRaised : Claim.FlagsRaised := by
  intro s c G u d vals fl k T h hk hT
  refine ⟨fun hm => ?home, fun m hm => ⟨?_, ?_⟩, fun j hj => ?others⟩
  case home => rw [laneDone_team h u d vals fl hm hk hT, if_pos rfl]
  · rw [laneDone_team_of_mig h u d vals fl hm, hT]
  · obtain ⟨m', x, hgroup, hcarried⟩ := laneDone_group h u d vals fl
    rw [hgroup, Option.map_some, hcarried m hm]
  case others =>
    cases hm : G.mig with
    | none => rw [laneDone_team h u d vals fl hm hk hT, if_neg hj]
    | some m => exact laneDone_team_of_mig h u d vals fl hm j

/-- Settles O8: a completed unit is a write-back, its flags and the end of the unit, and each of the three changes its group and the
flags of its team alone. -/
theorem frameAndFlags : Obligations.FrameAndFlags := ⟨laneFrame, flagsRaised⟩

end Sys2Proof.Machine
end

section
/-! The two-operand integer instructions: the meanings that the model gives them are the results of their rules (spec/04 R79 to R84, R95). -/
namespace Sys2Proof.Machine

/-! ## Adding, subtracting and multiplying (R79, R80) -/

theorem lo32_toInt (x : Word) : lo32 x.toInt = x := BitVec.ofInt_toInt

theorem add_eq_lo32 (x y : Word) : x + y = lo32 (x.toInt + y.toInt) := by simp [lo32, BitVec.ofInt_add]

theorem sub_eq_lo32 (x y : Word) : x - y = lo32 (x.toInt - y.toInt) := by
  simp [lo32, sub_eq_add_neg, BitVec.ofInt_add, BitVec.ofInt_neg]

theorem mul_eq_lo32 (x y : Word) : x * y = lo32 (x.toInt * y.toInt) := by simp [lo32, BitVec.ofInt_mul]

theorem satS_eq (i : Int) : satS i = lo32 (max (-(2 : Int) ^ 31) (min ((2 : Int) ^ 31 - 1) i)) := by
  norm_num [satS, lo32]

theorem satU_add (x y : Word) : satU ((x.toNat : Int) + y.toNat) = BitVec.ofNat 32 (min (2 ^ 32 - 1) (x.toNat + y.toNat)) := by
  have e : max 0 (min 4294967295 ((x.toNat : Int) + y.toNat)) = ((min (2 ^ 32 - 1) (x.toNat + y.toNat) : Nat) : Int) := by omega
  rw [satU, e, BitVec.ofInt_natCast]

theorem satU_sub (x y : Word) : satU ((x.toNat : Int) - y.toNat) = BitVec.ofNat 32 (x.toNat - y.toNat) := by
  have e : max 0 (min 4294967295 ((x.toNat : Int) - y.toNat)) = ((x.toNat - y.toNat : Nat) : Int) := by omega
  rw [satU, e, BitVec.ofInt_natCast]

theorem highWord_ofInt (i : Int) : (BitVec.ofInt 64 i).extractLsb' 32 32 = lo32 (i / 2 ^ 32) := by
  apply BitVec.eq_of_toNat_eq
  simp only [lo32, BitVec.extractLsb'_toNat, BitVec.toNat_ofInt, Nat.shiftRight_eq_div_pow]
  omega

theorem highWord_ofNat (n : Nat) : (BitVec.ofNat 64 n).extractLsb' 32 32 = BitVec.ofNat 32 (n / 2 ^ 32) := by
  apply BitVec.eq_of_toNat_eq
  simp only [BitVec.extractLsb'_toNat, BitVec.toNat_ofNat, Nat.shiftRight_eq_div_pow]
  omega

/-! ## Dividing (R81) -/

theorem idivVal_eq (x y : Word) : idivVal x y = if y = 0#32 then 0xFFFFFFFF#32
    else if x = 0x80000000#32 ∧ y = 0xFFFFFFFF#32 then 0x80000000#32 else lo32 (x.toInt.tdiv y.toInt) := by
  unfold idivVal; split
  · rfl
  · split
    · rename_i h; obtain ⟨rfl, rfl⟩ := h; rfl
    · rfl

theorem iremVal_eq (x y : Word) : iremVal x y = if y = 0#32 then x
    else if x = 0x80000000#32 ∧ y = 0xFFFFFFFF#32 then 0#32 else lo32 (x.toInt - y.toInt * x.toInt.tdiv y.toInt) := by
  unfold iremVal; split
  · rfl
  · split
    · rename_i h; obtain ⟨rfl, rfl⟩ := h; rfl
    · rw [Int.tmod_def]; rfl

/-! ## Minimum and maximum (R82) -/

theorem signedMin_eq (x y : Word) : (if x.toInt ≤ y.toInt then x else y) = lo32 (min x.toInt y.toInt) := by
  rw [min_def]; split <;> exact (lo32_toInt _).symm

theorem signedMax_eq (x y : Word) : (if x.toInt ≤ y.toInt then y else x) = lo32 (max x.toInt y.toInt) := by
  rw [max_def]; split <;> exact (lo32_toInt _).symm

theorem unsignedMin_eq (x y : Word) : (if x ≤ y then x else y) = BitVec.ofNat 32 (min x.toNat y.toNat) := by
  simp only [min_def, BitVec.le_def]; split <;> simp

theorem unsignedMax_eq (x y : Word) : (if x ≤ y then y else x) = BitVec.ofNat 32 (max x.toNat y.toNat) := by
  simp only [max_def, BitVec.le_def]; split <;> simp

/-! ## Shifts and rotates (R84) -/

theorem shiftLeft_eq_ofNat (x : Word) (k : Nat) : x <<< k = BitVec.ofNat 32 (x.toNat * 2 ^ k) := by
  apply BitVec.eq_of_toNat_eq; simp [Nat.shiftLeft_eq]

theorem ushiftRight_eq_ofNat (x : Word) (k : Nat) : x >>> k = BitVec.ofNat 32 (x.toNat / 2 ^ k) := by
  apply BitVec.eq_of_toNat_eq
  simp only [BitVec.toNat_ushiftRight, Nat.shiftRight_eq_div_pow, BitVec.toNat_ofNat]
  exact (Nat.mod_eq_of_lt (lt_of_le_of_lt (Nat.div_le_self _ _) x.isLt)).symm

theorem sshiftRight_eq_lo32 (x : Word) (k : Nat) : x.sshiftRight k = lo32 (x.toInt / 2 ^ k) := by
  rw [BitVec.sshiftRight, Int.shiftRight_eq_div_pow]; norm_num [lo32]

theorem rotateLeft_shCount (x y : Word) : x.rotateLeft (shCount y) = (x <<< (y.toNat % 32)) ||| (x >>> (32 - y.toNat % 32)) := by
  rw [BitVec.rotateLeft_def, shCount, Nat.mod_mod]

theorem rotateRight_shCount (x y : Word) : x.rotateRight (shCount y) = (x >>> (y.toNat % 32)) ||| (x <<< (32 - y.toNat % 32)) := by
  rw [BitVec.rotateRight_def, shCount, Nat.mod_mod]

/-! ## Bit fields (R95) -/

theorem fieldMask_getLsbD (b : Word) (i : Nat) : (fieldMask b).getLsbD i
    = (decide (i < 32) && (decide (fieldPos b ≤ i) && decide (i - fieldPos b < fieldLen b))) := by
  simp [fieldMask, BitVec.getLsbD_ofNat, Nat.testBit_mul_two_pow, Nat.testBit_two_pow_sub_one]

theorem bfxVal_eq (a b : Word) : bfxVal a b = BitVec.ofNat 32 (a.toNat / 2 ^ fieldPos b % 2 ^ fieldLen b) := by
  have hlen : fieldLen b ≤ 32 - fieldPos b := Nat.min_le_right _ _
  refine BitVec.eq_of_getLsbD_eq fun i hi => ?_
  rw [bfxVal, BitVec.getLsbD_ushiftRight, BitVec.getLsbD_and, fieldMask_getLsbD, BitVec.getLsbD_ofNat, Nat.testBit_mod_two_pow,
    Nat.testBit_div_two_pow, BitVec.testBit_toNat]
  by_cases h : i < fieldLen b
  · have hbit : i + fieldPos b < 32 := by omega
    simp [h, hi, hbit, Nat.add_comm (fieldPos b)]
  · simp [h]

theorem ofNat_mod_getLsbD (v n i : Nat) (hi : i < 32) : (BitVec.ofNat 32 (v % 2 ^ n)).getLsbD i = (decide (i < n) && v.testBit i) := by
  rw [BitVec.getLsbD_ofNat, Nat.testBit_mod_two_pow, decide_eq_true hi, Bool.true_and]

theorem signExtend_ofNat {n : Nat} (hn : n ≤ 32) (v : Nat) : (BitVec.ofNat n v).signExtend 32 =
    if n = 0 then 0#32 else if (BitVec.ofNat 32 (v % 2 ^ n)).getLsbD (n - 1) then
      BitVec.ofNat 32 (v % 2 ^ n) ||| ~~~(BitVec.ofNat 32 (2 ^ n - 1)) else BitVec.ofNat 32 (v % 2 ^ n) := by
  rcases Nat.eq_zero_or_pos n with rfl | hpos
  · rw [BitVec.eq_nil (BitVec.ofNat 0 v)]; rfl
  refine BitVec.eq_of_getLsbD_eq fun i hi => ?_
  have hmask : (BitVec.ofNat 32 (2 ^ n - 1)).getLsbD i = decide (i < n) := by
    rw [BitVec.getLsbD_ofNat, Nat.testBit_two_pow_sub_one, decide_eq_true hi, Bool.true_and]
  have hlast : n - 1 < n := by omega
  have hsign : (BitVec.ofNat n v).msb = v.testBit (n - 1) := by
    rw [BitVec.msb_eq_getLsbD_last, BitVec.getLsbD_ofNat, decide_eq_true hlast, Bool.true_and]
  rw [if_neg hpos.ne', BitVec.getLsbD_signExtend, hsign, ofNat_mod_getLsbD _ _ _ (by omega), decide_eq_true hlast, Bool.true_and,
    BitVec.getLsbD_ofNat]
  cases v.testBit (n - 1)
  case false =>
    rw [if_neg Bool.false_ne_true, ofNat_mod_getLsbD _ _ _ hi]
    by_cases hin : i < n <;> simp [hin, hi]
  case true =>
    rw [if_pos rfl, BitVec.getLsbD_or, BitVec.getLsbD_not, ofNat_mod_getLsbD _ _ _ hi, hmask]
    by_cases hin : i < n <;> simp [hin, hi]

theorem bfxsVal_eq (a b : Word) : bfxsVal a b = lo32 (BitVec.ofNat (fieldLen b) (a.toNat / 2 ^ fieldPos b)).toInt := by
  have hlen : fieldLen b ≤ 32 := (Nat.min_le_right _ _).trans (Nat.sub_le _ _)
  rw [bfxsVal, bfxVal_eq]
  exact (signExtend_ofNat hlen _).symm

/-! ## The table -/

/-- An instruction whose meaning is the word form with a function f, in a table that gives it an equal function g. -/
theorem word_row {i : BitVec 1 → BitVec 7 → BitVec 7 → BitVec 7 → Instr} {f g : Word → Word → Word} (h : ∀ x y, f x y = g x y)
    (hexec : ∀ n d a b s, exec (i n d a b) s = binaryOp n d a b f s := by intros; rfl) :
    ∀ n d a b s, exec ((i, g).1 n d a b) s = binaryOp n d a b (i, g).2 s := by
  intro n d a b s
  rw [hexec, funext₂ h]

/-- Every instruction of the table is the word form d := f a b with the function that the table gives. -/
theorem exec_intBinary : ∀ p ∈ intBinary, ∀ (n : BitVec 1) (d a b : BitVec 7) (s : State), exec (p.1 n d a b) s = binaryOp n d a b p.2 s := by
  unfold intBinary
  repeat rw [List.forall_mem_cons]
  exact ⟨
    word_row add_eq_lo32, word_row sub_eq_lo32, word_row fun x y => satS_eq (x.toInt + y.toInt), word_row fun x y => satS_eq (x.toInt - y.toInt),
    word_row satU_add, word_row satU_sub,
    word_row mul_eq_lo32, word_row fun x y => highWord_ofInt (x.toInt * y.toInt), word_row fun x y => highWord_ofNat (x.toNat * y.toNat),
    word_row idivVal_eq, word_row fun _ _ => rfl, word_row iremVal_eq, word_row fun _ _ => rfl,
    word_row signedMin_eq, word_row signedMax_eq, word_row unsignedMin_eq, word_row unsignedMax_eq,
    word_row fun _ _ => rfl, word_row fun _ _ => rfl, word_row fun _ _ => rfl,
    word_row fun _ _ => rfl, word_row fun _ _ => rfl, word_row fun _ _ => rfl,
    word_row fun x y => shiftLeft_eq_ofNat x (shCount y), word_row fun x y => ushiftRight_eq_ofNat x (shCount y),
    word_row fun x y => sshiftRight_eq_lo32 x (shCount y),
    word_row rotateLeft_shCount, word_row rotateRight_shCount, word_row bfxVal_eq, word_row bfxsVal_eq,
    List.forall_mem_nil _⟩

end Sys2Proof.Machine
end

section
/-! Units that a check refuses and units that consume poison (spec/01 R18, R28, R33, R10; spec/06 R147; spec/17 R360, R368). -/
namespace Sys2Proof.Machine

/-! ## Checks of the whole unit (R28) -/

theorem check_of_not_prefixOk {u : Unit} {G : Group} {c : Cur} (h : u.prefixOk c = false) : u.check G c = some 0x01#8 := by
  simp [Unit.check, h]

theorem check_of_not_namesOk {u : Unit} {G : Group} {c : Cur} (hp : u.prefixOk c = true)
    (hn : G.namesOk (lanesOf G (G.k0 c)) (u.allNames c) = false) : u.check G c = some 0x03#8 := by
  simp [Unit.check, hp, hn]

theorem check_eq_none_iff {u : Unit} {G : Group} {c : Cur} :
    u.check G c = none ↔ u.prefixOk c = true ∧ G.namesOk (lanesOf G (G.k0 c)) (u.allNames c) = true := by
  unfold Unit.check
  cases u.prefixOk c <;> cases G.namesOk (lanesOf G (G.k0 c)) (u.allNames c) <;> simp

/-- A main register past a thread's allocation fails the window check of every unit that names it (R10). -/
theorem namesOk_of_narrow {G : Group} {lanes : List Nat} {names : List (BitVec 7 × Nat)} {l n : Nat} {t : Thread} {r : BitVec 7}
    (hl : l ∈ lanes) (ht : G.thread l = some t) (hr : (r, n) ∈ names) (hmain : r.toNat < 96) (hnarrow : t.regs.length < G.winb + r.toNat + n) :
    G.namesOk lanes names = false := by
  have hname : t.namesOk G.winb r.toNat n = false := by
    rw [Thread.namesOk, if_pos hmain, decide_eq_false (by omega)]
  rw [Group.namesOk, List.all_eq_false]
  refine ⟨l, hl, ?_⟩
  rw [ht, Bool.not_eq_true, List.all_eq_false]
  exact ⟨(r, n), hr, by simp [hname]⟩

theorem binaryOp_trap {n : BitVec 1} {d a b : BitVec 7} {f : Word → Word → Word} {s : State} {c : Cur} {G : Group} {cause : BitVec 8}
    (h : InUnit s c G) (hc : (aluUnit n 0 [(d, 1), (a, 1), (b, 1)]).check G c = some cause) :
    binaryOp n d a b f s = .next (s.trapUnit G c cause 0) :=
  laneUnit_trap h hc

theorem unitChecksTrap : Claim.UnitChecksTrap := by
  intro p hp n d a b s c G h u
  rw [exec_intBinary p hp]
  refine ⟨fun hbad => binaryOp_trap h (check_of_not_prefixOk hbad), fun hok ⟨l, hl, t, ht, hmain, hnarrow⟩ => ?_⟩
  have hnames : G.namesOk (lanesOf G (G.k0 c)) (u.allNames c) = false := namesOk_of_narrow hl ht (List.mem_cons_self ..) hmain hnarrow
  exact binaryOp_trap h (check_of_not_namesOk hok hnames)

/-! ## The lanes that have no effect (R147, R368) -/

theorem k0_getLsbD {G : Group} {c : Cur} {l : Nat} (h : (G.k0 c).getLsbD l = true) : ∃ q ∈ G.issuing c, G.activeIn q l = true := by
  rw [Group.k0, laneMask_getLsbD, Bool.and_eq_true] at h
  exact List.any_eq_true.1 h.2

theorem run_subset_k0 {u : Unit} {G : Group} {c : Cur} {l : Nat} (h : (u.run G c).getLsbD l = true) : (G.k0 c).getLsbD l = true := by
  unfold Unit.run Group.run at h
  split at h
  · exact h
  split at h
  · exact h
  · rw [BitVec.getLsbD_and, Bool.and_eq_true] at h
    exact h.1

/-- A set of columns given by a predicate is empty when no column has it. -/
theorem colMask_eq_zero (p : Nat → Bool) (h : (List.range 4).foldl (fun b i => if p i then b ||| 1#4 <<< i else b) 0#4 = 0#4) :
    ∀ i < 4, p i = false := by
  have four : ∀ a b c d : Bool, (let x0 := if a then 0#4 ||| 1#4 <<< 0 else 0#4
      let x1 := if b then x0 ||| 1#4 <<< 1 else x0
      let x2 := if c then x1 ||| 1#4 <<< 2 else x1
      if d then x2 ||| 1#4 <<< 3 else x2) = 0#4 → a = false ∧ b = false ∧ c = false ∧ d = false := by decide
  obtain ⟨h0, h1, h2, h3⟩ := four (p 0) (p 1) (p 2) (p 3) h
  intro i hi
  interval_cases i <;> assumption

/-- A sequencer with an active lane in a mask has a column in it. -/
theorem colsOf_ne_zero {G : Group} {q : Seq} {m : BitVec 64} {l : Nat} (hm : m.getLsbD l = true) (hq : G.activeIn q l = true) :
    G.colsOf q m ≠ 0#4 := by
  intro hzero
  unfold Group.activeIn at hq
  split at hq
  case h_2 => cases hq
  case h_1 t ht =>
    obtain ⟨_, hpos, hcol⟩ : t.live = true ∧ t.col / 4 = q.pos ∧ q.active.getLsbD (t.col % 4) = true := by
      simpa [Thread.inCols] using hq
    have hnone := colMask_eq_zero _ hzero (t.col % 4) (by omega)
    have hl : l ∈ lanesOf G m := mem_lanesOf.2 ⟨(List.getElem?_eq_some_iff.1 ht).1, hm⟩
    have hcolumn : t.col = 4 * q.pos + t.col % 4 := by omega
    have hlane := List.any_eq_false.1 hnone l hl
    rw [ht] at hlane
    simp only [hcol, Bool.and_true, beq_iff_eq] at hlane
    exact hlane hcolumn

/-- Every lane of a mask that is active in one of the sequencers parks. -/
theorem parkPlan_covers {G : Group} {bad : BitVec 64} {l : Nat} (hbad : bad.getLsbD l = true) :
    ∀ (qs : List Seq) (free : Nat), (∃ q ∈ qs, G.activeIn q l = true) → (parkPlan G bad qs free).getLsbD l = true
  | [], _, ⟨_, hq, _⟩ => absurd hq List.not_mem_nil
  | q :: qs, free, ⟨r, hr, hact⟩ => by
    have hl : l < 64 := BitVec.lt_of_getLsbD hbad
    have hthread : l < G.threads.length := by
      unfold Group.activeIn Group.thread at hact
      split at hact
      case h_1 t ht => exact (List.getElem?_eq_some_iff.1 ht).1
      case h_2 => cases hact
    rcases List.mem_cons.1 hr with rfl | hr
    case inl =>
      have hall : (laneMask G.threads.length fun i => G.activeIn r i).getLsbD l = true := by
        rw [laneMask_getLsbD, decide_eq_true hthread, decide_eq_true hl, hact]; rfl
      simp only [parkPlan, if_neg (colsOf_ne_zero hbad hact)]
      split
      · rw [BitVec.getLsbD_or, BitVec.getLsbD_and, hall, hbad]; rfl
      split
      · rw [BitVec.getLsbD_or, BitVec.getLsbD_and, hall, hbad]; rfl
      · rw [BitVec.getLsbD_or, hall]; rfl
    case inr =>
      have rest (n : Nat) := parkPlan_covers hbad qs n ⟨r, hr, hact⟩
      simp only [parkPlan]
      split
      · exact rest _
      split
      · rw [BitVec.getLsbD_or, rest, Bool.or_true]
      split <;> rw [BitVec.getLsbD_or, rest, Bool.or_true]

/-- A lane that consumes has no effect. -/
theorem eaten_covers (s : State) {G : Group} {c : Cur} {m : BitVec 64} {l : Nat} (hm : m.getLsbD l = true) (hk0 : (G.k0 c).getLsbD l = true) :
    (s.eaten G c m).getLsbD l = true := by
  unfold State.eaten
  split
  · exact parkPlan_covers hm _ _ (k0_getLsbD hk0)
  · exact hm

theorem eaten_of_team (s : State) {G : Group} {c : Cur} {k : Nat} (m : BitVec 64) (hk : G.team = some k) : s.eaten G c m = m := by
  rw [State.eaten, hk]

/-! ## A unit some of whose lanes consume -/

/-- What a lane gives that consumes when it is in a set, and otherwise completes with no flag. -/
def eatOrWrite (eats : BitVec 64) (vals : Nat → List PWord) (l : Nat) : LaneOut :=
  if eats.getLsbD l then .consume else .ok (vals l) 0#5

theorem eatOrWrite_fault (eats : BitVec 64) (vals : Nat → List PWord) (l : Nat) : (eatOrWrite eats vals l).fault = none := by
  unfold eatOrWrite; split <;> rfl

theorem eatOrWrite_flags (eats : BitVec 64) (vals : Nat → List PWord) (l : Nat) : (eatOrWrite eats vals l).flags = 0#5 := by
  unfold eatOrWrite; split <;> rfl

theorem eatOrWrite_eq_consume (eats : BitVec 64) (vals : Nat → List PWord) (l : Nat) :
    eatOrWrite eats vals l = .consume ↔ eats.getLsbD l = true := by
  unfold eatOrWrite; split <;> simp [*]

section Eating
variable (ls : List Nat) (eats : BitVec 64) (vals : Nat → List PWord)

theorem faultsOf_eatOrWrite : faultsOf (ls.map fun l => (l, eatOrWrite eats vals l)) = [] := by
  rw [faultsOf, List.filterMap_eq_nil_iff]
  simp [eatOrWrite_fault]

theorem flagsOf_eatOrWrite (gone : BitVec 64) : flagsOf (ls.map fun l => (l, eatOrWrite eats vals l)) gone = 0#5 := by
  rw [flagsOf, List.foldl_map]
  simp only [eatOrWrite_flags, BitVec.or_zero, ite_self]
  exact List.foldl_fixed ls

theorem eatersOf_eatOrWrite (h : ∀ l, eats.getLsbD l = true → l ∈ ls) : eatersOf (ls.map fun l => (l, eatOrWrite eats vals l)) = eats := by
  refine BitVec.eq_of_getLsbD_eq fun i hi => ?_
  rw [eatersOf, laneMask_getLsbD, decide_eq_true hi, Bool.true_and, Bool.true_and, Bool.eq_iff_iff, List.any_map, List.any_eq_true]
  simp only [Function.comp, Bool.and_eq_true, beq_iff_eq, decide_eq_true_eq, eatOrWrite_eq_consume]
  constructor
  · rintro ⟨l, _, rfl, heats⟩; exact heats
  · exact fun heats => ⟨i, h i heats, rfl, heats⟩

theorem wordsOf_eatOrWrite {l : Nat} (hl : l ∈ ls) (h : eats.getLsbD l = false) :
    wordsOf (ls.map fun m => (m, eatOrWrite eats vals m)) l = some (vals l) := by
  rw [wordsOf, find_lane ls (eatOrWrite eats vals) l hl, Option.bind_some, eatOrWrite, h]
  rfl

end Eating

/-- The write-back to registers depends on the results of the run lanes that have an effect. -/
theorem writeBack_regs_congr (G : Group) (u : Unit) (c : Cur) (r : BitVec 7) (n : Nat) (k0 run gone : BitVec 64) {f g : Nat → Option (List PWord)}
    (h : ∀ l, run.getLsbD l = true → gone.getLsbD l = false → f l = g l) :
    G.writeBack u c (.regs r n) k0 run gone f = G.writeBack u c (.regs r n) k0 run gone g := by
  have lane (l : Nat) (hgone : gone.getLsbD l ≠ true) (hrun : run.getLsbD l = true) : f l = g l := h l hrun (by simpa using hgone)
  unfold Group.writeBack
  dsimp only
  split
  case isTrue =>
    split
    case h_1 => rfl
    case h_2 l _ =>
      split
      · rfl
      next hgone =>
        split
        next hrun => rw [lane l hgone hrun]
        next => rfl
  case isFalse =>
    congr 2
    funext l t
    split
    · rfl
    next hgone =>
      split
      next =>
        congr 1
        split
        next hrun => exact lane l hgone hrun
        next => rfl
      next => rfl

/-- Retiring a unit with lanes that consume and no lane that faults (R368): the other lanes write back, and the consumption is acted on. -/
theorem retire_eatOrWrite {s : State} {G : Group} {c : Cur} {u : Unit} {r : BitVec 7} {n : Nat} {eats : BitVec 64} {vals : Nat → List PWord}
    {H : Group} (hG : s.group G.gctx = some G) (hne : eats ≠ 0#64) (hrun : ∀ l, eats.getLsbD l = true → (u.run G c).getLsbD l = true)
    (hH : H = G.writeBack u c (.regs r n) (G.k0 c) (u.run G c) (s.eaten G c eats) fun l => some (vals l)) :
    (s.setGroup H).group G.gctx = some H
      ∧ s.retire G c u (.regs r n) false ((lanesOf G (u.run G c)).map fun l => (l, eatOrWrite eats vals l)) = (s.setGroup H).consume H c eats := by
  have hwords : ∀ l, (u.run G c).getLsbD l = true → (s.eaten G c eats).getLsbD l = false →
      wordsOf ((lanesOf G (u.run G c)).map fun m => (m, eatOrWrite eats vals m)) l = some (vals l) := by
    intro l hl hgone
    refine wordsOf_eatOrWrite _ _ _ (mem_run.2 hl) (Bool.eq_false_iff.2 fun heats => ?_)
    exact absurd (eaten_covers s heats (run_subset_k0 hl)) (by simp [hgone])
  have hgroup : (s.setGroup H).group G.gctx = some H := hH ▸ group_setGroup_writeBack G u c _ _ _ _ _ hG
  refine ⟨hgroup, ?_⟩
  simp only [State.retire, faultsOf_eatOrWrite, worst, eatersOf_eatOrWrite _ eats vals (fun l hl => mem_run.2 (hrun l hl)), flagsOf_eatOrWrite, if_neg hne]
  rw [writeBack_regs_congr G u c r n _ _ _ hwords, ← hH, State.raiseFlags, if_pos rfl, hgroup]

/-- A register unit that passes its checks retires what its run lanes give. -/
theorem laneUnit_retire {s : State} {c : Cur} {G : Group} {u : Unit} {d : Dst} {f : State → Cur → Group → Nat → LaneOut} (h : Ready s c G u) :
    laneUnit u d f s = .next (s.retire G c u d false ((lanesOf G (u.run G c)).map fun l => (l, f s c G l))) := by
  simp only [laneUnit, withUnit, h.cur, h.group, h.check]

/-! ## Poisoned sources of the word form (R18) -/

theorem readWords_one (G : Group) (l c : Nat) : G.readWords l c 1 = [G.readWord l c] := by
  have hzero : G.readWord l 124 = pzero := by
    unfold Group.readWord
    split <;> rfl
  unfold Group.readWords
  simp only [List.range_one, List.map_cons, List.map_nil, Nat.add_zero]
  split
  next h => rw [h, hzero]
  next => rfl

theorem onWords_pair (G : Group) (l : Nat) (a b : BitVec 7) (f : Word → Word → Word) :
    onWords G l [(a.toNat, 1), (b.toNat, 1)] (fun v => ([f (w0 v) (w1 v)], 0#5))
      = if (G.readWord l a.toNat).poison || (G.readWord l b.toNat).poison then .consume else .ok [clean (f (G.val l a) (G.val l b))] 0#5 := by
  simp [onWords, readWords_one, anyPoison, w0, w1, Group.val]

theorem poisonConsumed : Claim.PoisonConsumed := by
  intro p hp n d a b s c G eats u h hne heats H
  have hgctx := group_gctx h.group
  have hrun : ∀ l, eats.getLsbD l = true → (u.run G c).getLsbD l = true := fun l hl => by
    rw [heats l, Bool.and_eq_true] at hl; exact hl.1
  have houts : (lanesOf G (u.run G c)).map (fun l => (l, onWords G l [(a.toNat, 1), (b.toNat, 1)] fun v => ([p.2 (w0 v) (w1 v)], 0#5)))
      = (lanesOf G (u.run G c)).map fun l => (l, eatOrWrite eats (fun l => [clean (p.2 (G.val l a) (G.val l b))]) l) := by
    refine List.map_congr_left fun l hl => ?_
    rw [onWords_pair, eatOrWrite, heats l, mem_run.1 hl, Bool.true_and]
  obtain ⟨hK, hretire⟩ := retire_eatOrWrite (r := d) (n := 1) (H := H) (hgctx ▸ h.group) hne hrun rfl
  refine ⟨fun k hk => eaten_of_team s eats hk, H, hgctx ▸ hK, ?_⟩
  rw [exec_intBinary p hp, ← hretire, ← houts]
  exact laneUnit_retire h

/-- Settles O9: every instruction of the table is the word form, whose unit is refused by the first check that fails and otherwise retires its
lanes; a lane that consumes is among those that have no effect. -/
theorem unitChecksAndPoison : Obligations.UnitChecksAndPoison := ⟨unitChecksTrap, poisonConsumed⟩

end Sys2Proof.Machine
end

section
/-! Privileged instructions and the special registers (spec/01 R19 to R27). -/
namespace Sys2Proof.Machine

/-! ## The checks of a system instruction (R19, R28) -/

theorem Level.atLeast_iff (l m : Level) : l.atLeast m = true ↔ m.code ≤ l.code := by simp [Level.atLeast]

theorem Level.code_lt_M {l : Level} (h : l ≠ .M) : l.code < Level.code .M := by
  cases l <;> simp [Level.code] at h ⊢

/-- Which words may stand before a control instruction does not depend on the registers it names. -/
theorem ctlUnit_prefixOk (names : List (BitVec 7 × Nat)) (c : Cur) : (ctlUnit false names).prefixOk c = (ctlUnit false []).prefixOk c := rfl

theorem sysChecks_of_low {names : List (BitVec 7 × Nat)} {enc : Bool} {lvl : Level} {c : Cur} {G : Group}
    (hp : (ctlUnit false []).prefixOk c = true) (henc : enc = true) (hlow : G.level.code < lvl.code) :
    sysChecks (ctlUnit false names) enc lvl c G = some 0x02#8 := by
  have hlvl : G.level.atLeast lvl = false := by simp [Level.atLeast, hlow]
  simp [sysChecks, ctlUnit_prefixOk names, hp, henc, hlvl]

theorem sysChecks_of_ready {u : Unit} {enc : Bool} {lvl : Level} {s : State} {c : Cur} {G : Group} (h : Ready s c G u) (henc : enc = true)
    (hlvl : lvl.code ≤ G.level.code) : sysChecks u enc lvl c G = none := by
  obtain ⟨hp, -⟩ := check_eq_none_iff.1 h.check
  simp [sysChecks, hp, henc, (Level.atLeast_iff _ _).2 hlvl, h.check]

theorem sysUnit_trap {s : State} {c : Cur} {G : Group} {u : Unit} {enc : Bool} {lvl : Level} {k : Cur → Group → State} {cause : BitVec 8}
    (h : InUnit s c G) (hc : sysChecks u enc lvl c G = some cause) : sysUnit u enc lvl s k = .next (s.trapUnit G c cause 0) := by
  simp only [sysUnit, withUnit, h.cur, h.group, hc]

/-- Settles O39: the level is checked after the encoding and before anything else. -/
theorem privilegeTraps : Obligations.PrivilegeTraps := by
  intro a x s c G h hp
  have user : G.level = .U → G.level.code < Level.code .S := fun hU => by rw [hU]; decide
  refine ⟨fun hU hx => ⟨?eret, ?ctxsw⟩, fun hU ha => ⟨?dsrd, ?dswr⟩, fun hM => ⟨?freeze, ?event⟩⟩
  case eret => exact sysUnit_trap h (sysChecks_of_low hp (decide_eq_true hx) (user hU))
  case ctxsw => exact sysUnit_trap h (sysChecks_of_low hp rfl (user hU))
  case dsrd => exact sysUnit_trap h (sysChecks_of_low hp ha (user hU))
  case dswr => exact sysUnit_trap h (sysChecks_of_low hp ha (user hU))
  case freeze => exact sysUnit_trap h (sysChecks_of_low hp rfl (Level.code_lt_M hM))
  case event => exact sysUnit_trap h (sysChecks_of_low hp rfl (Level.code_lt_M hM))

/-! ## The numbers (R20, R21) -/

/-- The code that an access takes, as its number of words decides. -/
theorem crCode_eq (write : Bool) (r : Cr) (a : BitVec 7) :
    crCode write r a = if r.words = 2 then pairCode a else if write then decide (a.toNat ≤ 124) else wd a := by
  cases r <;> rfl

/-- The register that a number names lies at that number, or one below it. -/
theorem crOf_cases {n : Nat} {r : Cr} (h : crOf n = some r) : r = .word n ∨ r = .full n ∨ r = .high (n - 1) := by
  unfold crOf at h
  split at h
  · exact .inl (Option.some.inj h).symm
  split at h
  · exact .inr (.inl (Option.some.inj h).symm)
  split at h
  · exact .inr (.inr (Option.some.inj h).symm)
  · cases h

section Access
variable {write : Bool} {n : Nat} {a : BitVec 7} {c : Cur} {G : Group} {r : Cr}

theorem crChecks_of_unassigned (h : crOf n = none) : crChecks write n a c G = .error 0x01#8 := by rw [crChecks, h]

theorem crChecks_of_low (h : crOf n = some r) (hp : (ctlUnit false []).prefixOk c = true) (hcode : crCode write r a = true)
    (hlow : G.level.code < (crLevel n).code) : crChecks write n a c G = .error 0x02#8 := by
  rw [crChecks, h]
  simp only [sysChecks_of_low hp hcode hlow]

theorem crChecks_of_ready {s : State} (h : crOf n = some r) (hready : Ready s c G (ctlUnit false [(a, r.words)])) (hcode : crCode write r a = true)
    (hlvl : (crLevel n).code ≤ G.level.code) : crChecks write n a c G = .ok r := by
  rw [crChecks, h]
  simp only [sysChecks_of_ready hready hcode hlvl]

end Access

/-! ## Reading (R22) -/

theorem execCrd_trap {a : BitVec 7} {n : BitVec 12} {s : State} {c : Cur} {G : Group} {cause : BitVec 8} (h : InUnit s c G)
    (hc : crChecks false n.toNat a c G = .error cause) : execCrd a n s = .next (s.trapUnit G c cause 0) := by
  simp only [execCrd, withUnit, h.cur, h.group, hc]

theorem execCwr_trap {a : BitVec 7} {n : BitVec 12} {s : State} {c : Cur} {G : Group} {cause : BitVec 8} (h : InUnit s c G)
    (hc : crChecks true n.toNat a c G = .error cause) : execCwr a n s = .next (s.trapUnit G c cause 0) := by
  simp only [execCwr, withUnit, h.cur, h.group, hc]

/-- A word for all the lanes of a nonempty mask, written once where the destination is a uniform register. -/
theorem writeUnif_or_writeLanes {G : Group} {m : BitVec 64} {l : Nat} (h : lowest m = some l) (d : BitVec 7) (ws : List PWord) :
    (if isUnif d.toNat then G.writeUnif d.toNat ws else G.writeLanes d m fun _ => ws) = G.writeLanes d m fun _ => ws := by
  split
  next hu => rw [Group.writeLanes, if_pos hu, h]
  next => rfl

theorem execCrd_read {a : BitVec 7} {n : BitVec 12} {s : State} {c : Cur} {G : Group} {r : Cr} {l : Nat} (h : InUnit s c G)
    (hc : crChecks false n.toNat a c G = .ok r) (hl : lowest (G.k0 c) = some l) :
    execCrd a n s = .next (((if n = 0x40A#12 then s.flow [.faults (s.fOf G)] (s.laneIds G (G.k0 c)) else s).setGroup
      (G.writeLanes a (G.k0 c) fun _ => s.crWordsOf G r l)).advance c) := by
  simp only [execCrd, withUnit, h.cur, h.group, hc, hl, Option.getD_some]
  rw [writeUnif_or_writeLanes hl]

theorem split64_ofNat (v : Nat) : (split64 (BitVec.ofNat 64 v)).map clean = pairWords v := by
  have hlow : (BitVec.ofNat 64 v).setWidth 32 = BitVec.ofInt 32 v := by
    rw [BitVec.setWidth_ofNat_of_le (by decide), BitVec.ofInt_natCast]
  have hhigh : (BitVec.ofNat 64 v).extractLsb' 32 32 = BitVec.ofInt 32 ((v : Int) / 2 ^ 32) := by
    rw [highWord_ofNat, ← BitVec.ofInt_natCast, Int.natCast_ediv]; rfl
  simp only [split64, List.map_cons, List.map_nil, hlow, hhigh, pairWords]

/-- The table of the registers that are pieces of the state, each as it reads (R20, R21, and the registers' own rules). -/
theorem readCr_crTable {s : State} {G : Group} {T : Team} (hteam : G.team = some T.slot) (hT : s.team T.slot = some T) (l : Nat) :
    ∀ p ∈ crTable s G T l, s.readCr G l p.1 = p.2 := by
  have hof : s.teamOf G = some T := by rw [State.teamOf, hteam]; exact hT
  have hsel : s.ceSel G = T.cesel := by rw [State.ceSel, hof]
  unfold crTable
  repeat rw [List.forall_mem_cons]
  refine ⟨rfl, rfl, rfl, rfl, rfl, rfl, rfl, ?fpstat, ?win, rfl, rfl, rfl, rfl, rfl, rfl, rfl, rfl, ?lcnt, rfl, rfl, rfl, rfl, ?pool, ?lease, ?fpx, ?sel,
    rfl, rfl, rfl, ?cover, ?events, rfl, List.forall_mem_nil _⟩
  case fpstat =>
    show (s.fp G).pending.toNat * 256 + (s.fp G).committed.toNat = (s.fp G).committed.toNat + 256 * (s.fp G).pending.toNat
    omega
  case win =>
    show _ + G.winb / 8 % 32 = G.winb / 8 % 32 + 256 * _
    cases G.thread l with
    | none => exact Nat.add_comm ..
    | some t => simp only [Option.elim]; omega
  case lcnt =>
    show ((s.slice (s.fOf G)).lcnt.getD (0x45F - 0x450) 0#32).toNat = _
    rfl
  case pool =>
    show min 2047 s.live.claims.length * 2 ^ 16 + s.live.free % 2 ^ 14 = s.live.free % 2 ^ 14 + 2 ^ 16 * min 2047 s.live.claims.length
    omega
  case fpx =>
    show (match s.teamOf G with | some U => U.fpx.toNat | none => 0) = T.fpx.toNat
    rw [hof]
  case sel =>
    show (s.ceSel G).toNat = T.cesel.toNat
    rw [hsel]
  all_goals cases h : s.share G.share <;> simp [State.readCr, State.sliceReg, State.coreReg, h]

theorem registerReads : Claim.RegisterReads := by
  intro a n s c G T hteam hT
  refine ⟨fun r l hr hcode hl hlvl h => ?read, fun l => ⟨readCr_crTable hteam hT l, fun v hv => ⟨?word, ?full, ?high⟩⟩, fun hr h => ⟨?crd, ?cwr⟩,
    fun r hr h hp hcode hlow => ?low⟩
  case read => exact execCrd_read h.toInUnit (crChecks_of_ready hr h ((crCode_eq false r a).trans hcode) hlvl) hl
  case word => rw [State.crWordsOf, hv]
  case full => rw [State.crWordsOf, hv, split64_ofNat]
  case high => rw [State.crWordsOf, hv]
  case crd => exact execCrd_trap h (crChecks_of_unassigned hr)
  case cwr => exact execCwr_trap h (crChecks_of_unassigned hr)
  case low => exact execCrd_trap h (crChecks_of_low hr hp ((crCode_eq false r a).trans hcode) hlow)

/-! ## Writing (R6, R7, R22) -/

/-- The value of a source's words, low word first (R3). -/
theorem leNat_natLe_word (w : Word) : leNat (natLe 4 w.toNat) = w.toNat := by
  have := w.isLt
  simp only [natLe, leNat, BitVec.toNat_ofNat]
  omega

theorem leNat_word_append (w : Word) (bs : List Byte) : leNat (natLe 4 w.toNat ++ bs) = w.toNat + 2 ^ 32 * leNat bs := by
  have := w.isLt
  simp only [natLe, leNat, List.cons_append, List.nil_append, BitVec.toNat_ofNat]
  omega

theorem readWords_value (G : Group) (l : Nat) (a : BitVec 7) (r : Cr) :
    leNat ((G.readWords l a.toNat r.words).flatMap fun w => natLe 4 w.val.toNat) = if r.words = 2 then G.pair l a else (G.val l a).toNat := by
  cases r with
  | full m =>
    simp only [Cr.words, if_true, Group.pair, Group.readWords, List.range_succ]
    simp only [List.range_zero, List.nil_append, List.cons_append, List.map_cons, List.map_nil, List.flatMap_cons, List.flatMap_nil, List.append_nil,
      leNat_word_append, leNat_natLe_word, List.getD_cons_zero, List.getD_cons_succ]
  | word m => simp [Cr.words, readWords_one, leNat_natLe_word, Group.val]
  | high m => simp [Cr.words, readWords_one, leNat_natLe_word, Group.val]

/-- The state after a write to a register whose source is clean: the trap for a reserved bit or a value that the register does not take,
else the written state, released to the dispatcher for the post register of the launch queue (R6, R7, R22, R129). -/
def State.afterCwr (s : State) (G : Group) (c : Cur) (n v : Nat) : State :=
  if crReserved n v then s.trapUnit G c 0x01#8 0
  else match s.writeCr G n v with
    | some t => (if n = 0x442 then t.flow (s.allIds G) [.dispatcher s.die] else t).advance c
    | none => s.trapUnit G c 0x01#8 0

/-- A write through a number that is not the upper half of a register (R21, R22). -/
theorem execCwr_clean {a : BitVec 7} {n : BitVec 12} {s : State} {c : Cur} {G : Group} {r : Cr} {l v : Nat} (h : InUnit s c G)
    (hc : crChecks true n.toNat a c G = .ok r) (hr : r = .word n.toNat ∨ r = .full n.toNat) (hl : lowest (G.k0 c) = some l)
    (hclean : cleanIn G l a r.words) (hv : v = if r.words = 2 then G.pair l a else (G.val l a).toNat) :
    execCwr a n s = .next (s.afterCwr G c n.toNat v) := by
  have hvalue := hv ▸ readWords_value G l a r
  rw [cleanIn] at hclean
  simp only [execCwr, withUnit, h.cur, h.group, hc, hl, hclean, hvalue, Bool.false_eq_true, if_false, State.afterCwr]
  rcases hr with rfl | rfl
  all_goals
    dsimp only
    cases crReserved n.toNat v
    case true => rfl
    case false => cases s.writeCr G n.toNat v <;> rfl

/-- A write that is refused exactly when its condition fails. -/
theorem refused_unless {p : Prop} [Decidable p] {b : Bool} (h : p ↔ b = false) (t : State) :
    (if p then none else some t) = if b then some t else none := by
  cases b
  case false => rw [if_pos (h.2 rfl)]; rfl
  case true => rw [if_neg fun hp => Bool.noConfusion (h.1 hp)]; rfl

/-- The table of the writable registers, each as it is written (R6, and the registers' own rules). -/
theorem writeCr_cwTable {s : State} {G : Group} {T : Team} (hteam : G.team = some T.slot) (hT : s.team T.slot = some T) (v : Nat) :
    ∀ p ∈ cwTable s G T v, s.writeCr G p.1 v = if p.2.1 then some p.2.2 else none := by
  have hof : s.teamOf G = some T := by rw [State.teamOf, hteam]; exact hT
  unfold cwTable
  repeat rw [List.forall_mem_cons]
  refine ⟨?mode, rfl, rfl, rfl, rfl, ?qhead, ?qcfg, rfl, rfl, rfl, ?lease, ?fpx, ?sva, ?rva, rfl, rfl, List.forall_mem_nil _⟩
  case mode => exact refused_unless (p := 4 < v % 8) (by simp) _
  case qhead => exact refused_unless (p := (s.queue (s.fOf G) s.die).walking = true) (by simp) _
  case qcfg => exact refused_unless (p := (s.queue (s.fOf G) s.die).walking = true) (by simp) _
  case lease => exact refused_unless (p := v = 0 ∨ 1024 < v) (by simp; omega) _
  case fpx =>
    show some (match s.teamOf G with | some U => s.setTeam { U with fpx := BitVec.ofNat 64 v } | none => s) = _
    rw [hof]
    rfl
  case sva => exact refused_unless (p := s.cx.state ≠ 0) (by simp) _
  case rva => exact refused_unless (p := s.cx.state ≠ 0) (by simp) _

/-- The post register of the launch queue, whose write releases to the dispatcher, is not in the table. -/
theorem cwTable_ne_qpost (s : State) (G : Group) (T : Team) (v : Nat) : ∀ p ∈ cwTable s G T v, p.1 ≠ 0x442 := by
  simp [cwTable]

/-- A write to a register of the table of a value without a reserved bit. -/
theorem afterCwr_cwTable {s : State} {G : Group} {T : Team} (hteam : G.team = some T.slot) (hT : s.team T.slot = some T) (c : Cur) {v : Nat}
    {p : Nat × Bool × State} (hp : p ∈ cwTable s G T v) (hres : crReserved p.1 v = false) :
    s.afterCwr G c p.1 v = if p.2.1 then p.2.2.advance c else s.trapUnit G c 0x01#8 0 := by
  have hpost := cwTable_ne_qpost s G T v p hp
  rw [State.afterCwr, hres, if_neg Bool.false_ne_true, writeCr_cwTable hteam hT v p hp]
  cases p.2.1
  case false => rfl
  case true => simp only [if_true, if_neg hpost]

theorem registerWrites : Claim.RegisterWrites := by
  intro a n s c G T l hteam hT r hr hhigh hcode hl hlvl h hclean v
  have hnum : r = .word n.toNat ∨ r = .full n.toNat := (crOf_cases hr).imp_right fun k => k.resolve_right hhigh
  have hwrite : exec (.cwr a n) s = .next (s.afterCwr G c n.toNat v) :=
    execCwr_clean h.toInUnit (crChecks_of_ready hr h ((crCode_eq true r a).trans hcode) hlvl) hnum hl hclean rfl
  refine ⟨fun hres p hp hpn => ?taken, fun hres => ?reserved⟩
  case taken =>
    rw [hwrite, ← hpn, afterCwr_cwTable hteam hT c hp (hpn ▸ hres)]
  case reserved => rw [hwrite, State.afterCwr, hres, if_pos rfl]

/-- Settles O38: a read and a write pass the same checks, and the tables of the statement are what `State.readCr` and `State.writeCr` give
for their numbers. -/
theorem specialRegisterResults : Obligations.SpecialRegisterResults := ⟨registerReads, registerWrites⟩

end Sys2Proof.Machine
end

section
/-! A step of the machine: the word that it fetches, and what it runs (spec/01 R28; spec/02 R41; spec/12 R269). -/
namespace Sys2Proof.Machine

/-! ## Which part of a cycle a step runs -/

theorem step_of_cur {s : State} {c : Cur} (hd : s.device = false) (hb : s.bank.cur = none) (hc : s.cur = some c) (haway : c.away = false) :
    step s = withJournal s (s.runWord c) := by
  simp only [step, State.advanceOne, hd, hb, hc, Option.isSome_some, State.runCur, awayStep, haway, Bool.false_eq_true, if_false, if_true]

theorem step_of_bank {s : State} {k : Nat × Nat} (hd : s.device = false) (hb : s.bank.cur = some k) : step s = s.bankStep k := by
  simp only [step, State.advanceOne, hd, hb, Bool.false_eq_true, if_false]

theorem step_of_inputs {s : State} {i : Instr} {rest : List Instr} (hd : s.device = false) (hb : s.bank.cur = none) (hc : s.cur = none)
    (hissues : s.issues = []) (hidle : s.idle = 0) (hin : s.inputs = i :: rest) :
    step s = withJournal s (if s.choose.1 % 2 = 0 then s.choose.2.takeInput else .next s.choose.2.between) := by
  simp only [step, State.advanceOne, hd, hb, hc, Option.isSome_none, Bool.false_eq_true, if_false, State.idleStep, hissues, hidle, hin]

/-- An input that need not wait is taken, and has its effect. -/
theorem takeInput_head {s : State} {i : Instr} {rest : List Instr} (hin : s.inputs = i :: rest) (hword : isWord i = false)
    (hwait : s.inputWaits i = false) : s.takeInput = exec i { s with inputs := rest } := by
  have hfirst : s.firstInput [] 0 s.inputs = (some (0, i), s) := by
    rw [hin, State.firstInput, hwait]
    simp
  rw [State.takeInput, hfirst]
  simp only [hword, hin, List.eraseIdx_zero, List.tail_cons, Bool.false_eq_true, if_false]

/-! ## The word of a unit (R28, R41) -/

section Fetched
variable {s u : State} {c : Cur} {G : Group} (hG : s.group c.gctx = some G)
include hG

theorem runWord_flt {e : Flt} (h : s.fetchWord G c.pc = (.flt e, u)) : s.runWord c = .next (u.trapFetch G c e) := by
  simp only [State.runWord, hG, h]

theorem runWord_wait (h : s.fetchWord G c.pc = (.wait, u)) : s.runWord c = .next (u.retryUnit c .engine) := by
  simp only [State.runWord, hG, h]

theorem runWord_poison {w : Word} (h : s.fetchWord G c.pc = (.word w true, u)) :
    s.runWord c = .next ((u.atWord c w).consume G { c with word := w } (G.k0 c)) := by
  simp only [State.runWord, hG, h, if_true]

theorem runWord_decoded {w : Word} {i : Instr} (h : s.fetchWord G c.pc = (.word w false, u)) (hw : decodeWord w = some i) :
    s.runWord c = exec i ((u.atWord c w).cover G c w) := by
  simp only [State.runWord, hG, h, hw, Bool.false_eq_true, if_false]

/-- A word that decodes to nothing: a first PFX word is taken, any other is the trap. -/
theorem runWord_undecoded {w : Word} (h : s.fetchWord G c.pc = (.word w false, u)) (hw : decodeWord w = none) :
    s.runWord c = if w.extractLsb' 25 7 = 0x7E#7 ∧ c.pfx = none ∧ c.limm = none
      then .next { u with cur := some { c with word := w, pfx := some w, pc := c.pc + 4#56 } }
      else .next ((u.atWord c w).trapUnit G { c with word := w } 0x01#8 0) := by
  simp only [State.runWord, hG, h, hw, Bool.false_eq_true, if_false, Option.isNone_iff_eq_none, State.atWord]

end Fetched

/-! ## A fetch from DRAM (R28, R238) -/

/-- Without an older word in a cache, the fetch gives the word that memory holds. -/
theorem icFetch_fresh {s : State} {uid f a : Nat} {w : Word} {p : Bool} (h : s.staleWords uid f a w p = []) :
    ∃ t, s.icFetch uid f a w p = (w, p, t) := by
  unfold State.icFetch
  rw [h]
  exact ⟨_, rfl⟩

theorem fetchWord_dram {s u : State} {G : Group} {pc : BitVec 56} {f a : Nat} (hwalk : s.walkReqs (s.holder G) (s.view G) pc.toNat = [])
    (hres : globalRes s (s.view G) .fetch pc.toNat = (.ok (.dram f a), u)) (halign : pc.toNat % 4 = 0)
    (hheld : u.bankHolds (u.holder G) f a = false) (hclean : spaPoisonRange u f a 4 = false)
    (hfresh : u.staleWords G.uid f a (BitVec.ofNat 32 (leNat (spaRead u f a 4))) false = []) :
    (s.fetchWord G pc).1 = .word (BitVec.ofNat 32 (leNat (spaRead u f a 4))) false := by
  obtain ⟨t, ht⟩ := icFetch_fresh hfresh
  simp only [State.fetchWord, hwalk, hres, halign, State.codeLoc, Loc.base, hheld, hclean, ht, ne_eq, not_true_eq_false, Bool.false_eq_true, if_false]

/-- Settles O58: the step is `State.runWord` for a unit in progress, `State.bankStep` for the word of a microkernel and `State.idleStep`
otherwise, and each of them is taken apart by what it fetches or takes. -/
theorem stepRunsDecoded : Obligations.StepRunsDecoded := by
  intro s hd
  refine ⟨fun c G hb hc haway hG => ?unit, fun k r i w hb hr hi hw => ?bank, fun i rest hb hc hissues hidle hin hword => ?input⟩
  case unit =>
    have hstep := step_of_cur hd hb hc haway
    refine ⟨fun w i u h hw => ?decoded, fun w u h hw hop hpfx hlimm => ?pfx, fun w u h hw hno => ?illegal, fun e u h => ?flt, fun w u h => ?poison,
      fun u h => ?wait, fun f a u hwalk hres halign hheld hclean => fetchWord_dram hwalk hres halign hheld hclean⟩
    case decoded => rw [hstep, runWord_decoded hG h hw]
    case pfx => rw [hstep, runWord_undecoded hG h hw, if_pos ⟨hop, hpfx, hlimm⟩]
    case illegal => rw [hstep, runWord_undecoded hG h hw, if_neg fun ⟨hop, hpfx, hlimm⟩ => by simp [hop, hpfx, hlimm] at hno]
    case flt => rw [hstep, runWord_flt hG h]
    case poison => rw [hstep, runWord_poison hG h]
    case wait => rw [hstep, runWord_wait hG h]
  case bank =>
    rw [step_of_bank hd hb]
    simp only [State.bankStep, hr, hi, hw]
  case input =>
    refine ⟨_, rfl, fun hwait => ?_⟩
    rw [step_of_inputs hd hb hc hissues hidle hin]
    split
    · exact .inl (congrArg (withJournal s) (takeInput_head (s := s.choose.2) hin hword hwait))
    · exact .inr rfl

end Sys2Proof.Machine
end

section
/-! The write-back of a unit: to the registers and latches of the lanes that its sequencers own, to a mask register, and to a uniform register
(spec/01 R13 to R16; spec/02 R37). The statement about it asks for the write in every active lane, owned or not, and fails there. -/
namespace Sys2Proof.Machine

/-! ## Main and operand registers of a thread (R12) -/

/-- The word of a thread's main or operand register, by code. -/
def Thread.word (t : Thread) (winb c : Nat) : PWord := if c < 96 then t.regs.getD (winb + c) pzero else t.opf.getD (c - 96) pzero

/-- The thread holds the register. -/
def Thread.holds (t : Thread) (winb c : Nat) : Prop := if c < 96 then winb + c < t.regs.length else c - 96 < t.opf.length

theorem readWord_eq_word {G : Group} {l c : Nat} {t : Thread} (ht : G.thread l = some t) (hc : c < 104) : G.readWord l c = t.word G.winb c := by
  rw [Group.readWord, ht, Thread.word]
  dsimp only
  rw [if_pos hc]

theorem getD_set {xs : List PWord} {i j : Nat} (v : PWord) (hi : i < xs.length) :
    (xs.set i v).getD j pzero = if j = i then v else xs.getD j pzero := by
  rw [List.getD_eq_getElem?_getD, List.getElem?_set, if_pos hi, List.getD_eq_getElem?_getD]
  split
  next h => rw [if_pos h.symm]; rfl
  next h => rw [if_neg (Ne.symm h)]

theorem writeWord_main (t : Thread) (winb : Nat) {c : Nat} (v : PWord) (h : c < 96) :
    t.writeWord winb c v = { t with regs := t.regs.set (winb + c) v } := if_pos h

theorem writeWord_operand (t : Thread) (winb : Nat) {c : Nat} (v : PWord) (h : ¬ c < 96) (hc : c < 104) :
    t.writeWord winb c v = { t with opf := t.opf.set (c - 96) v } := (if_neg h).trans (if_pos hc)

theorem writeWord_word {t : Thread} {winb c x : Nat} (v : PWord) (hc : c < 104) (h : t.holds winb c) :
    (t.writeWord winb c v).word winb x = if x = c then v else t.word winb x := by
  unfold Thread.holds at h
  by_cases hmain : c < 96
  · rw [if_pos hmain] at h
    rw [writeWord_main t winb v hmain, Thread.word, Thread.word]
    split
    · rw [getD_set v h]
      exact if_congr (by omega) rfl rfl
    · rw [if_neg (by omega)]
  · rw [if_neg hmain] at h
    rw [writeWord_operand t winb v hmain hc, Thread.word, Thread.word]
    split
    · rw [if_neg (by omega)]
    · rw [getD_set v h]
      exact if_congr (by omega) rfl rfl

theorem writeWord_holds (t : Thread) (winb x : Nat) {c : Nat} (v : PWord) (hc : c < 104) : (t.writeWord winb c v).holds winb x ↔ t.holds winb x := by
  by_cases hmain : c < 96
  · simp only [writeWord_main t winb v hmain, Thread.holds, List.length_set]
  · simp only [writeWord_operand t winb v hmain hc, Thread.holds, List.length_set]

theorem writeWords_word {t : Thread} {winb c : Nat} {ws : List PWord} (hc : c + ws.length ≤ 104) (h : ∀ i < ws.length, t.holds winb (c + i)) (x : Nat) :
    (t.writeWords winb c ws).word winb x = if c ≤ x ∧ x < c + ws.length then ws.getD (x - c) pzero else t.word winb x := by
  have written : ∀ n ≤ ws.length, let u := (List.range n).foldl (fun u i => u.writeWord winb (c + i) (ws.getD i pzero)) t
      (∀ y, u.holds winb y ↔ t.holds winb y) ∧ u.word winb x = if c ≤ x ∧ x < c + n then ws.getD (x - c) pzero else t.word winb x := by
    intro n
    induction n with
    | zero => exact fun _ => ⟨fun _ => Iff.rfl, (if_neg (by omega)).symm⟩
    | succ n ih =>
      intro hn
      obtain ⟨hholds, hword⟩ := ih (by omega)
      simp only [List.range_succ, List.foldl_append, List.foldl_cons, List.foldl_nil]
      refine ⟨fun y => (writeWord_holds _ winb y _ (by omega)).trans (hholds y), ?_⟩
      rw [writeWord_word _ (by omega) ((hholds _).2 (h n (by omega))), hword]
      by_cases hx : x = c + n
      · subst hx
        rw [if_pos rfl, if_pos (by omega), Nat.add_sub_cancel_left]
      · rw [if_neg hx]
        exact if_congr (by omega) rfl rfl
  unfold Thread.writeWords
  split
  next => rw [if_neg (by omega)]
  next => exact (written ws.length le_rfl).2

theorem writeWord_lats (t : Thread) (winb c : Nat) (v : PWord) : (t.writeWord winb c v).lats = t.lats := by
  unfold Thread.writeWord
  split
  · rfl
  split <;> rfl

theorem writeWords_lats (t : Thread) (winb c : Nat) (ws : List PWord) : (t.writeWords winb c ws).lats = t.lats := by
  unfold Thread.writeWords
  split
  · rfl
  induction List.range ws.length generalizing t with
  | nil => rfl
  | cons i is ih => exact (ih _).trans (writeWord_lats ..)

/-! ## A thread's part of the write-back (R15, R16, R37) -/

theorem pushes_word {α : Type} (winb x : Nat) (f : α → PWord) (g : α → BitVec 9) (is : List α) (t : Thread) :
    (is.foldl (fun v i => v.push (f i) (g i)) t).word winb x = t.word winb x := by
  induction is generalizing t with
  | nil => rfl
  | cons i is ih => exact ih (t.push (f i) (g i))

/-- The word that a thread's destination holds after a unit, at a code x of the destination from c on (R37). -/
def Thread.merged (t : Thread) (winb c x : Nat) (zero : Bool) : Option (List PWord) → PWord
  | some ws => ws.getD (x - c) pzero
  | none => if zero then pzero else t.word winb x

/-- The register code names main registers or operand registers, all of them in the file. -/
def inFile (c n : Nat) : Prop := c + n ≤ 96 ∨ 96 ≤ c ∧ c + n ≤ 104

/-- The words that a lane without a result keeps in its destination. -/
theorem keptWords_getD {t : Thread} {winb c n x : Nat} (hc : inFile c n) (hx : c ≤ x ∧ x < c + n) :
    ((List.range n).map fun i => if c < 96 then t.regs.getD (winb + c + i) pzero
      else if c < 104 then t.opf.getD (c - 96 + i) pzero else pzero).getD (x - c) pzero = t.word winb x := by
  obtain ⟨i, rfl⟩ := Nat.exists_eq_add_of_le hx.1
  have hi : i < n := by omega
  rw [Nat.add_sub_cancel_left, List.getD_eq_getElem?_getD, List.getElem?_map, List.getElem?_range hi, Option.map_some, Option.getD_some, Thread.word]
  rcases hc with hmain | ⟨hoperand, hend⟩
  · rw [if_pos (by omega), if_pos (by omega), Nat.add_assoc]
  · rw [if_neg (by omega), if_pos (by omega), if_neg (by omega), Nat.sub_add_comm hoperand]

theorem retire_word {t : Thread} {winb c n : Nat} {nw latch zero inK0 : Bool} {res : Option (List PWord)} (hc : inFile c n)
    (hres : ∀ ws, res = some ws → ws.length = n) (hholds : inK0 = true → ∀ i < n, t.holds winb (c + i)) (x : Nat) :
    (t.retire winb c n nw latch zero inK0 res).word winb x
      = if c ≤ x ∧ x < c + n ∧ inK0 = true ∧ nw = false then t.merged winb c x zero res else t.word winb x := by
  have written (ws : List PWord) (hlen : ws.length = n) (hws : c ≤ x ∧ x < c + n → ws.getD (x - c) pzero = t.merged winb c x zero res) :
      (if inK0 && !nw then t.writeWords winb c ws else t).word winb x
        = if c ≤ x ∧ x < c + n ∧ inK0 = true ∧ nw = false then t.merged winb c x zero res else t.word winb x := by
    cases hk : inK0 && !nw
    case false =>
      rw [if_neg Bool.false_ne_true, if_neg]
      rintro ⟨_, _, hin, hnw⟩
      simp [hin, hnw] at hk
    case true =>
      obtain ⟨hin, hnw⟩ : inK0 = true ∧ nw = false := by simpa using hk
      subst hlen
      rw [if_pos rfl, writeWords_word (by unfold inFile at hc; omega) (hholds hin)]
      by_cases hx : c ≤ x ∧ x < c + ws.length
      · rw [if_pos hx, if_pos ⟨hx.1, hx.2, hin, hnw⟩, hws hx]
      · rw [if_neg hx, if_neg fun k => hx ⟨k.1, k.2.1⟩]
  unfold Thread.retire
  extract_lets old after u
  have hafter : after.length = n ∧ (c ≤ x ∧ x < c + n → after.getD (x - c) pzero = t.merged winb c x zero res) := by
    cases res with
    | some ws => exact ⟨hres ws rfl, fun _ => rfl⟩
    | none =>
      have hdiscard : decide (c = 124) = false := decide_eq_false (by unfold inFile at hc; omega)
      cases zero
      case true => simp [after, Thread.merged]
      case false =>
        simp only [after, hdiscard, Bool.or_self, Bool.false_eq_true, if_false]
        exact ⟨by simp [old], fun hx => keptWords_getD hc hx⟩
  split
  · rw [pushes_word]
    exact written after hafter.1 hafter.2
  · exact written after hafter.1 hafter.2

theorem pushes_lats {α : Type} (f : α → PWord) (g : α → BitVec 9) (i : α) (t : Thread) :
    ([i].foldl (fun v i => v.push (f i) (g i)) t).lats = ⟨f i, g i, false⟩ :: t.lats.take 3 := rfl

/-! ## A group's part -/

/-- The thread of a lane after a unit with a register destination whose lanes all complete: written when an issuing sequencer owns it. -/
def Group.retired (G : Group) (c : Cur) (u : Unit) (r n : Nat) (vals : Nat → List PWord) (l : Nat) (t : Thread) : Thread :=
  if (G.issuing c).any fun q => G.ownedBy q l then
    t.retire G.winb r n u.nw u.latch (pfxZm c) ((G.k0 c).getLsbD l) (if (u.run G c).getLsbD l then some (vals l) else none)
  else t

theorem writeBack_thread (G : Group) (u : Unit) (c : Cur) {r : BitVec 7} (n : Nat) (vals : Nat → List PWord) (hr : isUnif r.toNat = false) (l : Nat) :
    (G.writeBack u c (.regs r n) (G.k0 c) (u.run G c) 0#64 fun l => some (vals l)).thread l
      = (G.thread l).map (G.retired c u r.toNat n vals l) := by
  unfold Group.retired
  simp only [Group.writeBack, hr, Bool.false_eq_true, if_false, Group.thread, List.getElem?_mapIdx, Group.staying, if_true, BitVec.getLsbD_zero]

/-- The group after a completed unit whose destination is main or operand registers or 0x7C: its threads alone are written. -/
theorem laneDone_regs {s : State} {c : Cur} {G : Group} (h : InUnit s c G) (u : Unit) {r : BitVec 7} (n : Nat) (vals : Nat → List PWord)
    (fl : BitVec 5) (hr : isUnif r.toNat = false) : ∃ H, (s.laneDone G c u (.regs r n) vals fl).group c.gctx = some H
      ∧ H.unif = G.unif ∧ H.masks = G.masks ∧ H.winb = G.winb ∧ ∀ l, H.thread l = (G.thread l).map (G.retired c u r.toNat n vals l) := by
  obtain ⟨m, x, hgroup, -⟩ := laneDone_group h u (.regs r n) vals fl
  have hthread := writeBack_thread G u c n vals hr
  have hrest : ∃ ts, G.writeBack u c (.regs r n) (G.k0 c) (u.run G c) 0#64 (fun l => some (vals l)) = { G with threads := ts } := by
    unfold Group.writeBack
    simp only [hr, Bool.false_eq_true, if_false]
    exact ⟨_, rfl⟩
  obtain ⟨ts, e⟩ := hrest
  rw [e] at hgroup hthread
  exact ⟨_, hgroup, rfl, rfl, rfl, hthread⟩

/-- A lane of k0 holds every register that the unit names (R10). -/
theorem holds_of_check {G : Group} {c : Cur} {u : Unit} {r n l : Nat} {t : Thread} (h : u.check G c = none)
    (hnames : u.names.contains (BitVec.ofNat 7 r, n) = true) (hfile : r + n ≤ 96 ∨ 96 ≤ r ∧ r + n ≤ 104 ∧ ∀ t ∈ G.threads, t.opf.length = 8)
    (hl : (G.k0 c).getLsbD l = true) (ht : G.thread l = some t) : ∀ i < n, t.holds G.winb (r + i) := by
  intro i hi
  unfold Thread.holds
  rcases hfile with hmain | ⟨hoperand, hend, hopf⟩
  · have hnamed : (BitVec.ofNat 7 r, n) ∈ u.allNames c := by
      unfold Unit.allNames
      split
      · simpa using hnames
      · exact List.mem_cons_of_mem _ (by simpa using hnames)
    obtain ⟨-, hok⟩ := check_eq_none_iff.1 h
    have hlane := List.all_eq_true.1 hok l (mem_lanesOf.2 ⟨k0_lt hl, hl⟩)
    rw [ht] at hlane
    have hname := List.all_eq_true.1 hlane _ hnamed
    have hr : (BitVec.ofNat 7 r).toNat = r := by rw [BitVec.toNat_ofNat]; omega
    rw [hr, Thread.namesOk, if_pos (by omega), decide_eq_true_eq] at hname
    rw [if_pos (by omega)]
    omega
  · rw [if_neg (by omega), hopf t (List.mem_of_getElem? ht)]
    omega

/-- What `Claim.RegisterWriteBack` says, of a group whose issuing sequencers own their active lanes. -/
theorem registerWriteBack_of_owned {s : State} {c : Cur} {G : Group} {u : Unit} {r n : Nat} {vals : Nat → List PWord} (fl : BitVec 5)
    (h : Ready s c G u) (howned : ∀ l, (G.k0 c).getLsbD l = true → ((G.issuing c).any fun q => G.ownedBy q l) = true)
    (hvals : ∀ l, (vals l).length = n) (hnames : u.names.contains (BitVec.ofNat 7 r, n) = true)
    (hfile : r + n ≤ 96 ∨ 96 ≤ r ∧ r + n ≤ 104 ∧ ∀ t ∈ G.threads, t.opf.length = 8) :
    ∃ H, (s.laneDone G c u (.regs (BitVec.ofNat 7 r) n) vals fl).group c.gctx = some H
      ∧ (∀ l x, l < 64 → x < 104 → H.readWord l x = if r ≤ x ∧ x < r + n ∧ (G.k0 c).getLsbD l ∧ u.nw = false
        then mergedWord G c u vals r l (x - r) else G.readWord l x)
      ∧ H.unif = G.unif ∧ H.masks = G.masks ∧ H.winb = G.winb := by
  have hr : (BitVec.ofNat 7 r).toNat = r := by rw [BitVec.toNat_ofNat]; omega
  have hin : inFile r n := by unfold inFile; omega
  obtain ⟨H, hgroup, hunif, hmasks, hwinb, hthread⟩ := laneDone_regs h.toInUnit u n vals fl
    (show isUnif (BitVec.ofNat 7 r).toNat = false by rw [hr]; simp [isUnif]; omega)
  rw [hr] at hthread
  refine ⟨H, hgroup, fun l x _ hx => ?_, hunif, hmasks, hwinb⟩
  cases ht : G.thread l with
  | none =>
    have hH : H.thread l = none := by rw [hthread, ht]; rfl
    have hk0 : ¬ (G.k0 c).getLsbD l = true := fun hl => by
      have := k0_lt hl
      simp [Group.thread] at ht
      omega
    rw [if_neg fun k => hk0 k.2.2.1, Group.readWord, hH, Group.readWord, ht]
  | some t =>
    rw [readWord_eq_word ((hthread l).trans (congrArg _ ht)) hx, readWord_eq_word ht hx, hwinb, Group.retired]
    have hretired := retire_word (t := t) (winb := G.winb) (nw := u.nw) (latch := u.latch) (zero := pfxZm c) (inK0 := (G.k0 c).getLsbD l)
      (res := if (u.run G c).getLsbD l then some (vals l) else none) hin (by split <;> simp [hvals])
      (fun hl => holds_of_check h.check hnames hfile hl ht) x
    by_cases hany : ((G.issuing c).any fun q => G.ownedBy q l) = true
    case neg =>
      rw [if_neg hany, if_neg fun k => hany (howned l k.2.2.1)]
    case pos =>
      rw [if_pos hany, hretired]
      split
      next hx' =>
        rw [mergedWord, hx'.2.2.1, Nat.add_sub_cancel' hx'.1, readWord_eq_word ht hx, Bool.true_and]
        split <;> rfl
      next => rfl

/-- What is pushed of a one-word result (R15, R16): its word, or in a lane without one what the policy keeps. -/
theorem retire_lats {t : Thread} {winb r : Nat} {nw zero inK0 : Bool} {res : Option (List PWord)} (hr : r < 104) :
    (t.retire winb r 1 nw true zero inK0 res).lats = ⟨t.merged winb r r zero res, latchTag winb r, false⟩ :: t.lats.take 3 := by
  have hdiscard : decide (r = 124) = false := decide_eq_false (by omega)
  unfold Thread.retire
  extract_lets old after u
  have hu : u.lats = t.lats := by
    simp only [u]
    split
    · exact writeWords_lats ..
    · rfl
  have hword : after.getD 0 pzero = t.merged winb r r zero res := by
    cases res with
    | some ws => rw [Thread.merged, Nat.sub_self]
    | none =>
      cases zero
      case true => simp [after, Thread.merged]
      case false =>
        simp only [after, hdiscard, Bool.or_self, Bool.false_eq_true, if_false, Thread.merged]
        exact Nat.sub_self r ▸ keptWords_getD (by unfold inFile; omega) ⟨le_rfl, by omega⟩
  rw [if_pos (by simp [hr]), List.range_one, pushes_lats, hword, hu, if_neg (by omega), Nat.add_zero]

theorem latchPush : Claim.LatchPush := by
  intro s c G u r vals fl h hr hvals hlatch
  have hcode : (BitVec.ofNat 7 r).toNat = r := by rw [BitVec.toNat_ofNat]; omega
  obtain ⟨H, hgroup, -, -, -, hthread⟩ := laneDone_regs h u 1 vals fl
    (show isUnif (BitVec.ofNat 7 r).toNat = false by rw [hcode]; simp [isUnif]; omega)
  rw [hcode] at hthread
  refine ⟨H, hgroup, fun l t ht => ?_⟩
  rw [hthread, ht, Option.map_some, Option.map_some, Group.retired, hlatch]
  split
  next =>
    rw [retire_lats hr, pushedWord, readWord_eq_word ht hr]
    split
    · simp [Thread.merged]
    · rfl
  next => rfl

/-! ## Mask and uniform registers (R13, R14) -/

/-- The bit of a lane in a mask destination: its result, the old bit, or zero by the policy (R37). -/
def Group.maskBit (G : Group) (c : Cur) (u : Unit) (k : Nat) (vals : Nat → List PWord) (l : Nat) : Bool :=
  if (u.run G c).getLsbD l then ((vals l).getD 0 pzero).val != 0#32
  else (G.masks.getD (k - 1) 0#64).getLsbD l && !((G.k0 c).getLsbD l && pfxZm c)

theorem writeBack_mask (G : Group) (c : Cur) (u : Unit) {k : Nat} (vals : Nat → List PWord) (hk : 1 ≤ k) :
    G.writeBack u c (.mask k) (G.k0 c) (u.run G c) 0#64 (fun l => some (vals l))
      = { G with masks := G.masks.set (k - 1) (laneMask 64 (G.maskBit c u k vals) &&& G.widthMask) } := by
  have hbit : ∀ l, (if (u.run G c).getLsbD l then ((vals l).getD 0 pzero).val != 0#32
      else if (G.k0 c).getLsbD l then (G.masks.getD (k - 1) 0#64).getLsbD l && !pfxZm c
      else (G.masks.getD (k - 1) 0#64).getLsbD l) = G.maskBit c u k vals l := by
    intro l
    unfold Group.maskBit
    cases (G.k0 c).getLsbD l <;> simp
  simp only [Group.writeBack, BitVec.getLsbD_zero, Bool.false_eq_true, if_false, hbit]
  exact if_neg (by omega)

theorem writeBack_uniform (G : Group) (c : Cur) (u : Unit) {r : BitVec 7} {l : Nat} {v : PWord} {vals : Nat → List PWord}
    (hr : isUnif r.toNat = true) (hl : lowest (G.k0 c) = some l) (hrun : (u.run G c).getLsbD l = true) (hv : vals l = [v]) :
    G.writeBack u c (.regs r 1) (G.k0 c) (u.run G c) 0#64 (fun l => some (vals l)) = { G with unif := G.unif.set (r.toNat - 108) v } := by
  unfold Group.writeBack
  simp only [hr, hl, hrun, hv, if_true, BitVec.getLsbD_zero, Bool.false_eq_true, if_false]
  rfl

theorem maskAndUniformWriteBack : Claim.MaskAndUniformWriteBack := by
  intro s c G u k r vals fl h hk hlen
  refine ⟨?mask, fun hlow hhigh hunif l v hl hrun hv => ?uniform⟩
  case mask =>
    obtain ⟨m, x, hgroup, -⟩ := laneDone_group h u (.mask k) vals fl
    rw [writeBack_mask G c u vals hk] at hgroup
    have hbit (l : Nat) : ((G.masks.set (k - 1) (laneMask 64 (G.maskBit c u k vals) &&& G.widthMask)).getD (k - 1) 0#64).getLsbD l
        = (decide (l < 64) && G.maskBit c u k vals l && decide (l < G.width)) := by
      rw [List.getD_eq_getElem?_getD, List.getElem?_set_self (by omega), Option.getD_some, BitVec.getLsbD_and, Group.widthMask, laneMask_getLsbD,
        laneMask_getLsbD]
      cases decide (l < 64) <;> simp
    refine ⟨_, hgroup, rfl, rfl, fun l hw h64 => ?_, fun l hw => ?_, fun j hj => ?_⟩
    · exact (hbit l).trans (by simp [hw, h64, Group.maskBit])
    · exact (hbit l).trans (by simp [hw])
    · exact congrArg (Option.getD · 0#64) (List.getElem?_set_ne (by omega))
  case uniform =>
    have hr : (BitVec.ofNat 7 r).toNat = r := by rw [BitVec.toNat_ofNat]; omega
    obtain ⟨m, x, hgroup, -⟩ := laneDone_group h u (.regs (BitVec.ofNat 7 r) 1) vals fl
    rw [writeBack_uniform G c u (by rw [hr]; simp [isUnif]; omega) hl hrun hv, hr] at hgroup
    exact ⟨_, hgroup, rfl, rfl, fun j _ => getD_set v (by omega)⟩

/-! ## The statement -/

/-- A group whose one sequencer has an active column that it does not own: `Seq.own` and `Seq.active` are fields of plain data, and the
statement does not ask that the one covers the other (R97, R147). -/
def strayGroup : Group := { probeGroup 0#56 with seqs := [{ Seq.fresh 0 0 1#4 0#56 0 with own := 0#4 }] }

/-- Its unit. -/
def strayCur : Cur := ⟨false, 0, [0], 0#56, 0#56, 0#32, none, none, 1⟩

/-- The machine after reset with that group, whose unit is being issued. -/
def strayState : State := { State.reset with live := { Ctx.empty with groups := [strayGroup] }, cur := some strayCur }

/-- A word for v0. -/
def strayUnit : Unit := aluUnit 0#1 0 [(0#7, 1)]

/-- Every lane's result is 1. -/
def strayVals : Nat → List PWord := fun _ => [clean 1#32]

theorem stray_ready : Ready strayState strayCur strayGroup strayUnit := ⟨⟨rfl, rfl⟩, by decide +kernel⟩

/-- Lane 0 runs, so the statement gives its v0 the result; the write-back goes by the columns that a sequencer owns, and v0 keeps its zero. -/
theorem stray_readWord : ((strayState.laneDone strayGroup strayCur strayUnit (.regs (BitVec.ofNat 7 0) 1) strayVals 0#5).group 0).map
    (fun H => H.readWord 0 0) = some pzero := by decide +kernel

/-- Refutes O7: `Claim.RegisterWriteBack` promises every lane of k0 its merged word, but a lane that is active in a sequencer which does not
own its column is not written. Where the issuing sequencers own their active lanes it holds (`registerWriteBack_of_owned`), and the other two
parts of the statement hold as they stand (`latchPush`, `maskAndUniformWriteBack`). -/
theorem not_writeBackResults : ¬ Obligations.WriteBackResults := by
  rintro ⟨hwrite, -, -⟩
  obtain ⟨H, hgroup, hread, -⟩ := hwrite strayState strayCur strayGroup strayUnit 0 1 strayVals 0#5 stray_ready.toInUnit (fun _ => rfl)
    (by decide) stray_ready (.inl (by decide))
  have hkept : H.readWord 0 0 = pzero := by
    have hread := stray_readWord
    rw [show (strayState.laneDone _ _ _ _ _ _).group 0 = some H from hgroup] at hread
    exact Option.some.inj hread
  have hpromised : H.readWord 0 0 = clean 1#32 := by
    rw [hread 0 0 (by decide) (by decide)]
    decide +kernel
  exact absurd (hkept.symm.trans hpromised) (by decide)

end Sys2Proof.Machine
end

section
/-! Decoding and encoding (spec/02 R31 to R41): the fields of an encoded word, the major that picks the decoder's table, and the word of
every well-formed instruction. -/
namespace Sys2Proof

/-! ## Fields of a concatenation (R32)

The widths of the parts are matched up to computation, as a `Word` is a concatenation whose widths sum to 32: hence `no_index`. -/

section Append
variable {v w lo n : Nat} {x : BitVec v} {y : BitVec w}

theorem extractLsb'_append_hi (h : w ≤ lo) : (no_index (x ++ y)).extractLsb' lo n = x.extractLsb' (lo - w) n :=
  BitVec.extractLsb'_append_eq_of_le h

theorem extractLsb'_append_lo (h : lo + n ≤ w) : (no_index (x ++ y)).extractLsb' lo n = y.extractLsb' lo n :=
  BitVec.extractLsb'_append_eq_of_add_le h

theorem append_eq_iff {c : BitVec (v + w)} : x ++ y = c ↔ x = c.extractLsb' w v ∧ y = c.extractLsb' 0 w := by
  constructor
  · rintro rfl
    exact ⟨by rw [extractLsb'_append_hi le_rfl, Nat.sub_self, BitVec.extractLsb'_eq_self],
      by rw [extractLsb'_append_lo (by omega), BitVec.extractLsb'_eq_self]⟩
  · rintro ⟨rfl, rfl⟩
    rw [BitVec.extractLsb'_append_extractLsb'_eq_extractLsb' (Nat.zero_add w).symm, BitVec.extractLsb'_eq_self]

/-- A test of a word under a mask, as the decoder makes it for the majors 0x38, 0x4F and 0x7C, is a test of each part. -/
theorem append_and_eq_iff {m c : BitVec (v + w)} : @Eq (no_index (BitVec (v + w))) (no_index ((x ++ y) &&& m)) c
    ↔ x &&& m.extractLsb' w v = c.extractLsb' w v ∧ y &&& m.extractLsb' 0 w = c.extractLsb' 0 w := by
  have hm : m.extractLsb' w v ++ m.extractLsb' 0 w = m := append_eq_iff.2 ⟨rfl, rfl⟩
  conv_lhs => rw [← hm, BitVec.and_append]
  exact append_eq_iff

end Append

/-! ## The major of an encoded word (R32) -/

theorem fld_encR_major (op nw fn d a b) : fld (encR op nw fn d a b) 25 7 = op := by
  simp only [fld, encR, extractLsb'_append_hi, Nat.reduceLeDiff, Nat.reduceSub, BitVec.extractLsb'_eq_self]

theorem fld_encI_major (op d a imm) : fld (encI op d a imm) 25 7 = op := by
  simp only [fld, encI, extractLsb'_append_hi, Nat.reduceLeDiff, Nat.reduceSub, BitVec.extractLsb'_eq_self]

theorem fld_encB_major (op cc a off) : fld (encB op cc a off) 25 7 = op := by
  simp only [fld, encB, extractLsb'_append_hi, Nat.reduceLeDiff, Nat.reduceSub, BitVec.extractLsb'_eq_self]

theorem fld_encM_major (op sp cp d a off) : fld (encM op sp cp d a off) 25 7 = op := by
  simp only [fld, encM, extractLsb'_append_hi, Nat.reduceLeDiff, Nat.reduceSub, BitVec.extractLsb'_eq_self]

theorem fld_encC_major (op ch d a f) : fld (encC op ch d a f) 25 7 = op := by
  simp only [fld, encC, extractLsb'_append_hi, Nat.reduceLeDiff, Nat.reduceSub, BitVec.extractLsb'_eq_self]

theorem fld_encS_major (op fn a imm) : fld (encS op fn a imm) 25 7 = op := by
  simp only [fld, encS, extractLsb'_append_hi, Nat.reduceLeDiff, Nat.reduceSub, BitVec.extractLsb'_eq_self]

theorem fld_encK_major (op fn opnd) : fld (encK op fn opnd) 25 7 = op := by
  simp only [fld, encK, extractLsb'_append_hi, Nat.reduceLeDiff, Nat.reduceSub, BitVec.extractLsb'_eq_self]

theorem fld_encPfx_major (km zm rm c xsel) : fld (encPfx km zm rm c xsel) 25 7 = 126#7 := by
  simp only [fld, encPfx, extractLsb'_append_hi, Nat.reduceLeDiff, Nat.reduceSub, BitVec.extractLsb'_eq_self]

theorem fld_encLimm_major (imm) : fld (encLimm imm) 25 7 = 127#7 := by
  simp only [fld, encLimm, extractLsb'_append_hi, Nat.reduceLeDiff, Nat.reduceSub, BitVec.extractLsb'_eq_self]

/-! ## The table that the major picks (R40)

One equation for each major that selects further; the other majors hold one instruction each. -/

section Major
variable {w : Word}

theorem decodeRaw_of_major_00 (h : fld w 25 7 = 0x00#7) : decodeRaw w = decode00 w := by rw [decodeRaw, h]; rfl
theorem decodeRaw_of_major_01 (h : fld w 25 7 = 0x01#7) : decodeRaw w = decode01 w := by rw [decodeRaw, h]; rfl
theorem decodeRaw_of_major_02 (h : fld w 25 7 = 0x02#7) : decodeRaw w = decode02 w := by rw [decodeRaw, h]; rfl
theorem decodeRaw_of_major_03 (h : fld w 25 7 = 0x03#7) : decodeRaw w = decode03 w := by rw [decodeRaw, h]; rfl
theorem decodeRaw_of_major_04 (h : fld w 25 7 = 0x04#7) : decodeRaw w = decode04 w := by rw [decodeRaw, h]; rfl
theorem decodeRaw_of_major_05 (h : fld w 25 7 = 0x05#7) : decodeRaw w = decode05 w := by rw [decodeRaw, h]; rfl
theorem decodeRaw_of_major_06 (h : fld w 25 7 = 0x06#7) : decodeRaw w = decode06 w := by rw [decodeRaw, h]; rfl
theorem decodeRaw_of_major_14 (h : fld w 25 7 = 0x14#7) : decodeRaw w = decode14 w := by rw [decodeRaw, h]; rfl
theorem decodeRaw_of_major_1E (h : fld w 25 7 = 0x1E#7) : decodeRaw w = decode1E w := by rw [decodeRaw, h]; rfl
theorem decodeRaw_of_major_1F (h : fld w 25 7 = 0x1F#7) : decodeRaw w = decode1F w := by rw [decodeRaw, h]; rfl
theorem decodeRaw_of_major_20 (h : fld w 25 7 = 0x20#7) : decodeRaw w = decode20 w := by rw [decodeRaw, h]; rfl
theorem decodeRaw_of_major_21 (h : fld w 25 7 = 0x21#7) : decodeRaw w = decode21 w := by rw [decodeRaw, h]; rfl
theorem decodeRaw_of_major_22 (h : fld w 25 7 = 0x22#7) : decodeRaw w = decode22 w := by rw [decodeRaw, h]; rfl
theorem decodeRaw_of_major_23 (h : fld w 25 7 = 0x23#7) : decodeRaw w = decode23 w := by rw [decodeRaw, h]; rfl
theorem decodeRaw_of_major_30 (h : fld w 25 7 = 0x30#7) : decodeRaw w = decode30 w := by rw [decodeRaw, h]; rfl
theorem decodeRaw_of_major_31 (h : fld w 25 7 = 0x31#7) : decodeRaw w = decode31 w := by rw [decodeRaw, h]; rfl
theorem decodeRaw_of_major_32 (h : fld w 25 7 = 0x32#7) : decodeRaw w = decode32 w := by rw [decodeRaw, h]; rfl
theorem decodeRaw_of_major_33 (h : fld w 25 7 = 0x33#7) : decodeRaw w = decode33 w := by rw [decodeRaw, h]; rfl
theorem decodeRaw_of_major_34 (h : fld w 25 7 = 0x34#7) : decodeRaw w = decode34 w := by rw [decodeRaw, h]; rfl
theorem decodeRaw_of_major_38 (h : fld w 25 7 = 0x38#7) : decodeRaw w = decode38 w := by rw [decodeRaw, h]; rfl
theorem decodeRaw_of_major_39 (h : fld w 25 7 = 0x39#7) : decodeRaw w = decode39 w := by rw [decodeRaw, h]; rfl
theorem decodeRaw_of_major_44 (h : fld w 25 7 = 0x44#7) : decodeRaw w = decode44 w := by rw [decodeRaw, h]; rfl
theorem decodeRaw_of_major_45 (h : fld w 25 7 = 0x45#7) : decodeRaw w = decode45 w := by rw [decodeRaw, h]; rfl
theorem decodeRaw_of_major_4A (h : fld w 25 7 = 0x4A#7) : decodeRaw w = decode4A w := by rw [decodeRaw, h]; rfl
theorem decodeRaw_of_major_4C (h : fld w 25 7 = 0x4C#7) : decodeRaw w = decode4C w := by rw [decodeRaw, h]; rfl
theorem decodeRaw_of_major_4F (h : fld w 25 7 = 0x4F#7) : decodeRaw w = decode4F w := by rw [decodeRaw, h]; rfl
theorem decodeRaw_of_major_50 (h : fld w 25 7 = 0x50#7) : decodeRaw w = decode50 w := by rw [decodeRaw, h]; rfl
theorem decodeRaw_of_major_58 (h : fld w 25 7 = 0x58#7) : decodeRaw w = decode58 w := by rw [decodeRaw, h]; rfl
theorem decodeRaw_of_major_5C (h : fld w 25 7 = 0x5C#7) : decodeRaw w = decode5C w := by rw [decodeRaw, h]; rfl
theorem decodeRaw_of_major_63 (h : fld w 25 7 = 0x63#7) : decodeRaw w = decode63 w := by rw [decodeRaw, h]; rfl
theorem decodeRaw_of_major_66 (h : fld w 25 7 = 0x66#7) : decodeRaw w = decode66 w := by rw [decodeRaw, h]; rfl
theorem decodeRaw_of_major_67 (h : fld w 25 7 = 0x67#7) : decodeRaw w = decode67 w := by rw [decodeRaw, h]; rfl
theorem decodeRaw_of_major_68 (h : fld w 25 7 = 0x68#7) : decodeRaw w = decode68 w := by rw [decodeRaw, h]; rfl
theorem decodeRaw_of_major_69 (h : fld w 25 7 = 0x69#7) : decodeRaw w = decode69 w := by rw [decodeRaw, h]; rfl
theorem decodeRaw_of_major_6A (h : fld w 25 7 = 0x6A#7) : decodeRaw w = decode6A w := by rw [decodeRaw, h]; rfl
theorem decodeRaw_of_major_6B (h : fld w 25 7 = 0x6B#7) : decodeRaw w = decode6B w := by rw [decodeRaw, h]; rfl
theorem decodeRaw_of_major_6D (h : fld w 25 7 = 0x6D#7) : decodeRaw w = decode6D w := by rw [decodeRaw, h]; rfl
theorem decodeRaw_of_major_70 (h : fld w 25 7 = 0x70#7) : decodeRaw w = decode70 w := by rw [decodeRaw, h]; rfl
theorem decodeRaw_of_major_74 (h : fld w 25 7 = 0x74#7) : decodeRaw w = decode74 w := by rw [decodeRaw, h]; rfl
theorem decodeRaw_of_major_78 (h : fld w 25 7 = 0x78#7) : decodeRaw w = decode78 w := by rw [decodeRaw, h]; rfl
theorem decodeRaw_of_major_79 (h : fld w 25 7 = 0x79#7) : decodeRaw w = decode79 w := by rw [decodeRaw, h]; rfl
theorem decodeRaw_of_major_7A (h : fld w 25 7 = 0x7A#7) : decodeRaw w = decode7A w := by rw [decodeRaw, h]; rfl
theorem decodeRaw_of_major_7B (h : fld w 25 7 = 0x7B#7) : decodeRaw w = decode7B w := by rw [decodeRaw, h]; rfl
theorem decodeRaw_of_major_7C (h : fld w 25 7 = 0x7C#7) : decodeRaw w = decode7C w := by rw [decodeRaw, h]; rfl

end Major

/-! ## The word of an instruction (R40) -/

/-- The decoder's tables read back the constructor and the operands of every well-formed instruction's word. Of the hypothesis of
well-formedness only the register of `tsetReg` is needed: 0x7C there is the word of `tsetImm`. -/
theorem decodeRaw_encode {i : Instr} (hw : isWord i = true) (hi : wellFormed i = true) : decodeRaw (encode i) = some i := by
  cases i
  all_goals try exact absurd hw Bool.false_ne_true
  -- the majors that select by a mask
  case dot4i | dot8q | dot2b | dot4e =>
    refine (decodeRaw_of_major_38 (fld_encR_major ..)).trans ?_
    simp [decode38, fld, encR, append_and_eq_iff, extractLsb'_append_hi, extractLsb'_append_lo]
  case kopNot | kmovTor | kmovTok | kop =>
    refine (decodeRaw_of_major_4F (fld_encR_major ..)).trans ?_
    simp [decode4F, fld, encR, append_and_eq_iff, extractLsb'_append_hi, extractLsb'_append_lo]
  case ctxsw | flgclr | tsetImm | dsrd | dswr | flgrd | capsFreeze | capsEvent | mslot | evmark | crd | cwr | eret =>
    refine (decodeRaw_of_major_7C (fld_encS_major ..)).trans ?_
    simp [decode7C, fld, encS, append_and_eq_iff, extractLsb'_append_hi, extractLsb'_append_lo]
  case tsetReg a =>
    have ha : a &&& 127#7 ≠ 124#7 := by
      obtain ⟨-, ha⟩ := Bool.and_eq_true_iff.1 hi
      rw [show a &&& 127#7 = a from BitVec.and_allOnes]
      exact of_decide_eq_true ha
    refine (decodeRaw_of_major_7C (fld_encS_major ..)).trans ?_
    simp [decode7C, fld, encS, append_and_eq_iff, extractLsb'_append_hi, extractLsb'_append_lo, ha]
  -- the majors that select by a field
  case' iadd | isub | iadds | isubs | iaddns | isubns | iadd64 | isub64 => refine (decodeRaw_of_major_00 (fld_encR_major ..)).trans ?_
  case' imul | imulh | imulhn | imad => refine (decodeRaw_of_major_01 (fld_encR_major ..)).trans ?_
  case' idiv | idivn | irem | iremn => refine (decodeRaw_of_major_02 (fld_encR_major ..)).trans ?_
  case' imin | imax | iminn | imaxn | iabs | ineg => refine (decodeRaw_of_major_03 (fld_encR_major ..)).trans ?_
  case' andW | orW | xorW | andn | orn | xnor | mov => refine (decodeRaw_of_major_04 (fld_encR_major ..)).trans ?_
  case' shl | shr | sar | rol | ror | fshl | fshr => refine (decodeRaw_of_major_05 (fld_encR_major ..)).trans ?_
  case' popc | clz | ctz | brev => refine (decodeRaw_of_major_06 (fld_encR_major ..)).trans ?_
  case' shli | shri | sari => refine (decodeRaw_of_major_14 (fld_encI_major ..)).trans ?_
  case' sel | prmb | fclass => refine (decodeRaw_of_major_1E (fld_encR_major ..)).trans ?_
  case' bfx | bfxs | bfi => refine (decodeRaw_of_major_1F (fld_encR_major ..)).trans ?_
  case' fadd | fsub | fmul | ffma | fmac | fmin | fmax | fcpysgn => refine (decodeRaw_of_major_20 (fld_encR_major ..)).trans ?_
  case' fabs | fneg | frnd | fdiv | fsqrt => refine (decodeRaw_of_major_21 (fld_encR_major ..)).trans ?_
  case' frcp | frsq | fexp2 | flog2 | fsin | fcos | ftanh => refine (decodeRaw_of_major_22 (fld_encR_major ..)).trans ?_
  case' hadd2 | hmul2 | hfma2 | badd2 | bmul2 | bfma2 => refine (decodeRaw_of_major_23 (fld_encR_major ..)).trans ?_
  case' f2i | i2f => refine (decodeRaw_of_major_30 (fld_encR_major ..)).trans ?_
  case' fcvtF16F32 | fcvtF32F16 | fcvtBf16F32 | fcvtF32Bf16 | fcvtE4m3F32 | fcvtF32E4m3 | fcvtE5m2F32 | fcvtF32E5m2 =>
    refine (decodeRaw_of_major_31 (fld_encR_major ..)).trans ?_
  case' fcvtE2m1F32 | fcvtF32E2m1 | fcvtBf16F16 | fcvtF16Bf16 => refine (decodeRaw_of_major_32 (fld_encR_major ..)).trans ?_
  case' cvtdlF32 | cvtdlDl8 => refine (decodeRaw_of_major_33 (fld_encR_major ..)).trans ?_
  case' mxq | mxdq => refine (decodeRaw_of_major_34 (fld_encR_major ..)).trans ?_
  case' mxdot | mxi8dot => refine (decodeRaw_of_major_39 (fld_encR_major ..)).trans ?_
  case' brx | callx | ret | join | exitThread | yield | nop | reform => refine (decodeRaw_of_major_44 (fld_encR_major ..)).trans ?_
  case' trap | brk => refine (decodeRaw_of_major_45 (fld_encS_major ..)).trans ?_
  case' shfl | bcast => refine (decodeRaw_of_major_4A (fld_encR_major ..)).trans ?_
  case' fred | fscan => refine (decodeRaw_of_major_4C (fld_encR_major ..)).trans ?_
  case' bar | bara | barw | elect | winb | trig | rclaim | rrel => refine (decodeRaw_of_major_50 (fld_encS_major ..)).trans ?_
  case' ldB | ldH | ldsB | ldsH => refine (decodeRaw_of_major_58 (fld_encM_major ..)).trans ?_
  case' stB | stH => refine (decodeRaw_of_major_5C (fld_encM_major ..)).trans ?_
  case' fence | fenceTl | fenceOr | cinv | cwb | icinv => refine (decodeRaw_of_major_63 (fld_encS_major ..)).trans ?_
  case' tlw | tlrd | tli => refine (decodeRaw_of_major_66 (fld_encR_major ..)).trans ?_
  case' invt | vprobe => refine (decodeRaw_of_major_67 (fld_encR_major ..)).trans ?_
  case' bact | bpre | browsh | brcpy => refine (decodeRaw_of_major_68 (fld_encK_major ..)).trans ?_
  case' brdc | bwrc => refine (decodeRaw_of_major_69 (fld_encK_major ..)).trans ?_
  case' bldt | blut => refine (decodeRaw_of_major_6A (fld_encK_major ..)).trans ?_
  case' beadd | befma | bescl => refine (decodeRaw_of_major_6B (fld_encK_major ..)).trans ?_
  case' bloop | byld | bend => refine (decodeRaw_of_major_6D (fld_encK_major ..)).trans ?_
  case' macq | mrel | mswap | mstat => refine (decodeRaw_of_major_70 (fld_encS_major ..)).trans ?_
  case' macz | macrd | macwr => refine (decodeRaw_of_major_74 (fld_encS_major ..)).trans ?_
  case' tcopy | tcopyr | bkrun => refine (decodeRaw_of_major_78 (fld_encS_major ..)).trans ?_
  case' chtail | chseq => refine (decodeRaw_of_major_79 (fld_encS_major ..)).trans ?_
  case' evpop | evwait | cbar => refine (decodeRaw_of_major_7A (fld_encS_major ..)).trans ?_
  case' mig | mret => refine (decodeRaw_of_major_7B (fld_encS_major ..)).trans ?_
  -- the majors of one instruction
  case' lea64 | icmp | icmpN | icmpv | icmpvN | fcmp | fcmpv | vote | matchLanes | red | scan | rgt =>
    change decodeRaw (encR _ _ _ _ _ _) = _
    rw [decodeRaw, fld_encR_major]
    refine congrArg some ?_
  case' addi | andi | ori | xori | movi | addi64 | lea64i =>
    change decodeRaw (encI _ _ _ _) = _
    rw [decodeRaw, fld_encI_major]
    refine congrArg some ?_
  case' bra | brc | pjn | call =>
    change decodeRaw (encB _ _ _ _) = _
    rw [decodeRaw, fld_encB_major]
    refine congrArg some ?_
  case' send | sendw | recv | chq =>
    change decodeRaw (encC _ _ _ _ _) = _
    rw [decodeRaw, fld_encC_major]
    refine congrArg some ?_
  case' ldW | ldD | ldQ | stW | stD | stQ | atom | atom64 | atr | pref | ldg =>
    change decodeRaw (encM _ _ _ _ _ _) = _
    rw [decodeRaw, fld_encM_major]
    refine congrArg some ?_
  case' bacc =>
    change decodeRaw (encK _ _ _) = _
    rw [decodeRaw, fld_encK_major]
    refine congrArg some ?_
  case' mlds | mscl | mexec =>
    change decodeRaw (encS _ _ _ _) = _
    rw [decodeRaw, fld_encS_major]
    refine congrArg some ?_
  case' pfx =>
    change decodeRaw (encPfx _ _ _ _ _) = _
    rw [decodeRaw, fld_encPfx_major]
    refine congrArg some ?_
  case' limm =>
    change decodeRaw (encLimm _) = _
    rw [decodeRaw, fld_encLimm_major]
    refine congrArg some ?_
  -- what is left is to read the fields of each format at the places where its table reads them
  all_goals simp only [decode00, decode01, decode02, decode03, decode04, decode05, decode06, decode14, decode1E, decode1F, decode20, decode21,
    decode22, decode23, decode30, decode31, decode32, decode33, decode34, decode39, decode44, decode45, decode4A, decode4C, decode50, decode58,
    decode5C, decode63, decode66, decode67, decode68, decode69, decode6A, decode6B, decode6D, decode70, decode74, decode78, decode79, decode7A,
    decode7B, encR, encI, encB, encM, encC, encS, encK, encPfx, encLimm, fld, extractLsb'_append_hi, extractLsb'_append_lo,
    BitVec.extractLsb'_eq_self, BitVec.reduceExtractLsb', BitVec.reduceToNat, Nat.reduceAdd, Nat.reduceSub, Nat.reduceLeDiff]

theorem decodeWord_eq_some_iff {w : Word} {i : Instr} :
    decodeWord w = some i ↔ decodeRaw w = some i ∧ encode i = w ∧ wellFormed i = true := by
  unfold decodeWord
  constructor
  · intro h
    split at h
    next j hj =>
      split at h
      next hok => cases h; exact ⟨hj, hok⟩
      next => cases h
    next => cases h
  · rintro ⟨hraw, hok⟩
    rw [hraw]
    exact if_pos hok

/-- Settles O59: the tables read the instruction back, and the word that the decoder compares with is the one that it was given. -/
theorem decodeEncode : Obligations.DecodeEncode := fun _ hw hi =>
  decodeWord_eq_some_iff.2 ⟨decodeRaw_encode hw hi, rfl, hi⟩

end Sys2Proof
end

section
/-! What decodes to nothing, and that no field is ignored (spec/02 R33, R40, R41). -/
namespace Sys2Proof

/-! ## Words and their instructions (R33, R41) -/

/-- The steps of other agents have no word of their own: all share word 0. -/
theorem encode_of_not_isWord {i : Instr} (h : isWord i = false) : encode i = 0#32 := by
  have hall : (bif isWord i then 0#32 else encode i) = 0#32 := by cases i <;> rfl
  rwa [h] at hall

/-- A word decodes to a word instruction: only word 0 is left to the steps of other agents, and it is an `iadd`. -/
theorem isWord_of_decodeWord {w : Word} {i : Instr} (h : decodeWord w = some i) : isWord i = true := by
  by_contra hw
  obtain ⟨-, henc, -⟩ := decodeWord_eq_some_iff.1 h
  obtain rfl : w = 0#32 := henc.symm.trans (encode_of_not_isWord (Bool.not_eq_true _ ▸ hw))
  have hzero : decodeWord 0#32 = some (.iadd 0#1 0#7 0#7 0#7) := by decide +kernel
  obtain rfl := Option.some.inj (hzero.symm.trans h)
  exact hw rfl

theorem noFieldIgnored : Claim.NoFieldIgnored := by
  constructor
  · intro w i h
    obtain ⟨-, henc, hi⟩ := decodeWord_eq_some_iff.1 h
    exact ⟨henc, hi, isWord_of_decodeWord h⟩
  · intro w v i hw hv
    obtain ⟨-, hencw, -⟩ := decodeWord_eq_some_iff.1 hw
    obtain ⟨-, hencv, -⟩ := decodeWord_eq_some_iff.1 hv
    exact hencw.symm.trans hencv

/-! ## Unassigned majors (R40) -/

theorem decodeRaw_of_unassigned {m : Nat} (hm : m ∈ Machine.unassignedMajors) {w : Word} (h : fld w 25 7 = BitVec.ofNat 7 m) :
    decodeRaw w = none := by
  fin_cases hm <;> rw [decodeRaw, h] <;> rfl

theorem decodeWord_of_decodeRaw_none {w : Word} (h : decodeRaw w = none) : decodeWord w = none := by
  rw [decodeWord, h]

/-! ## Unassigned fn values (R40) -/

theorem fld_encR_fn (op nw fn d a b) : fld (encR op nw fn d a b) 21 3 = fn := by
  simp only [fld, encR, extractLsb'_append_hi, extractLsb'_append_lo, Nat.reduceLeDiff, Nat.reduceAdd, Nat.reduceSub,
    BitVec.extractLsb'_eq_self]

theorem fn_of_encR_eq {w : Word} {op nw fn d a b} (h : encR op nw fn d a b = w) : fld w 21 3 = fn := h ▸ fld_encR_fn ..

/-- The fn of a word that decodes is one that the opcode map lists for its major: the table gives the instruction, and the fn of the
instruction's own word is that of the word. -/
theorem fn_mem_of_decodeWord {w : Word} {i : Instr} (hd : decodeWord w = some i) :
    ∀ p ∈ Machine.assignedFns, fld w 25 7 = BitVec.ofNat 7 p.1 → (fld w 21 3).toNat ∈ p.2 := by
  obtain ⟨hraw, henc, hi⟩ := decodeWord_eq_some_iff.1 hd
  simp only [Machine.assignedFns, List.forall_mem_cons]
  refine ⟨?m01, ?m02, ?m03, ?m04, ?m05, ?m06, ?m18, ?m19, ?m1A, ?m1B, ?m1E, ?m1F, ?m21, ?m22, ?m23, ?m30, ?m32, ?m33, ?m38, ?m39, ?m48,
    ?m49, ?m4A, ?m4C, ?m4E, ?m4F, List.forall_mem_nil _⟩
  all_goals intro h
  -- the tables that name every fn
  case' m01 => rw [decodeRaw_of_major_01 h, decode01] at hraw
  case' m02 => rw [decodeRaw_of_major_02 h, decode02] at hraw
  case' m03 => rw [decodeRaw_of_major_03 h, decode03] at hraw
  case' m04 => rw [decodeRaw_of_major_04 h, decode04] at hraw
  case' m05 => rw [decodeRaw_of_major_05 h, decode05] at hraw
  case' m06 => rw [decodeRaw_of_major_06 h, decode06] at hraw
  case' m1E => rw [decodeRaw_of_major_1E h, decode1E] at hraw
  case' m1F => rw [decodeRaw_of_major_1F h, decode1F] at hraw
  case' m21 => rw [decodeRaw_of_major_21 h, decode21] at hraw
  case' m22 => rw [decodeRaw_of_major_22 h, decode22] at hraw
  case' m23 => rw [decodeRaw_of_major_23 h, decode23] at hraw
  case' m32 => rw [decodeRaw_of_major_32 h, decode32] at hraw
  case' m33 => rw [decodeRaw_of_major_33 h, decode33] at hraw
  case m01 | m02 | m03 | m04 | m05 | m06 | m1E | m1F | m21 | m22 | m23 | m32 | m33 =>
    split at hraw <;> cases hraw <;> rw [fn_of_encR_eq henc] <;> decide
  -- the tables whose fn holds an operand
  case' m30 => rw [decodeRaw_of_major_30 h, decode30] at hraw
  case' m39 => rw [decodeRaw_of_major_39 h, decode39] at hraw
  case m30 | m39 =>
    split at hraw <;> cases hraw <;> rw [fn_of_encR_eq henc]
    all_goals
      generalize fld w 21 1 = u
      revert u
      decide
  case m38 =>
    rw [decodeRaw_of_major_38 h, decode38] at hraw
    split_ifs at hraw <;> cases hraw <;> rw [fn_of_encR_eq henc]
    all_goals
      generalize fld w 21 1 = e
      revert e
      decide
  case m49 =>
    rw [decodeRaw, h] at hraw
    cases hraw
    rw [fn_of_encR_eq henc]
    generalize fld w 21 1 = wide
    revert wide
    decide
  case m4A =>
    rw [decodeRaw_of_major_4A h, decode4A] at hraw
    split at hraw <;> cases hraw <;> rw [fn_of_encR_eq henc]
    all_goals
      generalize fld w 21 2 = f
      revert f
      decide
  case m4F =>
    rw [decodeRaw_of_major_4F h, decode4F] at hraw
    split_ifs at hraw <;> cases hraw <;> rw [fn_of_encR_eq henc]
    all_goals
      generalize fld w 21 2 = f
      revert f
      decide
  -- fn is an operand or holds one, and well-formedness bounds it
  case m4C =>
    rw [decodeRaw_of_major_4C h, decode4C] at hraw
    split at hraw <;> cases hraw <;> rw [fn_of_encR_eq henc]
    all_goals
      obtain ⟨hf, -, -⟩ : (fld w 21 2).toNat ≤ 2 ∧ _ ∧ _ := by
        simpa only [wellFormed, Bool.and_eq_true, decide_eq_true_eq, and_assoc] using hi
      revert hf
      generalize fld w 21 2 = f
      revert f
      decide
  case m19 | m1B =>
    rw [decodeRaw, h] at hraw
    cases hraw
    simp only [wellFormed, Bool.and_eq_true, decide_eq_true_eq, and_assoc] at hi
    obtain ⟨hlo, hhi, -⟩ := hi
    revert hlo hhi
    generalize fld w 21 3 = f
    revert f
    decide
  case m18 | m1A | m48 | m4E =>
    rw [decodeRaw, h] at hraw
    cases hraw
    simp only [wellFormed, Bool.and_eq_true, decide_eq_true_eq, and_assoc] at hi
    obtain ⟨hhi, -⟩ := hi
    revert hhi
    generalize fld w 21 3 = f
    revert f
    decide

theorem unassignedRefused : Claim.UnassignedRefused := by
  refine ⟨fun m hm x => ?_, fun p hp n hn hnot nw x => ?_⟩
  · refine decodeWord_of_decodeRaw_none (decodeRaw_of_unassigned hm ?_)
    simp only [fld, extractLsb'_append_hi, Nat.reduceLeDiff, Nat.reduceSub, BitVec.extractLsb'_eq_self]
  · rw [Option.eq_none_iff_forall_ne_some]
    intro i hd
    have hmajor : fld (BitVec.ofNat 7 p.1 ++ nw ++ BitVec.ofNat 3 n ++ x) 25 7 = BitVec.ofNat 7 p.1 := by
      simp only [fld, extractLsb'_append_hi, Nat.reduceLeDiff, Nat.reduceSub, BitVec.extractLsb'_eq_self]
    have hfn : fld (BitVec.ofNat 7 p.1 ++ nw ++ BitVec.ofNat 3 n ++ x) 21 3 = BitVec.ofNat 3 n := by
      simp only [fld, extractLsb'_append_hi, extractLsb'_append_lo, Nat.reduceLeDiff, Nat.reduceAdd, Nat.reduceSub,
        BitVec.extractLsb'_eq_self]
    have hmem := fn_mem_of_decodeWord hd p hp hmajor
    rw [hfn, BitVec.toNat_ofNat, Nat.mod_eq_of_lt hn] at hmem
    exact hnot hmem

/-! ## The worked encodings (R32, R37, R39, R40) -/

theorem workedEncodings : Claim.WorkedEncodings := by
  unfold Claim.WorkedEncodings
  decide +kernel

/-- Settles O57: every statement about a decoded word follows from `decodeWord_eq_some_iff`, that the decoder accepts a word exactly when it is
the word of a well-formed instruction that the tables read from it. -/
theorem encodingFacts : Obligations.EncodingFacts := ⟨workedEncodings, unassignedRefused, noFieldIgnored⟩

end Sys2Proof
end

section
/-! Floating-point arithmetic (spec/05 R109 to R114, R116): a unit with unpoisoned sources completes with the function of the values that
its run lanes read, and the functions that the model gives are the results of the rules. -/
namespace Sys2Proof.Machine

/-! ## The values that a lane reads -/

@[simp] theorem vals_nil (G : Group) (l : Nat) : G.vals l [] = [] := rfl

@[simp] theorem vals_cons_one (G : Group) (l : Nat) (a : BitVec 7) (regs : List (BitVec 7 × Nat)) :
    G.vals l ((a, 1) :: regs) = G.val l a :: G.vals l regs := by
  simp only [Group.vals, List.flatMap_cons, readWords_one, List.singleton_append, List.map_cons, Group.val]

/-- Registers as the codes that the sources of a unit are listed by. -/
def srcCodes (regs : List (BitVec 7 × Nat)) : List (Nat × Nat) := regs.map fun p => (p.1.toNat, p.2)

theorem onWords_vals {G : Group} {l : Nat} {regs : List (BitVec 7 × Nat)} (f : List Word → List Word × BitVec 5)
    (h : ∀ p ∈ srcCodes regs, anyPoison (G.readWords l p.1 p.2) = false) :
    onWords G l (srcCodes regs) f = .ok ((f (G.vals l regs)).1.map clean) (f (G.vals l regs)).2 := by
  have hwords : (((srcCodes regs).map fun p => G.readWords l p.1 p.2).flatten.map (·.val)) = G.vals l regs := by
    rw [srcCodes, List.map_map, ← List.flatMap_def]
    rfl
  rw [onWords_ok h, hwords]

/-! ## Units without poison -/

/-- A floating-point unit whose run lanes read no poison. -/
theorem fpLane_done {s : State} {c : Cur} {G : Group} {u : Unit} {d : Dst} {srcs : Cur → List (Nat × Nat)}
    (f : Bool → Nat → List Word → List Word × BitVec 5) (regs : List (BitVec 7 × Nat))
    (hsrcs : srcs c = srcCodes regs) (h : Ready s c G u) (hclean : G.Clean c u (srcCodes regs)) :
    laneUnit u d (fpLane srcs f) s = .next (s.laneDone G c u d (fun l => (f (s.ftz G) (unitMode s G c) (G.vals l regs)).1.map clean)
      (G.orFlags c u fun l => (f (s.ftz G) (unitMode s G c) (G.vals l regs)).2)) := by
  refine laneUnit_ok h _ _ fun l hl => ?_
  rw [fpLane, hsrcs]
  exact onWords_vals _ (hclean l hl)

section Forms
variable {n : BitVec 1} {d a b : BitVec 7} {s : State} {c : Cur} {G : Group}

theorem fpUnary_done {f : Bool → Nat → Word → FpRes} (h : Ready s c G (fpUnit n 0 0 [(d, 1), (a, 1)]))
    (hclean : G.Clean c (fpUnit n 0 0 [(d, 1), (a, 1)]) [(a.toNat, 1)]) :
    fpUnary n d a f s = .next (s.laneDone G c (fpUnit n 0 0 [(d, 1), (a, 1)]) (.regs d 1)
      (fun l => [clean (f (s.ftz G) (unitMode s G c) (G.val l a)).1])
      (G.orFlags c (fpUnit n 0 0 [(d, 1), (a, 1)]) fun l => (f (s.ftz G) (unitMode s G c) (G.val l a)).2)) :=
  (fpLane_done _ [(a, 1)] rfl h hclean).trans (by simp [w0])

theorem fpBinary_done {f : Bool → Nat → Word → Word → FpRes} (h : Ready s c G (fpUnit n 0 0 [(d, 1), (a, 1), (b, 1)]))
    (hclean : G.Clean c (fpUnit n 0 0 [(d, 1), (a, 1), (b, 1)]) [(a.toNat, 1), (b.toNat, 1)]) :
    fpBinary n d a b f s = .next (s.laneDone G c (fpUnit n 0 0 [(d, 1), (a, 1), (b, 1)]) (.regs d 1)
      (fun l => [clean (f (s.ftz G) (unitMode s G c) (G.val l a) (G.val l b)).1])
      (G.orFlags c (fpUnit n 0 0 [(d, 1), (a, 1), (b, 1)]) fun l => (f (s.ftz G) (unitMode s G c) (G.val l a) (G.val l b)).2)) :=
  (fpLane_done _ [(a, 1), (b, 1)] rfl h hclean).trans (by simp [w0, w1])

theorem fpTernary_done {f : Bool → Nat → Word → Word → Word → FpRes} (h : Ready s c G (fpUnit n 1 0 [(d, 1), (a, 1), (b, 1)]))
    (hclean : G.Clean c (fpUnit n 1 0 [(d, 1), (a, 1), (b, 1)]) [(a.toNat, 1), (b.toNat, 1), ((pfxC c).toNat, 1)]) :
    fpTernary n d a b f s = .next (s.laneDone G c (fpUnit n 1 0 [(d, 1), (a, 1), (b, 1)]) (.regs d 1)
      (fun l => [clean (f (s.ftz G) (unitMode s G c) (G.val l a) (G.val l b) (G.val l (pfxC c))).1])
      (G.orFlags c (fpUnit n 1 0 [(d, 1), (a, 1), (b, 1)])
        fun l => (f (s.ftz G) (unitMode s G c) (G.val l a) (G.val l b) (G.val l (pfxC c))).2)) :=
  (fpLane_done _ [(a, 1), (b, 1), (pfxC c, 1)] rfl h hclean).trans (by simp [w0, w1, w2])

end Forms

/-! ## Sign bits (R109, R110) -/

theorem toNat_and_low31 (x : Word) : (x &&& 0x7FFFFFFF#32).toNat = x.toNat % 2 ^ 31 := Nat.and_two_pow_sub_one_eq_mod x.toNat 31

theorem toNat_and_sign (x : Word) : (x &&& 0x80000000#32).toNat = x.toNat / 2 ^ 31 * 2 ^ 31 := by
  have hbit : x.toNat / 2 ^ 31 % 2 = x.toNat / 2 ^ 31 := by omega
  calc (x &&& 0x80000000#32).toNat
    _ = (x.toNat.testBit 31).toNat * 2 ^ 31 := Nat.and_two_pow x.toNat 31
    _ = x.toNat / 2 ^ 31 * 2 ^ 31 := by rw [Nat.toNat_testBit, hbit]

theorem and_low31_eq (x : Word) : x &&& 0x7FFFFFFF#32 = BitVec.ofNat 32 (x.toNat % 2 ^ 31) := by
  rw [← toNat_and_low31, BitVec.ofNat_toNat, BitVec.setWidth_eq]

theorem copySign_eq (x y : Word) :
    (x &&& 0x7FFFFFFF#32) ||| (y &&& 0x80000000#32) = BitVec.ofNat 32 (x.toNat % 2 ^ 31 + y.toNat / 2 ^ 31 * 2 ^ 31) := by
  have hlow : x.toNat % 2 ^ 31 < 2 ^ 31 := Nat.mod_lt _ (by decide)
  have hor : x.toNat % 2 ^ 31 + y.toNat / 2 ^ 31 * 2 ^ 31 = x.toNat % 2 ^ 31 ||| y.toNat / 2 ^ 31 * 2 ^ 31 := by
    rw [Nat.add_comm, Nat.mul_comm, Nat.two_pow_add_eq_or_of_lt hlow, Nat.or_comm]
  rw [hor, ← toNat_and_low31, ← toNat_and_sign, ← BitVec.toNat_or, BitVec.ofNat_toNat, BitVec.setWidth_eq]

theorem xor_sign_eq_add (x : Word) : x ^^^ 0x80000000#32 = x + 0x80000000#32 := by
  have hsign : (0x80000000#32).toNat = 2 ^ 31 := rfl
  have hlow : (x.toNat ^^^ 2 ^ 31) % 2 ^ 31 = x.toNat % 2 ^ 31 := by rw [Nat.xor_mod_two_pow, Nat.mod_self, Nat.xor_zero]
  have htop : (x.toNat ^^^ 2 ^ 31) / 2 ^ 31 = x.toNat / 2 ^ 31 ^^^ 1 := Nat.xor_div_two_pow
  have hsum : (x ^^^ 0x80000000#32).toNat = (x.toNat + 2 ^ 31) % 2 ^ 32 := by
    rw [BitVec.toNat_xor, hsign]
    obtain h | h : x.toNat / 2 ^ 31 = 0 ∨ x.toNat / 2 ^ 31 = 1 := by omega
    · rw [h, Nat.zero_xor] at htop
      omega
    · rw [h, Nat.xor_self] at htop
      omega
  rw [← hsign, ← BitVec.toNat_add] at hsum
  exact BitVec.eq_of_toNat_eq hsum

/-! ## Packed pairs (R112, R114) -/

theorem packed2_eq_fpPair (f : Nat → Nat × BitVec 5) : packed2 f = fpPair (f 0) (f 1) := by
  simp only [packed2, fpPair, Nat.add_comm, Nat.mul_comm, Nat.reducePow]

theorem elem16_eq_elemAt (F : Fmt) (z : Bool) (w : Word) (i : Nat) : F.elem16 z w i = elemAt F z w i := by
  simp only [Fmt.elem16, half, elemAt, Nat.pow_mul, Nat.reducePow]

section
variable (F T : Fmt) (n : BitVec 1) (d a b : BitVec 7) (s : State)

theorem packedAdd_eq : packedAdd F n d a b s = fpBinary n d a b
    (fun z m x y => fpPair (F.add z m (elemAt F z x 0) (elemAt F z y 0)) (F.add z m (elemAt F z x 1) (elemAt F z y 1))) s := by
  simp only [packedAdd, packed2_eq_fpPair, elem16_eq_elemAt]

theorem packedMul_eq : packedMul F n d a b s = fpBinary n d a b
    (fun z m x y => fpPair (F.mul z m (elemAt F z x 0) (elemAt F z y 0)) (F.mul z m (elemAt F z x 1) (elemAt F z y 1))) s := by
  simp only [packedMul, packed2_eq_fpPair, elem16_eq_elemAt]

theorem packedFma_eq : packedFma F n d a b s = fpTernary n d a b
    (fun z m x y w => fpPair (F.fma z m (elemAt F z x 0) (elemAt F z y 0) (elemAt F z w 0))
      (F.fma z m (elemAt F z x 1) (elemAt F z y 1) (elemAt F z w 1))) s := by
  simp only [packedFma, packed2_eq_fpPair, elem16_eq_elemAt]

theorem repackOp_eq : repackOp n d a F T s = fpUnary n d a
    (fun z m x => fpPair (cvt T z m (elemAt F z x 0)) (cvt T z m (elemAt F z x 1))) s := by
  simp only [repackOp, packed2_eq_fpPair, elem16_eq_elemAt]

end

/-! ## The tables -/

theorem exec_fcpysgn (n : BitVec 1) (d a b : BitVec 7) (s : State) : exec (.fcpysgn n d a b) s
    = fpBinary n d a b (fun _ _ x y => (BitVec.ofNat 32 (x.toNat % 2 ^ 31 + y.toNat / 2 ^ 31 * 2 ^ 31), 0#5)) s := by
  simp only [← copySign_eq]
  rfl

theorem exec_fabs (n : BitVec 1) (d a : BitVec 7) (s : State) :
    exec (.fabs n d a) s = fpUnary n d a (fun _ _ x => (BitVec.ofNat 32 (x.toNat % 2 ^ 31), 0#5)) s := by
  simp only [← and_low31_eq]
  rfl

theorem exec_fneg (n : BitVec 1) (d a : BitVec 7) (s : State) :
    exec (.fneg n d a) s = fpUnary n d a (fun _ _ x => (x + 0x80000000#32, 0#5)) s := by
  simp only [← xor_sign_eq_add]
  rfl

/-- Every instruction of the two-operand table has the form d := f a b with the function that the table gives. -/
theorem exec_fpBinaryTable : ∀ p ∈ fpBinaryTable, ∀ (n : BitVec 1) (d a b : BitVec 7) (s : State),
    exec (p.1 n d a b) s = fpBinary n d a b p.2 s := by
  unfold fpBinaryTable
  repeat rw [List.forall_mem_cons]
  refine ⟨?fadd, ?fsub, ?fmul, ?fmin, ?fmax, exec_fcpysgn, ?fdiv, packedAdd_eq fp16, packedMul_eq fp16, packedAdd_eq bf16, packedMul_eq bf16,
    List.forall_mem_nil _⟩
  case fadd | fsub | fmul | fmin | fmax | fdiv => intros; rfl

/-- Every instruction of the one-operand table has the form d := f a. -/
theorem exec_fpUnaryTable : ∀ p ∈ fpUnaryTable, ∀ (n : BitVec 1) (d a : BitVec 7) (s : State), exec (p.1 n d a) s = fpUnary n d a p.2 s := by
  unfold fpUnaryTable
  repeat rw [List.forall_mem_cons]
  refine ⟨exec_fabs, exec_fneg, ?frnd, ?fsqrt, ?frcp, ?frsq, ?fexp2, ?flog2, ?fsin, ?fcos, ?ftanh, ?f2i, ?f2iUnsigned, ?i2f, ?i2fUnsigned,
    repackOp_eq fp16 bf16, repackOp_eq bf16 fp16, List.forall_mem_nil _⟩
  case frnd | fsqrt | frcp | frsq | fexp2 | flog2 | fsin | fcos | ftanh | f2i | f2iUnsigned | i2f | i2fUnsigned => intros; rfl

/-- Every instruction of the table with a fourth operand has the form d := f a b c. -/
theorem exec_fpTernaryTable : ∀ p ∈ fpTernaryTable, ∀ (n : BitVec 1) (d a b : BitVec 7) (s : State),
    exec (p.1 n d a b) s = fpTernary n d a b p.2 s := by
  unfold fpTernaryTable
  repeat rw [List.forall_mem_cons]
  refine ⟨?ffma, packedFma_eq fp16, packedFma_eq bf16, ?dot4eE4m3, ?dot4eE5m2, ?dot2b, List.forall_mem_nil _⟩
  case ffma | dot4eE4m3 | dot4eE5m2 | dot2b => intros; rfl

/-! ## The statements -/

theorem floatBinaryResults : Claim.FloatBinaryResults := by
  intro p hp n d a b s c G u r h hclean
  rw [exec_fpBinaryTable p hp]
  exact fpBinary_done h hclean

theorem floatUnaryResults : Claim.FloatUnaryResults := by
  intro p hp n d a s c G u r h hclean
  rw [exec_fpUnaryTable p hp]
  exact fpUnary_done h hclean

theorem floatTernaryResults : Claim.FloatTernaryResults := by
  refine ⟨?table, ?fmac⟩
  case table =>
    intro p hp n d a b s c G u r h hclean
    rw [exec_fpTernaryTable p hp]
    exact fpTernary_done h hclean
  case fmac =>
    -- the destination is the third source (R109)
    intro n d a b s c G u r h hclean
    refine (fpLane_done _ [(a, 1), (b, 1), (d, 1)] rfl h hclean).trans ?_
    simp only [vals_cons_one, vals_nil]
    rfl

/-- Settles O4: every instruction has the form of its table, whose unit completes with the function of the values that the lanes read. -/
theorem floatArithmeticResults : Obligations.FloatArithmeticResults := ⟨floatBinaryResults, floatUnaryResults, floatTernaryResults⟩

end Sys2Proof.Machine
end

section
/-! Block conversions and scaled dot products (spec/05 R117 to R119; spec/03 R61, R62): each lane's result is made of what it reads itself, and
of the run lanes or the scale words of its block. -/
namespace Sys2Proof.Machine

/-! ## Elements and blocks (R57, R118) -/

theorem elemBits_eight (w : Word) (i : Nat) : elemBits 8 w i = w.toNat / 256 ^ i % 256 := by
  simp only [elemBits, Nat.pow_mul, Nat.reducePow]

theorem mxWidth_toNat (f : BitVec 2) : mxWidth f.toNat = if f = 2#2 then 4 else 8 := by
  revert f
  decide

theorem blockLanes_run (G : Group) (c : Cur) (l : Nat) : blockLanes (G.run c) l = G.blockRun c l := by
  rw [blockLanes, Group.blockRun, Nat.mul_comm 8, List.filter_map, ← List.filterMap_eq_map, List.filterMap_filter]
  rfl

/-! ## Block conversions (R118, R119) -/

theorem blockConversionResults : Claim.BlockConversionResults := by
  intro n f d a b s c G
  refine ⟨?mxq, ?mxdq⟩
  case mxq =>
    intro u z r h hclean
    change execMxq n f d a s = _
    refine laneUnit_ok h _ _ fun l hl => ?_
    have hpoison : ((G.blockRun c l).map fun i => G.readWords i a.toNat 4).any anyPoison = false := by
      simpa only [List.any_map, List.any_eq_false, Function.comp, Bool.not_eq_true] using hclean l hl
    simp only [blockLanes_run, hpoison, Bool.false_eq_true, if_false, List.map_map, ← List.flatMap_def]
    rfl
  case mxdq =>
    intro u w r h hclean
    refine (fpLane_done _ [(a, 1), (b, 1)] rfl h hclean).trans ?_
    simp only [vals_cons_one, vals_nil, mxWidth_toNat, List.map_map]
    rfl

/-! ## Scaled dot products (R117) -/

/-- A scaled dot product without poison in its operands, its accumulator and the scale words of its blocks. -/
theorem mxdotOp_done (f : Nat) {n : BitVec 1} {d a b : BitVec 7} {s : State} {c : Cur} {G : Group} {u : Unit}
    (hu : u = fpUnit n 1 3 [(d, 1), (a, 1), (b, 1)]) (h : Ready s c G u) (hclean : G.Clean c u [(a.toNat, 1), (b.toNat, 1), (d.toNat, 1)])
    (hscale : ∀ l ∈ lanesOf G (G.run c), (G.scaleWord c (8 * (l / 8))).poison = false ∧ (G.scaleWord c (8 * (l / 8) + 1)).poison = false) :
    let sc := fun l => (G.scaleWord c l).val.toNat / 256 ^ pfxX c % 256
    let r := fun l => mxdotVal f (s.ftz G) (unitMode s G c) (sc (8 * (l / 8))) (sc (8 * (l / 8) + 1)) (G.val l a) (G.val l b) (G.val l d)
    mxdotOp f n d a b s = .next (s.laneDone G c u (.regs d 1) (fun l => [clean (r l).1]) (G.orFlags c u fun l => (r l).2)) := by
  subst hu
  refine laneUnit_ok h _ _ fun l hl => ?_
  obtain ⟨hfirst, hsecond⟩ := hscale l hl
  rw [Nat.mul_comm] at hfirst hsecond
  simp only [hfirst, hsecond, Bool.or_self, Bool.false_eq_true, if_false]
  refine (onWords_vals (regs := [(a, 1), (b, 1), (d, 1)]) _ (hclean l hl)).trans ?_
  simp only [vals_cons_one, vals_nil, elemBits_eight, Nat.mul_comm 8]
  rfl

theorem scaledDotResults : Claim.ScaledDotResults :=
  fun _ e _ _ _ _ _ _ h hclean hscale => ⟨mxdotOp_done e.toNat rfl h hclean hscale, mxdotOp_done 3 rfl h hclean hscale⟩

/-- Settles O6: a lane that reads no poison completes with the model's value, whose blocks, elements and scale bytes are those of the rules. -/
theorem blockAndScaledDotResults : Obligations.BlockAndScaledDotResults := ⟨blockConversionResults, scaledDotResults⟩

end Sys2Proof.Machine
end

section
/-! Collectives (spec/06 R146; spec/07 R156, R157, R162): a part of a group waits, and the whole ganged group completes with the results of its
run lanes. -/
namespace Sys2Proof.Machine

/-! ## Collectives (R146) -/

theorem collective_waits {s : State} {c : Cur} {G : Group} {k : Cur → Group → Out} (h : InUnit s c G) (hpart : G.ganged c = false) :
    collective s k = .next (s.setGroup (G.toCwait c.seqs c.unitPc)).endUnit := by
  simp only [collective, withUnit, h.cur, h.group, hpart, Bool.false_eq_true, if_false]

theorem collective_whole {s : State} {c : Cur} {G : Group} {u : Unit} {k : Cur → Group → Out} (h : Ganged s c G u) : collective s k = k c G := by
  simp only [collective, withUnit, h.cur, h.group, h.whole, if_true]

theorem toCwait_eq (G : Group) (ids : List Nat) (pc : BitVec 56) :
    G.toCwait ids pc = { G with seqs := G.seqs.map fun q => if q.id ∈ ids then { q with st := .cwait, pc := pc } else q } := by
  simp only [Group.toCwait, List.contains_iff_mem]

theorem collectiveWaits : Claim.CollectiveWaits := by
  intro f k d a g kd ka s c G h hpart t
  have waits (k : Cur → Group → Out) : collective s k = .next t := by
    rw [collective_waits h hpart, toCwait_eq]
  exact ⟨waits _, waits _, waits _, waits _, waits _, waits _⟩

/-! ## Collectives with a result for each lane (R155) -/

theorem orFlags_zero (G : Group) (c : Cur) (u : Unit) : (G.orFlags c u fun _ => 0#5) = 0#5 := by
  simp only [Group.orFlags, BitVec.or_zero]
  exact List.foldl_fixed _

/-- A collective whose run lanes all complete, with no flag. -/
theorem crossUnit_done {s : State} {c : Cur} {G : Group} {u : Unit} {d : Dst} {wide : Cur → Group → Bool}
    {f : State → Cur → Group → Nat → LaneOut} (h : Ganged s c G u) (hwide : wide c G = false) (vals : Nat → List PWord)
    (hf : ∀ l ∈ lanesOf G (u.run G c), f s c G l = .ok (vals l) 0#5) :
    crossUnit u d wide f s = .next (s.laneDone G c u d vals 0#5) := by
  have houts : (lanesOf G (u.run G c)).map (fun l => (l, f s c G l)) = (lanesOf G (u.run G c)).map fun l => (l, LaneOut.ok (vals l) 0#5) :=
    List.map_congr_left fun l hl => by rw [hf l hl]
  rw [crossUnit, collective_whole h]
  simp only [h.check, hwide, Bool.false_eq_true, if_false, houts]
  rw [retire_ok s G c u d false vals fun _ => 0#5, orFlags_zero]

/-- Clean sources of the run lanes hold no poison for the group. -/
theorem runPoison_of_clean {G : Group} {c : Cur} {names : List (BitVec 7 × Nat)} {rm : Bool} {a n : Nat}
    (h : G.Clean c (crossOf rm names) [(a, n)]) : G.runPoison c a n = false := by
  rw [Group.runPoison, List.any_eq_false]
  intro l hl
  rw [h l hl (a, n) (List.mem_singleton_self _)]
  exact Bool.false_ne_true

theorem clean_one {G : Group} {c : Cur} {u : Unit} {a l : Nat} (h : G.Clean c u [(a, 1)]) (hl : l ∈ lanesOf G (u.run G c)) :
    (G.readWord l a).poison = false := by
  simpa [readWords_one, anyPoison] using h l hl (a, 1) (List.mem_singleton_self _)

/-! ## Votes (R156) -/

theorem voteResults : Claim.VoteResults := by
  intro f k a s c G hf u h hclean
  have hpoison : G.runPoison c a.toNat 1 = false := runPoison_of_clean hclean
  change execVote f k a s = _
  refine crossUnit_done h ?wide _ fun l hl => ?lane
  case wide => simp [hpoison]
  case lane =>
    have hall : ((G.runLanes c).map fun m => G.readWord m a.toNat).all (fun w => w.val != 0#32)
        = decide (∀ m ∈ lanesOf G (G.run c), G.val m a ≠ 0#32) := by
      rw [Bool.eq_iff_iff, decide_eq_true_iff]
      simp [Group.val, Group.runLanes]
    have hany : ((G.runLanes c).map fun m => G.readWord m a.toNat).any (fun w => w.val != 0#32)
        = decide (∃ m ∈ lanesOf G (G.run c), G.val m a ≠ 0#32) := by
      rw [Bool.eq_iff_iff, decide_eq_true_iff]
      simp [Group.val, Group.runLanes]
    have hown : (G.val l a != 0#32) = decide (G.val l a ≠ 0#32) := by rw [Bool.eq_iff_iff, decide_eq_true_iff, bne_iff_ne]
    have hmine : (G.readWord l a.toNat).poison = false := clean_one hclean hl
    obtain rfl | rfl | rfl : f = 0#3 ∨ f = 1#3 ∨ f = 2#3 := by revert f; decide
    · exact congrArg (fun b => LaneOut.ok (bitRes b) 0#5) hall
    · exact congrArg (fun b => LaneOut.ok (bitRes b) 0#5) hany
    · simp only [if_true, hmine, Bool.false_eq_true, if_false]
      exact congrArg (fun b => LaneOut.ok (bitRes b) 0#5) hown

/-! ## Matches (R157) -/

theorem pair_eq_iff (G : Group) (m l : Nat) (a : BitVec 7) :
    G.pair m a = G.pair l a ↔ (G.readWords m a.toNat 2).map (·.val) = (G.readWords l a.toNat 2).map (·.val) := by
  simp only [Group.pair, Group.readWords, List.range_succ, List.range_zero, List.nil_append, List.cons_append, List.map_cons, List.map_nil,
    List.getD_cons_zero, List.getD_cons_succ, List.cons.injEq, and_true, BitVec.toNat_inj.symm]
  have hlow (x : Word) := x.isLt
  constructor
  · intro h
    have h1 := hlow (if a.toNat = 124 then pzero else G.readWord m (a.toNat + 0)).val
    have h2 := hlow (if a.toNat = 124 then pzero else G.readWord l (a.toNat + 0)).val
    omega
  · rintro ⟨h0, h1⟩
    rw [h0, h1]

theorem matchSet_eq (G : Group) (c : Cur) (w : BitVec 1) (a : BitVec 7) (l : Nat) :
    matchSet G c w a l = G.matchClass c a.toNat (if w = 0#1 then 1 else 2) l := by
  unfold matchSet Group.matchClass
  congr 1
  funext m
  congr 1
  split
  · rw [Bool.eq_iff_iff, beq_iff_eq, decide_eq_true_iff]; simp [readWords_one, Group.val]
  · rw [Bool.eq_iff_iff, beq_iff_eq, decide_eq_true_iff, pair_eq_iff]

theorem writeWord_eq (t : Thread) (winb c : Nat) (v : PWord) : ∃ rs os, t.writeWord winb c v = { t with regs := rs, opf := os } := by
  unfold Thread.writeWord
  split
  · exact ⟨_, t.opf, rfl⟩
  split
  · exact ⟨t.regs, _, rfl⟩
  · exact ⟨t.regs, t.opf, rfl⟩

theorem writeWords_eq (t : Thread) (winb c : Nat) (ws : List PWord) : ∃ rs os, t.writeWords winb c ws = { t with regs := rs, opf := os } := by
  unfold Thread.writeWords
  split
  · exact ⟨t.regs, t.opf, rfl⟩
  induction List.range ws.length generalizing t with
  | nil => exact ⟨t.regs, t.opf, rfl⟩
  | cons i is ih =>
    obtain ⟨rs, os, e⟩ := writeWord_eq t winb (c + i) (ws.getD i pzero)
    rw [List.foldl_cons, e]
    exact ih { t with regs := rs, opf := os }

theorem pushes_eq {α : Type} (f : α → PWord) (g : α → BitVec 9) (is : List α) (t : Thread) :
    ∃ ls, is.foldl (fun v i => v.push (f i) (g i)) t = { t with lats := ls } := by
  induction is generalizing t with
  | nil => exact ⟨t.lats, rfl⟩
  | cons i is ih => exact ih (t.push (f i) (g i))

/-- A thread's part of the write-back changes its registers and latches, and nothing else of it. -/
theorem retire_eq (t : Thread) (winb c n : Nat) (nw latch zero inK0 : Bool) (res : Option (List PWord)) :
    ∃ rs os ls, t.retire winb c n nw latch zero inK0 res = { t with regs := rs, opf := os, lats := ls } := by
  unfold Thread.retire
  extract_lets old after u
  have written : ∃ rs os, u = { t with regs := rs, opf := os } := by
    simp only [u]
    split
    · exact writeWords_eq ..
    · exact ⟨t.regs, t.opf, rfl⟩
  obtain ⟨rs, os, hu⟩ := written
  split
  · obtain ⟨ls, e⟩ := pushes_eq (fun i => after.getD i pzero) (fun i => latchTag winb (if c = 124 then c else c + i)) (List.range n) u
    exact ⟨rs, os, ls, by rw [e, hu]⟩
  · exact ⟨rs, os, t.lats, hu⟩

section RegisterResult
variable (G : Group) (u : Unit) (c : Cur) (r : BitVec 7) (n : Nat) (k0 run gone : BitVec 64) (out : Nat → Option (List PWord))

/-- A write-back to registers leaves the masks, and every thread its place and whether it lives. -/
theorem writeBack_regs_eq : ∃ xs ts, G.writeBack u c (.regs r n) k0 run gone out = { G with unif := xs, threads := ts }
    ∧ ts.map (fun t => (t.live, t.col)) = G.threads.map fun t => (t.live, t.col) := by
  have unchanged : ∃ xs ts, G = { G with unif := xs, threads := ts } ∧ ts.map (fun t => (t.live, t.col)) = G.threads.map fun t => (t.live, t.col) :=
    ⟨G.unif, G.threads, rfl, rfl⟩
  have uniform (ws : List PWord) : ∃ xs ts, G.writeUnif r.toNat ws = { G with unif := xs, threads := ts }
      ∧ ts.map (fun t => (t.live, t.col)) = G.threads.map fun t => (t.live, t.col) := by
    obtain ⟨xs, e⟩ := writeUnif_eq G r.toNat ws
    exact ⟨xs, G.threads, e, rfl⟩
  unfold Group.writeBack
  dsimp only
  split
  case isTrue =>
    split
    case h_1 => exact unchanged
    case h_2 =>
      split
      · exact unchanged
      · split
        · split
          · exact uniform _
          · exact unchanged
        · split
          · exact uniform _
          · exact unchanged
  case isFalse =>
    refine ⟨G.unif, _, rfl, ?_⟩
    refine List.ext_getElem (by simp) fun l _ hl => ?_
    have hl : l < G.threads.length := by simpa using hl
    obtain ⟨rs, os, ls, e⟩ := retire_eq G.threads[l] G.winb r.toNat n u.nw u.latch (pfxZm c) (k0.getLsbD l) (if run.getLsbD l then out l else none)
    simp only [List.getElem_map, List.getElem_mapIdx, e]
    split
    · rfl
    split <;> rfl

theorem activeIn_of_places {G : Group} {xs : List PWord} {ts : List Thread}
    (h : ts.map (fun t => (t.live, t.col)) = G.threads.map fun t => (t.live, t.col)) (q : Seq) (l : Nat) :
    ({ G with unif := xs, threads := ts } : Group).activeIn q l = G.activeIn q l := by
  have hl : (ts[l]?).map (fun t => (t.live, t.col)) = (G.threads[l]?).map fun t => (t.live, t.col) := by
    rw [← List.getElem?_map, h, List.getElem?_map]
  unfold Group.activeIn Group.thread
  dsimp only
  cases hH : ts[l]? <;> cases hG : G.threads[l]? <;> simp_all [Thread.inCols]

@[simp] theorem writeBack_regs_k0 : (G.writeBack u c (.regs r n) k0 run gone out).k0 c = G.k0 c := by
  obtain ⟨xs, ts, e, h⟩ := writeBack_regs_eq G u c r n k0 run gone out
  have hlen : ts.length = G.threads.length := by simpa using congrArg List.length h
  rw [e, Group.k0, Group.k0]
  simp only [activeIn_of_places h, hlen]
  rfl

@[simp] theorem writeBack_regs_run : (G.writeBack u c (.regs r n) k0 run gone out).run c = G.run c := by
  have hk0 := writeBack_regs_k0 G u c r n k0 run gone out
  obtain ⟨xs, ts, e, -⟩ := writeBack_regs_eq G u c r n k0 run gone out
  rw [Group.run, Group.run, hk0, e]
  rfl

theorem writeBack_regs_lanesOf (m : BitVec 64) : lanesOf (G.writeBack u c (.regs r n) k0 run gone out) m = lanesOf G m := by
  obtain ⟨xs, ts, e, h⟩ := writeBack_regs_eq G u c r n k0 run gone out
  have hlen : ts.length = G.threads.length := by simpa using congrArg List.length h
  rw [e]
  simp only [lanesOf, Group.lanes, hlen]

end RegisterResult

theorem pairWords_toNat (x : BitVec 64) : pairWords x.toNat = (split64 x).map clean := by
  rw [← split64_ofNat, BitVec.ofNat_toNat, BitVec.setWidth_eq]

theorem matchResults : Claim.MatchResults := by
  intro w d a k s c G n u h hclean
  have hpoison : G.runPoison c a.toNat n = false := runPoison_of_clean hclean
  have hcheck : (xlUnit false [(d, 2), (a, n)]).check G c = none := h.check
  change execMatchLanes w d a k s = _
  rw [execMatchLanes, collective_whole h]
  simp only [show (if w = 0#1 then 1 else 2) = n from rfl, hcheck, hpoison, Bool.false_eq_true, if_false, pairWords_toNat, matchSet_eq]
  set H := G.writeBack (xlUnit false [(d, 2), (a, n)]) c (.regs d 2) (G.k0 c) (G.run c) 0#64
    (fun l => some ((split64 (G.matchClass c a.toNat n l)).map clean)) with hH
  have hlanes : G.runLanes c = lanesOf H (u.run H c) := by
    have hrun : u.run H c = H.run c := rfl
    rw [hrun, hH, writeBack_regs_run, writeBack_regs_lanesOf, Group.runLanes]
  have hretire := retire_ok s H c u (.mask k.toNat) false (fun l => bitRes (lowest (G.matchClass c a.toNat n l) == some l)) fun _ => 0#5
  rw [orFlags_zero, ← hlanes] at hretire
  simp only [beq_eq_decide] at hretire ⊢
  exact congrArg Host.Outcome.next hretire

/-! ## Masks (R162) -/

theorem bitOut_eq (b : Bool) : bitOut b = .ok (bitRes b) 0#5 := rfl

/-- The whole mask below the group's width, as a number. -/
theorem and_widthMask_toNat (G : Group) (m : BitVec 64) : (m &&& G.widthMask).toNat = m.toNat % 2 ^ G.width := by
  refine Nat.eq_of_testBit_eq fun i => ?_
  rw [BitVec.testBit_toNat, BitVec.getLsbD_and, Group.widthMask, laneMask_getLsbD, Nat.testBit_mod_two_pow, BitVec.testBit_toNat, Bool.and_true]
  by_cases hi : i < 64
  · simp [hi, Bool.and_comm]
  · simp [BitVec.getLsbD_of_ge m i (by omega)]

theorem pairVal_getLsbD (G : Group) (l : Nat) (d : BitVec 7) (i : Nat) :
    (pairVal (G.readWords l d.toNat 2)).getLsbD i = (G.pair l d).testBit i := by
  have hval : (pairVal (G.readWords l d.toNat 2)).toNat = G.pair l d := by
    unfold pairVal Group.pair
    rw [BitVec.toNat_append, Nat.shiftLeft_eq, Nat.mul_comm, ← Nat.two_pow_add_eq_or_of_lt (BitVec.isLt _), Nat.add_comm]
  rw [← BitVec.testBit_toNat, hval]

theorem maskMoveResults : Claim.MaskMoveResults := by
  intro f x y v d s c G bit
  refine ⟨fun h => ⟨?kop, ?kopNot⟩, fun h => ?tor, fun h hclean => ?tok⟩
  case kop =>
    change execKop f v x y s = _
    refine crossUnit_done h rfl _ fun l _ => ?_
    obtain rfl | rfl | rfl | rfl : f = 0#2 ∨ f = 1#2 ∨ f = 2#2 ∨ f = 3#2 := by revert f; decide
    all_goals rfl
  case kopNot =>
    change execKopNot v x s = _
    exact crossUnit_done h rfl _ fun l _ => rfl
  case tor =>
    change execKmovTor d x s = _
    refine crossUnit_done h rfl _ fun l _ => ?_
    rw [← and_widthMask_toNat, pairWords_toNat]
  case tok =>
    change execKmovTok v d s = _
    refine crossUnit_done h rfl _ fun l hl => ?_
    have hpoison : anyPoison (G.readWords l d.toNat 2) = false := hclean l hl _ (List.mem_singleton_self _)
    simp only [hpoison, Bool.false_eq_true, if_false, bitOut_eq, pairVal_getLsbD]

/-- Settles O16: a collective of a part of a group waits, and one of the whole ganged group completes with the results of its run lanes. -/
theorem maskCollectiveResults : Obligations.MaskCollectiveResults := ⟨collectiveWaits, voteResults, matchResults, maskMoveResults⟩

end Sys2Proof.Machine
end

section
/-! Reform and its bins (spec/06 R150 to R152): the lanes that file, where they come to lie, what they leave behind, and the draw of a bin. -/
namespace Sys2Proof.Machine

/-! ## Filing threads in bins (R151) -/

theorem putBin_putBin (s : State) (b x : Bin) : (s.putBin 0 b).putBin 0 x = s.putBin 0 x := by
  simp only [State.putBin, List.set_set]

theorem putBin_bins {s : State} (b : Bin) (h : s.live.bins = List.replicate 32 none) : (s.putBin 0 b).live.bins = some b :: List.replicate 31 none := by
  simp only [State.putBin, h]
  rfl

theorem find?_eq_some_of_unique {α : Type} {xs : List α} {p : α → Bool} {x : α} (hx : x ∈ xs) (hp : p x = true)
    (hunique : ∀ y ∈ xs, p y = true → y = x) : xs.find? p = some x := by
  obtain ⟨y, hy⟩ := Option.isSome_iff_exists.1 (List.find?_isSome.2 ⟨x, hx, hp⟩)
  rw [hy, hunique y (List.mem_of_find?_eq_some hy) (List.find?_some hy)]

theorem find?_range_zero {n : Nat} {p : Nat → Bool} (h : p 0 = true) : (List.range (n + 1)).find? p = some 0 := by
  rw [List.range_succ_eq_map, List.find?_cons_of_pos h]

/-- No bin is in use. -/
theorem bins_getD_none {s : State} (h : s.live.bins = List.replicate 32 none) (i : Nat) : s.live.bins.getD i none = none := by
  rw [h, List.getD_eq_getElem?_getD, List.getElem?_replicate]
  split <;> rfl

/-- The first thread of a key opens the lowest bin, where every bin is EMPTY. -/
theorem file_first {s : State} (k role winb : Nat) (l : Level) (pc : BitVec 56) (f : Filed) (h : s.live.bins = List.replicate 32 none)
    (hempty : s.binEmpty 0 = true) : s.file k role winb l pc f = s.putBin 0 ⟨k, role, pc, winb, l, [f]⟩ := by
  have hany : (List.range 32).any s.binEmpty = true := List.any_eq_true.2 ⟨0, by simp, hempty⟩
  simp only [State.file]
  rw [List.find?_eq_none.2 fun i _ => by simp only [bins_getD_none h]; exact Bool.false_ne_true]
  simp only [hany, if_true, State.openBin]
  rw [find?_range_zero hempty]

/-- A later thread of the key, in a column that is free, joins the bin. -/
theorem file_next {s : State} {b : Bin} (f : Filed) (h : s.live.bins = some b :: List.replicate 31 none) (htaken : b.taken f.thread.col = false)
    (hroom : b.threads.length + 1 < 64) :
    s.file b.team b.role b.winb b.level b.pc f = s.putBin 0 { b with threads := b.threads ++ [f] } := by
  have hkey : b.hasKey b.team b.role b.pc b.winb b.level = true := by simp [Bin.hasKey]
  have hfirst : s.live.bins.getD 0 none = some b := by rw [h]; rfl
  have hsmall : ¬ 64 ≤ (b.threads ++ [f]).length := by simp; omega
  simp only [State.file]
  rw [find?_range_zero (by simp only [hfirst, hkey])]
  simp only [hfirst, htaken, Bool.false_eq_true, if_false, if_neg hsmall]

/-- The columns of filed threads are all different. -/
def Spread (fs : List Filed) : Prop := (fs.map fun f => f.thread.col).Nodup

theorem file_rest {s : State} {b : Bin} (hbins : s.live.bins = List.replicate 32 none) (fs : List Filed) (hcols : Spread (b.threads ++ fs))
    (hroom : (b.threads ++ fs).length < 64) :
    fs.foldl (fun t f => t.file b.team b.role b.winb b.level b.pc f) (s.putBin 0 b) = s.putBin 0 { b with threads := b.threads ++ fs } := by
  induction fs generalizing b with
  | nil => rw [List.append_nil]; rfl
  | cons f fs ih =>
    have htaken : b.taken f.thread.col = false := by
      rw [Bin.taken, List.any_eq_false]
      intro x hx
      rw [Spread, List.map_append, List.map_cons, List.nodup_append] at hcols
      have := hcols.2.2 _ (List.mem_map_of_mem hx) _ List.mem_cons_self
      simpa using this
    have hsplit : b.threads ++ f :: fs = (b.threads ++ [f]) ++ fs := by simp
    rw [hsplit] at hcols hroom ⊢
    rw [List.foldl_cons, file_next f (putBin_bins b hbins) htaken (by simp at hroom; omega), putBin_putBin]
    exact ih (b := { b with threads := b.threads ++ [f] }) hcols hroom

/-- Threads of one key filed where no bin is in use: fewer than 64, and in different columns, they all lie in bin 0. -/
theorem file_all {s : State} (hbins : s.live.bins = List.replicate 32 none) (hempty : s.binEmpty 0 = true) (k role winb : Nat) (l : Level)
    (pc : BitVec 56) {fs : List Filed} (hne : fs ≠ []) (hcols : Spread fs) (hroom : fs.length < 64) :
    fs.foldl (fun t f => t.file k role winb l pc f) s = s.putBin 0 ⟨k, role, pc, winb, l, fs⟩ := by
  obtain ⟨f, fs, rfl⟩ := List.exists_cons_of_ne_nil hne
  rw [List.foldl_cons, file_first k role winb l pc f hbins hempty]
  exact file_rest (b := ⟨k, role, pc, winb, l, [f]⟩) hbins fs hcols hroom

/-! ## The lanes that file (R150) -/

/-- No two threads of the group stand in one column (R124). -/
def Group.OwnColumns (G : Group) : Prop := ∀ l m t u, G.thread l = some t → G.thread m = some u → t.col = u.col → l = m

section ByColumn
variable {G : Group} {m : BitVec 64}

theorem mem_byCol_of {p : Nat × Thread} (h : p ∈ G.byCol m) : m.getLsbD p.1 = true ∧ G.thread p.1 = some p.2 := by
  simp only [Group.byCol, List.mem_filterMap, Option.bind_eq_some_iff, Option.map_eq_some_iff] at h
  obtain ⟨col, -, l, hl, t, ht, rfl⟩ := h
  have hfound := List.find?_some hl
  rw [Bool.and_eq_true] at hfound
  exact ⟨hfound.1, ht⟩

theorem byCol_nodup : (G.byCol m).Nodup := by
  refine List.Nodup.filterMap (fun c d p hc hd => ?_) List.nodup_range
  simp only [Option.mem_def, Option.bind_eq_some_iff, Option.map_eq_some_iff] at hc hd
  obtain ⟨l, hl, t, ht, rfl⟩ := hc
  obtain ⟨i, hi, u, hu, e⟩ := hd
  obtain ⟨rfl, rfl⟩ := Prod.mk.inj e
  have hc := List.find?_some hl
  have hd := List.find?_some hi
  simp only [ht, Bool.and_eq_true, beq_iff_eq] at hc hd
  exact hc.2.symm.trans hd.2

/-- Fewer lanes than the group holds, where a lane of it is not among them. -/
theorem byCol_length_lt {l : Nat} (hl : l < G.threads.length) (hm : m.getLsbD l = false) : (G.byCol m).length < G.threads.length := by
  have hnodup : ((G.byCol m).map (·.1)).Nodup := byCol_nodup.map_on fun p hp q hq h => by
    obtain ⟨-, hp⟩ := mem_byCol_of hp
    obtain ⟨-, hq⟩ := mem_byCol_of hq
    rw [h, hq] at hp
    exact Prod.ext h (Option.some.inj hp).symm
  have hnot : l ∉ (G.byCol m).map (·.1) := by
    rintro hmem
    obtain ⟨p, hp, rfl⟩ := List.mem_map.1 hmem
    exact absurd (mem_byCol_of hp).1 (by simp [hm])
  have hsub : l :: (G.byCol m).map (·.1) ⊆ List.range G.threads.length := by
    rintro i (_ | ⟨_, hi⟩)
    · exact List.mem_range.2 hl
    · obtain ⟨p, hp, rfl⟩ := List.mem_map.1 hi
      exact List.mem_range.2 (List.getElem?_eq_some_iff.1 (mem_byCol_of hp).2).1
  simpa using (List.subperm_of_subset (List.nodup_cons.2 ⟨hnot, hnodup⟩) hsub).length_le

variable (hown : G.OwnColumns)
include hown

theorem mem_byCol (hcol : ∀ t ∈ G.threads, t.col < 64) {p : Nat × Thread} : p ∈ G.byCol m ↔ m.getLsbD p.1 = true ∧ G.thread p.1 = some p.2 := by
  refine ⟨mem_byCol_of, fun ⟨hm, ht⟩ => ?_⟩
  obtain ⟨l, t⟩ := p
  have hlane : l ∈ G.lanes := List.mem_range.2 (List.getElem?_eq_some_iff.1 ht).1
  simp only [Group.byCol, List.mem_filterMap, Option.bind_eq_some_iff, Option.map_eq_some_iff]
  refine ⟨t.col, List.mem_range.2 (hcol t (List.mem_of_getElem? ht)), l, ?_, t, ht, rfl⟩
  refine find?_eq_some_of_unique hlane (by simp [hm, ht]) fun i _ hi => ?_
  cases hu : G.thread i with
  | none => simp [hu] at hi
  | some u =>
    simp only [hu, Bool.and_eq_true, beq_iff_eq] at hi
    exact hown i l u t hu ht hi.2

theorem byCol_inj {p q : Nat × Thread} (hp : p ∈ G.byCol m) (hq : q ∈ G.byCol m) (h : p.2.col = q.2.col) : p = q := by
  obtain ⟨-, hp⟩ := mem_byCol_of hp
  obtain ⟨-, hq⟩ := mem_byCol_of hq
  have hlane := hown _ _ _ _ hp hq h
  rw [hlane, hq] at hp
  exact Prod.ext hlane (Option.some.inj hp).symm

end ByColumn

/-! ## The sequencers of the lanes that left (R101, R150) -/

/-- Nothing waits on the divergence stacks of a group. -/
def Group.Flat (G : Group) : Prop := ∀ q ∈ G.seqs, q.stack = [] ∧ q.spill = 0

theorem Group.Flat.setSeq {G : Group} (h : G.Flat) {q : Seq} (hq : q.stack = [] ∧ q.spill = 0) : (G.setSeq q).Flat := by
  intro r hr
  obtain ⟨x, hx, rfl⟩ := List.mem_map.1 hr
  split
  · exact hq
  · exact h x hx

theorem Group.Flat.promote {G : Group} (h : G.Flat) (pos : Nat) : (G.promote pos).Flat := by
  unfold Group.promote
  split
  · exact h
  split
  next f hf => exact h.setSeq (q := { f with frag := false }) (h f (List.mem_of_find?_eq_some hf))
  next => exact h

theorem promote_eq (G : Group) (pos : Nat) : ∃ qs, G.promote pos = { G with seqs := qs } := by
  unfold Group.promote
  split
  · exact ⟨G.seqs, rfl⟩
  split
  · exact ⟨_, rfl⟩
  · exact ⟨G.seqs, rfl⟩

/-- Resuming a sequencer of a group without stacks ends it: sequencers of the group change, and nothing else. -/
theorem resumePop_flat {s : State} {g : Nat} {G : Group} (hG : s.group g = some G) (hflat : G.Flat) (id : Nat) (pc : BitVec 56) (w : Word) :
    ∃ qs, ({ G with seqs := qs } : Group).Flat ∧ (s.resumePop g id false pc w = s ∨ s.resumePop g id false pc w = s.setGroup { G with seqs := qs }) := by
  simp only [State.resumePop, hG]
  cases hq : G.seq id with
  | none => exact ⟨G.seqs, hflat, .inl rfl⟩
  | some q =>
    obtain ⟨hstack, hspill⟩ := hflat q (List.mem_of_find?_eq_some hq)
    have hpop : G.pop q false = .dead := by
      rw [Group.pop, hstack, popStack, hspill]
      rfl
    simp only [hpop]
    have hdead : (G.setSeq { q with st := .done, own := 0#4, active := 0#4 }).Flat := hflat.setSeq ⟨hstack, hspill⟩
    obtain ⟨qs, e⟩ := promote_eq (G.setSeq { q with st := .done, own := 0#4, active := 0#4 }) q.pos
    have hpromoted := hdead.promote q.pos
    rw [e] at hpromoted ⊢
    exact ⟨qs, hpromoted, .inr rfl⟩

/-- A state after changes of sequencers of one group that keep its stacks empty: the group is otherwise as it was, and the bins too. -/
structure OnlySeqs (s t : State) (g : Nat) (G : Group) : Prop where
  group : ∃ qs, t.group g = some { G with seqs := qs } ∧ ({ G with seqs := qs } : Group).Flat
  bins : t.live.bins = s.live.bins

theorem applyQuads_flat {s : State} {c : Cur} {G : Group} (f : Seq → Seq) (hf : ∀ q, (f q).stack = q.stack ∧ (f q).spill = q.spill)
    (hG : s.group c.gctx = some G) (hflat : G.Flat) (ids : List Nat) : OnlySeqs s (s.applyQuads c ids fun _ q => .pop (f q)) c.gctx G := by
  induction ids generalizing s G with
  | nil => exact ⟨⟨G.seqs, hG, hflat⟩, rfl⟩
  | cons i is ih =>
    simp only [State.applyQuads, hG]
    cases hq : G.seq i with
    | none => exact ih hG hflat
    | some q =>
      have hfq : (f q).stack = [] ∧ (f q).spill = 0 := by
        rw [(hf q).1, (hf q).2]
        exact hflat q (List.mem_of_find?_eq_some hq)
      have hset : (s.setGroup (G.setSeq (f q))).group c.gctx = some (G.setSeq (f q)) := by
        rw [← group_gctx hG]
        exact group_setGroup_self (G := G.setSeq (f q)) (group_gctx hG ▸ hG)
      obtain ⟨qs, hqs, hpopped⟩ := resumePop_flat hset (hflat.setSeq hfq) i c.unitPc c.word
      simp only [State.applyQuad, hG]
      rcases hpopped with e | e
      · obtain ⟨hgroup, hbins⟩ := ih hset (hflat.setSeq hfq)
        rw [e]
        exact ⟨hgroup, hbins⟩
      · have hnext : ((s.setGroup (G.setSeq (f q))).setGroup { G.setSeq (f q) with seqs := qs }).group c.gctx = some { G.setSeq (f q) with seqs := qs } := by
          have hgctx : c.gctx = ({ G.setSeq (f q) with seqs := qs } : Group).gctx := (group_gctx hG).symm
          rw [hgctx]
          exact group_setGroup_self (H := G.setSeq (f q)) (hgctx ▸ hset)
        obtain ⟨hgroup, hbins⟩ := ih hnext hqs
        rw [e]
        exact ⟨hgroup, hbins⟩

/-! ## `reform` (R150) -/

theorem mem_onceEach {i : Nat} {is : List Nat} : i ∈ onceEach is ↔ i ∈ is := by
  induction is with
  | nil => rfl
  | cons j js ih =>
    simp only [onceEach, List.mem_cons, List.mem_filter, ih, bne_iff_ne]
    tauto

theorem activeIn_lt {G : Group} {q : Seq} {l : Nat} (h : G.activeIn q l = true) : l < G.threads.length := by
  unfold Group.activeIn Group.thread at h
  split at h
  case h_1 t ht => exact (List.getElem?_eq_some_iff.1 ht).1
  case h_2 => cases h

/-- Sequencers are found by their numbers. -/
theorem seq_of_mem {G : Group} (hids : (G.seqs.map (·.id)).Nodup) {q : Seq} (hq : q ∈ G.seqs) : G.seq q.id = some q :=
  find?_eq_some_of_unique hq (by simp) fun r hr h => List.inj_on_of_nodup_map hids hr hq (by simpa using h)

/-- The active lanes of the unit's sequencers, each sequencer looked up by its number. -/
theorem laneMask_eq_k0 {G : Group} {c : Cur} (hids : (G.seqs.map (·.id)).Nodup) {p : Nat → Bool}
    (hp : ∀ l, p l = true ↔ ∃ i ∈ c.seqs, ∃ q, G.seq i = some q ∧ G.activeIn q l = true) : laneMask 64 p = G.k0 c := by
  refine BitVec.eq_of_getLsbD_eq fun l h64 => ?_
  rw [Group.k0, laneMask_getLsbD, laneMask_getLsbD, Bool.eq_iff_iff]
  simp only [h64, decide_true, Bool.true_and, Bool.and_true, Bool.and_eq_true, decide_eq_true_eq, List.any_eq_true, hp, Group.issuing,
    List.mem_filter, List.contains_iff_mem]
  constructor
  · rintro ⟨i, hi, q, hq, hact⟩
    have hid : q.id = i := by simpa using List.find?_some hq
    exact ⟨activeIn_lt hact, q, ⟨List.mem_of_find?_eq_some hq, hid ▸ hi⟩, hact⟩
  · rintro ⟨-, q, ⟨hq, hid⟩, hact⟩
    exact ⟨q.id, hid, q, seq_of_mem hids hq, hact⟩

theorem laneMask_false {n : Nat} {p : Nat → Bool} (h : ∀ l, p l = false) : laneMask n p = 0#64 := by
  apply BitVec.eq_of_getLsbD_eq
  intro l _
  simp [laneMask_getLsbD, h]

/-- Lanes whose targets pass every check. -/
theorem badTargets_ok {G : Group} {a : Nat} {lanes : List Nat} (h : ∀ l ∈ lanes, ∃ p, G.target a l = .ok p) :
    G.badTargets a lanes = (0#64, 0#64, none) := by
  unfold Group.badTargets
  extract_lets ts flts eats
  have hts : ∀ p ∈ ts, ∃ pc, p.2 = .ok pc := fun p hp => by
    obtain ⟨l, hl, rfl⟩ := List.mem_map.1 hp
    exact h l hl
  have hflts : flts = [] := List.filterMap_eq_nil_iff.2 fun p hp => by
    obtain ⟨pc, hpc⟩ := hts p hp
    simp only [hpc]
  have heats : eats = 0#64 := laneMask_false fun l => List.any_eq_false.2 fun p hp => by
    obtain ⟨pc, hpc⟩ := hts p hp
    simp [hpc]
  have hnone : (laneMask 64 fun l => flts.any fun p => p.1 == l) = 0#64 := laneMask_false fun l => by rw [hflts]; rfl
  rw [hnone, heats, hflts]
  rfl

section EndEligible
variable (s : State) (k : Nat)

theorem endEligible_eq : ∃ ts ss, s.endEligible k = { s with live := { s.live with teams := ts, snaps := ss } } := by
  unfold State.endEligible
  split
  · exact ⟨s.live.teams, s.live.snaps, rfl⟩
  · exact ⟨_, _, rfl⟩

theorem endEligible_group (g : Nat) : (s.endEligible k).group g = s.group g := by
  obtain ⟨ts, ss, e⟩ := endEligible_eq s k
  rw [e]
  rfl

theorem endEligible_bins : (s.endEligible k).live.bins = s.live.bins := by
  obtain ⟨ts, ss, e⟩ := endEligible_eq s k
  rw [e]

theorem endEligible_binEmpty (i : Nat) : (s.endEligible k).binEmpty i = s.binEmpty i := by
  obtain ⟨ts, ss, e⟩ := endEligible_eq s k
  rw [e]
  rfl

end EndEligible

/-- What becomes of a sequencer whose active lanes have filed. -/
def Seq.vacated (q : Seq) : Seq := { q with own := q.own &&& ~~~q.active, active := 0#4 }

theorem flushLatch_col (t : Thread) (q : Latch) : (t.flushLatch q).col = t.col := by
  unfold Thread.flushLatch
  split
  · rfl
  split
  · rfl
  split <;> rfl

theorem redirect_col (t : Thread) : t.redirect.col = t.col := by
  show (t.lats.reverse.foldl Thread.flushLatch t).col = t.col
  induction t.lats.reverse generalizing t with
  | nil => rfl
  | cons q qs ih => exact (ih (t.flushLatch q)).trans (flushLatch_col t q)

/-- What a lane's thread is in its bin (R152). -/
def Group.filed (G : Group) (now : Nat) (t : Thread) : Filed := ⟨t.redirect, G.unif, now, G.uid⟩

/-- `reform` of a group that may file, all of whose lanes go on at one address: the lanes leave, file, and their sequencers pop. -/
theorem execReform_files {s : State} {c : Cur} {G : Group} {T : Team} {a : BitVec 7} {p : BitVec 56}
    (h : TeamReady s c G T (ctlUnit false (if a = 124#7 then [] else [(a, 2)]))) (hwidth : G.width = 64) (hlevel : G.level = .U)
    (hflat : G.Flat) (hst : ∀ q ∈ G.seqs, q.st ≠ .trap) (hids : (G.seqs.map (·.id)).Nodup)
    (hp : if a = 124#7 then p = c.pc + 4#56 else ∀ l, (G.k0 c).getLsbD l = true → G.target a.toNat l = .ok p) :
    ∃ running, execReform a s = .next (((((G.byCol (G.k0 c)).map fun x => G.filed s.now x.2).foldl
        (fun t f => t.file T.slot G.role G.winb G.level p f) ((s.endEligible T.slot).setGroup (G.leave (G.k0 c)))).applyQuads c running
          (fun _ q => .pop q.vacated)).endUnit.settleGroup c.gctx) := by
  have hprefix : (ctlUnit false (if a = 124#7 then [] else [(a, 2)])).prefixOk c = true := (check_eq_none_iff.1 h.check).1
  have hissuing : ((G.issuing c).any fun q => !q.stack.isEmpty || q.spill != 0) = false := List.any_eq_false.2 fun q hq => by
    obtain ⟨hstack, hspill⟩ := hflat q (List.mem_of_mem_filter hq)
    simp [hstack, hspill]
  have hbad : (if a = 124#7 then (0#64, 0#64, none) else G.badTargets a.toNat (lanesOf G (G.k0 c))) = (0#64, 0#64, (none : Option Flt)) := by
    split
    case isTrue => rfl
    case isFalse ha =>
      rw [if_neg ha] at hp
      exact badTargets_ok fun l hl => ⟨p, hp l (mem_lanesOf.1 hl).2⟩
  have hgo : ¬ (G.width ≠ 64 ∨ G.level ≠ .U ∨ ((G.issuing c).any fun q => !q.stack.isEmpty || q.spill != 0) = true) := by
    simp [hwidth, hlevel, hissuing]
  simp only [execReform, withUnit, h.cur, h.group, hprefix, h.slot, h.home, h.check, hbad, endEligible_group, Bool.not_true, Bool.false_eq_true, if_false,
    if_neg hgo, Option.isSome_none, Option.isNone_none, ne_eq, not_true_eq_false, and_false]
  rw [laneMask_eq_k0 (G := G) (c := c) hids fun l => ?lanes]
  case lanes =>
    simp only [BitVec.or_self, BitVec.getLsbD_zero, Bool.not_false, Bool.true_and, List.any_eq_true, List.mem_filter, mem_onceEach]
    constructor
    · rintro ⟨i, ⟨hi, -⟩, hact⟩
      cases hq : G.seq i with
      | none => simp [hq] at hact
      | some q => exact ⟨i, hi, q, hq, by simpa [hq] using hact⟩
    · rintro ⟨i, hi, q, hq, hact⟩
      exact ⟨i, ⟨hi, by simpa [hq] using hst q (List.mem_of_find?_eq_some hq)⟩, by simpa [hq] using hact⟩
  rw [List.foldl_map, List.foldl_ext _ (fun t x => t.file T.slot G.role G.winb G.level p (G.filed s.now x.2)) _ fun t x hx => ?next]
  case next =>
    split at hp
    case isTrue ha => rw [if_pos ha, ← hp]; rfl
    case isFalse ha => rw [if_neg ha, hp x.1 (mem_byCol_of hx).1]; rfl
  exact ⟨_, rfl⟩

theorem leave_thread (G : Group) (m : BitVec 64) (l : Nat) :
    (G.leave m).thread l = (G.thread l).map fun t => if m.getLsbD l then { t with live := false, regs := [] } else t := by
  simp only [Group.leave, Group.thread, List.getElem?_mapIdx]

/-- What the filing lanes of a group leave behind: the state between the unit and the end of a group without lanes. -/
theorem filed_state {s : State} {c : Cur} {G : Group} (hG : s.group c.gctx = some G) (hflat : G.Flat) (hbins : s.live.bins = List.replicate 32 none)
    (hempty : s.binEmpty 0 = true) {m : BitVec 64} {fs : List Filed} (hne : fs ≠ []) (hcols : Spread fs) (hroom : fs.length < 64)
    (k role winb : Nat) (lvl : Level) (p : BitVec 56) (running : List Nat) :
    ∃ u H, ((fs.foldl (fun t f => t.file k role winb lvl p f) (s.setGroup (G.leave m))).applyQuads c running fun _ q => .pop q.vacated).endUnit = u
      ∧ u.cur = none ∧ u.group c.gctx = some H
      ∧ (∀ l, H.thread l = (G.thread l).map fun t => if m.getLsbD l then { t with live := false, regs := [] } else t)
      ∧ u.live.bins = some ⟨k, role, p, winb, lvl, fs⟩ :: List.replicate 31 none := by
  have hbins' : (s.setGroup (G.leave m)).live.bins = List.replicate 32 none := hbins
  have hleft : ((s.setGroup (G.leave m)).putBin 0 ⟨k, role, p, winb, lvl, fs⟩).group c.gctx = some (G.leave m) := by
    rw [← group_gctx hG]
    exact group_setGroup_self (G := G.leave m) (group_gctx hG ▸ hG)
  rw [file_all hbins' hempty k role winb lvl p hne hcols hroom]
  obtain ⟨⟨qs, hgroup, -⟩, hkept⟩ := applyQuads_flat Seq.vacated (fun _ => ⟨rfl, rfl⟩) hleft (G := G.leave m) hflat running
  refine ⟨_, { G.leave m with seqs := qs }, rfl, rfl, hgroup, leave_thread G m, ?_⟩
  exact hkept.trans (putBin_bins _ hbins')

theorem reformResults : Claim.ReformResults := by
  intro a p s c G T
  refine ⟨fun h hwidth hlevel hseqs hk0 hids hp _ hbins hempty hown hcol hmany hstays => ?files, fun h hprefix hteam hbad => ?trap⟩
  case files =>
    have hflat : G.Flat := fun q hq => ⟨(hseqs q hq).1, (hseqs q hq).2.1⟩
    obtain ⟨running, hexec⟩ := execReform_files h hwidth hlevel hflat (fun q hq => (hseqs q hq).2.2) hids hp
    have hcols : Spread ((G.byCol (G.k0 c)).map fun x => G.filed s.now x.2) := by
      rw [Spread, List.map_map]
      exact byCol_nodup.map_on fun x hx y hy hxy => byCol_inj hown hx hy (by simpa [Group.filed, redirect_col] using hxy)
    have hsome : (G.byCol (G.k0 c)).map (fun x => G.filed s.now x.2) ≠ [] := by
      obtain ⟨l, hl⟩ : ∃ l, (G.k0 c).getLsbD l = true := by
        by_contra hnone
        exact hk0 (BitVec.eq_of_getLsbD_eq fun i _ => by simpa using fun hi => hnone ⟨i, hi⟩)
      have hx : (l, G.threads[l]'(k0_lt hl)) ∈ G.byCol (G.k0 c) := (mem_byCol hown hcol).2 ⟨hl, List.getElem?_eq_getElem _⟩
      exact List.ne_nil_of_mem (List.mem_map_of_mem hx)
    obtain ⟨l, hl, hstay⟩ := hstays
    have hroom : ((G.byCol (G.k0 c)).map fun x => G.filed s.now x.2).length < 64 := by
      rw [List.length_map]
      exact (byCol_length_lt hl hstay).trans_le hmany
    obtain ⟨u, H, hu, hcur, hgroup, hthread, hbin⟩ := filed_state (m := G.k0 c) ((endEligible_group s T.slot c.gctx).trans h.group) hflat
      ((endEligible_bins s T.slot).trans hbins) ((endEligible_binEmpty s T.slot 0).trans hempty) hsome hcols hroom T.slot G.role G.winb G.level p running
    refine ⟨u, H, _, hu ▸ hexec, hcur, hgroup, hthread, hbin, by simp [Bin.hasKey, hlevel], fun x => ?_⟩
    simp only [List.mem_map, Prod.exists, mem_byCol hown hcol]
    constructor
    · rintro ⟨l, t, ⟨hl, ht⟩, rfl⟩
      exact ⟨l, t, hl, ht, rfl⟩
    · rintro ⟨l, t, hl, ht, rfl⟩
      exact ⟨l, t, ⟨hl, ht⟩, rfl⟩
  case trap =>
    have hprefix' : (ctlUnit false (if a = 124#7 then [] else [(a, 2)])).prefixOk c = true := hprefix
    have hrefused : G.width ≠ 64 ∨ G.level ≠ .U ∨ ((G.issuing c).any fun q => !q.stack.isEmpty || q.spill != 0) = true := by
      refine hbad.imp_right (Or.imp_right fun ⟨q, hq, hstack⟩ => List.any_eq_true.2 ⟨q, hq, ?_⟩)
      simp [hstack]
    change execReform a s = _
    simp only [execReform, withUnit, h.cur, h.group, hprefix', hteam, Bool.not_true, Bool.false_eq_true, if_false, if_pos hrefused]

/-! ## Drawing a bin (R151, R152) -/

theorem mem_seqsOf {ts : List Thread} {pc : BitVec 56} {now : Nat} {q : Seq} (h : q ∈ seqsOf ts pc now) :
    ∃ id m, q = Seq.fresh id id m pc now := by
  obtain ⟨i, -, hi⟩ := List.mem_filterMap.1 h
  dsimp only at hi
  split at hi
  · cases hi
  · exact ⟨i, _, (Option.some.inj hi).symm⟩

theorem execBinDrawAge_none {s : State} {i : Nat} (h : s.live.bins.getD i none = none) : execBinDrawAge i s = .next s := by
  rw [execBinDrawAge, h]

theorem execBinDrawAge_some {s : State} {i : Nat} {b : Bin} (h : s.live.bins.getD i none = some b) :
    execBinDrawAge i s = .next (if b.oldest + s.reformAge.toNat ≤ s.now then s.drawBin i true else s) := by
  rw [execBinDrawAge, h]

/-- A drawn bin becomes a group of its threads (R152). -/
theorem drawBin_live {s : State} {i : Nat} {b : Bin} (h : s.live.bins.getD i none = some b) (aged : Bool) :
    ∃ G : Group, (s.drawBin i aged).live = { s.live with groups := s.live.groups ++ [G], bins := s.live.bins.set i none }
      ∧ G.gctx = s.freeGctx ∧ G.team = some b.team ∧ G.role = b.role ∧ G.level = b.level ∧ G.winb = b.winb ∧ G.width = 64 ∧ G.reformed = true
      ∧ G.masks = List.replicate 7 0#64 ∧ G.threads = (byColumn b.threads).map (·.thread.redirect)
      ∧ ∀ q ∈ G.seqs, q.pc = b.pc ∧ q.st = .run ∧ q.stack = [] ∧ q.ready = s.now := by
  simp only [State.drawBin, h]
  refine ⟨_, rfl, ?_⟩
  dsimp only
  refine ⟨rfl, rfl, rfl, rfl, rfl, rfl, rfl, rfl, rfl, fun q hq => ?_⟩
  obtain ⟨id, m, rfl⟩ := mem_seqsOf hq
  exact ⟨rfl, rfl, rfl, rfl⟩

theorem agedBin : Claim.AgedBin := by
  intro s i b
  refine ⟨execBinDrawAge_none, fun h => ⟨fun hyoung => ?young, fun hold => ?old⟩⟩
  case young =>
    refine (execBinDrawAge_some h).trans ?_
    rw [if_neg (by omega)]
  case old =>
    obtain ⟨G, hdrawn, hG⟩ := drawBin_live h true
    exact ⟨_, G, (execBinDrawAge_some h).trans (by rw [if_pos hold]), by rw [hdrawn], by rw [hdrawn], hG⟩

/-- Settles O43: with every bin EMPTY the lanes that file all come to lie in bin 0, one after the other, and the pops of their sequencers end
these; the draw of an aged bin is what `State.drawBin` makes of it. -/
theorem reformAndBins : Obligations.ReformAndBins := ⟨reformResults, agedBin⟩

end Sys2Proof.Machine
end

section
/-! The launch queue's registers, launch counters, and registers written from outside the groups (spec/06 R129, R130, R134, R138, R153; spec/01 R6;
spec/22 R443, R445, R453; spec/23 R462, R464). -/
namespace Sys2Proof.Machine

/-! ## The host's requests (R443, R445, R453) -/

theorem pfOpen_iff (s : State) : s.pfOpen = true ↔ (s.slice 0).trust.ide ≠ 2 := by simp [State.pfOpen]

/-- A request for the registers of a function, which lie below the mailbox, is served where `hostOpen` says. -/
theorem bar0Open_iff {s : State} {f off : Nat} {tee : Bool} (h : off < 0x8000) : s.bar0Open f off tee = true ↔ hostOpen s f tee := by
  have hmailbox : ¬ 0x8000 ≤ off := by omega
  unfold State.bar0Open hostOpen
  by_cases hf : f = 0
  · simp [hf, pfOpen_iff]
  · simp [hf, hmailbox, and_assoc]

/-! ## The launch queue (R129, R134) -/

theorem hostQpostWrite_open {s : State} {f : Nat} (h : hostOpen s f true) (n : BitVec 16) : exec (.hostQpostWrite f n) s
    = .next ((s.setQueue f s.die { s.queue f s.die with qpost := n }).flow [.host] [.dispatcher s.die]) := by
  change execHostQpostWrite f n s = _
  rw [execHostQpostWrite, if_pos ((bar0Open_iff (by decide)).2 h), State.publish]

theorem hostQpostWrite_closed {s : State} {f : Nat} (h : ¬ hostOpen s f true) (n : BitVec 16) : exec (.hostQpostWrite f n) s = .next s := by
  change execHostQpostWrite f n s = _
  rw [execHostQpostWrite, if_neg fun hopen => h ((bar0Open_iff (by decide)).1 hopen)]

theorem retryQueue_halted {s : State} {f die : Nat} (h : (s.queue f die).halted = true) :
    s.retryQueue f die = s.setQueue f die { s.queue f die with halted := false, reason := 0#8, nextUnread := false } := if_pos h

theorem retryQueue_running {s : State} {f die : Nat} (h : (s.queue f die).halted = false) : s.retryQueue f die = s := by
  rw [State.retryQueue, h, if_neg Bool.false_ne_true]

/-- The queue behind a refused entry (R134). -/
def LaunchQ.skipped (q : LaunchQ) : LaunchQ :=
  { q with
    halted := false
    reason := 0#8
    nextUnread := false
    done := q.done + 1#16
    qhead := if q.nextUnread then q.qhead else q.next &&& 0x00FFFFFFFFFFFFC0#64 }

theorem skipQueue_halted {s : State} {f die : Nat} (trigger : Bool) (h : (s.queue f die).halted = true) :
    s.skipQueue f die trigger = if trigger && !(s.queue f die).nextUnread then
      (s.setQueue f die (s.queue f die).skipped).writeCounter f ((s.queue f die).qcfg.setWidth 12) (s.queue f die).trigt []
      else s.setQueue f die (s.queue f die).skipped := by
  rw [State.skipQueue, h, if_neg (by decide)]
  rfl

theorem skipQueue_running {s : State} {f die : Nat} (trigger : Bool) (h : (s.queue f die).halted = false) : s.skipQueue f die trigger = s := by
  rw [State.skipQueue, h, if_pos (by decide)]

theorem launchQueueControl : Claim.LaunchQueueControl := by
  intro f n s q skipped
  refine ⟨rfl, fun h => hostQpostWrite_open h n, fun h => hostQpostWrite_closed h n,
    fun h => ⟨?retry, ?skip, fun hread => ?trigger, fun hunread => ?unread⟩,
    fun h => ⟨?retryRuns, ?skipRuns, ?triggerRuns⟩⟩
  case retry => exact congrArg Host.Outcome.next (retryQueue_halted h)
  case skip => exact congrArg Host.Outcome.next (skipQueue_halted false h)
  case trigger =>
    have hwrite : (true && !q.nextUnread) = true := by rw [hread]; rfl
    exact congrArg Host.Outcome.next ((skipQueue_halted true h).trans (if_pos hwrite))
  case unread =>
    have hnone : ¬ (true && !q.nextUnread) = true := by rw [hunread]; decide
    exact congrArg Host.Outcome.next ((skipQueue_halted true h).trans (if_neg hnone))
  case retryRuns => exact congrArg Host.Outcome.next (retryQueue_running h)
  case skipRuns => exact congrArg Host.Outcome.next (skipQueue_running false h)
  case triggerRuns => exact congrArg Host.Outcome.next (skipQueue_running true h)

/-! ## Launch counters (R130, R138) -/

theorem trigger_engine (e : BitVec 16) (v : BitVec 32) : bits (0#16 ++ e ++ v).toNat 47 32 = e.toNat := by
  have he := e.isLt
  have hv := v.isLt
  have hnum : (0#16 ++ e ++ v).toNat = 2 ^ 32 * e.toNat + v.toNat := by
    rw [BitVec.toNat_append, Nat.shiftLeft_eq, Nat.mul_comm, ← Nat.two_pow_add_eq_or_of_lt hv, BitVec.toNat_append]
    simp
  rw [hnum, bits]
  omega

theorem trigger_value (e : BitVec 16) (v : BitVec 32) : (0#16 ++ e ++ v).setWidth 32 = v := by
  rw [BitVec.setWidth_append]
  simp

@[simp] theorem recEvent_slices (s : State) (u cls kind asid vf payload : Nat) : (s.recEvent u cls kind asid vf payload).slices = s.slices := rfl

@[simp] theorem flow_slices (s : State) (src dst : List AgentId) : (s.flow src dst).slices = s.slices := rfl

/-- Raising a vector leaves the launch counters of every slice. -/
theorem raiseMsi_lcnt {s : State} {f : Nat} (hf : f < s.slices.length) (v : Nat) : ((s.raiseMsi f v).slice f).lcnt = (s.slice f).lcnt := by
  unfold State.raiseMsi
  dsimp only
  split
  · rfl
  · rw [slice_setSlice _ _ _ hf]

/-- A trigger that names launch counter n (R130). -/
theorem writeCounter_counter (s : State) (f : Nat) (asid : BitVec 12) {n : Nat} (v : BitVec 32) (src : List AgentId) (hn : n < 16) :
    s.writeCounter f asid (0#16 ++ BitVec.ofNat 16 (0x100 + n) ++ v) src
      = (((s.setSlice f { s.slice f with lcnt := (s.slice f).lcnt.set n v }).flow (.dispatcher s.die :: src) [.counter f n]).recEvent
        (48 * s.die) 0x02 0x05 asid.toNat f (n + v.toNat * 16)).raiseMsi f (4 + n) := by
  have hengine : (BitVec.ofNat 16 (0x100 + n)).toNat = 0x100 + n := by
    rw [BitVec.toNat_ofNat]
    omega
  simp only [State.writeCounter, trigger_engine, hengine, trigger_value, Nat.add_sub_cancel_left]
  rw [if_pos (by omega)]

theorem counterWrites : Claim.CounterWrites := by
  intro s f asid n v e src hf hlen
  refine ⟨fun hn => ?counter, fun hother => ?other⟩
  case counter =>
    refine ⟨writeCounter_counter s f asid v src hn, ?_⟩
    rw [writeCounter_counter s f asid v src hn, raiseMsi_lcnt (by simpa using hf)]
    exact congrArg Slice.lcnt (slice_setSlice s f _ hf)
  case other => rw [State.writeCounter, trigger_engine, if_neg (by omega)]

/-! ## Registers written from outside the groups (R6, R445) -/

/-- A register of the table is a 64-bit one, which a slice has on every die and takes as written. -/
structure SliceWritten (s : State) (f n : Nat) (v : BitVec 64) (x : Slice) : Prop where
  low : 0x400 ≤ n
  high : n < 0x800
  full : crOf n = some (.full n)
  read : ∀ die, ((s.sliceReg f die n).isNone) = false
  write : ∀ die, s.setSliceReg f die n v.toNat = some (s.setSlice f x)

theorem sliceWritten (s : State) (f : Nat) (v : BitVec 64) : ∀ p ∈ sliceWrites (s.slice f) v, SliceWritten s f p.1 v p.2 := by
  have hv : BitVec.ofNat 64 v.toNat = v := by rw [BitVec.ofNat_toNat, BitVec.setWidth_eq]
  unfold sliceWrites
  repeat rw [List.forall_mem_cons]
  dsimp only
  have row {n : Nat} {x : Slice} (hn : 0x400 ≤ n ∧ n < 0x800 ∧ crOf n = some (.full n)) (hread : ∀ die, (s.sliceReg f die n).isNone = false)
      (hwrite : ∀ die, s.setSliceReg f die n v.toNat = some (s.setSlice f x)) : SliceWritten s f n v x := ⟨hn.1, hn.2.1, hn.2.2, hread, hwrite⟩
  have taken {n : Nat} {x y : Slice} (h : y = x) (die : Nat) (hn : s.setSliceReg f die n v.toNat = some (s.setSlice f y)) :
      s.setSliceReg f die n v.toNat = some (s.setSlice f x) := h ▸ hn
  exact ⟨row (by decide) (fun _ => rfl) fun die => taken (by rw [hv]) die rfl, row (by decide) (fun _ => rfl) fun die => taken (by rw [hv]) die rfl,
    row (by decide) (fun _ => rfl) fun die => taken (by rw [hv]) die rfl, row (by decide) (fun _ => rfl) fun die => taken (by rw [hv]) die rfl,
    row (by decide) (fun _ => rfl) fun die => taken (by rw [hv]) die rfl, List.forall_mem_nil _⟩

section SliceRegister
variable {s : State} {f n : Nat} {v : BitVec 64} {x : Slice} (h : SliceWritten s f n v x)
include h

theorem mmioReg_written (die : Nat) : s.mmioReg f die n 8 v.toNat false = if crReserved n v.toNat then s.counted else s.setSlice f x := by
  simp only [State.mmioReg, h.full, h.read die, h.write die, Bool.false_eq_true, if_false, false_or, ne_eq, not_true_eq_false, and_false]

theorem registerWrite_written {tee : Bool} (hopen : hostOpen s f tee) (hdie : s.die < 4) :
    exec (.registerWrite f (.control (BitVec.ofNat 12 n) tee) v) s = .next (if crReserved n v.toNat then s.counted else s.setSlice f x) := by
  have hlow := h.low
  have hhigh := h.high
  have hn : (BitVec.ofNat 12 n).toNat = n := by
    rw [BitVec.toNat_ofNat]
    omega
  have hserved : s.bar0Open f (0x2000 * s.die + 8 * (n - 0x400)) tee = true := (bar0Open_iff (by omega)).2 hopen
  have hok : ¬ (n < 0x400 ∨ 0x800 ≤ n ∨ ¬ s.bar0Open f (0x2000 * s.die + 8 * (n - 0x400)) tee = true) := by
    simp [hserved]
    omega
  change execRegisterWrite f (.control (BitVec.ofNat 12 n) tee) v s = _
  simp only [execRegisterWrite, hn, if_neg hok, h.full, mmioReg_written h]

theorem mmioWrite_written {tee : Bool} (hopen : hostOpen s f tee) (hres : crReserved n v.toNat = false) {d : Nat} (hd : d < 4) :
    exec (.mmioWrite f (0x2000 * d + 8 * (n - 0x400)) 8 v tee) s = .next (s.setSlice f x) := by
  have hlow := h.low
  have hhigh := h.high
  obtain ⟨off, hoff⟩ : ∃ off, off = 0x2000 * d + 8 * (n - 0x400) := ⟨_, rfl⟩
  have hwindow : off < 0x8000 := by omega
  have hserved : s.bar0Open f off tee = true := (bar0Open_iff hwindow).2 hopen
  have haligned : ¬ (off % 8 ≠ 0 ∨ 8 ≠ 4 ∧ 8 ≠ 8) := by omega
  have hsmall : ¬ 0x10000 ≤ off := by omega
  have hdie : off / 0x2000 = d := by omega
  have hnum : 0x400 + off % 0x2000 / 8 = n := by omega
  have hvalue : v.toNat % 2 ^ (8 * 8) = v.toNat := Nat.mod_eq_of_lt v.isLt
  have hbyte : (off % 8 != 0) = false := by
    rw [bne_eq_false_iff_eq]
    omega
  rw [← hoff]
  change execMmioWrite f off 8 v tee s = _
  rw [execMmioWrite, if_neg (by simp [hserved, hsmall]), State.bar0Write, if_pos hwindow, if_neg haligned, hdie, hnum, hvalue, hbyte,
    mmioReg_written h, hres, if_neg Bool.false_ne_true]

end SliceRegister

/-- The interface of a virtual function is locked or has failed, or it is in RUN and the request lacks the T bit (R453). -/
theorem bar0Open_shut {s : State} {f off : Nat} {tee : Bool} (hf : f ≠ 0)
    (h : (s.slice f).tdi = 1#2 ∨ (s.slice f).tdi = 3#2 ∨ (s.slice f).tdi = 2#2 ∧ tee = false ∧ off < 0x8000) : s.bar0Open f off tee = false := by
  unfold State.bar0Open
  rcases h with h | h | ⟨h, rfl, hoff⟩
  · simp [hf, h]
  · simp [hf, h]
  · simp [hf, h, hoff]

theorem mmioWrite_shut {s : State} {f off : Nat} {tee : Bool} (h : s.bar0Open f off tee = false) (size : Nat) (v : BitVec 64) :
    exec (.mmioWrite f off size v tee) s = .next s := by
  change execMmioWrite f off size v tee s = _
  rw [execMmioWrite, if_pos (.inl (by rw [h]; rfl))]

theorem registerWrite_shut {s : State} {f : Nat} {tee : Bool} (h : ¬ hostOpen s f tee) (hdie : s.die < 4) (n : BitVec 12) (v : BitVec 64) :
    exec (.registerWrite f (.control n tee) v) s = .next s := by
  have hout : n.toNat < 0x400 ∨ 0x800 ≤ n.toNat ∨ ¬ s.bar0Open f (0x2000 * s.die + 8 * (n.toNat - 0x400)) tee = true := by
    by_cases hn : n.toNat < 0x800
    · exact .inr (.inr fun hserved => h ((bar0Open_iff (by omega)).1 hserved))
    · exact .inr (.inl (by omega))
  change execRegisterWrite f (.control n tee) v s = _
  rw [execRegisterWrite, if_pos hout]

/-! ## An insecure link stream, and the base addresses (R462, R464) -/

theorem pfOpen_false {s : State} (h : (s.slice 0).trust.ide = 2) : ¬ s.pfOpen = true := fun hopen => (pfOpen_iff s).1 hopen h

theorem registerWrite_map_insecure {s : State} (h : (s.slice 0).trust.ide = 2) (f off size : Nat) (v : BitVec 64) :
    exec (.registerWrite f (.map off size) v) s = .next s := by
  change execRegisterWrite f (.map off size) v s = _
  rw [execRegisterWrite, if_neg fun k => pfOpen_false h k.2.2.2.2]

theorem registerWrite_config_insecure {s : State} (h : (s.slice 0).trust.ide = 2) (r : CfgReg) (v : BitVec 64) :
    exec (.registerWrite 0 (.config r) v) s = .next s := by
  change execRegisterWrite 0 (.config r) v s = _
  rw [execRegisterWrite, if_neg fun k => pfOpen_false h (k.2 rfl)]

theorem registerWrite_config_open {s : State} (h : (s.slice 0).trust.ide ≠ 2) (r : CfgReg) (v : BitVec 64) :
    exec (.registerWrite 0 (.config r) v) s = .next (s.cfgWrite 0 v.toNat r) := by
  change execRegisterWrite 0 (.config r) v s = _
  rw [execRegisterWrite, if_pos ⟨by decide, fun _ => (pfOpen_iff s).2 h⟩]

/-! ## The bin age limit (R153) -/

theorem drawAged_of_empty {s : State} (h : s.live.bins = List.replicate 32 none) : s.drawAged = s := by
  unfold State.drawAged
  induction List.range 32 with
  | nil => rfl
  | cons i is ih => rwa [List.foldl_cons, bins_getD_none h]

theorem outsideWrites : Claim.OutsideWrites := by
  intro f v tee s
  refine ⟨fun p hp hres hopen => ⟨fun hdie => ?register, fun d hd => ?window⟩, fun p hp hres hopen hdie => ?reserved,
    fun off size hf hshut => mmioWrite_shut (bar0Open_shut hf hshut) size v, fun n hshut hdie => registerWrite_shut hshut hdie n v,
    fun off size r hide => ⟨registerWrite_map_insecure hide f off size v, registerWrite_config_insecure hide r v⟩,
    fun hide => ⟨registerWrite_config_open hide .bar0 v, registerWrite_config_open hide .bar2 v⟩,
    fun w => ⟨fun hmin hmax hbins => ?age, fun hbad => ?refused⟩⟩
  case register => rw [registerWrite_written (sliceWritten s f v p hp) hopen hdie, hres, if_neg Bool.false_ne_true]
  case window => exact mmioWrite_written (sliceWritten s f v p hp) hopen hres hd
  case reserved =>
    rw [registerWrite_written (sliceWritten s f v p hp) hopen hdie, hres, if_pos rfl]
    rfl
  case age =>
    change execTsReformWrite w s = _
    rw [execTsReformWrite, if_neg (by omega), drawAged_of_empty (s := { s with reformAge := w }) hbins]
  case refused =>
    change execTsReformWrite w s = _
    rw [execTsReformWrite, if_pos (by omega)]

/-- Settles O46: a write of the host is taken where the request is served, and the functions of the model that take it are those of the
statement. -/
theorem launchQueueAndOutsideWrites : Obligations.LaunchQueueAndOutsideWrites := ⟨launchQueueControl, counterWrites, outsideWrites⟩

end Sys2Proof.Machine
end

section
/-! PROOFS. The dispatcher: launch entries are checked and held, clusters are placed, and teams start (O47). -/
namespace Sys2Proof.Machine

/-! ## Reading an entry (R133, R134) -/

/-- The queue of a function on the core's die may read its next entry: the slice runs, and the queue walks and holds no grid. -/
def State.mayRead (s : State) (f : Nat) : Prop :=
  (s.slice f).valid = true ∧ (s.slice f).halted = false ∧ (s.slice f).trCtl.getLsbD 12 = false ∧ (s.queue f s.die).walking = true
    ∧ (s.queue f s.die).grid = none

/-- The address space of a launch queue (R129). -/
def State.queueView (s : State) (f : Nat) : View := ⟨f, (s.queue f s.die).qcfg.setWidth 12, false, false⟩

/-- What the banks hold of the dispatcher's reads for a function (R287). -/
def State.entryHeld (s : State) (f : Nat) : List (Nat × Nat × Bool) :=
  s.rangesHeld (dispatchHolder f) (s.queueView f) .load (s.launchRanges (s.queueView f) (s.queue f s.die).qhead.toNat)

/-- What follows a read of the dispatcher: one thing where it faults, another where it gives its bytes. -/
def afterRead (r : Option (List Byte) × State) (fault : State → Out) (found : List Byte → State → Out) : Out :=
  match r with
  | (bytes, t) => match bytes with
    | none => fault t
    | some b => found b t

@[simp] theorem afterRead_none (t : State) (fault : State → Out) (found : List Byte → State → Out) :
    afterRead (none, t) fault found = fault t := rfl

@[simp] theorem afterRead_some (b : List Byte) (t : State) (fault : State → Out) (found : List Byte → State → Out) :
    afterRead (some b, t) fault found = found b t := rfl

/-- What follows the reads of an entry (R134): it is refused with the code of the first check that fails, else held as a grid. -/
def launchRead (s : State) (f : Nat) (e d p : List Byte) (t : State) : Out :=
  if launchCheck (s.slice f) d e ≠ 0 then .next (t.refuseLaunch f (launchCheck (s.slice f) d e) (some e))
  else if !t.placeable f (rolesOf d e) (scratchOf d e) (fld e 0x22 1) then .next (t.refuseLaunch f 0x0A (some e))
  else if fld e 0 8 % 64 ≠ 0 ∨ 2 ^ 56 ≤ fld e 0 8 then .next (t.refuseLaunch f 0x0B (some e))
  else .next (({ t with
    grids := t.grids ++ [t.gridFor f ((s.queue f s.die).qcfg.setWidth 12) (s.queue f s.die).qhead d e p]
    nextGrid := t.nextGrid + 1 } : State).setQueue f s.die { s.queue f s.die with grid := some t.nextGrid })

/-- The dispatcher's step, one read after the other. -/
theorem readLaunchEntry_eq (s : State) (f : Nat) : exec (.readLaunchEntry f) s
    = if (!(s.slice f).valid || (s.slice f).halted || (s.slice f).trCtl.getLsbD 12 || !(s.queue f s.die).walking
        || (s.queue f s.die).grid.isSome) = true then .next s
      else if s.entryHeld f ≠ [] then .next (s.holdReqs (dispatchHolder f) (s.entryHeld f))
      else afterRead ((s.unhold (dispatchHolder f)).dispatchRead (s.queueView f) (s.queue f s.die).qhead.toNat 64)
        (fun t => .next (t.refuseLaunch f 0x01 none)) fun e t =>
          afterRead (t.dispatchRead (s.queueView f) (fld e 8 8) 256) (fun t => .next (t.refuseLaunch f 0x01 (some e))) fun d t =>
            afterRead (t.launchReads (s.queueView f) d e) (fun t => .next (t.refuseLaunch f 0x01 (some e))) (launchRead s f e d) := by
  show execReadLaunchEntry f s = _
  unfold execReadLaunchEntry
  -- The two sides agree whatever a read gives: with the read opaque, the kernel does not evaluate it to compare them.
  obtain ⟨read, hread⟩ : ∃ read, read = @State.dispatchRead := ⟨_, rfl⟩
  rw [← hread]
  rfl

theorem mayRead_iff (s : State) (f : Nat) : s.mayRead f ↔ (!(s.slice f).valid || (s.slice f).halted || (s.slice f).trCtl.getLsbD 12
    || !(s.queue f s.die).walking || (s.queue f s.die).grid.isSome) = false := by
  simp [State.mayRead, and_assoc]

theorem readLaunchEntry_stays {s : State} {f : Nat} (h : ¬ s.mayRead f) : exec (.readLaunchEntry f) s = .next s := by
  rw [mayRead_iff, Bool.not_eq_false] at h
  rw [readLaunchEntry_eq, if_pos h]

theorem readLaunchEntry_waits {s : State} {f : Nat} (h : s.mayRead f) (hheld : s.entryHeld f ≠ []) :
    exec (.readLaunchEntry f) s = .next (s.holdReqs (dispatchHolder f) (s.entryHeld f)) := by
  rw [mayRead_iff] at h
  rw [readLaunchEntry_eq, h, if_neg Bool.false_ne_true, if_pos hheld]

/-- An entry that was read is refused with the code of the first check that fails. -/
theorem launchRead_refused (s t : State) (f : Nat) (e d p : List Byte) :
    (launchCheck (s.slice f) d e ≠ 0 → launchRead s f e d p t = .next (t.refuseLaunch f (launchCheck (s.slice f) d e) (some e)))
    ∧ (launchCheck (s.slice f) d e = 0 → t.placeable f (rolesOf d e) (scratchOf d e) (fld e 0x22 1) = false →
      launchRead s f e d p t = .next (t.refuseLaunch f 0x0A (some e)))
    ∧ (launchCheck (s.slice f) d e = 0 → t.placeable f (rolesOf d e) (scratchOf d e) (fld e 0x22 1) = true →
      fld e 0 8 % 64 ≠ 0 ∨ 2 ^ 56 ≤ fld e 0 8 → launchRead s f e d p t = .next (t.refuseLaunch f 0x0B (some e))) := by
  unfold launchRead
  refine ⟨fun hcode => if_pos hcode, fun hcode hroom => ?room, fun hcode hroom hnext => ?next⟩
  case room => rw [if_neg (not_not.2 hcode), if_pos (by rw [hroom]; rfl)]
  case next => rw [if_neg (not_not.2 hcode), if_neg (by rw [hroom]; decide), if_pos hnext]

/-- An entry that passes every check becomes the grid that the queue holds. -/
theorem launchRead_held {s t : State} {f : Nat} {e d : List Byte} (p : List Byte) (hcode : launchCheck (s.slice f) d e = 0)
    (hroom : t.placeable f (rolesOf d e) (scratchOf d e) (fld e 0x22 1) = true) (halign : fld e 0 8 % 64 = 0) (hsmall : fld e 0 8 < 2 ^ 56) :
    launchRead s f e d p t = .next (({ t with
      grids := t.grids ++ [t.gridFor f ((s.queue f s.die).qcfg.setWidth 12) (s.queue f s.die).qhead d e p]
      nextGrid := t.nextGrid + 1 } : State).setQueue f s.die { s.queue f s.die with grid := some t.nextGrid }) := by
  have hnext : ¬ (fld e 0 8 % 64 ≠ 0 ∨ 2 ^ 56 ≤ fld e 0 8) := fun h => h.elim (fun h => h halign) (not_le.2 hsmall)
  unfold launchRead
  rw [if_neg (not_not.2 hcode), if_neg (by rw [hroom]; decide), if_neg hnext]

section
variable {s s1 s2 s3 : State} {f : Nat} {e d p : List Byte} (h : s.mayRead f) (hfree : s.entryHeld f = [])
include h hfree

theorem readLaunchEntry_reads : exec (.readLaunchEntry f) s
    = afterRead ((s.unhold (dispatchHolder f)).dispatchRead (s.queueView f) (s.queue f s.die).qhead.toNat 64)
        (fun t => .next (t.refuseLaunch f 0x01 none)) fun e t =>
          afterRead (t.dispatchRead (s.queueView f) (fld e 8 8) 256) (fun t => .next (t.refuseLaunch f 0x01 (some e))) fun d t =>
            afterRead (t.launchReads (s.queueView f) d e) (fun t => .next (t.refuseLaunch f 0x01 (some e))) (launchRead s f e d) := by
  rw [mayRead_iff] at h
  rw [readLaunchEntry_eq, h, if_neg Bool.false_ne_true, if_neg (not_not.2 hfree)]

theorem readLaunchEntry_of_no_entry
    (hentry : (s.unhold (dispatchHolder f)).dispatchRead (s.queueView f) (s.queue f s.die).qhead.toNat 64 = (none, s1)) :
    exec (.readLaunchEntry f) s = .next (s1.refuseLaunch f 0x01 none) := by
  rw [readLaunchEntry_reads h hfree, hentry, afterRead_none]

variable (hentry : (s.unhold (dispatchHolder f)).dispatchRead (s.queueView f) (s.queue f s.die).qhead.toNat 64 = (some e, s1))
include hentry

theorem readLaunchEntry_of_no_descriptor (hdesc : s1.dispatchRead (s.queueView f) (fld e 8 8) 256 = (none, s2)) :
    exec (.readLaunchEntry f) s = .next (s2.refuseLaunch f 0x01 (some e)) := by
  rw [readLaunchEntry_reads h hfree, hentry, afterRead_some, hdesc, afterRead_none]

variable (hdesc : s1.dispatchRead (s.queueView f) (fld e 8 8) 256 = (some d, s2))
include hdesc

theorem readLaunchEntry_of_no_parameters (hparams : s2.launchReads (s.queueView f) d e = (none, s3)) :
    exec (.readLaunchEntry f) s = .next (s3.refuseLaunch f 0x01 (some e)) := by
  rw [readLaunchEntry_reads h hfree, hentry, afterRead_some, hdesc, afterRead_some, hparams, afterRead_none]

theorem readLaunchEntry_of_all_read (hparams : s2.launchReads (s.queueView f) d e = (some p, s3)) :
    exec (.readLaunchEntry f) s = launchRead s f e d p s3 := by
  rw [readLaunchEntry_reads h hfree, hentry, afterRead_some, hdesc, afterRead_some, hparams, afterRead_some]

end

theorem launchEntries : Claim.LaunchEntries := by
  intro f s x q v may held s0
  refine ⟨readLaunchEntry_stays, readLaunchEntry_waits, fun h hfree => ⟨fun _ => readLaunchEntry_of_no_entry h hfree,
    fun _ _ _ _ _ hentry => ⟨readLaunchEntry_of_no_descriptor h hfree hentry, readLaunchEntry_of_no_parameters h hfree hentry⟩,
    fun _ _ s3 e d p hentry hdesc hparams => ?checks⟩⟩
  have hread : exec (.readLaunchEntry f) s = launchRead s f e d p s3 := readLaunchEntry_of_all_read h hfree hentry hdesc hparams
  rw [hread]
  obtain ⟨hcode, hroom, hnext⟩ := launchRead_refused s s3 f e d p
  exact ⟨hcode, hroom, fun hpass hplace => ⟨launchRead_held p hpass hplace, hnext hpass hplace⟩⟩

/-! ## Placement (R126, R127, R132, R133, R135) -/

/-- What follows the placement of a grid's next cluster: it waits where the cluster does not fit, and its entry is consumed after the last. -/
def afterCluster (s s0 : State) (f : Nat) (g : Grid) : Option (State × List RemoteTeam) → Out
  | none => .next (s0.setGrid { g with released := true })
  | some (s1, rs) =>
    let g1 := { g with nextCluster := g.nextCluster + 1, released := true, remote := g.remote ++ rs }
    if g1.nextCluster * g.csize < g.teams then .next (s1.setGrid g1)
    else .next ((s1.setGrid { g1 with placing := false }).setQueue f s.die
      { s.queue f s.die with grid := none, qhead := g.next, done := (s.queue f s.die).done + 1#16 })

theorem placement_eq {s : State} {f : Nat} {g : Grid} (hgrid : (s.queue f s.die).grid.bind s.grid = some g) : exec (.placement f) s
    = if (s.slice f).halted = true ∨ (s.slice f).trCtl.getLsbD 12 = true ∨ ¬ (g.released || g.deps.all (s.reachedDep f)) = true then .next s
      else afterCluster s (if g.released = true then s else s.observeDeps g) f g
        ((if g.released = true then s else s.observeDeps g).placeCluster f g) := by
  show execPlacement f s = _
  unfold execPlacement
  dsimp only
  rw [hgrid]
  rfl

section
variable {s : State} {f : Nat} {g : Grid} (hgrid : (s.queue f s.die).grid.bind s.grid = some g)
include hgrid

theorem placement_stays (h : (s.slice f).halted = true ∨ (s.slice f).trCtl.getLsbD 12 = true
    ∨ ¬ (g.released = true ∨ g.deps.all (s.reachedDep f) = true)) : exec (.placement f) s = .next s := by
  rw [← Bool.or_eq_true] at h
  rw [placement_eq hgrid, if_pos h]

theorem placement_goes (hrun : (s.slice f).halted = false) (hidle : (s.slice f).trCtl.getLsbD 12 = false)
    (hgo : g.released = true ∨ g.deps.all (s.reachedDep f) = true) : exec (.placement f) s
      = afterCluster s (if g.released = true then s else s.observeDeps g) f g
        ((if g.released = true then s else s.observeDeps g).placeCluster f g) := by
  rw [← Bool.or_eq_true] at hgo
  rw [placement_eq hgrid, if_neg]
  rw [hrun, hidle, hgo]
  decide

end

theorem afterCluster_some (s s0 s1 : State) (f : Nat) (g : Grid) (rs : List RemoteTeam) :
    let g1 := { g with nextCluster := g.nextCluster + 1, released := true, remote := g.remote ++ rs }
    ((g.nextCluster + 1) * g.csize < g.teams → afterCluster s s0 f g (some (s1, rs)) = .next (s1.setGrid g1))
    ∧ (g.teams ≤ (g.nextCluster + 1) * g.csize → afterCluster s s0 f g (some (s1, rs)) = .next ((s1.setGrid { g1 with placing := false }).setQueue
        f s.die { s.queue f s.die with grid := none, qhead := g.next, done := (s.queue f s.die).done + 1#16 })) :=
  ⟨fun h => if_pos h, fun h => if_neg (not_lt.2 h)⟩

/-- Where a slice has no other core on the die, the cluster's teams take their places on this one (R135). -/
theorem placeCluster_of_alone {s : State} {f sh : Nat} {g : Grid} (hcores : ∀ k ∈ (s.slice f).coresOn s.die, k = s.coreNo)
    (hshare : s.shareOf f = some sh) : s.placeCluster f g
      = (Room.placeMany g.roles g.scr g.csize s.room).map fun p => (s.placeTeams g sh (g.nextCluster * g.csize) p.2, []) := by
  have halone : ((List.range 192).filter ((s.slice f).coresOn s.die).contains).all (· == s.coreNo) = true := by
    rw [List.all_eq_true]
    intro k hk
    exact beq_iff_eq.2 (hcores k (List.contains_iff_mem.1 (List.mem_filter.1 hk).2))
  unfold State.placeCluster
  simp only [halone, if_true, hshare]
  cases Room.placeMany g.roles g.scr g.csize s.room <;> rfl

/-! ## A placed team (R126, R127, R372) -/

/-- A group as its team's start leaves it (R126, R127): its first uniform registers name it, its threads' registers are zero, and its quads
stand at the role's entry. -/
structure Group.Starts (G : Group) (T : Team) (g : Grid) (share : Nat) (p : Nat × Nat × Nat × Nat) (r : Role) : Prop where
  team : G.team = some T.slot
  share : G.share = share
  role : G.role = p.1
  index : G.index = p.2.1
  width : G.width = r.2.1
  level : G.level = .U
  winb : G.winb = 0
  mig : G.mig = none
  unif : G.unif = [T.tx, T.ty, T.tz, p.2.1].map (fun i => clean (BitVec.ofNat 32 i)) ++ List.replicate 12 pzero
  masks : G.masks = List.replicate 7 0#64
  threads : G.threads.length = r.2.1
  fresh : ∀ th ∈ G.threads, th.live = true ∧ th.regs = List.replicate r.2.2.2 pzero ∧ th.opf = List.replicate 8 pzero
  seqs : ∀ q ∈ G.seqs, q.st = .run ∧ q.pc = (g.code + BitVec.ofNat 64 r.1).setWidth 56 ∧ q.stack = []

theorem newGroup_teams (s : State) (T : Team) (g : Grid) (share : Nat) (p : Nat × Nat × Nat × Nat) :
    (s.newGroup T g share p).live.teams = s.live.teams := rfl

theorem newGroup_groups {g : Grid} {p : Nat × Nat × Nat × Nat} {r : Role} (hr : g.roles[p.1]? = some r) (s : State) (T : Team) (share : Nat) :
    ∃ G, (s.newGroup T g share p).live.groups = s.live.groups ++ [G] ∧ G.Starts T g share p r := by
  have hrole : g.roles.getD p.1 (0, 8, 1, 8) = r := by rw [List.getD_eq_getElem?_getD, hr]; rfl
  subst hrole
  refine ⟨_, rfl, rfl, rfl, rfl, rfl, rfl, rfl, rfl, rfl, rfl, rfl, by simp, fun th hth => ?thread, fun q hq => ?seq⟩
  case thread =>
    obtain ⟨i, -, rfl⟩ := List.mem_map.1 hth
    exact ⟨rfl, rfl, rfl⟩
  case seq =>
    obtain ⟨id, m, rfl⟩ := mem_seqsOf hq
    exact ⟨rfl, rfl, rfl⟩

/-- The interval of a team that is eligible and has no journal leaves the team and the groups as they are. -/
theorem startInterval_fresh {s : State} {k : Nat} {T : Team} (hT : s.team k = some T) (heligible : T.eligible = true) (hjournal : T.journal = []) :
    (s.startInterval k).team k = some T ∧ (s.startInterval k).live.groups = s.live.groups := by
  obtain rfl : T.slot = k := by simpa using List.find?_some (show s.live.teams.find? (fun U => U.slot == k) = some T from hT)
  have hsame : ({ T with eligible := true, journal := [] } : Team) = T := by rw [← heligible, ← hjournal]
  have hkeep : (s.live.teams.map fun U => if U.slot = T.slot then T else U).find? (fun U => U.slot == T.slot) = some T := by
    have hfun : ((fun U : Team => U.slot == T.slot) ∘ fun U => if U.slot = T.slot then T else U) = fun U => U.slot == T.slot := by
      funext U
      by_cases hU : U.slot = T.slot <;> simp [hU]
    rw [List.find?_map, hfun]
    rw [State.team] at hT
    rw [hT, Option.map_some, if_pos rfl]
  unfold State.startInterval
  rw [hT]
  dsimp only
  rw [hsame]
  exact ⟨hkeep, rfl⟩

/-- A team at the end of the list is the team of its slot where no other holds the slot. -/
theorem find_slot_append {teams : List Team} {T : Team} (h : ∀ U ∈ teams, U.slot ≠ T.slot) :
    (teams ++ [T]).find? (fun U => U.slot == T.slot) = some T := by
  have hnone : teams.find? (fun U => U.slot == T.slot) = none := by simpa using h
  simp [List.find?_append, hnone]

/-- The team that a placement adds (R127). -/
structure Team.Starts (T : Team) (slot : Nat) (g : Grid) (n b : Nat) : Prop where
  slot : T.slot = slot
  grid : T.grid = g.id
  linear : T.linear = n
  tx : T.tx = n % g.gx
  ty : T.ty = n / g.gx % g.gy
  tz : T.tz = n / g.gx / g.gy
  scrBase : T.scrBase = b
  scrSize : T.scrSize = g.scr
  bars : T.bars = List.replicate 16 ⟨0#16, 0, 0, none⟩
  fp : T.fp = FpCtx.zero
  eligible : T.eligible = true
  journal : T.journal = []

@[simp] theorem recEvent_live (s : State) (u cls kind asid vf payload : Nat) : (s.recEvent u cls kind asid vf payload).live = s.live := rfl

@[simp] theorem flow_live (s : State) (src dst : List AgentId) : (s.flow src dst).live = s.live := rfl

/-- A placement adds a team, and the groups of its layout one after the other; what follows concerns the interval and the records. -/
theorem placeTeam_eq (s : State) (g : Grid) (sh n : Nat) (lay : Layout) :
    ∃ (T : Team) (t : State) (src dst : List AgentId) (u payload : Nat), T.Starts s.freeSlot g n lay.1
    ∧ t.live.teams = s.live.teams ++ [T] ∧ t.live.groups = s.live.groups
    ∧ s.placeTeam g sh n lay = (((lay.2.foldl (fun t p => t.newGroup T g sh p) t).flow src dst).startInterval T.slot).recEvent u 0x02 0x02
        g.asid.toNat g.f payload := by
  refine ⟨_, _, _, _, _, _, ?_, ?_, ?_, rfl⟩
  · exact ⟨rfl, rfl, rfl, rfl, rfl, rfl, rfl, rfl, rfl, rfl, rfl, rfl⟩
  · rfl
  · rfl

/-- A team of one group. -/
theorem placeTeam_one {s : State} {g : Grid} {p : Nat × Nat × Nat × Nat} {r : Role} (hfree : ∀ U ∈ s.allTeams, U.slot ≠ s.freeSlot)
    (hr : g.roles[p.1]? = some r) (sh n b : Nat) : ∃ T G, (s.placeTeam g sh n (b, [p])).team s.freeSlot = some T
      ∧ (s.placeTeam g sh n (b, [p])).live.groups = s.live.groups ++ [G] ∧ T.Starts s.freeSlot g n b ∧ G.Starts T g sh p r := by
  obtain ⟨T, t, src, dst, u, payload, hT, hteams, hgroups, hplace⟩ := placeTeam_eq s g sh n (b, [p])
  obtain ⟨G, hG, hstarts⟩ := newGroup_groups hr t T sh
  have hlive : ∀ U ∈ s.live.teams, U.slot ≠ T.slot := fun U hU => hT.slot ▸ hfree U (List.mem_append_left _ hU)
  have hteam : ((t.newGroup T g sh p).flow src dst).team T.slot = some T := by
    rw [State.team, flow_live, newGroup_teams, hteams]
    exact find_slot_append hlive
  obtain ⟨hkeep, hsame⟩ := startInterval_fresh hteam hT.eligible hT.journal
  refine ⟨T, G, ?team, ?groups, hT, hstarts⟩
  case team => rw [hplace, ← hT.slot, State.team, recEvent_live]; exact hkeep
  case groups => rw [hplace, recEvent_live, List.foldl_cons, List.foldl_nil, hsame, flow_live, hG, hgroups]

theorem placementResults : Claim.PlacementResults := by
  refine ⟨fun f s g sh => ?step, fun s g sh n b p r _ hfree hr => ?one⟩
  case step =>
    intro q go hgrid
    refine ⟨placement_stays hgrid, fun hrun hidle hgo => ?_, placeCluster_of_alone⟩
    intro s0
    have hgoes : exec (.placement f) s = afterCluster s s0 f g (s0.placeCluster f g) := placement_goes hgrid hrun hidle hgo
    rw [hgoes]
    refine ⟨fun hnone => ?_, fun s1 rs hsome => ?_⟩
    · rw [hnone]; rfl
    · rw [hsome]; exact afterCluster_some s s0 s1 f g rs
  case one =>
    obtain ⟨T, G, hteam, hgroups, hT, hG⟩ := placeTeam_one hfree hr sh n b
    refine ⟨T, G, hteam, hgroups, hT.grid, hT.linear, hT.scrBase, hT.scrSize, hT.bars, hT.fp, hT.eligible, hT.slot ▸ hG.team, hG.share,
      hG.role, hG.index, hG.width, hG.level, hG.winb, hG.mig, ?_, hG.masks, hG.threads, hG.fresh, hG.seqs⟩
    rw [hG.unif, hT.tx, hT.ty, hT.tz]

/-- Settles O47: the dispatcher's step by its reads, the placement by its guard, and a placed team by its one group. -/
theorem launchAndPlacement : Obligations.LaunchAndPlacement :=
  ⟨launchEntries, placementResults⟩

end Sys2Proof.Machine
end

section
/-! Shuffles, transposes and reductions (spec/07 R158 to R161; spec/03 R72 to R74): what a run lane takes from the other lanes of its group. -/
namespace Sys2Proof.Machine

/-- A collective whose run lanes all complete, with the flags that they raise. -/
theorem crossUnit_ok {s : State} {c : Cur} {G : Group} {u : Unit} {d : Dst} {wide : Cur → Group → Bool}
    {f : State → Cur → Group → Nat → LaneOut} (h : Ganged s c G u) (hwide : wide c G = false) (vals : Nat → List PWord) (fl : Nat → BitVec 5)
    (hf : ∀ l ∈ lanesOf G (u.run G c), f s c G l = .ok (vals l) (fl l)) :
    crossUnit u d wide f s = .next (s.laneDone G c u d vals (G.orFlags c u fl)) := by
  have houts : (lanesOf G (u.run G c)).map (fun l => (l, f s c G l)) = (lanesOf G (u.run G c)).map fun l => (l, LaneOut.ok (vals l) (fl l)) :=
    List.map_congr_left fun l hl => by rw [hf l hl]
  rw [crossUnit, collective_whole h]
  simp only [h.check, hwide, Bool.false_eq_true, if_false, houts, retire_ok]

/-! ## Shuffles (R158) -/

/-- The model's source lane is that of the rule, where it lies in the group. -/
theorem shflSrc_eq {f w : Nat} (hf : f < 4) (hw : 0 < w) (l : Nat) (b : Word) :
    shflSrc f w l b = if 0 ≤ shflLane f w l (b.toNat % 64) ∧ shflLane f w l (b.toNat % 64) < w
      then some (shflLane f w l (b.toNat % 64)).toNat else none := by
  have hsel : b.toNat % 64 % w < w := Nat.mod_lt _ hw
  interval_cases f
  · simp only [shflSrc, shflLane]
    rw [if_pos (by omega), Int.toNat_natCast]
  · simp only [shflSrc, shflLane]
    split
    · rw [if_pos (by omega)]
      congr 1
      omega
    · rw [if_neg (by omega)]
  · simp only [shflSrc, shflLane]
    split
    · rw [if_pos (by omega)]
      congr 1
    · rw [if_neg (by omega)]
  · simp only [shflSrc, shflLane]
    split
    · rw [if_pos (by omega), Int.toNat_natCast]
    · rw [if_neg (by omega)]

theorem shflWord_eq {G : Group} (a : BitVec 7) {f : Nat} (hf : f < 4) (hw : 0 < G.width) (l : Nat) (b : Word) :
    G.shflWord a.toNat f l b = shflTake G a l (shflLane f G.width l (b.toNat % 64)) := by
  rw [Group.shflWord, shflSrc_eq hf hw, shflTake]
  by_cases hin : 0 ≤ shflLane f G.width l (b.toNat % 64) ∧ shflLane f G.width l (b.toNat % 64) < G.width
  · rw [if_pos hin]
    exact if_congr (by tauto) rfl rfl
  · rw [if_neg hin, if_neg fun k => hin ⟨k.1, k.2.1⟩]

theorem shuffleResults : Claim.ShuffleResults := by
  intro f d a b s c G u h hw
  refine ⟨fun hclean => ?shfl, fun m hm hpoison => ?bcast⟩
  case shfl =>
    change execShfl f d a b s = _
    refine crossUnit_done h rfl _ fun l hl => ?_
    have hown : (G.readWord l b.toNat).poison = false := clean_one hclean hl
    simp only [hown, Bool.false_eq_true, if_false, shflWord_eq a f.isLt hw, Group.val]
  case bcast =>
    have hsel : G.selWord c b.toNat = G.readWord m b.toNat := by rw [Group.selWord, hm]
    change execBcast d a b s = _
    refine crossUnit_done h (by rw [hsel, hpoison]) _ fun l _ => ?_
    rw [hsel, shflWord_eq a (by decide) hw]
    rfl

/-! ## Transposes (R161) -/

/-- Element k of a lane's new block: the element of the lane's number in lane k of its tile, zero where no thread lives there. -/
def Group.tileElem (G : Group) (d : BitVec 7) (z l k : Nat) : Nat × Bool :=
  let e := 8 * (32 / z)
  if G.liveLane (e * (l / e) + k) then blockElem G d z (e * (l / e) + k) (l % e) else (0, false)

theorem rgtWord_eq (G : Group) (d : BitVec 7) (z l w : Nat) : G.rgtWord d.toNat z l w
    = ⟨BitVec.ofNat 32 ((List.range (32 / z)).map fun i => (G.tileElem d z l (w * (32 / z) + i)).1 * 2 ^ (z * i)).sum,
      (List.range (32 / z)).any fun i => (G.tileElem d z l (w * (32 / z) + i)).2⟩ := by
  have hparts : (List.range (32 / z)).map (fun i => (((List.range (32 / z)).map fun i => G.tileElem d z l (w * (32 / z) + i)).getD i (0, false)).1 * 2 ^ (z * i))
      = (List.range (32 / z)).map fun i => (G.tileElem d z l (w * (32 / z) + i)).1 * 2 ^ (z * i) :=
    List.map_congr_left fun i hi => by simp [List.mem_range.1 hi]
  rw [← hparts]
  simp only [Group.rgtWord, Group.tileElem, Nat.mul_comm (l / (8 * (32 / z))), List.any_map, Function.comp_def, blockElem]

theorem transposeResults : Claim.TransposeResults := by
  intro f d s c G hf z m e u elem h
  have hprefix : u.prefixOk c = true := (check_eq_none_iff.1 h.check).1
  have hcheck : (xlUnit false [(d, 8)]).check G c = none := h.check
  refine ⟨fun hwide => ?whole, fun hnarrow => ?narrow⟩
  case whole =>
    have hfits : ¬ ((xlUnit false [(d, 8)]).prefixOk c = true ∧ G.width < 8 * (32 / rgtBits f.toNat)) := fun k => absurd k.2 (not_lt.2 hwide)
    have hretire := retire_ok s G c u (.regs d 8) false (fun l => (List.range 8).map fun k => G.rgtWord d.toNat z l k) fun _ => 0#5
    rw [orFlags_zero] at hretire
    change execRgt f d s = _
    rw [execRgt, collective_whole h]
    simp only [if_neg hfits, hcheck]
    refine congrArg Host.Outcome.next (hretire.trans ?_)
    simp only [rgtWord_eq]
    rfl
  case narrow =>
    change execRgt f d s = _
    rw [execRgt, collective_whole h]
    exact if_pos ⟨hprefix, hnarrow⟩

/-- Settles O17: a shuffle's source lane and a transpose's elements are those of the rules, lane by lane. -/
theorem shuffleAndTransposeResults : Obligations.ShuffleAndTransposeResults := ⟨shuffleResults, transposeResults⟩

/-! ## Integer reductions (R74, R159) -/

section ByKey
variable {α β : Type} [LinearOrder α] {k : β → α} (hk : Function.Injective k)
include hk

theorem leastBy_comm (x y : β) : (if k x ≤ k y then x else y) = if k y ≤ k x then y else x := by
  apply hk
  simp only [apply_ite k, ← min_def, min_comm]

theorem leastBy_assoc (x y z : β) : (if k (if k x ≤ k y then x else y) ≤ k z then if k x ≤ k y then x else y else z)
    = if k x ≤ k (if k y ≤ k z then y else z) then x else if k y ≤ k z then y else z := by
  apply hk
  simp only [apply_ite k, ← min_def, min_assoc]

theorem greatestBy_comm (x y : β) : (if k x ≤ k y then y else x) = if k y ≤ k x then x else y := by
  apply hk
  simp only [apply_ite k, ← max_def, max_comm]

theorem greatestBy_assoc (x y z : β) : (if k (if k x ≤ k y then y else x) ≤ k z then z else if k x ≤ k y then y else x)
    = if k x ≤ k (if k y ≤ k z then z else y) then if k y ≤ k z then z else y else x := by
  apply hk
  simp only [apply_ite k, ← max_def, max_assoc]

end ByKey

theorem toInt_injective : Function.Injective (BitVec.toInt : Word → Int) := fun _ _ => BitVec.eq_of_toInt_eq

theorem toNat_injective : Function.Injective (BitVec.toNat : Word → Nat) := fun _ _ => BitVec.eq_of_toNat_eq

theorem redOp_comm : ∀ (f : Nat) (x y : Word), redOp f x y = redOp f y x
  | 0, x, y => BitVec.add_comm x y
  | 1, x, y => leastBy_comm toInt_injective x y
  | 2, x, y => greatestBy_comm toInt_injective x y
  | 3, x, y => leastBy_comm toNat_injective x y
  | 4, x, y => greatestBy_comm toNat_injective x y
  | 5, x, y => BitVec.and_comm x y
  | 6, x, y => BitVec.or_comm x y
  | _ + 7, x, y => BitVec.xor_comm x y

theorem redOp_assoc : ∀ (f : Nat) (x y z : Word), redOp f (redOp f x y) z = redOp f x (redOp f y z)
  | 0, x, y, z => BitVec.add_assoc x y z
  | 1, x, y, z => leastBy_assoc toInt_injective x y z
  | 2, x, y, z => greatestBy_assoc toInt_injective x y z
  | 3, x, y, z => leastBy_assoc toNat_injective x y z
  | 4, x, y, z => greatestBy_assoc toNat_injective x y z
  | 5, x, y, z => BitVec.and_assoc x y z
  | 6, x, y, z => BitVec.or_assoc x y z
  | _ + 7, x, y, z => BitVec.xor_assoc x y z

/-- The model's operations and identities are those of the table. -/
theorem redTable_eq (f : BitVec 3) : redTable.getD f.toNat ((· + ·), 0#32) = (redOp f.toNat, redIdentity f.toNat) := by
  obtain h | h | h | h | h | h | h | h : f = 0#3 ∨ f = 1#3 ∨ f = 2#3 ∨ f = 3#3 ∨ f = 4#3 ∨ f = 5#3 ∨ f = 6#3 ∨ f = 7#3 := by revert f; decide
  all_goals
    subst h
    rfl

/-- The order of combination has no effect (R74). -/
theorem reduce_eq_combine (G : Group) (c : Cur) (f : BitVec 3) (a : BitVec 7) (hi : Nat) :
    G.reduce c f.toNat a.toNat hi = combine G c f.toNat a fun m => decide (m ≤ hi) := by
  have hcomm : Std.Commutative (redOp f.toNat) := ⟨redOp_comm f.toNat⟩
  have hassoc : Std.Associative (redOp f.toNat) := ⟨redOp_assoc f.toNat⟩
  simp only [Group.reduce, combine, redTable_eq, List.foldl_eq_foldr, List.foldr_map]
  rfl

/-- Every lane of a group that runs lies below 64. -/
theorem combine_all (G : Group) (c : Cur) (f : Nat) (a : BitVec 7) :
    combine G c f a (fun m => decide (m ≤ 63)) = combine G c f a fun _ => true := by
  have hbelow : ∀ m ∈ lanesOf G (G.run c), decide (m ≤ 63) = true := fun m hm => by
    have := BitVec.lt_of_getLsbD (mem_lanesOf.1 hm).2
    rw [decide_eq_true_iff]
    omega
  simp only [combine, List.filter_eq_self.2 hbelow, List.filter_true]

theorem integerReductions : Claim.IntegerReductions := by
  intro f d a s c G u h hclean
  have hpoison : G.runPoison c a.toNat 1 = false := runPoison_of_clean hclean
  refine ⟨?red, ?scan⟩
  case red =>
    change execRed f d a s = _
    refine crossUnit_done h hpoison _ fun l _ => ?_
    rw [reduce_eq_combine, combine_all]
  case scan =>
    change execScan f d a s = _
    refine crossUnit_done h hpoison _ fun l _ => ?_
    rw [reduce_eq_combine]

/-! ## FP32 reductions (R72, R73, R160) -/

theorem floatReductionResults : Claim.FloatReductionResults := by
  intro f d a s c G u t r h hclean
  have hpoison : G.runPoison c a.toNat 1 = false := runPoison_of_clean hclean
  refine ⟨?fred, ?fscan⟩
  case fred =>
    change execFred f d a s = _
    exact crossUnit_ok h hpoison _ _ fun _ _ => rfl
  case fscan =>
    change execFscan f d a s = _
    exact crossUnit_ok h hpoison _ _ fun _ _ => rfl

section Tree
variable (f : Nat) (z : Bool) (m : Nat)

theorem fredLevel_length : ∀ y : List FW, (fredLevel f z m y).length = y.length / 2
  | [] => rfl
  | [_] => by simp [fredLevel]
  | _ :: _ :: r => by simp only [fredLevel, List.length_cons, fredLevel_length r]; omega

/-- A node combines the two nodes below it. -/
theorem fredLevel_getD : ∀ (y : List FW) (j : Nat), 2 * j + 1 < y.length →
    (fredLevel f z m y).getD j (0#32, 0#5) = fredOp f z m (y.getD (2 * j) (0#32, 0#5)) (y.getD (2 * j + 1) (0#32, 0#5))
  | [], j, h => by simp at h
  | [_], j, h => by simp at h
  | _ :: _ :: r, 0, _ => rfl
  | x :: y :: r, j + 1, h => by
    simp only [List.length_cons] at h
    have hr := fredLevel_getD r j (by omega)
    simpa only [fredLevel, Nat.mul_add, Nat.mul_one, Nat.add_right_comm _ 2 1, List.getD_cons_succ] using hr

/-- The first level of a tree is its input. -/
theorem fredLevels_zero (n : Nat) (y : List FW) : (fredLevels f z m n y).getD 0 [] = y := by
  cases n <;> rfl

/-- Each level of a tree is made of the one before it. -/
theorem fredLevels_succ {n k : Nat} (y : List FW) (h : k < n) :
    (fredLevels f z m n y).getD (k + 1) [] = fredLevel f z m ((fredLevels f z m n y).getD k []) := by
  induction n generalizing k y with
  | zero => omega
  | succ n ih =>
    cases k with
    | zero => rw [fredLevels, List.getD_cons_succ, fredLevels_zero, List.getD_cons_zero]
    | succ k => rw [fredLevels, List.getD_cons_succ, List.getD_cons_succ, ih _ (by omega)]

theorem fredLevels_length {n k : Nat} (y : List FW) (h : k ≤ n) : ((fredLevels f z m n y).getD k []).length = y.length / 2 ^ k := by
  induction k with
  | zero => rw [fredLevels_zero, pow_zero, Nat.div_one]
  | succ k ih => rw [fredLevels_succ f z m y h, fredLevel_length, ih (by omega), Nat.div_div_eq_div_mul, pow_succ]

end Tree

theorem reductionTreeShape : Claim.ReductionTreeShape := by
  intro f a z m c G _ t
  refine ⟨fun l hl => ?leaf, fun k j hk hj => ?node⟩
  case leaf =>
    simp only [t, treeNode, Group.fredTree, fredLevels_zero]
    simp [hl]
  case node =>
    simp only [t, treeNode, Group.fredTree]
    rw [fredLevels_succ f z m _ hk]
    refine fredLevel_getD f z m _ j ?_
    rw [fredLevels_length f z m _ hk.le, List.length_map, List.length_range]
    rw [pow_succ, ← Nat.div_div_eq_div_mul] at hj
    omega

/-- Settles O18: the integer operations combine in any order alike, and the tree of the floating-point ones is built level by level. -/
theorem reductionResults : Obligations.ReductionResults := ⟨integerReductions, floatReductionResults, reductionTreeShape⟩

end Sys2Proof.Machine
end

section
/-! Team instructions (spec/07 R163 to R169; spec/06 R137): the checks that they share, waits of a unit, the election of a lane, the window, and
the trigger. -/
namespace Sys2Proof.Machine

/-! ## The checks of a team instruction (R163, R176) -/

theorem teamChecks_ready {s : State} {c : Cur} {G : Group} {T : Team} {u : Unit} (h : TeamReady s c G T u) (restricted : Bool) :
    teamChecks u restricted c G = none := by
  have hprefix : u.prefixOk c = true := (check_eq_none_iff.1 h.check).1
  simp [teamChecks, hprefix, h.slot, h.home, h.check]

theorem teamOf_ready {s : State} {c : Cur} {G : Group} {T : Team} {u : Unit} (h : TeamReady s c G T u) : s.teamOf G = some T := by
  rw [State.teamOf, h.slot, Option.bind_some, h.team]

theorem teamCollective_ready {s : State} {c : Cur} {G : Group} {T : Team} {names : List (BitVec 7 × Nat)} (h : TeamReady s c G T (ctlUnit false names))
    (hwhole : G.ganged c = true) (k : Cur → Group → State) : teamCollective names true s k = .next (k c G) := by
  rw [teamCollective, collective_whole (u := ctlUnit false names) ⟨h.toReady, hwhole⟩]
  simp only [teamChecks_ready h]

/-! ## Election (R168) -/

theorem lowest_getLsbD {m : BitVec 64} {l : Nat} (h : lowest m = some l) : l < 64 ∧ m.getLsbD l = true :=
  ⟨List.mem_range.1 (List.mem_of_find?_eq_some h), List.find?_some h⟩

/-- The mask of the elected lane. -/
def electBit (m : BitVec 64) : BitVec 64 := match lowest m with
  | some l => 1#64 <<< l
  | none => 0#64

theorem electBit_getLsbD (m : BitVec 64) {l : Nat} (hl : l < 64) : (electBit m).getLsbD l = (lowest m == some l) := by
  unfold electBit
  cases h : lowest m with
  | none => simp
  | some i =>
    have hi := (lowest_getLsbD h).1
    rw [BitVec.getLsbD_shiftLeft, Bool.eq_iff_iff]
    simp only [hl, BitVec.getLsbD_one, decide_true, Bool.true_and, Bool.and_eq_true, Bool.not_eq_true', decide_eq_false_iff_not, decide_eq_true_eq,
      beq_iff_eq, Option.some.injEq]
    omega

/-- Settles O20: the mask is rewritten in the lanes of k0 alone, and the lowest of them keeps its bit. -/
theorem electResult : Obligations.ElectResult := by
  refine ⟨by decide +kernel, fun k s c G h hwhole hpos hk => ?_⟩
  have hchecks : teamChecks (ctlUnit false []) false c G = none := by
    simp [teamChecks, (check_eq_none_iff.1 h.check).1, h.check]
  have hmask : ∀ v, G.setMask k.toNat v = { G with masks := G.masks.set (k.toNat - 1) (v &&& G.widthMask) } := fun v => if_neg (by omega)
  refine ⟨G.setMask k.toNat ((G.masks.getD (k.toNat - 1) 0#64 &&& ~~~(G.k0 c)) ||| electBit (G.k0 c)), ?exec, ?rest, fun l h64 hl => ?bit, fun j hj => ?other⟩
  case exec =>
    change execElect k s = _
    rw [execElect, teamCollective, collective_whole (u := ctlUnit false []) ⟨h, hwhole⟩]
    simp only [hchecks]
    rfl
  case rest => rw [hmask]
  case bit =>
    rw [hmask, List.getD_eq_getElem?_getD, List.getElem?_set_self (by omega), Option.getD_some, BitVec.getLsbD_and, Group.widthMask, laneMask_getLsbD,
      BitVec.getLsbD_or, BitVec.getLsbD_and, BitVec.getLsbD_not, electBit_getLsbD _ h64]
    simp only [hl, h64, decide_true, Bool.and_true, Bool.true_and]
    cases hk0 : (G.k0 c).getLsbD l
    case false =>
      have hnot : (lowest (G.k0 c) == some l) = false := beq_eq_false_iff_ne.2 fun hlow => by simp [(lowest_getLsbD hlow).2] at hk0
      simp [hnot]
    case true => simp
  case other =>
    rw [hmask]
    exact congrArg (Option.getD · 0#64) (List.getElem?_set_ne (by omega))

/-! ## The window (R169) -/

theorem windowResult : Claim.WindowResult := by
  intro b s c G h hwhole hhome
  have hprefix : (ctlUnit false []).prefixOk c = true := (check_eq_none_iff.1 h.check).1
  change execWinb b s = _
  rw [execWinb, collective_whole (u := ctlUnit false []) ⟨h, hwhole⟩]
  simp [hprefix, hhome]

/-! ## The trigger (R137, R138) -/

/-- The team of a slot after it has been replaced. -/
theorem team_setTeam_self {s : State} {k : Nat} {T U : Team} (h : s.team k = some T) (hU : U.slot = T.slot) :
    (s.setTeam U).team k = some U := by
  rw [team_setTeam, if_pos ((team_slot h).symm.trans hU.symm), h, Option.map_some]

theorem endEligible_team {s : State} {k : Nat} {T : Team} (h : s.team k = some T) :
    (s.endEligible k).team k = some { T with eligible := false, journal := [] } := by
  rw [State.endEligible, h]
  exact team_setTeam_self (U := { T with eligible := false, journal := [] }) h rfl

theorem writeCounter_live (s : State) (f : Nat) (asid : BitVec 12) (trigt : BitVec 64) (src : List AgentId) :
    (s.writeCounter f asid trigt src).live = s.live := by
  unfold State.writeCounter State.raiseMsi
  dsimp only
  split
  · split <;> rfl
  · rfl

theorem checkGrid_live (s : State) (i : Nat) : (s.checkGrid i).live = s.live := by
  unfold State.checkGrid
  split
  · rfl
  · dsimp only
    split <;> split
    · exact writeCounter_live ..
    · rfl
    · exact writeCounter_live ..
    · rfl

theorem markTriggered_team {s : State} {k : Nat} {T : Team} (h : s.team k = some T) : (s.markTriggered k).team k = some { T with triggered := true } := by
  have hset := team_setTeam_self (U := { T with triggered := true }) h rfl
  unfold State.markTriggered
  rw [h]
  dsimp only
  split
  next ht => rw [h, ← ht]
  next =>
    split
    · exact hset
    · rw [State.team, checkGrid_live]
      exact hset

theorem releaseTrigger_team (s : State) (G : Group) (k j : Nat) : (s.releaseTrigger G k).team j = s.team j := by
  unfold State.releaseTrigger
  split
  · rfl
  split <;> rfl

theorem triggerResult : Claim.TriggerResult := by
  intro s c G T h hk0
  have hteam : ((((s.releaseTrigger G T.slot).endEligible T.slot).markTriggered T.slot).advance c).team T.slot
      = some { T with eligible := false, journal := [], triggered := true } := by
    rw [advance_team]
    exact markTriggered_team (endEligible_team ((releaseTrigger_team ..).trans h.team))
  refine ⟨_, ?exec, advance_cur _ _, by rw [hteam]; rfl, by rw [hteam]; rfl⟩
  case exec =>
    change execTrig s = _
    simp only [execTrig, withUnit, h.cur, h.group, teamChecks_ready h, h.slot, if_neg hk0]

/-- Settles O21: the window is a field of the group, and a trigger marks the team after ending its eligibility. -/
theorem windowAndTriggerResults : Obligations.WindowAndTriggerResults := ⟨windowResult, triggerResult⟩

end Sys2Proof.Machine
end

section
/-! Waits of a unit and barriers (spec/06 R139; spec/07 R164 to R167). The statement about barriers counts the live threads of a team before the
unit is held, and fails in a state that lists two groups under one context number. -/
namespace Sys2Proof.Machine

/-! ## A unit that waits (R139) -/

/-- A sequencer of a unit that stands at an address and waits. -/
def Seq.held (c : Cur) (pc : BitVec 56) (w : Wait) (now : Nat) (q : Seq) : Seq :=
  if c.seqs.contains q.id ∧ (q.st = .run ∨ q.st = .cwait) then { q with st := .run, pc := pc, wait := w, ready := now + 1 } else q

@[simp] theorem Seq.held_id (c : Cur) (pc : BitVec 56) (w : Wait) (now : Nat) (q : Seq) : (q.held c pc w now).id = q.id := by
  unfold Seq.held; split <;> rfl

theorem Seq.held_pos {c : Cur} {q : Seq} (pc : BitVec 56) (w : Wait) (now : Nat) (hid : q.id ∈ c.seqs) (hst : q.st = .run ∨ q.st = .cwait) :
    q.held c pc w now = { q with st := .run, pc := pc, wait := w, ready := now + 1 } :=
  if_pos ⟨List.contains_iff_mem.2 hid, hst⟩

/-- The group with the sequencers of a unit held. -/
def Group.hold (G : Group) (c : Cur) (pc : BitVec 56) (w : Wait) (now : Nat) : Group := { G with seqs := G.seqs.map (Seq.held c pc w now) }

theorem holdAt_eq {s : State} {c : Cur} {G : Group} (hG : s.group c.gctx = some G) (pc : BitVec 56) (w : Wait) :
    s.holdAt c pc w = (s.setGroup (G.hold c pc w s.now)).endUnit := by
  rw [State.holdAt, hG]
  rfl

/-- A sequencer looked up by its number where each one has been changed and none renumbered. -/
theorem seq_map {G H : Group} {f : Seq → Seq} (hf : ∀ q, (f q).id = q.id) (hH : H.seqs = G.seqs.map f) (i : Nat) : H.seq i = (G.seq i).map f := by
  have hid : ((fun r : Seq => r.id == i) ∘ f) = fun r => r.id == i := by
    funext r
    simp [hf]
  rw [Group.seq, hH, List.find?_map, hid]
  rfl

theorem seq_id {G : Group} {i : Nat} {q : Seq} (h : G.seq i = some q) : q.id = i := by simpa using List.find?_some h

/-- A state in which a group's sequencers have become what holding makes of them. -/
theorem heldAt_of_group {s t : State} {c : Cur} {G : Group} {pc : BitVec 56} {w : Wait} {f : Seq → Seq} (hcur : t.cur = none)
    (hgroup : t.group c.gctx = some { G with seqs := G.seqs.map f }) (hf : ∀ q, (f q).id = q.id)
    (hheld : ∀ q ∈ G.seqs, q.id ∈ c.seqs → q.st = .run ∨ q.st = .cwait → f q = { q with st := .run, pc := pc, wait := w, ready := s.now + 1 }) :
    heldAt s t c G pc w := by
  refine ⟨hcur, _, hgroup, rfl, fun i q hq hi hst => ?_⟩
  rw [seq_map hf rfl, hq, Option.map_some, hheld q (List.mem_of_find?_eq_some hq) (seq_id hq ▸ hi) hst]

theorem group_hold {s : State} {c : Cur} {G : Group} (hG : s.group c.gctx = some G) (pc : BitVec 56) (w : Wait) (now : Nat) :
    (s.setGroup (G.hold c pc w now)).group c.gctx = some (G.hold c pc w now) := by
  rw [← group_gctx hG]
  exact group_setGroup_self (G := G.hold c pc w now) (group_gctx hG ▸ hG)

/-- A unit that waits (R139), in a state with the group and the clock of s and perhaps other things changed. -/
theorem heldAt_holdAt {s u : State} {c : Cur} {G : Group} (hG : u.group c.gctx = some G) (hnow : u.now = s.now) (pc : BitVec 56) (w : Wait) :
    heldAt s (u.holdAt c pc w) c G pc w := by
  rw [holdAt_eq hG, hnow]
  exact heldAt_of_group rfl (group_hold hG pc w s.now) (fun q => q.held_id ..) fun q _ => Seq.held_pos pc w s.now

/-! ## Tickets (R165) -/

theorem ticketDone_iff (phase t : BitVec 16) : ticketDone phase t = true ↔ 0 < (phase - t).toNat ∧ (phase - t).toNat < 2 ^ 15 := by
  have hzero : phase - t = 0#16 ↔ (phase - t).toNat = 0 := by rw [← BitVec.toNat_inj]; rfl
  simp only [ticketDone, Bool.and_eq_true, bne_iff_ne, ne_eq, hzero, decide_eq_true_eq]
  omega

theorem barrierTicketWait : Claim.BarrierTicketWait := by
  intro a b s c G T l h hwhole hl hclean past
  have hword : G.lowWord c a = G.readWord l a.toNat := by rw [Group.lowWord, hl]
  have hexec : exec (.barw a b) s = .next (if ticketDone (T.bar b.toNat).phase ((G.val l a).setWidth 16) = true
      then (s.flow [.passed T.uid b.toNat] (s.laneIds G (G.k0 c))).advance c
      else s.holdAt c (c.pc + 4#56) (.barw b.toNat ((G.val l a).setWidth 16))) := by
    change execBarw a b s = _
    rw [execBarw, teamCollective_ready h hwhole]
    simp only [teamOf_ready h, hword, hclean, Bool.false_eq_true, if_false]
    rfl
  rw [hexec]
  refine ⟨fun hpos hsmall => ?passed, fun hopen => ?waits⟩
  case passed => rw [if_pos ((ticketDone_iff _ _).2 ⟨hpos, hsmall⟩)]
  case waits =>
    rw [if_neg fun k => by have := (ticketDone_iff _ _).1 k; omega]
    refine ⟨_, rfl, heldAt_holdAt h.group rfl _ _, ?_⟩
    rw [holdAt_eq h.group]
    rfl

/-! ## Arrivals (R165, R166) -/

/-- The team with another record in a slot. -/
def Team.withBar (T : Team) (b : Nat) (x : Bar) : Team := { T with bars := T.bars.set b x }

theorem withBar_bar {T : Team} {b : Nat} (x : Bar) (hb : b < T.bars.length) : (T.withBar b x).bar b = x := by
  rw [Team.bar, Team.withBar, List.getD_eq_getElem?_getD, List.getElem?_set_self hb, Option.getD_some]

/-- The record of a slot after an arrival. -/
def Bar.arrive (B : Bar) (n cnt : Nat) : Bar := { B with arrived := B.arrived + n, expect := cnt }

/-- The state of an arrival before its unit is held: the slot counts it, what the lanes have done is released, and the recorder has it. -/
def State.arrival (s : State) (c : Cur) (G : Group) (T : Team) (b cnt : Nat) : State :=
  ((s.setTeam (T.withBar b ((T.bar b).arrive (popc64 (G.k0 c)) cnt))).flow (s.laneIds G (G.k0 c)) [.arrived T.uid b]).recGroup G 0x03 0x01
    (b + G.gctx * 2 ^ 4 + T.slot * 2 ^ 15 + popc64 (G.k0 c) * 2 ^ 19)

/-- What the unit of an arrival waits for: a `bar` for the end of the phase, a `bara` for nothing. -/
def barWait (waits : Bool) (b : Nat) (phase : BitVec 16) : Wait := if waits then .bar b phase else .none

/-- The state of an arrival whose unit is held, before the slot is looked at. -/
def State.arrived (s : State) (c : Cur) (G : Group) (T : Team) (b cnt : Nat) (waits : Bool) : State :=
  ((s.arrival c G T b cnt).setGroup (G.hold c (c.pc + 4#56) (barWait waits b (T.bar b).phase) s.now)).endUnit

theorem arrive_eq {s : State} {c : Cur} {G : Group} {T : Team} {b cnt : Nat} {waits : Bool} (hG : s.group c.gctx = some G)
    (hexpect : (T.bar b).arrived = 0 ∨ (T.bar b).expect = cnt) :
    s.arrive c G T b cnt waits = (s.arrived c G T b cnt waits).checkBar T.slot b := by
  have hsame : ¬ ((T.bar b).arrived ≠ 0 ∧ (T.bar b).expect ≠ cnt) := by tauto
  rw [State.arrive]
  simp only [if_neg hsame]
  exact congrArg (State.checkBar · T.slot b) (holdAt_eq (s := s.arrival c G T b cnt) hG _ _)

theorem arrive_mismatch {s : State} {c : Cur} {G : Group} {T : Team} {b cnt : Nat} {waits : Bool} (hopen : (T.bar b).arrived ≠ 0)
    (hother : (T.bar b).expect ≠ cnt) : s.arrive c G T b cnt waits = s.trapUnit G c 0x14#8 b := by
  rw [State.arrive]
  exact if_pos ⟨hopen, hother⟩

/-- A group replaced by one of as many live threads, where no other group has its context number, leaves a team's number of live threads. -/
theorem teamLive_setGroup {s : State} {G K : Group} (hG : G ∈ s.live.groups) (hdistinct : (s.live.groups.map (·.gctx)).Nodup)
    (hgctx : K.gctx = G.gctx) (hteam : K.team = G.team) (hlive : K.liveCount = G.liveCount) (k : Nat) : (s.setGroup K).teamLive k = s.teamLive k := by
  have hsame : ∀ H ∈ s.live.groups, (if H.gctx = K.gctx then K else H).team = H.team ∧ (if H.gctx = K.gctx then K else H).liveCount = H.liveCount := by
    intro H hH
    split
    next h => rw [List.inj_on_of_nodup_map hdistinct hH hG (h.trans hgctx)]; exact ⟨hteam, hlive⟩
    next => exact ⟨rfl, rfl⟩
  have hfilter : s.live.groups.filter ((fun H => H.team == some k) ∘ fun H => if H.gctx = K.gctx then K else H)
      = s.live.groups.filter fun H => H.team == some k :=
    List.filter_congr fun H hH => congrArg (· == some k) (hsame H hH).1
  have hgroups : ((s.setGroup K).teamGroups k).map Group.liveCount = (s.teamGroups k).map Group.liveCount := by
    simp only [State.teamGroups, State.setGroup_live, putGroup, List.filter_map, List.map_map, hfilter]
    exact List.map_congr_left fun H hH => (hsame H (List.mem_of_mem_filter hH)).2
  rw [State.teamLive, hgroups]
  rfl

section Arrived
variable {s : State} {c : Cur} {G : Group} {T : Team} {b cnt : Nat} {waits : Bool}

theorem arrived_team (hT : s.team T.slot = some T) :
    (s.arrived c G T b cnt waits).team T.slot = some (T.withBar b ((T.bar b).arrive (popc64 (G.k0 c)) cnt)) :=
  team_setTeam_self (U := T.withBar b ((T.bar b).arrive (popc64 (G.k0 c)) cnt)) hT rfl

theorem arrived_group (hG : s.group c.gctx = some G) :
    (s.arrived c G T b cnt waits).group c.gctx = some (G.hold c (c.pc + 4#56) (barWait waits b (T.bar b).phase) s.now) :=
  group_hold (s := s.arrival c G T b cnt) hG _ _ s.now

/-- Holding a group changes no thread: where no other group has its context number, the team counts the same threads. -/
theorem arrived_teamLive (hG : s.group c.gctx = some G) (hdistinct : (s.live.groups.map (·.gctx)).Nodup) (k : Nat) :
    (s.arrived c G T b cnt waits).teamLive k = s.teamLive k :=
  teamLive_setGroup (K := G.hold c (c.pc + 4#56) (barWait waits b (T.bar b).phase) s.now) (List.mem_of_find?_eq_some hG) hdistinct rfl rfl rfl k

end Arrived

/-- The arrivals that complete a phase (R166). -/
def State.barNeed (s : State) (k : Nat) (B : Bar) : Nat := if B.expect = 0 then s.teamLive k else B.expect

theorem checkBar_open {s : State} {k b : Nat} {T : Team} (hT : s.team k = some T) (h : (T.bar b).arrived < s.barNeed k (T.bar b)) :
    s.checkBar k b = s := by
  rw [State.checkBar, hT]
  exact if_pos (.inr h)

theorem checkBar_full {s : State} {k b : Nat} {T : Team} (hT : s.team k = some T) (hexpect : (T.bar b).expect ≠ 0) (hpos : 0 < (T.bar b).arrived)
    (h : (T.bar b).expect ≤ (T.bar b).arrived) : s.checkBar k b = s.completeBar T b := by
  rw [State.checkBar, hT]
  simp only [if_neg hexpect]
  exact if_neg (by omega)

/-- The groups of a team that a phase of a slot releases (R166). -/
def Group.woken (k b : Nat) (phase : BitVec 16) (now : Nat) (G : Group) : Group :=
  if G.team = some k then { G with seqs := G.seqs.map (Seq.released b phase (phase + 1#16) now) } else G

theorem woken_gctx (k b : Nat) (phase : BitVec 16) (now : Nat) (G : Group) : (G.woken k b phase now).gctx = G.gctx := by
  unfold Group.woken; split <;> rfl

/-- The completion of a phase that a number of threads makes up: a change of the team and of its groups, and records. -/
theorem completeBar_live {s : State} {T : Team} {b : Nat} (hexpect : (T.bar b).expect ≠ 0) :
    (s.completeBar T b).live = { (s.setTeam (T.withBar b ⟨(T.bar b).phase + 1#16, 0, 0, none⟩)).live with
      groups := s.live.groups.map (Group.woken T.slot b (T.bar b).phase s.now) }
    ∧ (s.completeBar T b).cur = s.cur := by
  unfold State.completeBar
  simp only [if_neg hexpect]
  split <;> exact ⟨rfl, rfl⟩

section Completed
variable {s : State} {T : Team} {b : Nat} (hexpect : (T.bar b).expect ≠ 0)
include hexpect

theorem completeBar_team (hT : (s.team T.slot).isSome) :
    (s.completeBar T b).team T.slot = some (T.withBar b ⟨(T.bar b).phase + 1#16, 0, 0, none⟩) := by
  obtain ⟨U, hU⟩ := Option.isSome_iff_exists.1 hT
  rw [State.team, (completeBar_live hexpect).1]
  exact team_setTeam_self (U := T.withBar b ⟨(T.bar b).phase + 1#16, 0, 0, none⟩) hU (team_slot hU).symm

theorem completeBar_group (g : Nat) : (s.completeBar T b).group g = (s.group g).map (Group.woken T.slot b (T.bar b).phase s.now) := by
  have hkey : ((fun G : Group => G.gctx == g) ∘ Group.woken T.slot b (T.bar b).phase s.now) = fun G => G.gctx == g := by
    funext G
    simp [woken_gctx]
  rw [State.group, (completeBar_live hexpect).1, List.find?_map, hkey]
  rfl

end Completed

theorem released_id (b : Nat) (old new : BitVec 16) (now : Nat) (q : Seq) : (q.released b old new now).id = q.id := by
  unfold Seq.released
  split
  · split <;> rfl
  · split <;> rfl
  · rfl

/-- A sequencer that has arrived at a phase with a `bar` is released by its completion. -/
theorem held_released {c : Cur} {q : Seq} {b : Nat} {phase : BitVec 16} (pc : BitVec 56) (now : Nat) (hid : q.id ∈ c.seqs)
    (hst : q.st = .run ∨ q.st = .cwait) : (q.held c pc (.bar b phase) now).released b phase (phase + 1#16) now
      = { q with st := .run, pc := pc, wait := .none, ready := now + 1 } := by
  rw [Seq.held_pos pc _ now hid hst]
  exact if_pos ⟨rfl, rfl⟩

section Arrivals
variable {cnt : BitVec 10} {b : BitVec 4} {s : State} {c : Cur} {G : Group} {T : Team} (h : TeamReady s c G T (ctlUnit false [])) (hwhole : G.ganged c = true)
include h hwhole

theorem exec_bar : exec (.bar cnt b) s = .next (s.arrive c G T b.toNat cnt.toNat true) := by
  change execBar cnt b s = _
  rw [execBar, teamCollective_ready h hwhole]
  simp only [teamOf_ready h]

theorem exec_bara : exec (.bara cnt b) s = .next (s.arrive c G T b.toNat cnt.toNat false) := by
  change execBara cnt b s = _
  rw [execBara, teamCollective_ready h hwhole]
  simp only [teamOf_ready h]

theorem barMismatch (hopen : (T.bar b.toNat).arrived ≠ 0) (hother : (T.bar b.toNat).expect ≠ cnt.toNat) :
    exec (.bar cnt b) s = .next (s.trapUnit G c 0x14#8 b.toNat) ∧ exec (.bara cnt b) s = .next (s.trapUnit G c 0x14#8 b.toNat) := by
  rw [exec_bar h hwhole, exec_bara h hwhole, arrive_mismatch hopen hother, arrive_mismatch hopen hother]
  exact ⟨rfl, rfl⟩

variable (hbars : T.bars.length = 16) (hexpect : (T.bar b.toNat).arrived = 0 ∨ (T.bar b.toNat).expect = cnt.toNat)
include hbars hexpect

omit hwhole in
/-- An arrival that leaves the phase open, by the count once the unit is held. -/
theorem arrive_open (waits : Bool) (hfew : (T.bar b.toNat).arrived + popc64 (G.k0 c)
      < (s.arrived c G T b.toNat cnt.toNat waits).barNeed T.slot ((T.bar b.toNat).arrive (popc64 (G.k0 c)) cnt.toNat)) :
    ∃ t, s.arrive c G T b.toNat cnt.toNat waits = t ∧ heldAt s t c G (c.pc + 4#56) (barWait waits b.toNat (T.bar b.toNat).phase)
      ∧ t.team T.slot = some (T.withBar b.toNat ((T.bar b.toNat).arrive (popc64 (G.k0 c)) cnt.toNat)) ∧ t.dram = s.dram ∧ t.scr = s.scr := by
  have hlt : b.toNat < T.bars.length := hbars.symm ▸ (b.isLt : b.toNat < 16)
  have hteam := arrived_team (c := c) (G := G) (b := b.toNat) (cnt := cnt.toNat) (waits := waits) h.team
  refine ⟨_, arrive_eq h.group hexpect, ?_⟩
  rw [checkBar_open hteam (by rw [withBar_bar _ hlt]; exact hfew)]
  exact ⟨heldAt_of_group rfl (arrived_group h.group) (fun q => q.held_id ..) fun q _ => Seq.held_pos _ _ s.now, hteam, rfl, rfl⟩

/-- An arrival waits while the phase is open, in a state whose groups have context numbers of their own. -/
theorem barWaits (hdistinct : (s.live.groups.map (·.gctx)).Nodup)
    (hfew : (T.bar b.toNat).arrived + popc64 (G.k0 c) < if cnt = 0#10 then s.teamLive T.slot else cnt.toNat) :
    (∃ t, exec (.bar cnt b) s = .next t ∧ heldAt s t c G (c.pc + 4#56) (.bar b.toNat (T.bar b.toNat).phase)
      ∧ t.team T.slot = some (T.withBar b.toNat ((T.bar b.toNat).arrive (popc64 (G.k0 c)) cnt.toNat)) ∧ t.dram = s.dram ∧ t.scr = s.scr)
    ∧ ∃ t, exec (.bara cnt b) s = .next t ∧ heldAt s t c G (c.pc + 4#56) .none
      ∧ t.team T.slot = some (T.withBar b.toNat ((T.bar b.toNat).arrive (popc64 (G.k0 c)) cnt.toNat)) := by
  have hneed (waits : Bool) : (T.bar b.toNat).arrived + popc64 (G.k0 c)
      < (s.arrived c G T b.toNat cnt.toNat waits).barNeed T.slot ((T.bar b.toNat).arrive (popc64 (G.k0 c)) cnt.toNat) := by
    have hzero : ((T.bar b.toNat).arrive (popc64 (G.k0 c)) cnt.toNat).expect = 0 ↔ cnt = 0#10 := (BitVec.toNat_inj (y := 0#10)).trans Iff.rfl
    rw [State.barNeed, if_congr hzero rfl rfl, arrived_teamLive h.group hdistinct]
    exact hfew
  rw [exec_bar h hwhole, exec_bara h hwhole]
  obtain ⟨t, ht, hheld, hteam, hmem⟩ := arrive_open h hbars hexpect true (hneed true)
  obtain ⟨t', ht', hheld', hteam', -⟩ := arrive_open h hbars hexpect false (hneed false)
  exact ⟨⟨t, congrArg _ ht, hheld, hteam, hmem⟩, t', congrArg _ ht', hheld', hteam'⟩

/-- The arrival that makes up the number completes the phase, and a `bar` goes on. -/
theorem barCompletes (hcnt : cnt ≠ 0#10) (hpos : 0 < (T.bar b.toNat).arrived + popc64 (G.k0 c))
    (hmany : cnt.toNat ≤ (T.bar b.toNat).arrived + popc64 (G.k0 c)) :
    ∃ t, exec (.bar cnt b) s = .next t ∧ heldAt s t c G (c.pc + 4#56) .none
      ∧ t.team T.slot = some (T.withBar b.toNat ⟨(T.bar b.toNat).phase + 1#16, 0, 0, none⟩) := by
  obtain ⟨U, hU⟩ : ∃ U, U = T.withBar b.toNat ((T.bar b.toNat).arrive (popc64 (G.k0 c)) cnt.toNat) := ⟨_, rfl⟩
  have hbar : U.bar b.toNat = (T.bar b.toNat).arrive (popc64 (G.k0 c)) cnt.toNat := by
    rw [hU]
    exact withBar_bar _ (hbars.symm ▸ (b.isLt : b.toNat < 16))
  have hteam : (s.arrived c G T b.toNat cnt.toNat true).team T.slot = some U := hU ▸ arrived_team h.team
  have hslot : U.slot = T.slot := by rw [hU]; rfl
  have hphase : (U.bar b.toNat).phase = (T.bar b.toNat).phase := by rw [hbar]; rfl
  have hfull : (U.bar b.toNat).expect ≠ 0 := by
    rw [hbar]
    exact fun k => hcnt (BitVec.eq_of_toNat_eq k)
  refine ⟨_, (exec_bar h hwhole).trans (congrArg _ (arrive_eq h.group hexpect)), ?_⟩
  rw [checkBar_full hteam hfull (by rw [hbar]; exact hpos) (by rw [hbar]; exact hmany)]
  refine ⟨?held, ?team⟩
  case held =>
    refine heldAt_of_group (f := fun q => (q.held c (c.pc + 4#56) (.bar b.toNat (T.bar b.toNat).phase) s.now).released b.toNat (T.bar b.toNat).phase
      ((T.bar b.toNat).phase + 1#16) s.now) (completeBar_live hfull).2 ?_ (fun q => (released_id ..).trans (q.held_id ..)) fun q _ => held_released _ s.now
    rw [completeBar_group hfull, arrived_group h.group, Option.map_some, hslot, hphase, Group.woken, Group.hold, if_pos h.slot, List.map_map]
    rfl
  case team =>
    rw [← hslot, completeBar_team hfull (Option.isSome_iff_exists.2 ⟨U, hslot.symm ▸ hteam⟩), hphase, hU]
    simp only [Team.withBar, List.set_set]

end Arrivals

/-! ## The statement -/

/-- A team of which one thread has arrived at slot 0, where the whole team is expected. -/
def crowdTeam : Team := probeTeam.withBar 0 ⟨0#16, 1, 0, none⟩

/-- A group of three threads under the context number of the group whose unit is being issued: that the numbers differ is no part of the
state's type, and the statement does not ask for it. -/
def crowdTwin : Group := { probeGroup 0#56 with uid := 1, threads := (List.range 3).map fun l => Thread.fresh 0 (4 + l) (1 + l) 104 }

/-- The unit of the one thread of the other group. -/
def crowdCur : Cur := ⟨false, 0, [0], 0#56, 0#56, 0#32, none, none, 1⟩

/-- The machine after reset with that team and its two groups. -/
def crowdState : State :=
  { State.reset with live := { Ctx.empty with groups := [probeGroup 0#56, crowdTwin], teams := [crowdTeam] }, cur := some crowdCur }

theorem crowd_ready : TeamReady crowdState crowdCur (probeGroup 0#56) crowdTeam (ctlUnit false []) :=
  ⟨⟨⟨rfl, rfl⟩, by decide +kernel⟩, rfl, rfl, rfl⟩

/-- Two of four threads have arrived; but holding the unit puts its group in the place of both, so that the team counts two and the phase
completes. -/
theorem crowd_arrived : ((crowdState.arrive crowdCur (probeGroup 0#56) crowdTeam 0 0 true).team 0).map (fun T => (T.bar 0).arrived) = some 0 := by
  decide +kernel

/-- Refutes O19: `Claim.BarrierArrivals` takes the number of the team's live threads from the state before the unit; in a state with two
groups under one context number the model, which looks at the slot once the unit is held, counts others. Where the context numbers
differ the arrivals are as stated (`barMismatch`, `barWaits`, `barCompletes`), and so are the tickets (`barrierTicketWait`). -/
theorem not_barrierResults : ¬ Obligations.BarrierResults := by
  rintro ⟨harrivals, -⟩
  obtain ⟨-, hopen, -⟩ := harrivals 0#10 0#4 crowdState crowdCur (probeGroup 0#56) crowdTeam crowd_ready (by decide +kernel) (by decide)
  obtain ⟨⟨t, hexec, -, hteam, -⟩, -⟩ := hopen (.inr (by decide)) (by decide +kernel)
  have harrive := Host.Outcome.next.inj ((exec_bar crowd_ready (by decide +kernel)).symm.trans hexec)
  have hcounted := crowd_arrived
  rw [show crowdState.arrive _ _ _ 0 0 true = t from harrive, show t.team 0 = _ from hteam] at hcounted
  exact absurd hcounted (by decide +kernel)

end Sys2Proof.Machine
end

section
/-! The register pool (spec/07 R170 to R173): claims are granted from the head of their queue, and what a grant and a release make of a group. -/
namespace Sys2Proof.Machine

/-! ## Granting claims (R171) -/

/-- The group of a claim once it is granted. -/
def Group.grown (G : Group) (n now : Nat) : Group := { G with threads := G.threads.map (Thread.grow · n), seqs := G.seqs.map (Seq.granted now) }

section Grant
variable {s : State} {x : Claim} {G : Group} (hG : s.group x.gctx = some G)
include hG

theorem grantOne_eq : s.grantOne x = { s.setGroup (G.grown x.n s.now) with
    live := { (s.setGroup (G.grown x.n s.now)).live with free := s.live.free - x.need } } := by
  rw [State.grantOne, hG]
  rfl

theorem grantOne_group : (s.grantOne x).group x.gctx = some (G.grown x.n s.now) := by
  rw [grantOne_eq hG, ← group_gctx hG]
  exact group_setGroup_self (G := G.grown x.n s.now) (group_gctx hG ▸ hG)

theorem grantOne_group_ne {g : Nat} (hg : g ≠ x.gctx) : (s.grantOne x).group g = s.group g := by
  rw [grantOne_eq hG]
  exact group_setGroup_ne (G := G.grown x.n s.now) (group_gctx hG ▸ hg)

theorem grantOne_free : (s.grantOne x).live.free = s.live.free - x.need := by rw [grantOne_eq hG]

theorem grantOne_cur : (s.grantOne x).cur = s.cur := by rw [grantOne_eq hG]; rfl

end Grant

/-- While the head of the queue does not fit, nothing is granted. -/
theorem grantFrom_stays {s : State} {xs : List Claim} (h : ∀ y ∈ xs.head?, s.live.free < y.need) :
    s.grantFrom xs = { s with live := { s.live with claims := xs } } := by
  cases xs with
  | nil => rfl
  | cons y ys => exact if_neg (not_le.2 (h y rfl))

theorem grantFrom_head {s : State} {x : Claim} {xs : List Claim} {G : Group} (hG : s.group x.gctx = some G) (hfits : x.need ≤ s.live.free)
    (hnext : ∀ y ∈ xs.head?, s.live.free - x.need < y.need) :
    s.grantFrom (x :: xs) = { s.grantOne x with live := { (s.grantOne x).live with claims := xs } } := by
  rw [State.grantFrom, if_pos hfits, grantFrom_stays fun y hy => by rw [grantOne_free hG]; exact hnext y hy]

/-- The queue of a state that waits is the one that it has. -/
theorem grantClaims_stays {s : State} (h : ∀ y ∈ s.live.claims.head?, s.live.free < y.need) : s.grantClaims = s := grantFrom_stays h

/-! ## Even allocations (R170) -/

section Even
variable {G : Group} {al : Nat} (h : evenAlloc G al)
include h

theorem allocs_of_even : ∀ a ∈ G.allocs, a = al := by
  intro a ha
  obtain ⟨t, ht, rfl⟩ := List.mem_map.1 ha
  obtain ⟨hmem, hlive⟩ := List.mem_filter.1 ht
  exact h t hmem hlive

theorem uneven_of_even : G.uneven = false := by
  have hall := allocs_of_even h
  unfold Group.uneven
  split
  next => rfl
  next a r hallocs =>
    rw [hallocs] at hall
    refine List.any_eq_false.2 fun b hb => ?_
    simp [hall b (List.mem_cons_of_mem _ hb), hall a List.mem_cons_self]

/-- A bound that the common allocation keeps is kept by every thread. -/
theorem allocs_any_false {p : Nat → Bool} (hp : p al = false) : G.allocs.any p = false :=
  List.any_eq_false.2 fun a ha => by rw [allocs_of_even h a ha, hp]; exact Bool.false_ne_true

end Even

/-! ## `rclaim` and `rrel` (R171, R172) -/

/-- The claim of a group for 8 n more registers for each of its threads. -/
def Group.claim (G : Group) (n : BitVec 5) : Claim := ⟨G.gctx, 8 * n.toNat, n.toNat * G.liveCount⟩

/-- The state of a claim that has joined the queue, with its unit held, before the queue is looked at. -/
def State.claiming (s : State) (c : Cur) (G : Group) (n : BitVec 5) : State :=
  let u := (s.setGroup (G.hold c c.unitPc (.claim (8 * n.toNat)) s.now)).endUnit
  { u with live := { u.live with claims := u.live.claims ++ [G.claim n] } }

theorem claiming_group {s : State} {c : Cur} {G : Group} (hG : s.group c.gctx = some G) (n : BitVec 5) :
    (s.claiming c G n).group c.gctx = some (G.hold c c.unitPc (.claim (8 * n.toNat)) s.now) :=
  group_hold hG c.unitPc (.claim (8 * n.toNat)) s.now

section Claiming
variable {n : BitVec 5} {s : State} {c : Cur} {G : Group} {T : Team} {al : Nat} (h : TeamReady s c G T (ctlUnit false [])) (hwhole : G.ganged c = true)
  (heven : evenAlloc G al) (hn : n ≠ 0#5)
include h hwhole heven hn

theorem exec_rclaim (hmax : al + 8 * n.toNat ≤ 256) : exec (.rclaim n) s = .next ((s.claiming c G n).grantFrom (s.live.claims ++ [G.claim n])) := by
  have hany : (G.allocs.any fun a => decide (256 < a + 8 * n.toNat)) = false := allocs_any_false heven (by simpa using hmax)
  change execRclaim n s = _
  rw [execRclaim, teamCollective_ready h hwhole]
  simp only [hn, uneven_of_even heven, hany, Bool.false_eq_true, or_self, if_false, holdAt_eq h.group]
  rfl

theorem rclaim_granted (hmax : al + 8 * n.toNat ≤ 256) (hempty : s.live.claims = []) (hfits : n.toNat * G.liveCount ≤ s.live.free)
    (hrun : ∀ i q, G.seq i = some q → i ∈ c.seqs ∧ q.st = .run ∨ i ∉ c.seqs ∧ q.wait.isClaim = false) :
    ∃ t H, exec (.rclaim n) s = .next t ∧ t.cur = none ∧ t.live.free = s.live.free - n.toNat * G.liveCount ∧ t.live.claims = []
      ∧ t.group c.gctx = some H
      ∧ (∀ l, H.thread l = (G.thread l).map fun th => if th.live then { th with regs := th.regs ++ List.replicate (8 * n.toNat) pzero } else th)
      ∧ ∀ i q, G.seq i = some q → i ∈ c.seqs → H.seq i = some { q with wait := .none, pc := c.unitPc + 4#56, ready := s.now + 1 } := by
  have hexec := exec_rclaim h hwhole heven hn hmax
  have hgctx : c.gctx = (G.claim n).gctx := (group_gctx h.group).symm
  have hgroup : (s.claiming c G n).group (G.claim n).gctx = some (G.hold c c.unitPc (.claim (8 * n.toNat)) s.now) := hgctx ▸ claiming_group h.group n
  rw [hempty, List.nil_append, grantFrom_head hgroup hfits (by simp)] at hexec
  refine ⟨_, _, hexec, grantOne_cur hgroup, grantOne_free hgroup, rfl, hgctx ▸ grantOne_group hgroup, fun l => List.getElem?_map,
    fun i q hq hi => ?seq⟩
  case seq =>
    have hst : q.st = .run := (hrun i q hq).elim (·.2) fun k => absurd hi k.1
    have hgranted : ∀ r : Seq, (r.granted s.now).id = r.id := fun r => by unfold Seq.granted; split <;> rfl
    rw [seq_map (G := G) (f := fun r => (r.held c c.unitPc (.claim (8 * n.toNat)) s.now).granted s.now) (fun r => (hgranted _).trans (r.held_id ..))
      (List.map_map ..), hq, Option.map_some, Seq.held_pos _ _ _ (seq_id hq ▸ hi) (.inl hst)]
    simp only [Seq.granted, Wait.isClaim, if_true, hst]

theorem rclaim_waits (hmax : al + 8 * n.toNat ≤ 256) (hfull : s.live.claims = [] ∧ s.live.free < n.toNat * G.liveCount
      ∨ ∃ y r, s.live.claims = y :: r ∧ s.live.free < y.need) :
    ∃ t, exec (.rclaim n) s = .next t ∧ heldAt s t c G c.unitPc (.claim (8 * n.toNat))
      ∧ t.live.claims = s.live.claims ++ [⟨G.gctx, 8 * n.toNat, n.toNat * G.liveCount⟩] ∧ t.live.free = s.live.free := by
  have hexec := exec_rclaim h hwhole heven hn hmax
  have hhead : ∀ y ∈ (s.live.claims ++ [G.claim n]).head?, s.live.free < y.need := by
    rcases hfull with ⟨hempty, hless⟩ | ⟨y, r, hqueue, hless⟩
    · simpa [hempty, Group.claim] using hless
    · simpa [hqueue] using hless
  rw [grantFrom_stays (s := s.claiming c G n) hhead] at hexec
  exact ⟨_, hexec, heldAt_of_group rfl (claiming_group h.group n) (fun q => q.held_id ..) fun q _ => Seq.held_pos _ _ s.now, rfl, rfl⟩

theorem rrel_releases (hmin : 8 * n.toNat + 8 ≤ al) (hempty : s.live.claims = []) :
    ∃ t H, exec (.rrel n) s = .next t ∧ t.cur = none ∧ t.live.free = s.live.free + n.toNat * G.liveCount ∧ t.group c.gctx = some H
      ∧ (∀ l, H.thread l = (G.thread l).map fun th => if th.live then { th with regs := th.regs.take (th.regs.length - 8 * n.toNat) } else th) := by
  obtain ⟨K, hK⟩ : ∃ K : Group, K = { G with threads := G.threads.map (Thread.shrink (8 * n.toNat)) } := ⟨_, rfl⟩
  have hany : (G.allocs.any fun a => decide (a < 8 * n.toNat + 8)) = false := allocs_any_false heven (by simpa using hmin)
  have hset : (s.setGroup K).group c.gctx = some K := by
    have hgctx : c.gctx = K.gctx := by rw [hK]; exact (group_gctx h.group).symm
    rw [hgctx]
    exact group_setGroup_self (hgctx ▸ h.group)
  have honly := RegisterOnly.advance (s.setGroup K) c
  have hfree : ((s.setGroup K).advance c).live.free = s.live.free := by have := congrArg Ctx.free honly.live; exact this
  have hclaims : ((s.setGroup K).advance c).live.claims = [] := by have := congrArg Ctx.claims honly.live; exact this.trans hempty
  have hexec : exec (.rrel n) s = .next (((s.setGroup K).advance c).freeBlocks (n.toNat * G.liveCount)) := by
    change execRrel n s = _
    rw [execRrel, teamCollective_ready h hwhole]
    simp only [hn, uneven_of_even heven, hany, Bool.false_eq_true, or_self, if_false, ← hK]
  rw [State.freeBlocks, grantClaims_stays (by simp only [hclaims]; simp)] at hexec
  refine ⟨_, _, hexec, advance_cur _ _, by simp only [hfree], advance_group hset, fun l => ?_⟩
  rw [hK]
  exact List.getElem?_map

end Claiming

/-- Settles O22: the queue of claims is looked at after the claim has joined it and its unit is held, or after a release. -/
theorem registerPoolResults : Obligations.RegisterPoolResults :=
  fun _ _ _ _ _ _ h hwhole heven hn => ⟨rclaim_granted h hwhole heven hn, rclaim_waits h hwhole heven hn, rrel_releases h hwhole heven hn⟩

/-! ## The core's claim events (R171, R173) -/

theorem claimGrant_head {s : State} {x : Claim} {xs : List Claim} {G : Group} (hqueue : s.live.claims = x :: xs) (hG : s.group x.gctx = some G)
    (hfits : x.need ≤ s.live.free) (hnext : ∀ y ∈ xs.head?, s.live.free - x.need < y.need) : ∃ t, exec .claimGrant s = .next t
      ∧ t.live.free = s.live.free - x.need ∧ t.live.claims = xs ∧ t.group x.gctx = some (G.grown x.n s.now)
      ∧ ∀ g, g ≠ x.gctx → t.group g = s.group g := by
  have hexec : exec .claimGrant s = .next (s.grantFrom (x :: xs)) := by rw [← hqueue]; rfl
  rw [grantFrom_head hG hfits hnext] at hexec
  exact ⟨_, hexec, grantOne_free hG, rfl, grantOne_group hG, fun g hg => grantOne_group_ne hG hg⟩

section Deadlock
variable {s : State} {x : Claim} {G : Group} {k : Nat} {T : Team} (hqueue : s.live.claims = [x]) (hG : s.group x.gctx = some G)
  (hk : G.team = some k) (hT : s.team k = some T)
include hqueue hG hk

/-- The one claim in the queue, of a team's group, leaves it and traps. -/
theorem trapClaims_one {q : Seq} {qs : List Seq} (hseqs : G.seqs.filter (·.wait.isClaim) = q :: qs) :
    let m := laneMask G.threads.length fun l => (q :: qs).any fun r => G.activeIn r l
    s.trapClaims k = (({ s with live := { s.live with claims := [] } } : State).takeTrap G (q :: qs) m false
      ⟨0x15#8, false, 0#8, 0, m, x.n, q.pc, 0xA0DF0000#32 + BitVec.ofNat 32 (x.n / 8)⟩).grantClaims := by
  have hgroup : ({ s with live := { s.live with claims := [] } } : State).group x.gctx = some G := hG
  simp only [State.trapClaims, hqueue, List.filter_cons, hG, hk, List.filter_nil, List.any_cons, List.foldl_cons, List.foldl_nil, beq_self_eq_true,
    if_true, Bool.true_or, Bool.not_true, Bool.false_eq_true, if_false, hgroup, hseqs]

include hT

theorem claimDeadlock_late (hblocked : s.teamBlocked k = true) (hlate : 65536 ≤ T.blocked) :
    exec (.claimDeadlock k) s = .next ((s.setTeam { T with blocked := 0 }).trapClaims k) := by
  have hmine : (s.live.claims.any fun c => match s.group c.gctx with
      | some G => G.team == some k
      | none => false) = true := by simp [hqueue, hG, hk]
  change execClaimDeadlock k s = _
  simp only [execClaimDeadlock, hT]
  exact if_pos ⟨hlate, hblocked, hmine⟩

end Deadlock

theorem claimEvents : Claim.ClaimEvents := by
  intro s x xs G hqueue hG
  refine ⟨claimGrant_head hqueue hG, fun hless => ?full, fun k T q qs hk hT hblocked hlast hseqs => ?deadlock⟩
  case full =>
    refine congrArg Host.Outcome.next (grantClaims_stays ?_)
    simpa [hqueue] using hless
  case deadlock =>
    subst hlast
    refine ⟨fun hlate => ?late, fun hearly => ?early⟩
    case late =>
      rw [claimDeadlock_late hqueue hG hk hT hblocked hlate]
      exact congrArg Host.Outcome.next (trapClaims_one (s := s.setTeam { T with blocked := 0 }) hqueue hG hk hseqs)
    case early =>
      change execClaimDeadlock k s = _
      simp only [execClaimDeadlock, hT]
      exact if_neg fun hlate => absurd hlate.1 (not_le.2 hearly)

end Sys2Proof.Machine
end

section
/-! Channels (spec/07 R175 to R180; spec/17 R372): the checks of a channel instruction, its outcome by where the channel is and what it holds, and
the bytes of an entry. -/
namespace Sys2Proof.Machine

/-! ## The checks (R176) -/

/-- A channel instruction of the team may name the channel and the rank. -/
def Team.admits (T : Team) (ch rank : Nat) : Prop :=
  (T.chans.getD (if ch < 48 then ch else ch - 48) none).isSome = true ∧ (48 ≤ ch → rank < T.csize)

theorem admits_own {T : Team} {ch : Nat} {h : Chan} (rank : Nat) (hch : ch < 48) (hh : T.chans.getD ch none = some h) : T.admits ch rank := by
  refine ⟨?_, fun k => absurd hch (not_lt.2 k)⟩
  rw [if_pos hch, hh]
  rfl

theorem admits_cluster {T : Team} {ch : BitVec 6} {r : BitVec 3} (h : clusterCh T ch r) : T.admits ch.toNat r.toNat := by
  obtain ⟨hlow, -, hdeclared, hrank⟩ := h
  refine ⟨?_, fun _ => hrank⟩
  rwa [if_neg (not_lt.2 hlow)]

theorem chUnit_ready {s : State} {c : Cur} {G : Group} {T : Team} {names : List (BitVec 7 × Nat)} (h : TeamReady s c G T (ctlUnit false names))
    {ch rank : Nat} (hch : T.admits ch rank) (k : Cur → Group → Team → State) : chUnit names ch rank s k = .next (k c G T) := by
  have hprefix : (ctlUnit false names).prefixOk c = true := (check_eq_none_iff.1 h.check).1
  have hnone : (T.chans.getD (if ch < 48 then ch else ch - 48) none).isNone = false := by rw [Option.isNone_eq_false_iff]; exact hch.1
  have hrank : (decide (48 ≤ ch) && decide (T.csize ≤ rank)) = false := by
    have := hch.2
    rw [Bool.and_eq_false_imp, decide_eq_true_iff, decide_eq_false_iff_not, not_le]
    exact this
  have hchecks : chChecks s (ctlUnit false names) ch rank c G = none := by
    simp only [chChecks, teamOf_ready h, hprefix, hnone, hrank, Bool.not_true, Bool.or_self, Bool.false_eq_true, if_false, teamChecks_ready h]
  simp only [chUnit, withUnit, h.cur, h.group, hchecks, teamOf_ready h]

/-! ## What a channel operation leaves alone -/

theorem chan_own {s : State} {T : Team} (hT : s.team T.slot = some T) (j : Nat) : s.chan T.slot j = T.chans.getD j none := by
  rw [State.chan, hT, Option.bind_some]

theorem room_iff (h : Chan) : h.room = true ↔ h.count < h.depth := decide_eq_true_iff

theorem chPut_group (s : State) (k j : Nat) (e : List PWord) (by_ : Nat → AgentId) (g : Nat) : (s.chPut k j e by_).group g = s.group g := by
  unfold State.chPut
  split <;> rfl

/-- A send to another team ends the sender's eligibility, which changes teams and snapshots alone (R372). -/
theorem sentFrom_eq (s : State) (T : Team) (ch rank : Nat) :
    ∃ ts ss, s.sentFrom T ch rank = { s with live := { s.live with teams := ts, snaps := ss } } := by
  unfold State.sentFrom
  split
  · exact endEligible_eq s T.slot
  · exact ⟨s.live.teams, s.live.snaps, rfl⟩

theorem sentFrom_group (s : State) (T : Team) (ch rank g : Nat) : (s.sentFrom T ch rank).group g = s.group g := by
  obtain ⟨ts, ss, e⟩ := sentFrom_eq s T ch rank
  rw [e]
  rfl

theorem sentFrom_own (s : State) (T : Team) {ch : Nat} (rank : Nat) (h : ch < 48) : s.sentFrom T ch rank = s :=
  if_neg fun k => absurd h (not_lt.2 k.1)

theorem sentFrom_cluster (s : State) (T : Team) {ch : Nat} (r : BitVec 3) (h : 48 ≤ ch) : s.sentFrom T ch r.toNat = sentTo s T r := by
  rw [State.sentFrom, sentTo]
  by_cases hr : r.toNat = T.crank
  · rw [if_pos hr, if_neg fun k => k.2 hr]
  · rw [if_neg hr, if_pos ⟨h, hr⟩]

/-! ## Where a channel is (R175, R177) -/

theorem chTarget_own (s : State) (T : Team) {ch : Nat} (rank : Nat) (h : ch < 48) : s.chTarget T ch rank = .here T.slot ch := if_pos h

section Cluster
variable {s : State} {T : Team} {ch rank : Nat} (hch : 48 ≤ ch)
include hch

theorem chTarget_here {k : Nat} (h : s.peer T rank = .here k) : s.chTarget T ch rank = .here k (ch - 48) := by
  rw [State.chTarget, if_neg (not_lt.2 hch), h]

theorem chTarget_away (h : s.peer T rank = .away) : s.chTarget T ch rank = .away := by rw [State.chTarget, if_neg (not_lt.2 hch), h]

theorem chTarget_elsewhere (h : s.peer T rank = .elsewhere) : s.chTarget T ch rank = .elsewhere := by rw [State.chTarget, if_neg (not_lt.2 hch), h]

theorem chTarget_ended (h : s.peer T rank = .ended) : s.chTarget T ch rank = .ended := by rw [State.chTarget, if_neg (not_lt.2 hch), h]

end Cluster

/-! ## `send` (R177) -/

/-- The status of a `send` goes to its destination, where its group is as it was. -/
theorem sendDone_of_group {s : State} {c : Cur} {G : Group} (hG : s.group G.gctx = some G) (d : BitVec 7) (st : Word) :
    (if d = 124#7 then s else match s.group G.gctx with
      | some H => s.setGroup (H.writeLanes d (G.k0 c) fun _ => [clean st])
      | none => s).advance c = sendDone s c G d st := by
  rw [hG]
  rfl

section Send
variable {ch : BitVec 6} {d a : BitVec 7} {r : BitVec 3} {s : State} {c : Cur} {G : Group} {T : Team}
  (h : TeamReady s c G T (ctlUnit false [(d, 1), (a, 1)])) (hadm : T.admits ch.toNat r.toNat)
include h hadm

theorem send_here {k j : Nat} {x : Chan} (htgt : s.chTarget T ch.toNat r.toNat = .here k j) (hx : s.chan k j = some x) :
    exec (.send ch d a r) s = .next (if x.count < x.depth then sendDone (entryIn s (s.sentFrom T ch.toNat r.toNat) c G a k j) c G d 1#32
      else sendDone (s.sentFrom T ch.toNat r.toNat) c G d 0#32) := by
  have hG : s.group G.gctx = some G := (group_gctx h.group).symm ▸ h.group
  have hsent := (sentFrom_group s T ch.toNat r.toNat G.gctx).trans hG
  change execSend ch d a r s = _
  rw [execSend, chUnit_ready h hadm]
  by_cases hroom : x.count < x.depth
  case pos =>
    have hany : (s.chan k j).any Chan.room = true := by rw [hx]; exact (room_iff x).2 hroom
    have hin : (entryIn s (s.sentFrom T ch.toNat r.toNat) c G a k j).group G.gctx = some G := (chPut_group ..).trans hsent
    rw [if_pos hroom, ← sendDone_of_group hin]
    simp only [htgt, hany, reduceCtorEq, if_true, if_false, Option.isSome_some, Bool.true_or]
    rfl
  case neg =>
    have hany : (s.chan k j).any Chan.room = false := by rw [hx]; exact Bool.eq_false_iff.2 fun k => hroom ((room_iff x).1 k)
    rw [if_neg hroom, ← sendDone_of_group hsent]
    simp only [htgt, hany, reduceCtorEq, Bool.false_eq_true, if_false, Option.isSome_none, Bool.or_self] <;> rfl

theorem send_nowhere (htgt : s.chTarget T ch.toNat r.toNat = .away ∨ s.chTarget T ch.toNat r.toNat = .ended) :
    exec (.send ch d a r) s = .next (sendDone (s.sentFrom T ch.toNat r.toNat) c G d 0#32) := by
  have hG : s.group G.gctx = some G := (group_gctx h.group).symm ▸ h.group
  change execSend ch d a r s = _
  rw [execSend, chUnit_ready h hadm, ← sendDone_of_group ((sentFrom_group s T ch.toNat r.toNat G.gctx).trans hG)]
  rcases htgt with htgt | htgt
  · simp only [htgt, reduceCtorEq, if_false, Option.isSome_none, Bool.or_self, Bool.false_eq_true] <;> rfl
  · simp only [htgt, reduceCtorEq, if_false, Option.isSome_none, Bool.or_self, Bool.false_eq_true] <;> rfl

/-- Whether a team on another core takes the entry is a free choice (log entry 2). -/
theorem send_far (htgt : s.chTarget T ch.toNat r.toNat = .elsewhere) : exec (.send ch d a r) s
    = .next (sendDone (({ s with free := s.free + 1 } : State).sentFrom T ch.toNat r.toNat) c G d (if Config.freeNat s.free % 2 = 1 then 1#32 else 0#32)) := by
  have hG : s.group G.gctx = some G := (group_gctx h.group).symm ▸ h.group
  change execSend ch d a r s = _
  rw [execSend, chUnit_ready h hadm, ← sendDone_of_group ((sentFrom_group { s with free := s.free + 1 } T ch.toNat r.toNat G.gctx).trans hG)]
  simp only [htgt, if_true, State.farRoom, State.choose, Option.isSome_none, Bool.false_or, beq_iff_eq] <;> rfl

end Send

theorem sendResults : Claim.SendResults := by
  intro ch d a r s c G T h
  refine ⟨fun x hch hx => ?own, fun hcl => ⟨fun k x hpeer hx => ?here, fun hpeer => ?nowhere, fun hpeer => ?far⟩⟩
  case own =>
    have hsend := send_here h (admits_own r.toNat hch hx) (chTarget_own s T r.toNat hch) ((chan_own h.team _).trans hx)
    rwa [sentFrom_own s T _ hch] at hsend
  case here => rw [← sentFrom_cluster s T r hcl.1, send_here h (admits_cluster hcl) (chTarget_here hcl.1 hpeer) hx]
  case nowhere =>
    rw [← sentFrom_cluster s T r hcl.1, send_nowhere h (admits_cluster hcl) (hpeer.imp (chTarget_away hcl.1) (chTarget_ended hcl.1))]
  case far => rw [← sentFrom_cluster _ T r hcl.1, send_far h (admits_cluster hcl) (chTarget_elsewhere hcl.1 hpeer)]

/-! ## `sendw` (R177, R180) -/

theorem chWait_waits {s u : State} {c : Cur} {G : Group} (hG : u.group c.gctx = some G) (hnow : u.now = s.now) (hwaits : u.live.waits = s.live.waits)
    (w : ChWait) : channelWait s (u.chWait c w) c G w := by
  refine ⟨heldAt_holdAt hG hnow c.unitPc .chan, ?_⟩
  rw [State.chWait, holdAt_eq hG, ← hwaits]
  rfl

/-- What a waiting `sendw` of a unit is. -/
def sendWait (G : Group) (T : Team) (c : Cur) (ch : BitVec 6) (a : BitVec 7) (r : BitVec 3) : ChWait :=
  ⟨G.gctx, T.slot, c.seqs, ch.toNat, r.toNat, 124#7, G.k0 c, some (entryOf G c a)⟩

section SendWait
variable {ch : BitVec 6} {a : BitVec 7} {r : BitVec 3} {s : State} {c : Cur} {G : Group} {T : Team} (h : TeamReady s c G T (ctlUnit false [(a, 1)]))
  (hadm : T.admits ch.toNat r.toNat)
include h hadm

theorem exec_sendw : exec (.sendw ch a r) s = .next (match s.chTarget T ch.toNat r.toNat with
    | .ended => (s.sentFrom T ch.toNat r.toNat).advance c
    | .away => (s.sentFrom T ch.toNat r.toNat).chWait c (sendWait G T c ch a r)
    | .elsewhere => (s.sentFrom T ch.toNat r.toNat).chWait c (sendWait G T c ch a r)
    | .here k j => if (s.chan k j).any Chan.room then (entryIn s (s.sentFrom T ch.toNat r.toNat) c G a k j).advance c
      else (s.sentFrom T ch.toNat r.toNat).chWait c (sendWait G T c ch a r)) := by
  change execSendw ch a r s = _
  rw [execSendw, chUnit_ready h hadm]
  rfl

omit hadm in
theorem sendw_chWait : channelWait s ((s.sentFrom T ch.toNat r.toNat).chWait c (sendWait G T c ch a r)) c G (sendWait G T c ch a r) := by
  obtain ⟨ts, ss, e⟩ := sentFrom_eq s T ch.toNat r.toNat
  rw [e]
  exact chWait_waits (u := { s with live := { s.live with teams := ts, snaps := ss } }) h.group rfl rfl _

theorem sendw_here {k j : Nat} {x : Chan} (htgt : s.chTarget T ch.toNat r.toNat = .here k j) (hx : s.chan k j = some x) :
    (x.count < x.depth → exec (.sendw ch a r) s = .next ((entryIn s (s.sentFrom T ch.toNat r.toNat) c G a k j).advance c))
    ∧ (x.depth ≤ x.count → ∃ t, exec (.sendw ch a r) s = .next t ∧ channelWait s t c G (sendWait G T c ch a r)) := by
  have hany : (s.chan k j).any Chan.room = x.room := by rw [hx]; rfl
  rw [exec_sendw h hadm, htgt]
  dsimp only
  rw [hany]
  refine ⟨fun hroom => ?room, fun hfull => ⟨_, ?full, sendw_chWait h⟩⟩
  case room => rw [if_pos ((room_iff x).2 hroom)]
  case full => rw [if_neg fun k => absurd ((room_iff x).1 k) (not_lt.2 hfull)]

theorem sendw_waits (htgt : s.chTarget T ch.toNat r.toNat = .away ∨ s.chTarget T ch.toNat r.toNat = .elsewhere) :
    ∃ t, exec (.sendw ch a r) s = .next t ∧ channelWait s t c G (sendWait G T c ch a r) := by
  refine ⟨_, ?_, sendw_chWait h⟩
  rw [exec_sendw h hadm]
  rcases htgt with htgt | htgt <;> rw [htgt]

end SendWait

theorem sendWaitResults : Claim.SendWaitResults := by
  intro ch a r s c G T h w
  refine ⟨fun x hch hx => ?own, fun hcl => ⟨fun k x hpeer hx => ?here, fun hpeer => ?ended, fun hpeer => ?waits⟩⟩
  case own =>
    have hsend := sendw_here h (admits_own r.toNat hch hx) (chTarget_own s T r.toNat hch) ((chan_own h.team _).trans hx)
    rwa [sentFrom_own s T _ hch] at hsend
  case here =>
    rw [← sentFrom_cluster s T r hcl.1]
    exact sendw_here h (admits_cluster hcl) (chTarget_here hcl.1 hpeer) hx
  case ended => rw [← sentFrom_cluster s T r hcl.1, exec_sendw h (admits_cluster hcl), chTarget_ended hcl.1 hpeer]
  case waits => exact sendw_waits h (admits_cluster hcl) (hpeer.imp (chTarget_away hcl.1) (chTarget_elsewhere hcl.1))

/-! ## `recv` and `chq` (R178, R179) -/

theorem chTake_eq {s : State} {T : Team} {G : Group} {x : Chan} {j : Nat} (hT : s.team T.slot = some T) (hx : T.chans.getD j none = some x)
    (hG : s.group G.gctx = some G) (d : BitVec 7) (m : BitVec 64) : s.chTake G.gctx d m T.slot j
      = ((s.setTeam { T with chans := T.chans.set j (some x.pop) }).setGroup (G.writeLanes d m fun l => [(s.chHead T x).getD l pzero])).flow
        [.entry T.uid j x.head] (s.laneIds G m) := by
  simp only [State.chTake, hT, chan_own hT, hx, hG]

theorem receiveResults : Claim.ReceiveResults := by
  intro ch d s c G T x hch hx h
  have hG : s.group G.gctx = some G := (group_gctx h.group).symm ▸ h.group
  have hexec : exec (.recv ch d) s = .next (if (s.chan T.slot ch.toNat).any (fun h => decide (0 < h.count)) then
      (s.chTake G.gctx d (G.k0 c) T.slot ch.toNat).advance c else s.chWait c ⟨G.gctx, T.slot, c.seqs, ch.toNat, 0, d, G.k0 c, none⟩) := by
    change execRecv ch d s = _
    rw [execRecv, chUnit_ready h (admits_own 0 hch hx)]
  have hany : (s.chan T.slot ch.toNat).any (fun h => decide (0 < h.count)) = decide (0 < x.count) := by rw [chan_own h.team, hx]; rfl
  rw [hexec, hany]
  refine ⟨fun hfilled => ?taken, fun hempty => ⟨_, ?empty, chWait_waits h.group rfl rfl _⟩⟩
  case taken =>
    rw [if_pos (decide_eq_true hfilled), chTake_eq h.team hx hG]
    rfl
  case empty => rw [if_neg (by simp [hempty])]

/-- Settles O24: the count is that of the team's channel, and the group alone is written. -/
theorem channelCount : Obligations.ChannelCount := by
  intro ch d q s c G T x hch hx h
  change execChq ch d q s = _
  rw [execChq, chUnit_ready h (admits_own 0 hch hx)]
  simp only [chan_own h.team, hx]
  rfl

/-! ## The bytes of an entry (R175, R177, R178) -/

theorem memGet_memWrite {m : Memory} (hm : m.wf = true) (a : Nat) (bs : List Byte) (x : Nat) :
    memGet (memWrite m a bs) x = if a ≤ x ∧ x < a + bs.length then bs.getD (x - a) 0#8 else memGet m x := by
  induction bs generalizing m a with
  | nil => rw [if_neg (by simp)]; rfl
  | cons b bs ih =>
    rw [memWrite, ih (memPut_wf a b hm), memGet_memPut hm, List.length_cons]
    by_cases hx : x = a
    · subst hx
      rw [if_neg (by omega), if_pos rfl, if_pos (by omega), Nat.sub_self, List.getD_cons_zero]
    · rw [if_neg hx]
      by_cases hin : a + 1 ≤ x ∧ x < a + 1 + bs.length
      · rw [if_pos hin, if_pos (by omega), show x - a = x - (a + 1) + 1 by omega, List.getD_cons_succ]
      · rw [if_neg hin, if_neg (by omega)]

theorem memRead_eq (m : Memory) (a n : Nat) : memRead m a n = (List.range n).map fun i => memGet m (a + i) := by
  induction n generalizing a with
  | zero => rfl
  | succ n ih =>
    rw [memRead, ih, List.range_succ_eq_map, List.map_cons, List.map_map]
    simp only [Nat.add_zero, Function.comp_def, Nat.succ_eq_add_one, Nat.add_assoc, Nat.add_comm 1]

/-- Bytes within those just written. -/
theorem memRead_memWrite {m : Memory} (hm : m.wf = true) (a k : Nat) {n : Nat} {bs : List Byte} (hk : k + n ≤ bs.length) :
    memRead (memWrite m a bs) (a + k) n = (bs.drop k).take n := by
  rw [memRead_eq]
  refine List.ext_getElem (by simp; omega) fun i hi _ => ?_
  have hi : i < n := by simpa using hi
  rw [List.getElem_map, List.getElem_range, memGet_memWrite hm, if_pos (by omega), List.getElem_take, List.getElem_drop,
    List.getD_eq_getElem _ _ (by omega)]
  congr 1
  omega

/-- The words of an entry as bytes. -/
def entryBytes (e : List PWord) : List Byte := (List.range 64).flatMap fun l => natLe 4 (e.getD l pzero).val.toNat

theorem flatMap_range_length {f : Nat → List Byte} {k : Nat} (hf : ∀ i, (f i).length = k) (n : Nat) : ((List.range n).flatMap f).length = n * k := by
  simp [List.length_flatMap, hf]

/-- A part of a concatenation of parts of one length. -/
theorem flatMap_range_part {f : Nat → List Byte} {k : Nat} (hf : ∀ i, (f i).length = k) {n l : Nat} (hl : l < n) :
    (((List.range n).flatMap f).drop (l * k)).take k = f l := by
  obtain ⟨m, rfl⟩ := Nat.exists_eq_add_of_lt hl
  rw [Nat.add_assoc, List.range_add, List.range_succ_eq_map, List.flatMap_append, List.drop_left' (flatMap_range_length hf l)]
  simp only [List.map_cons, List.flatMap_cons, Nat.add_zero]
  exact List.take_left' (hf l)

/-- A word of an entry just written. -/
theorem entryBytes_word {m : Memory} (hm : m.wf = true) (a : Nat) (e : List PWord) {l : Nat} (hl : l < 64) :
    BitVec.ofNat 32 (leNat (memRead (memWrite m a (entryBytes e)) (a + 4 * l) 4)) = (e.getD l pzero).val := by
  have hlen : ∀ i, (natLe 4 (e.getD i pzero).val.toNat).length = 4 := fun i => natLe_length ..
  have hbytes : (entryBytes e).length = 64 * 4 := flatMap_range_length hlen 64
  rw [memRead_memWrite hm a (4 * l) (by omega), Nat.mul_comm 4, entryBytes, flatMap_range_part hlen hl, leNat_natLe_word, BitVec.ofNat_toNat,
    BitVec.setWidth_eq]

/-- A channel with an entry at its tail. -/
def Chan.put (x : Chan) (e : List PWord) : Chan :=
  { x with count := x.count + 1, poisons := x.poisons.set ((x.head + x.count) % x.depth) (laneMask 64 fun l => (e.getD l pzero).poison) }

section Put
variable {s : State} {T : Team} {j : Nat} {x : Chan} (hT : s.team T.slot = some T) (hx : T.chans.getD j none = some x) (e : List PWord)
  (by_ : Nat → AgentId)
include hT hx

theorem chPut_scr : (s.chPut T.slot j e by_).scr = memWrite s.scr (T.scrBase + x.base + 256 * ((x.head + x.count) % x.depth)) (entryBytes e) := by
  have hbytes : ((List.range 64).map fun l => (by_ l, Loc.scratch T.slot (x.base + 256 * ((x.head + x.count) % x.depth) + 4 * l),
      natLe 4 (e.getD l pzero).val.toNat)).flatMap (·.2.2) = entryBytes e := by rw [List.flatMap_map, entryBytes]
  rw [← hbytes]
  simp only [State.chPut, hT, chan_own hT, hx]
  generalize ((List.range 64).map fun l => (by_ l, Loc.scratch T.slot (x.base + 256 * ((x.head + x.count) % x.depth) + 4 * l),
    natLe 4 (e.getD l pzero).val.toNat)) = words
  rfl

theorem chPut_team : (s.chPut T.slot j e by_).team T.slot = some { T with chans := T.chans.set j (some (x.put e)) } := by
  simp only [State.chPut, hT, chan_own hT, hx]
  exact team_setTeam_self (U := { T with chans := T.chans.set j (some (x.put e)) }) hT rfl

end Put

theorem channelFifo : Claim.ChannelFifo := by
  intro s T j x e hT hx hj hhead hcount hpoisons he hmem by_
  have hscr : s.scr.wf = true := by
    simp only [State.memOk, Bool.and_eq_true] at hmem
    exact hmem.1.1.2
  have htail : (x.head + x.count) % x.depth = x.head := by rw [hcount, Nat.add_zero, Nat.mod_eq_of_lt hhead]
  have hbytes := chPut_scr hT hx e by_
  rw [htail] at hbytes
  refine ⟨_, x.put e, chPut_team hT hx e by_, ?chan, by rw [Chan.put, hcount], ?entry, fun i hi => ?others, fun a ha => ?outside⟩
  case chan => rw [List.getD_eq_getElem?_getD, List.getElem?_set_self hj, Option.getD_some]
  case entry =>
    refine List.ext_getElem (by simp [State.chHead, he]) fun l hl _ => ?_
    have hl : l < 64 := by simpa [State.chHead] using hl
    have hword : e[l] = e.getD l pzero := (List.getD_eq_getElem _ _ (by omega)).symm
    have hpoison : ((x.put e).poisons.getD (x.put e).head 0#64).getLsbD l = (e.getD l pzero).poison := by
      simp only [Chan.put, htail]
      rw [List.getD_eq_getElem?_getD, List.getElem?_set_self (by omega), Option.getD_some, laneMask_getLsbD]
      simp [hl]
    simp only [State.chHead, List.getElem_map, List.getElem_range]
    rw [hpoison, hbytes, hword]
    exact congrArg (PWord.mk · _) (entryBytes_word hscr _ e hl)
  case others =>
    rw [List.getD_eq_getElem?_getD, List.getElem?_set_ne (Ne.symm hi), List.getD_eq_getElem?_getD]
  case outside =>
    have hlen : (entryBytes e).length = 256 := flatMap_range_length (fun i => natLe_length ..) 64
    rw [hbytes, memGet_memWrite hscr, if_neg (by omega)]

/-- Settles O23: an operation's outcome follows from where its channel is and what it holds, and an entry's words are read back from its bytes. -/
theorem channelResults : Obligations.ChannelResults := ⟨sendResults, sendWaitResults, receiveResults, channelFifo⟩

/-! ## Waits on a channel (R180) -/

theorem waitsServed : Claim.WaitsServed := by
  intro s k j w x hwaits hx
  have hw : w ∈ s.live.waits.filter fun v => s.waitsOn v k j := by rw [hwaits]; exact List.mem_singleton_self w
  have hmem : s.waitsOn w k j = true := (List.mem_filter.1 hw).2
  have hexec : exec (.channelWaitServed k j) s = .next (s.chServe w) := by
    change execChannelWaitServed k j s = _
    rw [execChannelWaitServed, hwaits]
    rfl
  obtain ⟨T, hT, htgt⟩ : ∃ T, s.team w.team = some T ∧ s.chTarget T w.ch w.rank = .here k j := by
    unfold State.waitsOn at hmem
    split at hmem
    next => cases hmem
    next T hT => exact ⟨T, hT, of_decide_eq_true hmem⟩
  rw [hexec]
  refine ⟨fun e he => ?send, fun he => ?receive⟩
  case send =>
    have hserve : s.chServe w = if x.room then (s.chPut k j e (s.waitSenders w)).chDone w else s := by
      simp only [State.chServe, hT, he, htgt, hx, Option.any_some]
    rw [hserve]
    exact ⟨fun hroom => by rw [if_pos ((room_iff x).2 hroom)], fun hfull => by rw [if_neg fun k => absurd ((room_iff x).1 k) (not_lt.2 hfull)]⟩
  case receive =>
    have hserve : s.chServe w = if 0 < x.count then (s.chTake w.gctx w.d w.lanes k j).chDone w else s := by
      simp only [State.chServe, hT, he, htgt, hx, Option.any_some, decide_eq_true_eq]
    rw [hserve]
    exact ⟨fun hfilled => by rw [if_pos hfilled], fun hempty => by rw [if_neg (by omega)]⟩

end Sys2Proof.Machine
end

section
/-! Timers, handler groups and posted frames (spec/17 R364, R382; spec/06 R124): what a handler group starts as, which handle a waiting frame gets,
and the rest of the events of claims, timers and waits. -/
namespace Sys2Proof.Machine

/-! ## The handler group (R124, R364) -/

/-- The group that a start makes for a share whose function is `f`. -/
def handlerGroup (s : State) (share f : Nat) (pc : BitVec 56) (g : List Word) (served : Option Nat) : Group :=
  let ts := (List.range 8).map (handlerThread share)
  { gctx := handlerGctx share, uid := s.nextUid, share := share, team := none, role := 0, index := 0, width := 8, reformed := false, level := .S, winb := 0,
    unif := (g ++ List.replicate (16 - g.length) 0#32).map clean, masks := List.replicate 7 0#64, threads := ts, seqs := seqsOf ts pc s.now, timer := 0,
    timerPend := false, own := FpCtx.zero, sel := s.firstEngine f, mx := ClassSeq.empty, tc := ClassSeq.empty, bk := ClassSeq.empty, unret := [],
    mig := none, serving := served }

/-- A start takes the place of any handler group of its share, and changes nothing else but what its lanes see. -/
theorem startHandler_eq {s : State} {i : Nat} {x : Share} (hx : s.share i = some x) (pc : BitVec 56) (g : List Word) (served : Option Nat) :
    s.startHandler i pc g served = ({ s with
      nextUid := s.nextUid + 1
      live := { s.live with groups := (s.live.groups.filter fun H => H.gctx != handlerGctx i) ++ [handlerGroup s i x.f pc g served] } } : State).flow
        [.faults x.f] ((List.range 8).map (.handler s.nextUid)) := by
  rw [State.startHandler, hx]
  rfl

/-- An idle handler group has no place to give up. -/
theorem filter_handlerIdle {s : State} {i : Nat} (h : s.handlerIdle i = true) :
    s.live.groups.filter (fun H => H.gctx != handlerGctx i) = s.live.groups := by
  rw [State.handlerIdle, Bool.not_eq_true', List.any_eq_false] at h
  exact List.filter_eq_self.2 fun G hG => by simpa using h G hG

theorem startHandler_groups {s : State} {i : Nat} {x : Share} (hx : s.share i = some x) (hidle : s.handlerIdle i = true) (pc : BitVec 56) (g : List Word)
    (served : Option Nat) : (s.startHandler i pc g served).live.groups = s.live.groups ++ [handlerGroup s i x.f pc g served] := by
  rw [startHandler_eq hx]
  exact congrArg (· ++ _) (filter_handlerIdle hidle)

theorem handlerGroup_fresh {s : State} {i f : Nat} {pc : BitVec 56} {g : List Word} {served : Option Nat} :
    ∀ th ∈ (handlerGroup s i f pc g served).threads, th.live = true ∧ th.regs = List.replicate 64 pzero := by
  intro th hth
  obtain ⟨lane, -, rfl⟩ := List.mem_map.1 hth
  exact ⟨rfl, rfl⟩

/-- The sequencers of threads stand at the positions whose columns hold one. -/
theorem seqsOf_pos (ts : List Thread) (pc : BitVec 56) (now : Nat) :
    (seqsOf ts pc now).map (·.pos) = (List.range 16).filter fun p => decide (colsAt ts p ≠ 0#4) := by
  rw [seqsOf, List.map_filterMap, ← List.filterMap_eq_filter]
  refine congrArg (List.filterMap · _) (funext fun p => ?_)
  by_cases hp : colsAt ts p = 0#4
  · simp [hp, Option.guard]
  · simp [hp, Option.guard, Seq.fresh]

theorem handlerThreads_positions {i : Nat} (hi : i < 4) :
    ((List.range 16).filter fun p => decide (colsAt ((List.range 8).map (handlerThread i)) p ≠ 0#4)) = [2 * i, 2 * i + 1] := by
  interval_cases i <;> decide

/-! ## The start (R364, R368) -/

theorem serves_of_share {s : State} {i : Nat} {x : Share} (hx : s.share i = some x) (hboot : (s.slice x.f).trCtl.getLsbD 12 = false)
    (hrun : (s.slice x.f).halted = false) : s.serves i = true := by
  simp only [State.serves, hx, hboot, hrun, Bool.not_false, Bool.and_self]

/-- The handler has started for a frame. -/
def State.markStarted (s : State) (f : Frame) : State :=
  { s with live := { s.live with frames := s.live.frames.map fun g => if g = f then { g with started := true } else g } }

theorem handlerGroupStart_of_waits {s : State} {i : Nat} {x : Share} {f : Frame} {h : BitVec 14} (hw : FrameWaits s i x f) (hh : f.handle = some h) :
    exec (.handlerGroupStart i) s = .next ((s.markStarted f).startHandler i
      ((s.slice x.f).trVec.setWidth 56) [h.setWidth 32, f.cause.setWidth 32] (f.team.bind fun k => (s.team k).map (·.uid))) := by
  change execHandlerGroupStart i s = _
  simp only [execHandlerGroupStart, hw.first, hw.idle, serves_of_share hw.share hw.booted hw.runs, and_self, if_true, hw.share, hh, Option.getD_some]
  rfl

/-! ## Posting a frame that waits (R364, R287) -/

/-- A frame without a handle that no monitor holds is posted under the lowest free handle, once no bank holds its write. -/
theorem framePost_eq {s : State} {i : Nat} {f : Frame} (hserves : s.serves i = true)
    (hf : s.live.frames.find? (fun g => g.share == i && !g.monitor && g.handle.isNone) = some f) :
    exec (.framePost i) s = match (List.range 64).find? fun n => !(s.usedHandles i).contains n with
      | none => .next s
      | some n => match s.frameHeld f n with
        | [] => .next (({ s with live := { s.live with frames := s.live.frames.filter (· ≠ f) } } : State).postFrame f n)
        | rs => .next (s.holdReqs (frameHolder i) rs) := by
  change execFramePost i s = _
  simp only [execFramePost, hf, hserves, if_true] <;> rfl

theorem lowestFree_eq_some {used : List Nat} {n : Nat} (hn : n < 64) (hfree : n ∉ used) (hlower : ∀ j, j < n → j ∈ used) :
    (List.range 64).find? (fun j => !used.contains j) = some n :=
  List.find?_range_eq_some.2 ⟨by simpa using hfree, List.mem_range.2 hn, fun j hj => by simpa using hlower j hj⟩

theorem lowestFree_eq_none {used : List Nat} (h : ∀ j, j < 64 → j ∈ used) : (List.range 64).find? (fun j => !used.contains j) = none :=
  List.find?_range_eq_none.2 fun j hj => by simpa using h j hj

theorem timerAndHandlers : Claim.TimerAndHandlers := by
  intro s
  refine ⟨fun g G hG => ⟨fun hlast => ?fires, fun hnot => ?runs⟩, fun i x f h hi hw hh => ?start, fun i x f n hx hboot hrun hf => ?post⟩
  case fires =>
    change execTimerTrap g s = _
    rw [execTimerTrap, hG]
    exact if_pos hlast
  case runs =>
    change execTimerTrap g s = _
    rw [execTimerTrap, hG]
    exact if_neg hnot
  case start =>
    have hshare : (s.markStarted f).share i = some x := hw.share
    refine ⟨_, _, handlerGroupStart_of_waits hw hh, startHandler_groups hshare hw.idle .., rfl, rfl, rfl, rfl, rfl, rfl, handlerGroup_fresh, ?positions, ?seqs, rfl, ?frames, ?share, rfl⟩
    case positions => exact (seqsOf_pos ..).trans (handlerThreads_positions hi)
    case seqs =>
      intro q hq
      obtain ⟨id, m, rfl⟩ := mem_seqsOf hq
      exact ⟨rfl, rfl⟩
    case frames =>
      rw [startHandler_eq hshare]
      rfl
    case share =>
      rw [startHandler_eq hshare]
      exact hw.share
  case post =>
    rw [framePost_eq (serves_of_share hx hboot hrun) hf]
    refine ⟨fun hn hfree hlower => ?free, fun hfull => by rw [lowestFree_eq_none hfull]⟩
    rw [lowestFree_eq_some hn hfree hlower]
    dsimp only
    refine ⟨fun hheld => by rw [hheld], fun hheld => ?held⟩
    obtain ⟨r, rs, hrs⟩ := List.exists_cons_of_ne_nil hheld
    rw [hrs]

/-- Settles O45: its three parts, on claims, on timers and handler groups, and on the waits on channels. -/
theorem claimsTimersAndWaits : Obligations.ClaimsTimersAndWaits := ⟨claimEvents, timerAndHandlers, waitsServed⟩

end Sys2Proof.Machine
end

section
/-! Bytes of memory and places of accesses (spec/09 R194, R195, R197; spec/11 R243; log entry 3): bytes written read back, and an access in scratch or
constant space leads to its place or to the first check that it fails. -/
namespace Sys2Proof.Machine

/-! ## Bytes written and read back (log entry 3) -/

theorem memRead_memWrite_self {m : Memory} (hm : m.wf = true) (a : Nat) (bs : List Byte) : memRead (memWrite m a bs) a bs.length = bs := by
  have hread := memRead_memWrite hm a 0 (n := bs.length) (bs := bs) (by omega)
  rwa [Nat.add_zero, List.drop_zero, List.take_length] at hread

theorem memGet_memWrite_outside {m : Memory} (hm : m.wf = true) {a x : Nat} {bs : List Byte} (hx : x < a ∨ a + bs.length ≤ x) :
    memGet (memWrite m a bs) x = memGet m x := by
  rw [memGet_memWrite hm, if_neg (by omega)]

theorem readAfterWrite : Claim.ReadAfterWrite := fun m a bs hm =>
  ⟨memWrite_keeps m a bs hm, memRead_memWrite_self hm a bs, fun _ hx => memGet_memWrite_outside hm hx⟩

/-! ## The bounds of the scratch and of the constant bank (R194, R195, R197) -/

section Bounds
variable {s : State} {G : Group} {T : Team} {g : Grid} {k : Acc} {ea off size : Nat}

theorem teamOf_eq (hG : G.team = some T.slot) (hT : s.team T.slot = some T) : s.teamOf G = some T := by
  rw [State.teamOf, hG, Option.bind_some, hT]

theorem gridOf_eq (hG : G.team = some T.slot) (hT : s.team T.slot = some T) (hg : s.grid T.grid = some g) : s.gridOf G = some g := by
  simp only [State.gridOf, hG, hT, hg]

theorem scratchRes_inside (hT : s.teamOf G = some T) (hin : off + size ≤ T.scrSize) : s.scratchRes G ea off size = .ok (.scratch T.slot off) := by
  simp only [State.scratchRes, hT]
  exact if_neg (by omega)

theorem scratchRes_past (hT : s.teamOf G = some T) (hpast : T.scrSize < off + size) : s.scratchRes G ea off size = .flt (fltSpace ea) := by
  simp only [State.scratchRes, hT]
  exact if_pos hpast

theorem constRes_load (hg : s.gridOf G = some g) (hin : off < 65536) : s.constRes G .load ea off = .ok (.const g.id off) := by
  simp only [State.constRes, hg]
  exact if_neg (by omega)

/-- The bank is read-only: stores, atomics and fetches are refused alike. -/
theorem constRes_readOnly (hg : s.gridOf G = some g) (hin : off < 65536) (hk : k ≠ .load) : s.constRes G k ea off = .flt (fltPerm ea) := by
  cases k with
  | load => exact absurd rfl hk
  | store | atomic | fetch =>
    simp only [State.constRes, hg]
    exact if_neg (by omega)

theorem constRes_past (hg : s.gridOf G = some g) (hpast : 65536 ≤ off) : s.constRes G k ea off = .flt (fltSpace ea) := by
  simp only [State.constRes, hg]
  exact if_pos hpast

end Bounds

/-! ## The checks of an access in scratch or constant space (R243) -/

section Checks
variable {s : State} {G : Group} {k : Acc} {sp a size align : Nat} (hsp : 2 ≤ sp)
include hsp

/-- Scratch (2) and constant space (3) are not translated: the access walks no table. -/
theorem untranslated_noWalk : (if sp < 2 ∧ a / 2 ^ 56 = 0 then s.walkReqs (s.holder G) (s.view G) a else []) = [] :=
  if_neg fun hwalk => absurd hwalk.1 (Nat.not_lt.2 hsp)

theorem locate_flt {e : Flt} (hres : s.spaceRes G k sp a size = (.flt e, s)) : s.locate G k sp size align (.ea a) = (.flt e, s) := by
  simp only [State.locate, untranslated_noWalk hsp, hres]

/-- Alignment is the last check, after the bounds. -/
theorem locate_misaligned {l : Loc} (hres : s.spaceRes G k sp a size = (.ok l, s)) (hmod : a % align ≠ 0) :
    s.locate G k sp size align (.ea a) = (.flt (fltAlign a), s) := by
  simp only [State.locate, untranslated_noWalk hsp, hres]
  exact if_pos hmod

/-- A place that is not remote is where the access leads. -/
theorem locate_at {l : Loc} (hres : s.spaceRes G k sp a size = (.ok l, s)) (hmod : a % align = 0) (hlocal : ∀ f dev ia, l ≠ .remote f dev ia) :
    s.locate G k sp size align (.ea a) = (.at a l, s) := by
  simp only [State.locate, untranslated_noWalk hsp, hres]
  exact if_neg (not_not.2 hmod)

end Checks

theorem spaceRes_scratch (s : State) (G : Group) (k : Acc) (a size : Nat) : s.spaceRes G k 2 a size = (s.scratchRes G a a size, s) := rfl

theorem spaceRes_const (s : State) (G : Group) (k : Acc) (a size : Nat) : s.spaceRes G k 3 a size = (s.constRes G k a a, s) := rfl

theorem scratchAndConstantAccess : Claim.ScratchAndConstantAccess := by
  intro s G T g k ea size hG hteam hgrid _
  have hT : s.teamOf G = some T := teamOf_eq hG hteam
  have hg : s.gridOf G = some g := gridOf_eq hG hteam hgrid
  have hscratch : 2 ≤ 2 := Nat.le_refl 2
  have hconst : 2 ≤ 3 := Nat.le_succ 2
  refine ⟨fun hin hmod => ?inScratch, fun hin hmod => ?misaligned, fun hpast => ?pastScratch, fun hin hmod => ?inBank, fun hpast => ?pastBank,
    fun hin hk => ⟨fltPerm ea, ?readOnly, rfl⟩⟩
  case inScratch => exact locate_at hscratch (by rw [spaceRes_scratch, scratchRes_inside hT hin]) hmod (by simp)
  case misaligned => exact locate_misaligned hscratch (by rw [spaceRes_scratch, scratchRes_inside hT hin]) hmod
  case pastScratch => exact locate_flt (e := fltSpace ea) hscratch (by rw [spaceRes_scratch, scratchRes_past hT hpast])
  case inBank => exact locate_at hconst (by rw [spaceRes_const, constRes_load hg hin]) hmod (by simp)
  case pastBank => exact locate_flt (e := fltSpace ea) hconst (by rw [spaceRes_const, constRes_past hg hpast])
  case readOnly => exact locate_flt hconst (by rw [spaceRes_const, constRes_readOnly hg hin hk])

/-- Settles O27: bytes written read back, and an access in scratch or constant space ends at its place or at the first check that it fails. -/
theorem memoryBytes : Obligations.MemoryBytes := ⟨readAfterWrite, scratchAndConstantAccess⟩

end Sys2Proof.Machine
end

section
/-! PROOFS. What a bank-op makes of its instance (spec/12 R265, R277, R278): the instance that executes is replaced, and the rest of the bank, the groups
and the other memories stay. -/
namespace Sys2Proof.Machine

/-! ## The instances of a bank -/

theorem inst_eq_some {s : State} {run k : Nat} {i : Inst} (h : s.inst run k = some i) : i.run = run ∧ i.k = k ∧ i.ended = false := by
  have := List.find?_some h
  simpa [and_assoc] using this

/-- The instance that is put in place of one still running. -/
theorem inst_setInst_self {s : State} {i j : Inst} (h : s.inst j.run j.k = some i) (hj : j.ended = false) : (s.setInst j).inst j.run j.k = some j := by
  have hsome : (s.bank.insts.find? fun y => decide (y.run = j.run ∧ y.k = j.k)).isSome := by
    obtain ⟨hrun, hk, -⟩ := inst_eq_some h
    exact List.find?_isSome.2 ⟨i, List.mem_of_find?_eq_some h, by simp [hrun, hk]⟩
  obtain ⟨y, hy⟩ := Option.isSome_iff_exists.1 hsome
  have hhere : y.run = j.run ∧ y.k = j.k := by simpa using List.find?_some hy
  have htest : ((fun x : Inst => x.run == j.run && x.k == j.k && !x.ended) ∘ fun x => if x.run = j.run ∧ x.k = j.k then j else x)
      = fun x => decide (x.run = j.run ∧ x.k = j.k) := by
    funext x
    by_cases hx : x.run = j.run ∧ x.k = j.k
    · simp [hx, hj]
    · rw [Function.comp, if_neg hx, decide_eq_false hx]
      exact Bool.eq_false_iff.2 fun hx' => hx (by simp only [Bool.and_eq_true, beq_iff_eq] at hx'; exact hx'.1)
  rw [State.inst, State.setInst_bank, List.find?_map, htest, hy, Option.map_some, if_pos hhere]

/-- The instance that a look-up finds does not stand at another place than the one looked up. -/
theorem other_of_found {run k : Nat} {x j : Inst} (h : ¬ (run = j.run ∧ k = j.k)) (hx : (x.run == run && x.k == k && !x.ended) = true) :
    ¬ (x.run = j.run ∧ x.k = j.k) := by
  simp only [Bool.and_eq_true, beq_iff_eq] at hx
  obtain ⟨⟨hrun, hk⟩, -⟩ := hx
  rwa [hrun, hk]

/-- Every other instance. -/
theorem inst_setInst_ne (s : State) (j : Inst) {run k : Nat} (h : ¬ (run = j.run ∧ k = j.k)) : (s.setInst j).inst run k = s.inst run k := by
  have htest : ((fun x : Inst => x.run == run && x.k == k && !x.ended) ∘ fun x => if x.run = j.run ∧ x.k = j.k then j else x)
      = fun x => x.run == run && x.k == k && !x.ended := by
    funext x
    by_cases hx : x.run = j.run ∧ x.k = j.k
    · have hjno : (j.run == run && j.k == k && !j.ended) = false := Bool.eq_false_iff.2 fun hj => other_of_found h hj ⟨rfl, rfl⟩
      have hxno : (x.run == run && x.k == k && !x.ended) = false := Bool.eq_false_iff.2 fun hx' => other_of_found h hx' hx
      rw [Function.comp, if_pos hx, hjno, hxno]
    · rw [Function.comp, if_neg hx]
  rw [State.inst, State.setInst_bank, List.find?_map, htest]
  cases hfind : s.bank.insts.find? fun x => x.run == run && x.k == k && !x.ended with
  | none => simpa [State.inst] using hfind.symm
  | some x =>
    have hx : (x.run == run && x.k == k && !x.ended) = true := by simpa only using List.find?_some hfind
    rw [Option.map_some, if_neg (other_of_found h hx), State.inst, hfind]

/-- Of two replacements of one instance the later counts. -/
theorem setInst_setInst (s : State) {i j : Inst} (hrun : i.run = j.run) (hk : i.k = j.k) : (s.setInst i).setInst j = s.setInst j := by
  have hput : ((fun x : Inst => if x.run = j.run ∧ x.k = j.k then j else x) ∘ fun x => if x.run = i.run ∧ x.k = i.k then i else x)
      = fun x => if x.run = j.run ∧ x.k = j.k then j else x := by
    funext x
    rw [Function.comp, hrun, hk]
    by_cases hx : x.run = j.run ∧ x.k = j.k
    · rw [if_pos hx, if_pos ⟨hrun, hk⟩, if_pos hx]
    · rw [if_neg hx, if_neg hx]
  simp only [State.setInst, List.map_map, hput]

/-! ## What a bank-op leaves alone -/

/-- The states agree on the banks, the calendar, and everything else that an instance neither reads nor writes. -/
structure BankKept (s t : State) : Prop where
  bank : t.bank = s.bank
  live : t.live = s.live
  engs : t.engs = s.engs
  scr : t.scr = s.scr
  host : t.host = s.host
  cal : t.cal = s.cal
  dieCycles : t.dieCycles = s.dieCycles
  coreNo : t.coreNo = s.coreNo

namespace BankKept

theorem refl (s : State) : BankKept s s := ⟨rfl, rfl, rfl, rfl, rfl, rfl, rfl, rfl⟩

theorem trans {s t u : State} (h : BankKept s t) (k : BankKept t u) : BankKept s u :=
  ⟨k.bank.trans h.bank, k.live.trans h.live, k.engs.trans h.engs, k.scr.trans h.scr, k.host.trans h.host, k.cal.trans h.cal,
    k.dieCycles.trans h.dieCycles, k.coreNo.trans h.coreNo⟩

theorem inst {s t : State} (h : BankKept s t) (run k : Nat) : t.inst run k = s.inst run k := by rw [State.inst, h.bank, State.inst]

end BankKept

/-- A drain point depends on the calendar, the clock and the core's place alone. -/
theorem drainedOn_congr {s t : State} (hcal : t.cal = s.cal) (hcycles : t.dieCycles = s.dieCycles) (hcore : t.coreNo = s.coreNo) (d : Nat) :
    t.drainedOn d = s.drainedOn d := by
  have ht : { t with cal := s.cal, dieCycles := s.dieCycles, coreNo := s.coreNo } = t := by rw [← hcal, ← hcycles, ← hcore]
  calc t.drainedOn d = ({ t with cal := s.cal, dieCycles := s.dieCycles, coreNo := s.coreNo } : State).drainedOn d := by rw [ht]
    _ = s.drainedOn d := rfl

@[simp] theorem setInst_drainedOn (s : State) (i : Inst) (d : Nat) : (s.setInst i).drainedOn d = s.drainedOn d := rfl

/-- The instance's place in its bank, which no word changes. -/
structure Inst.SamePlace (i j : Inst) : Prop where
  run : j.run = i.run
  k : j.k = i.k
  stack : j.stack = i.stack
  ended : j.ended = i.ended

theorem Inst.SamePlace.done {i j : Inst} (h : i.SamePlace j) (r : Run) (cost : Nat) (poison : Bool) (fl : BitVec 5) :
    i.SamePlace (j.done r cost poison fl) := ⟨h.run, h.k, h.stack, h.ended⟩

/-- No word of a bank is in progress any more. -/
def State.wordOver (s : State) : State := { s with bank := { s.bank with cur := none } }

/-! ## The end of an op -/

theorem opDone_eq {t : State} {r : Run} {k : Nat} {j : Inst} (hj : t.inst r.id k = some j) (hcalm : t.drainedOn j.die = false) (cost : Nat)
    (poison : Bool) (fl : BitVec 5) : t.opDone r k cost poison fl = t.setInst (j.done r cost poison fl) := by
  have hdie : (({ j with poison := j.poison || poison, flags := j.flags ||| fl }.spend r cost).after j.pc).die = j.die := rfl
  simp only [State.opDone, hj, hdie, hcalm]
  rfl

section Word
variable {s t : State} {r : Run} {i j : Inst} (h : InBank s r i)
include h

theorem withInst_next (act : Run → Inst → State) : withInst s act = .next (act r i).wordOver := by
  simp only [withInst, h.cur, h.run, h.inst]
  rfl

theorem run_of_inBank : i.run = r.id := (inst_eq_some h.inst).1

theorem calm_of_kept (ht : BankKept s t) (hj : i.SamePlace j) : t.drainedOn j.die = false := by
  rw [drainedOn_congr ht.cal ht.dieCycles ht.coreNo, Inst.die, hj.stack]
  exact h.calm

theorem setInst_inst_self (ht : BankKept s t) (hj : i.SamePlace j) : (t.setInst j).inst r.id i.k = some j := by
  obtain ⟨hrun, -, hended⟩ := inst_eq_some h.inst
  have hold : t.inst j.run j.k = some i := by rw [ht.inst, hj.run, hj.k, hrun, h.inst]
  have := inst_setInst_self hold (hj.ended.trans hended)
  rwa [hj.run, hj.k, hrun] at this

/-- The state after a word that replaces its instance. -/
theorem bankDone_setInst (ht : BankKept s t) (hj : i.SamePlace j) : BankDone s (t.setInst j).wordOver r i j where
  cur := rfl
  inst := setInst_inst_self h ht hj
  others run k hne := by
    have hne' : ¬ (run = j.run ∧ k = j.k) := by rwa [hj.run, hj.k, run_of_inBank h]
    exact (inst_setInst_ne t j hne').trans (ht.inst run k)
  runs := (congrArg Banks.runs ht.bank :)
  live := ht.live
  engs := ht.engs
  scr := ht.scr
  host := ht.host

/-- An op that has replaced its instance counts its cycles and goes on to the next word. -/
theorem opDone_setInst (ht : BankKept s t) (hj : i.SamePlace j) (cost : Nat) (poison : Bool) (fl : BitVec 5) :
    (t.setInst j).opDone r i.k cost poison fl = t.setInst (j.done r cost poison fl) := by
  rw [opDone_eq (setInst_inst_self h ht hj) (by rw [setInst_drainedOn, calm_of_kept h ht hj])]
  exact setInst_setInst t rfl rfl

theorem bankDone_opDone (ht : BankKept s t) (hj : i.SamePlace j) (cost : Nat) (poison : Bool) (fl : BitVec 5) :
    BankDone s ((t.setInst j).opDone r i.k cost poison fl).wordOver r i (j.done r cost poison fl) := by
  rw [opDone_setInst h ht hj]
  exact bankDone_setInst h ht (hj.done r cost poison fl)

theorem boundary_eq (hj : i.SamePlace j) : s.boundary r j = s.setInst j := by
  rw [State.boundary, if_neg (by rw [calm_of_kept h (.refl s) hj]; exact Bool.false_ne_true)]

theorem bankDone_boundary (hj : i.SamePlace j) : BankDone s (s.boundary r j).wordOver r i j := by
  rw [boundary_eq h hj]
  exact bankDone_setInst h (.refl s) hj

theorem boundary_dram (hj : i.SamePlace j) : (s.boundary r j).wordOver.dram = s.dram := by
  rw [boundary_eq h hj]
  rfl

/-- A word that ends its instance with a code. -/
theorem bankEnds_endInst {act : Run → Inst → State} {cost code : Nat} (hact : act r i = s.endInst r i code cost) :
    ∃ u, withInst s act = .next u ∧ BankEnds s u r i cost code := by
  have hplace : i.SamePlace { i.spend r cost with ending := some (code, 0) } := ⟨rfl, rfl, rfl, rfl⟩
  exact ⟨_, (withInst_next h act).trans (by rw [hact]; rfl), bankDone_boundary h hplace, boundary_dram h hplace⟩

end Word

end Sys2Proof.Machine
end

section
/-! PROOFS. Columns of a bank's slots (spec/12 R267, R273; spec/09 R213 to R215): what a read of a column notes, and what a column reads after
words have been written to it. -/
namespace Sys2Proof.Machine

/-! ## Words as bytes (R3) -/

/-- The bytes of words, low byte first. -/
def bytesOf (ws : List PWord) : List Byte := ws.flatMap fun w => natLe 4 w.val.toNat

theorem bytesOf_length (ws : List PWord) : (bytesOf ws).length = 4 * ws.length := by
  induction ws with
  | nil => rfl
  | cons w ws ih => rw [bytesOf, List.flatMap_cons, List.length_append, natLe_length, List.length_cons, ← bytesOf, ih]; omega

theorem bytesOf_eq_range (ws : List PWord) : bytesOf ws = (List.range ws.length).flatMap fun l => natLe 4 (ws.getD l pzero).val.toNat := by
  have hws : ws = (List.range ws.length).map fun l => ws.getD l pzero :=
    List.ext_getElem (by simp) fun l hl _ => by simp [List.getElem?_eq_getElem hl]
  conv_lhs => rw [hws]
  rw [bytesOf, List.flatMap_map]

/-- A word among words just written. -/
theorem bytesOf_word {m : Memory} (hm : m.wf = true) (a : Nat) {ws : List PWord} {l : Nat} (hl : l < ws.length) :
    BitVec.ofNat 32 (leNat (memRead (memWrite m a (bytesOf ws)) (a + 4 * l) 4)) = (ws.getD l pzero).val := by
  have hlen : ∀ i, (natLe 4 (ws.getD i pzero).val.toNat).length = 4 := fun i => natLe_length ..
  rw [memRead_memWrite hm a (4 * l) (by rw [bytesOf_length]; omega), Nat.mul_comm 4, bytesOf_eq_range, flatMap_range_part hlen hl, leNat_natLe_word,
    BitVec.ofNat_toNat, BitVec.setWidth_eq]

/-! ## Writes to a slice's memory -/

/-- Addresses that do not leave the slice's window of 2^40 bytes are consecutive in the package's memory. -/
theorem dramKey_add {f a n : Nat} (h : a % 2 ^ 40 + n < 2 ^ 40) : dramKey f (a + n) = dramKey f a + n := by
  rw [dramKey, dramKey, ← Nat.mod_add_mod, Nat.mod_eq_of_lt h, Nat.add_assoc]

theorem memPuts_consecutive (m : Memory) (a : Nat) (bs : List Byte) :
    memPuts m ((List.range bs.length).map fun i => (a + i, bs.getD i 0#8)) = memWrite m a bs := by
  induction bs generalizing m a with
  | nil => rfl
  | cons b bs ih =>
    rw [List.length_cons, List.range_succ_eq_map, List.map_cons, List.map_map, memPuts, memWrite, ← ih]
    simp only [Function.comp_def, Nat.succ_eq_add_one, Nat.add_zero, List.getD_cons_zero, List.getD_cons_succ, Nat.add_assoc, Nat.add_comm 1]

theorem spaWrite_dram (s : State) (f : Nat) {a : Nat} {bs : List Byte} (h : a % 2 ^ 40 + bs.length ≤ 2 ^ 40) :
    (spaWrite s f a bs).dram = memWrite s.dram (dramKey f a) bs := by
  rw [spaWrite, spaWrites, ← memPuts_consecutive]
  simp only [List.map_map]
  refine congrArg (memPuts s.dram) (List.map_congr_left fun i hi => ?_)
  have hi : i < bs.length := List.mem_range.1 hi
  simp only [Function.comp]
  rw [dramKey_add (by omega)]

section WriteWords
variable (s : State) (run f a : Nat) (ws : List PWord)

theorem writeWords_kept : BankKept s (s.writeWords run f a ws) := by
  rw [State.writeWords]
  cases s.run run <;> exact ⟨rfl, rfl, rfl, rfl, rfl, rfl, rfl, rfl⟩

@[simp] theorem writeWords_rowBad : (s.writeWords run f a ws).rowBad = s.rowBad := by
  rw [State.writeWords]
  cases s.run run <;> rfl

@[simp] theorem writeWords_slices : (s.writeWords run f a ws).slices = s.slices := by
  rw [State.writeWords]
  cases s.run run <;> rfl

/-- The blocks of the words that hold a poisoned one (R267). -/
def poisonedBlocks : List Nat := (List.range (ws.length / 4)).filterMap fun b =>
  if (List.range 4).any fun w => (ws.getD (4 * b + w) pzero).poison then some (dramKey f (a + 16 * b) / 16) else none

/-- The marks of a write: its poisoned blocks, and of the earlier marks those that it does not heal. -/
theorem writeWords_eccBad : ∃ old, (∀ b ∈ old, b ∈ s.eccBad) ∧ (s.writeWords run f a ws).eccBad = poisonedBlocks f a ws ++ old := by
  refine ⟨(spaWrite s f a (bytesOf ws)).eccBad.filter fun x => !(poisonedBlocks f a ws).contains x, fun b hb => ?_, ?_⟩
  · exact (List.mem_filter.1 (List.mem_filter.1 hb).1).1
  · rw [State.writeWords]
    cases s.run run <;> rfl

variable {a ws}

theorem writeWords_dram (h : a % 2 ^ 40 + 4 * ws.length ≤ 2 ^ 40) :
    (s.writeWords run f a ws).dram = memWrite s.dram (dramKey f a) (bytesOf ws) := by
  rw [← bytesOf_length] at h
  rw [State.writeWords]
  cases s.run run with
  | none => exact spaWrite_dram s f h
  | some r => exact spaWrite_dram (s.remember { whole := true } [(r.agent, .dram f a, bytesOf ws)]) f h

theorem memOk_dram {s : State} (h : s.memOk = true) : s.dram.wf = true := by
  simp only [State.memOk, Bool.and_eq_true] at h
  exact h.1.1.1

theorem writeWords_outside (hs : s.memOk = true) (h : a % 2 ^ 40 + 4 * ws.length ≤ 2 ^ 40) {x : Nat}
    (hx : x < dramKey f a ∨ dramKey f a + 4 * ws.length ≤ x) : memGet (s.writeWords run f a ws).dram x = memGet s.dram x := by
  rw [writeWords_dram s run f h]
  exact memGet_memWrite_outside (memOk_dram hs) (by rwa [bytesOf_length])

/-- A word read where words have been written. -/
theorem read_writeWords (hs : s.memOk = true) (h : a % 2 ^ 40 + 4 * ws.length ≤ 2 ^ 40) {l : Nat} (hl : l < ws.length) :
    BitVec.ofNat 32 (leNat (spaRead (s.writeWords run f a ws) f (a + 4 * l) 4)) = (ws.getD l pzero).val := by
  rw [spaRead, writeWords_dram s run f h, dramKey_add (by omega)]
  exact bytesOf_word (memOk_dram hs) _ hl

/-- The words of one poison, eight at an aligned address where nothing was poisoned, read with that poison. -/
theorem writeWords_poison (hlen : ws.length = 8) {bad : Bool} (hbad : ∀ w ∈ ws, w.poison = bad) (halign : a % 16 = 0)
    (h : a % 2 ^ 40 + 32 ≤ 2 ^ 40) {l : Nat} (hl : l < 8) (hclean : spaPoison s f (a + 4 * l) = false) :
    spaPoison (s.writeWords run f a ws) f (a + 4 * l) = bad := by
  obtain ⟨old, hold, hecc⟩ := writeWords_eccBad s run f a ws
  have hword : ∀ n, n < 8 → (ws.getD n pzero).poison = bad := fun n hn => by
    rw [List.getD_eq_getElem _ _ (by omega)]
    exact hbad _ (List.getElem_mem _)
  simp only [spaPoison, Bool.or_eq_false_iff, List.contains_eq_mem, decide_eq_false_iff_not] at hclean
  obtain ⟨hblock, hrow⟩ := hclean
  have hslice : (s.writeWords run f a ws).slice f = s.slice f := by simp only [State.slice, writeWords_slices]
  simp only [spaPoison, hecc, hslice, writeWords_rowBad, List.contains_eq_mem, decide_eq_false hrow, Bool.or_false]
  cases bad with
  | false =>
    have hnone : poisonedBlocks f a ws = [] := by
      rw [poisonedBlocks, List.filterMap_eq_nil_iff]
      intro b hb
      have hb : b < 2 := by simpa [hlen] using hb
      refine if_neg ?_
      rw [Bool.not_eq_true, List.any_eq_false]
      intro w hw
      have hw : w < 4 := List.mem_range.1 hw
      rw [hword _ (by omega)]
      exact Bool.false_ne_true
    rw [hnone, List.nil_append, decide_eq_false fun hin => hblock (hold _ hin)]
  | true =>
    refine decide_eq_true (List.mem_append_left _ (List.mem_filterMap.2 ⟨l / 4, ?_, ?_⟩))
    · rw [hlen]
      exact List.mem_range.2 (by omega)
    · rw [if_pos (List.any_eq_true.2 ⟨0, by simp, hword _ (by omega)⟩), dramKey_add (by omega), dramKey_add (by omega), dramKey]
      congr 1
      omega

end WriteWords

/-! ## Reads that are noted (R215) -/

/-- The state t has noted reads of s: its memory, its marks and the bands of its slices are those of s. -/
structure Noted (s t : State) : Prop extends BankKept s t where
  dram : t.dram = s.dram
  eccBad : t.eccBad = s.eccBad
  rowBad : t.rowBad = s.rowBad
  band : ∀ f, (t.slice f).band = (s.slice f).band

namespace Noted

theorem refl (s : State) : Noted s s := ⟨.refl s, rfl, rfl, rfl, fun _ => rfl⟩

theorem trans {s t u : State} (h : Noted s t) (k : Noted t u) : Noted s u :=
  ⟨h.toBankKept.trans k.toBankKept, k.dram.trans h.dram, k.eccBad.trans h.eccBad, k.rowBad.trans h.rowBad, fun f => (k.band f).trans (h.band f)⟩

/-- The error counters of a slice raised. -/
theorem setErrs (s : State) (f : Nat) (e : BitVec 64) : Noted s (s.setSlice f { s.slice f with errs := e }) where
  toBankKept := ⟨rfl, rfl, rfl, rfl, rfl, rfl, rfl, rfl⟩
  dram := rfl
  eccBad := rfl
  rowBad := rfl
  band g := by
    by_cases hg : g = f
    · subst hg
      by_cases hlen : g < s.slices.length
      · rw [slice_setSlice s g _ hlen]
      · simp only [State.setSlice, State.slice, List.set_eq_of_length_le (Nat.le_of_not_lt hlen)]
    · rw [slice_setSlice_ne s _ hg]

theorem setPaths {s t : State} (h : Noted s t) (p : Paths) : Noted s { t with paths := p } :=
  h.trans ⟨⟨rfl, rfl, rfl, rfl, rfl, rfl, rfl, rfl⟩, rfl, rfl, rfl, fun _ => rfl⟩

theorem recEvent {s t : State} (h : Noted s t) (u cls kind asid vf payload : Nat) : Noted s (t.recEvent u cls kind asid vf payload) :=
  h.trans ⟨⟨rfl, rfl, rfl, rfl, rfl, rfl, rfl, rfl⟩, rfl, rfl, rfl, fun _ => rfl⟩

theorem noteBad (s : State) (asid : BitVec 12) (f spa : Nat) : Noted s (s.noteBad asid f spa) := by
  simp only [State.noteBad]
  split
  · split
    · exact refl s
    · exact recEvent (setPaths (setErrs s f (satAdd64 (s.slice f).errs 48)) _) ..
  · split
    · exact recEvent (setErrs s f _) ..
    · exact refl s

theorem noteCol (s : State) (r : Run) (i : Inst) (n c : Nat) : Noted s (s.noteCol r i n c) := by
  cases hslot : i.slot n with
  | closed => simpa only [State.noteCol, hslot] using refl s
  | table cs => simpa only [State.noteCol, hslot] using refl s
  | opened row w b =>
    simp only [State.noteCol, hslot]
    generalize hlow : (if spaPoison s i.f (i.rowAddr row + 32 * c) = true then s.noteBad r.asid i.f (i.rowAddr row + 32 * c) else s) = t
    have ht : Noted s t := by
      subst hlow
      split
      · exact noteBad ..
      · exact refl s
    split
    · exact ht.trans (noteBad ..)
    · exact ht

theorem noteCols (r : Run) (i : Inst) (n : Nat) : ∀ (cs : List Nat) (s : State), Noted s (cs.foldl (fun u c => u.noteCol r i n c) s)
  | [], s => refl s
  | c :: cs, s => (noteCol s r i n c).trans (noteCols r i n cs (s.noteCol r i n c))

end Noted

/-- The row of an address depends on its slice's band alone. -/
theorem spaRow_congr (f : Nat) {x y : Slice} (h : y.band = x.band) (a : Nat) : spaRow f y a = spaRow f x a := by
  simp only [spaRow, h]

theorem spaPoison_noted {s t : State} (h : Noted s t) (f a : Nat) : spaPoison t f a = spaPoison s f a := by
  rw [spaPoison, spaPoison, h.eccBad, h.rowBad, spaRow_congr f (h.band f)]

theorem readRowCol_noted {s t : State} (h : Noted s t) (i : Inst) (row c : Nat) : readRowCol t i row c = readRowCol s i row c := by
  simp only [readRowCol, spaRead, spaPoison_noted h, h.dram]

theorem readCol_noted {s t : State} (h : Noted s t) (i : Inst) (n c : Nat) : readCol t i n c = readCol s i n c := by
  simp only [readCol, readRowCol_noted h]

theorem keepPre_noted {s t : State} (h : Noted s t) (i : Inst) (row : Nat) (cols : List Nat) : t.keepPre i row cols = s.keepPre i row cols := by
  simp only [State.keepPre, readRowCol_noted h]

/-! ## Columns without poison -/

theorem anyPoison_eq_false {ws : List PWord} (h : ∀ w ∈ ws, w.poison = false) : anyPoison ws = false := by
  simpa [anyPoison] using h

section Column
variable {s : State} {i : Inst} {n c : Nat} (h : columnOk s i n c)
include h

theorem columnOk_clean : ∀ w ∈ readCol s i n c, w.poison = false := by
  unfold columnOk at h
  cases hslot : i.slot n with
  | closed => rw [hslot] at h; exact h.elim
  | opened row w b => rw [hslot] at h; exact h.2.2
  | table cs => rw [hslot] at h; exact h.2.2.2

theorem columnOk_usable : (i.slot n).usable = true := by
  unfold columnOk at h
  cases hslot : i.slot n with
  | closed => rw [hslot] at h; exact h.elim
  | opened row w b => rfl
  | table cs => rfl

theorem columnOk_open : i.slot n ≠ .closed := fun hclosed => by
  have := columnOk_usable h
  rw [hclosed] at this
  exact absurd this Bool.false_ne_true

theorem columnOk_getD (m : Nat) : ((readCol s i n c).getD m pzero).poison = false := by
  by_cases hm : m < (readCol s i n c).length
  · rw [List.getD_eq_getElem _ _ hm]
    exact columnOk_clean h _ (List.getElem_mem hm)
  · rw [List.getD_eq_default _ _ (Nat.le_of_not_lt hm)]
    rfl

/-- The words of an open row's column are where nothing is poisoned. -/
theorem spaPoison_of_columnOk {row : Nat} {w : Bool} {b : Option Nat} (hslot : i.slot n = .opened row w b) {l : Nat} (hl : l < 8) :
    spaPoison s i.f (i.rowAddr row + 32 * c + 4 * l) = false := by
  have hread : readCol s i n c = readRowCol s i row c := by rw [readCol, hslot]
  refine columnOk_clean h ⟨BitVec.ofNat 32 (leNat (spaRead s i.f (i.rowAddr row + 32 * c + 4 * l) 4)), _⟩ ?_
  rw [hread]
  exact List.mem_map.2 ⟨l, List.mem_range.2 hl, rfl⟩

/-- A read without poison notes nothing. -/
theorem noteCol_of_columnOk (r : Run) : s.noteCol r i n c = s := by
  cases hslot : i.slot n with
  | closed => simp only [State.noteCol, hslot]
  | table cs => simp only [State.noteCol, hslot]
  | opened row w b =>
    have hlow : spaPoison s i.f (i.rowAddr row + 32 * c) = false := spaPoison_of_columnOk h hslot (l := 0) (by omega)
    have hhigh : spaPoison s i.f (i.rowAddr row + 32 * c + 16) = false := spaPoison_of_columnOk h hslot (l := 4) (by omega)
    simp only [State.noteCol, hslot, hlow, hhigh, Bool.false_eq_true, if_false]

end Column

end Sys2Proof.Machine
end

section
/-! PROOFS. Rows and column transfers of the banks, and bank-ops issued by a group (spec/12 R269, R272 to R274; spec/02 R42) (O31). -/
namespace Sys2Proof.Machine

/-! ## Slots -/

@[simp] theorem slot_set_self {i : Inst} {n : Nat} (hn : n < i.slots.length) (x : BSlot) : ({ i with slots := i.slots.set n x } : Inst).slot n = x := by
  simp [Inst.slot, List.getElem?_set_self hn]

/-- An instance that differs in its slots and what was kept of its rows stands in the same place. -/
theorem samePlace_of_slots {i j : Inst} (h : { j with slots := i.slots, pre := i.pre } = i) : i.SamePlace j :=
  ⟨(congrArg Inst.run h :), (congrArg Inst.k h :), (congrArg Inst.stack h :), (congrArg Inst.ended h :)⟩

theorem closeCost_eq (x : BSlot) : x.closeCost = closingCost x := by cases x <;> rfl

theorem close_eq (i : Inst) (n : Nat) : i.close n = closedAt i n := by
  cases hslot : i.slot n with
  | closed => simp [Inst.close, closedAt, hslot]
  | table cs => simp [Inst.close, closedAt, hslot]
  | opened q w b => simp only [Inst.close, closedAt, hslot]; rfl

theorem closedAt_samePlace (i : Inst) (n : Nat) : i.SamePlace (closedAt i n) := ⟨rfl, rfl, rfl, rfl⟩

/-! ## Reading and writing a column (R267, R273) -/

theorem readRowCol_vals (s : State) (i : Inst) (row c : Nat) :
    (readRowCol s i row c).map (·.val) = (List.range 8).map fun m => BitVec.ofNat 32 (leNat (spaRead s i.f (i.rowAddr row + 32 * c + 4 * m) 4)) := by
  rw [readRowCol, List.map_map]
  rfl

theorem readCol_length {s : State} {i : Inst} {n c : Nat} (h : columnOk s i n c) : (readCol s i n c).length = 8 := by
  unfold columnOk at h
  cases hslot : i.slot n with
  | closed => rw [hslot] at h; exact h.elim
  | opened row w b => simp [readCol, hslot, readRowCol]
  | table cs =>
    rw [hslot] at h
    obtain ⟨hlen, hc, hcol, -⟩ := h
    simp only [readCol, hslot]
    rw [List.getD_eq_getElem _ _ (by omega)]
    exact hcol _ (List.getElem_mem _)

/-- Words of one poison written to a usable column: they read back, and no byte of memory outside the column changes. -/
theorem writeCol_reads {s : State} {i : Inst} {n c : Nat} {ws : List PWord} {bad : Bool} (hs : s.memOk = true) (hn : n < i.slots.length) (hc : c < 64)
    (h : columnOk s i n c) (hlen : ws.length = 8) (hbad : ∀ w ∈ ws, w.poison = bad) :
    ∃ t j, s.writeCol i n c ws = t.setInst j ∧ BankKept s t ∧ { j with slots := i.slots, pre := i.pre } = i ∧ outsideColumn s t i n c
      ∧ readCol t j n c = ws := by
  have hcol := h
  unfold columnOk at h
  cases hslot : i.slot n with
  | closed => rw [hslot] at h; exact h.elim
  | table cs =>
    rw [hslot] at h
    obtain ⟨hcs, -, -, -⟩ := h
    refine ⟨s, { i with slots := i.slots.set n (.table (cs.set c ws)) }, by simp only [State.writeCol, hslot], .refl s, rfl, fun _ _ => rfl, ?_⟩
    simp only [readCol, slot_set_self hn]
    rw [List.getD_eq_getElem _ _ (by rw [List.length_set]; omega), List.getElem_set_self]
  | opened row w b =>
    rw [hslot] at h
    obtain ⟨hfits, halign, -⟩ := h
    have hcell : (i.rowAddr row + 32 * c) % 2 ^ 40 + 32 ≤ 2 ^ 40 := by omega
    have hroom : (i.rowAddr row + 32 * c) % 2 ^ 40 + 4 * ws.length ≤ 2 ^ 40 := by omega
    have hmark : (s.keepPre i row [c]).markWritten n = { s.keepPre i row [c] with slots := i.slots.set n (.opened row true b) } := by
      have hget : (s.keepPre i row [c]).slots.getD n .closed = .opened row w b := hslot
      simp only [Inst.markWritten, hget]
      rfl
    refine ⟨s.writeWords i.run i.f (i.rowAddr row + 32 * c) ws, { s.keepPre i row [c] with slots := i.slots.set n (.opened row true b) },
      by simp only [State.writeCol, hslot, hmark], writeWords_kept .., rfl, fun a ha => ?outside, ?reads⟩
    case outside =>
      have hkey : dramKey i.f (i.rowAddr row + 32 * c) = dramKey i.f (i.rowAddr row) + 32 * c := dramKey_add (by omega)
      refine writeWords_outside s i.run i.f hs hroom ?_
      rw [hkey, hlen]
      exact ha row w b hslot
    case reads =>
      have hopen : ({ s.keepPre i row [c] with slots := i.slots.set n (.opened row true b) } : Inst).slot n = .opened row true b :=
        slot_set_self (i := s.keepPre i row [c]) hn _
      simp only [readCol, hopen]
      refine List.ext_getElem (by simp [readRowCol, hlen]) fun l hl _ => ?_
      have hl : l < 8 := by simpa [readRowCol] using hl
      have hword : ws[l] = ws.getD l pzero := (List.getD_eq_getElem _ _ (by omega)).symm
      have hval := read_writeWords s i.run i.f hs hroom (l := l) (by omega)
      have hpoison := writeWords_poison s i.run i.f hlen hbad (by omega) hcell hl (spaPoison_of_columnOk hcol hslot hl)
      simp only [readRowCol, List.getElem_map, List.getElem_range]
      have hsame : ws[l].poison = bad := hbad _ (List.getElem_mem _)
      rw [hword] at hsame ⊢
      exact congrArg₂ PWord.mk hval (hpoison.trans hsame.symm)

/-! ## Row operations (R272) -/

section RowOps
variable {s : State} {r : Run} {i : Inst} (h : InBank s r i)
include h

/-- An op that replaces its instance without touching memory or its marks. -/
theorem bankOp_setInst {act : Run → Inst → State} {j : Inst} {cost : Nat} {poison : Bool} {fl : BitVec 5} (hj : i.SamePlace j)
    (hact : act r i = (s.setInst j).opDone r i.k cost poison fl) :
    ∃ u, withInst s act = .next u ∧ u.dram = s.dram ∧ BankDone s u r i (j.done r cost poison fl) := by
  refine ⟨_, (withInst_next h act).trans (by rw [hact]), ?_, bankDone_opDone h (.refl s) hj cost poison fl⟩
  rw [opDone_setInst h (.refl s) hj]
  rfl

omit h in
/-- `bact` for its row: out of range, in no closed slot, or opened. -/
theorem exec_bact (s : State) (r : Run) (i : Inst) (sl : BitVec 2) (ri pe : BitVec 1) (p : BitVec 4) (imm : BitVec 10) :
    ∃ act, exec (.bact sl ri pe p imm) s = withInst s act ∧ act r i = (
      if 1024 ≤ bactRow r i ri pe p imm then s.endInst r i codeRowRange 0
      else if i.slot sl.toNat ≠ .closed ∨ (i.openAt (bactRow r i ri pe p imm)).isSome = true then s.endInst r i codeSlotState 0
      else ((if s.rowBad.contains (spaRow i.f (s.slice i.f) (i.rowAddr (bactRow r i ri pe p imm))).1 then
          s.noteBad r.asid i.f (i.rowAddr (bactRow r i ri pe p imm)) else s).setInst
        { i with slots := i.slots.set sl.toNat (.opened (bactRow r i ri pe p imm) false (some (bactRow r i ri pe p imm))) }).opDone
          r i.k 16 (badParam r pe p) 0#5) := by
  refine ⟨_, rfl, ?_⟩
  have hrow : (BitVec.ofNat 32 (imm.toNat + (if pe = 1#1 then r.param p.toNat else pzero).val.toNat + (if ri = 1#1 then i.j else 0))).toNat
      = bactRow r i ri pe p imm := by
    rw [BitVec.toNat_ofNat, bactRow]
    by_cases hpe : pe = 1#1
    · rw [if_pos hpe, if_pos hpe]
    · rw [if_neg hpe, if_neg hpe]; rfl
  have hbad : (if pe = 1#1 then r.param p.toNat else pzero).poison = badParam r pe p := by
    by_cases hpe : pe = 1#1
    · rw [if_pos hpe, badParam, hpe]; rfl
    · rw [if_neg hpe, badParam, beq_eq_false_iff_ne.2 hpe]; rfl
  simp only [hrow, hbad]

section Bact
variable {sl : BitVec 2} {ri pe : BitVec 1} {p : BitVec 4} {imm : BitVec 10}

theorem bact_opens (hrow : bactRow r i ri pe p imm < 1024) (hclosed : i.slot sl.toNat = .closed) (hnot : i.openAt (bactRow r i ri pe p imm) = none)
    (htag : s.rowBad.contains (spaRow i.f (s.slice i.f) (i.rowAddr (bactRow r i ri pe p imm))).1 = false) :
    ∃ u, exec (.bact sl ri pe p imm) s = .next u ∧ u.dram = s.dram ∧ BankDone s u r i (Inst.done { i with
      slots := i.slots.set sl.toNat (.opened (bactRow r i ri pe p imm) false (some (bactRow r i ri pe p imm))) } r 16 (badParam r pe p) 0#5) := by
  obtain ⟨act, hexec, hact⟩ := exec_bact s r i sl ri pe p imm
  rw [if_neg (Nat.not_le.2 hrow), if_neg (by simp [hclosed, hnot]), if_neg (by rw [htag]; exact Bool.false_ne_true)] at hact
  rw [hexec]
  exact bankOp_setInst h ⟨rfl, rfl, rfl, rfl⟩ hact

theorem bact_rowRange (hrow : 1024 ≤ bactRow r i ri pe p imm) :
    ∃ u, exec (.bact sl ri pe p imm) s = .next u ∧ BankEnds s u r i 0 0x08 := by
  obtain ⟨act, hexec, hact⟩ := exec_bact s r i sl ri pe p imm
  rw [hexec]
  exact bankEnds_endInst h (hact.trans (if_pos hrow))

theorem bact_slotState (hrow : bactRow r i ri pe p imm < 1024)
    (hopen : i.slot sl.toNat ≠ .closed ∨ (i.openAt (bactRow r i ri pe p imm)).isSome = true) :
    ∃ u, exec (.bact sl ri pe p imm) s = .next u ∧ BankEnds s u r i 0 0x09 := by
  obtain ⟨act, hexec, hact⟩ := exec_bact s r i sl ri pe p imm
  rw [hexec]
  exact bankEnds_endInst h (hact.trans ((if_neg (Nat.not_le.2 hrow)).trans (if_pos hopen)))

end Bact

theorem bpre_closes (sl : BitVec 2) : ∃ u, exec (.bpre sl) s = .next u ∧ u.dram = s.dram
    ∧ BankDone s u r i ((closedAt i sl.toNat).done r (closingCost (i.slot sl.toNat)) false 0#5) :=
  bankOp_setInst h (closedAt_samePlace i sl.toNat) (by rw [close_eq, closeCost_eq])

end RowOps

/-! ## Contents moved from slot to slot (R267, R272) -/

/-- The words that a slot gives another: those of its row without the row's own mark, or those of its table. -/
def State.movedWords (s : State) (i : Inst) (a : Nat) : List PWord := match i.slot a with
  | .opened row _ _ => (List.range 512).map fun w =>
      let ad := i.rowAddr row + 4 * w
      ⟨BitVec.ofNat 32 (leNat (spaRead s i.f ad 4)), s.eccBad.contains (dramKey i.f ad / 16)⟩
  | _ => (List.range 64).flatMap fun c => readCol s i a c

theorem flatMap_range_getD {α : Type} {f : Nat → List α} {k n : Nat} (hf : ∀ j, j < n → (f j).length = k) {l m : Nat} (hl : l < n) (hm : m < k)
    (d : α) : ((List.range n).flatMap f).getD (k * l + m) d = (f l).getD m d := by
  obtain ⟨e, rfl⟩ := Nat.exists_eq_add_of_lt hl
  have hbefore : ((List.range l).flatMap f).length = k * l := by
    rw [List.length_flatMap, List.map_congr_left fun j hj => hf j (by have := List.mem_range.1 hj; omega)]
    simp [Nat.mul_comm]
  rw [Nat.add_assoc, List.range_add, List.range_succ_eq_map, List.flatMap_append, List.getD_append_right _ _ _ _ (by omega), hbefore,
    Nat.add_sub_cancel_left]
  simp only [List.map_cons, List.flatMap_cons, Nat.add_zero]
  exact List.getD_append _ _ _ _ (by rw [hf l hl]; exact hm)

theorem movedWords_noted {s t : State} (h : Noted s t) (i : Inst) (a : Nat) : t.movedWords i a = s.movedWords i a := by
  simp only [State.movedWords, readCol_noted h, spaRead, h.dram, h.eccBad]

section Moved
variable {s : State} {i : Inst} {a : Nat} (hcols : ∀ c, c < 64 → columnOk s i a c)
include hcols

theorem movedWords_length : (s.movedWords i a).length = 512 := by
  have hcol : ∀ c, c < 64 → (readCol s i a c).length = 8 := fun c hc => readCol_length (hcols c hc)
  have hflat : ((List.range 64).flatMap fun c => readCol s i a c).length = 512 := by
    rw [List.length_flatMap, List.map_congr_left fun c hc => hcol c (List.mem_range.1 hc)]
    simp
  cases hslot : i.slot a with
  | closed => simpa only [State.movedWords, hslot] using hflat
  | table cs => simpa only [State.movedWords, hslot] using hflat
  | opened row w b => simp [State.movedWords, hslot]

/-- Word m of column c is word 8 c + m of what is moved. -/
theorem movedWords_val {c m : Nat} (hc : c < 64) (hm : m < 8) :
    ((s.movedWords i a).getD (8 * c + m) pzero).val = ((readCol s i a c).getD m pzero).val := by
  have hflat : ((List.range 64).flatMap fun c => readCol s i a c).getD (8 * c + m) pzero = (readCol s i a c).getD m pzero :=
    flatMap_range_getD (fun j hj => readCol_length (hcols j hj)) hc hm pzero
  cases hslot : i.slot a with
  | closed => simpa only [State.movedWords, hslot] using congrArg PWord.val hflat
  | table cs => simpa only [State.movedWords, hslot] using congrArg PWord.val hflat
  | opened row w b =>
    simp only [State.movedWords, readCol, hslot, readRowCol]
    rw [List.getD_eq_getElem _ _ (by simp; omega), List.getD_eq_getElem _ _ (by simpa using hm)]
    simp only [List.getElem_map, List.getElem_range]
    rw [show i.rowAddr row + 4 * (8 * c + m) = i.rowAddr row + 32 * c + 4 * m by omega]

end Moved

/-- The instance whose open row q has taken another slot's contents, to be enciphered under x. -/
def State.movedTo (s : State) (i : Inst) (t q : Nat) (x : Option Nat) (marks : List (Nat × Bool)) : Inst :=
  { s.keepPre i q (List.range 64) with slots := i.slots.set t (.opened q true x), marks := marks }

theorem BankKept.setMarks {s t : State} (h : BankKept s t) (rowBad : List RowKey) (paths : Paths) :
    BankKept s { t with rowBad := rowBad, paths := paths } := ⟨h.bank, h.live, h.engs, h.scr, h.host, h.cal, h.dieCycles, h.coreNo⟩

/-- A move writes the target's row, and sets or clears its row mark. -/
theorem moveSlot_writes (s : State) (i : Inst) (a t q : Nat) : ∃ rowBad paths x marks, s.moveSlot i a t q
    = ({ s.writeWords i.run i.f (i.rowAddr q) (s.movedWords i a) with rowBad := rowBad, paths := paths } : State).setInst (s.movedTo i t q x marks) := by
  cases hslot : i.slot a with
  | closed => simp only [State.moveSlot, State.movedWords, hslot]; exact ⟨_, _, _, _, rfl⟩
  | table cs => simp only [State.moveSlot, State.movedWords, hslot]; exact ⟨_, _, _, _, rfl⟩
  | opened row w b => simp only [State.moveSlot, State.movedWords, hslot]; exact ⟨_, _, _, _, rfl⟩

theorem moveSlot_eq (s : State) (i : Inst) (a t q : Nat) : ∃ u x marks, s.moveSlot i a t q = u.setInst (s.movedTo i t q x marks) ∧ BankKept s u
    ∧ u.dram = (s.writeWords i.run i.f (i.rowAddr q) (s.movedWords i a)).dram := by
  obtain ⟨rowBad, paths, x, marks, hmove⟩ := moveSlot_writes s i a t q
  exact ⟨_, x, marks, hmove, (writeWords_kept s i.run i.f (i.rowAddr q) (s.movedWords i a)).setMarks rowBad paths, rfl⟩

/-- The column of a row that has taken a slot's contents. -/
theorem readCol_movedTo {s u : State} {i : Inst} {a t q : Nat} {x : Option Nat} {marks : List (Nat × Bool)} (hs : s.memOk = true)
    (ht : t < i.slots.length) (hu : u.dram = (s.writeWords i.run i.f (i.rowAddr q) (s.movedWords i a)).dram)
    (hfits : i.rowAddr q % 2 ^ 40 + 2048 ≤ 2 ^ 40) (hcols : ∀ c, c < 64 → columnOk s i a c) {c : Nat} (hc : c < 64) :
    (readCol u (s.movedTo i t q x marks) t c).map (·.val) = (readCol s i a c).map (·.val) := by
  have hopen : (s.movedTo i t q x marks).slot t = .opened q true x := slot_set_self (i := { s.keepPre i q (List.range 64) with marks := marks }) ht _
  have hlen := movedWords_length hcols
  have hread : readCol u (s.movedTo i t q x marks) t c = readRowCol u (s.movedTo i t q x marks) q c := by rw [readCol, hopen]
  rw [hread, readRowCol_vals]
  refine List.ext_getElem (by simp [readCol_length (hcols c hc)]) fun m hm _ => ?_
  have hm : m < 8 := by simpa using hm
  have hword := read_writeWords s i.run i.f hs (a := i.rowAddr q) (ws := s.movedWords i a) (l := 8 * c + m) (by omega) (by omega)
  rw [movedWords_val hcols hc hm, List.getD_eq_getElem _ _ (by rw [readCol_length (hcols c hc)]; exact hm)] at hword
  simp only [List.getElem_map, List.getElem_range]
  rw [← hword, spaRead, spaRead, hu]
  exact congrArg (fun ad => BitVec.ofNat 32 (leNat (memRead _ (dramKey i.f ad) 4))) (show i.rowAddr q + 32 * c + 4 * m = i.rowAddr q + 4 * (8 * c + m) by omega)

/-- The reads of a slot's 64 columns noted. -/
def State.noteSlot (s : State) (r : Run) (i : Inst) (a : Nat) : State := (List.range 64).foldl (fun u c => u.noteCol r i a c) s

/-- Some word of a slot is poisoned. -/
def State.slotPoison (s : State) (i : Inst) (a : Nat) : Bool := (List.range 64).any fun c => anyPoison (readCol s i a c)

section SlotMove
variable {s : State} {r : Run} {i : Inst} (h : InBank s r i) {a t : Nat}
include h

theorem slotMove_open {q : Nat} {w : Bool} {b : Option Nat} (hopen : i.slot t = .opened q w b) (ha : i.slot a ≠ .closed) (cost : Nat) :
    slotMove cost a t s = .next (((s.noteSlot r i a).moveSlot i a t q).opDone r i.k cost (s.slotPoison i a) 0#5).wordOver := by
  rw [slotMove, withInst_next h]
  simp only [hopen, if_neg ha]
  rfl

/-- A move between slots of any cost: what it makes of the instance does not depend on the cost. -/
theorem slotMove_moves (ht : t < i.slots.length) {q : Nat} {w : Bool} {b : Option Nat} (hopen : i.slot t = .opened q w b) (ha : i.slot a ≠ .closed) :
    ∃ x marks, ∀ cost, ∃ u, slotMove cost a t s = .next u
      ∧ BankDone s u r i ((s.movedTo i t q x marks).done r cost (s.slotPoison i a) 0#5)
      ∧ (s.memOk = true → i.rowAddr q % 2 ^ 40 + 2048 ≤ 2 ^ 40 → (∀ c, c < 64 → columnOk s i a c) →
        ∀ c, c < 64 → (readCol u (s.movedTo i t q x marks) t c).map (·.val) = (readCol s i a c).map (·.val)) := by
  have hn : Noted s (s.noteSlot r i a) := Noted.noteCols r i a (List.range 64) s
  obtain ⟨n, x, marks, hmove, hkept, hdram⟩ := moveSlot_eq (s.noteSlot r i a) i a t q
  have hinst : (s.noteSlot r i a).movedTo i t q x marks = s.movedTo i t q x marks := by simp only [State.movedTo, keepPre_noted hn]
  rw [hinst] at hmove
  rw [movedWords_noted hn] at hdram
  have hplace : i.SamePlace (s.movedTo i t q x marks) := ⟨rfl, rfl, rfl, rfl⟩
  refine ⟨x, marks, fun cost => ⟨_, slotMove_open h hopen ha cost, ?done, fun hs hfits hcols c hc => ?moved⟩⟩
  case done =>
    rw [hmove]
    exact bankDone_opDone h (hn.toBankKept.trans hkept) hplace ..
  case moved =>
    have hroom : i.rowAddr q % 2 ^ 40 + 4 * (s.movedWords i a).length ≤ 2 ^ 40 := by rw [movedWords_length hcols]; omega
    refine readCol_movedTo hs ht ?_ hfits hcols hc
    rw [hmove, opDone_setInst h (hn.toBankKept.trans hkept) hplace, writeWords_dram s i.run i.f hroom, ← hn.dram,
      ← writeWords_dram (s.noteSlot r i a) i.run i.f hroom]
    exact hdram

theorem slotMove_slotState (hno : (∀ q w b, i.slot t ≠ .opened q w b) ∨ i.slot a = .closed) (cost : Nat) :
    ∃ u, slotMove cost a t s = .next u ∧ BankEnds s u r i 0 0x09 := by
  refine bankEnds_endInst h ?_
  cases hslot : i.slot t with
  | closed => rfl
  | table cs => rfl
  | opened q w b =>
    have ha : i.slot a = .closed := hno.resolve_left fun hnone => hnone q w b hslot
    exact if_pos ha

end SlotMove

theorem bankRowOps : Claim.BankRowOps := by
  intro sl a t ri pe p imm s r i h hslots
  refine ⟨bact_opens h, bact_rowRange h, bact_slotState h, bpre_closes h sl, fun q w b hopen ha => ?moves, fun hno => ⟨?_, ?_⟩⟩
  case moves =>
    have ht : t.toNat < i.slots.length := by rw [hslots]; exact t.isLt
    obtain ⟨x, marks, hmove⟩ := slotMove_moves h ht hopen ha
    have hcost : 4 * (max a.toNat t.toNat - min a.toNat t.toNat) = 4 * ((a.toNat : Int) - t.toNat).natAbs := by omega
    refine ⟨x, marks, hmove 4, ?_⟩
    rw [← hcost]
    exact hmove (4 * (max a.toNat t.toNat - min a.toNat t.toNat))
  · exact slotMove_slotState h hno 4
  · exact slotMove_slotState h hno _

/-! ## Column transfers (R273, R274) -/

theorem col_lt (i : Inst) (c : BitVec 7) : i.col c < 64 := Nat.mod_lt _ (by decide)

theorem octet_lt (i : Inst) (o : BitVec 4) : i.octet o < 8 := Nat.mod_lt _ (by decide)

theorem not_usable_of_closed {i : Inst} {n : Nat} (h : i.slot n = .closed) : (!(i.slot n).usable) = true := by rw [h]; rfl

/-- The eight accumulators of an octet. -/
theorem octet_words (acc : List PWord) (hacc : acc.length = 64) {o : Nat} (ho : o < 8) :
    (acc.drop (8 * o)).take 8 = (List.range 8).map fun m => acc.getD (8 * o + m) pzero := by
  refine List.ext_getElem (by simp [hacc]; omega) fun m hm _ => ?_
  have hm : m < 8 := by simp at hm; omega
  rw [List.getElem_take, List.getElem_drop, List.getElem_map, List.getElem_range, List.getD_eq_getElem _ _ (by omega)]

theorem mem_octet {acc : List PWord} {o : Nat} {w : PWord} (hw : w ∈ (acc.drop (8 * o)).take 8) : w ∈ acc :=
  List.mem_of_mem_drop (List.mem_of_mem_take hw)

/-- The accumulators after an octet has taken a column. -/
theorem octetWord_eq {s : State} {i : Inst} (hacc : i.acc.length = 64) (sl : BitVec 2) (c o : Nat) :
    (i.acc.mapIdx fun m w => if 8 * o ≤ m ∧ m < 8 * o + 8 then (readCol s i sl.toNat c).getD (m - 8 * o) pzero else w)
      = (List.range 64).map (octetWord s i sl c o) := by
  refine List.ext_getElem (by simp [hacc]) fun m hm _ => ?_
  have hm : m < i.acc.length := by simpa using hm
  rw [List.getElem_mapIdx, List.getElem_map, List.getElem_range, octetWord]
  by_cases hin : m / 8 = o
  · rw [if_pos (by omega), if_pos hin, show m - 8 * o = m % 8 by omega]
  · rw [if_neg (by omega), if_neg hin, List.getD_eq_getElem _ _ hm]

section Transfers
variable {s : State} {r : Run} {i : Inst} (h : InBank s r i) {sl : BitVec 2} {cl : BitVec 7}
include h

theorem brdc_reads (hacc : i.acc.length = 64) (hcol : columnOk s i sl.toNat (i.col cl)) (o : BitVec 4) :
    ∃ u, exec (.brdc sl cl o) s = .next u ∧ u.dram = s.dram
      ∧ BankDone s u r i (Inst.done { i with acc := (List.range 64).map (octetWord s i sl (i.col cl) (i.octet o)) } r 1 false 0#5) := by
  refine bankOp_setInst h ⟨rfl, rfl, rfl, rfl⟩ ?_
  simp only [columnOk_usable hcol, Bool.not_true, Bool.false_eq_true, if_false]
  rw [noteCol_of_columnOk hcol, octetWord_eq hacc, anyPoison_eq_false (columnOk_clean hcol)]

theorem bwrc_writes (hs : s.memOk = true) (hslots : i.slots.length = 4) (hacc : i.acc.length = 64) (hcol : columnOk s i sl.toNat (i.col cl))
    (o : BitVec 4) (hclean : ∀ w ∈ i.acc, w.poison = false) :
    ∃ (u : State) (j : Inst), exec (.bwrc sl cl o) s = .next u ∧ BankDone s u r i (j.done r 1 false 0#5) ∧ { j with slots := i.slots, pre := i.pre } = i
      ∧ outsideColumn s u i sl.toNat (i.col cl) ∧ readCol u j sl.toNat (i.col cl) = (List.range 8).map fun m => i.acc.getD (8 * i.octet o + m) pzero := by
  have hwords : ∀ w ∈ (i.acc.drop (8 * i.octet o)).take 8, w.poison = false := fun w hw => hclean w (mem_octet hw)
  obtain ⟨t, j, hwrite, ht, hj, houtside, hread⟩ := writeCol_reads hs (by rw [hslots]; exact sl.isLt) (col_lt i cl) hcol
    (by rw [octet_words _ hacc (octet_lt i o)]; simp) hwords
  have hdone := opDone_setInst h ht (samePlace_of_slots hj) 1 false 0#5
  refine ⟨(t.setInst (j.done r 1 false 0#5)).wordOver, j, (withInst_next h _).trans ?_,
    bankDone_setInst h ht ((samePlace_of_slots hj).done ..), hj, houtside, ?_⟩
  · simp only [columnOk_usable hcol, Bool.not_true, Bool.false_eq_true, if_false]
    rw [hwrite, anyPoison_eq_false hwords, hdone]
  · rw [← octet_words _ hacc (octet_lt i o)]
    exact hread

theorem bldt_loads {tb : BitVec 2} {x : BitVec 7} {cs : List (List PWord)} (hcol : columnOk s i sl.toNat (i.col cl))
    (htable : (i.slot tb.toNat = .closed ∧ cs = List.replicate 64 (List.replicate 8 pzero)) ∨ i.slot tb.toNat = .table cs) :
    ∃ u, exec (.bldt tb x sl cl) s = .next u ∧ u.dram = s.dram ∧ BankDone s u r i
      (Inst.done { i with slots := i.slots.set tb.toNat (.table (cs.set (i.col x) (readCol s i sl.toNat (i.col cl)))) } r 1 false 0#5) := by
  refine bankOp_setInst h ⟨rfl, rfl, rfl, rfl⟩ ?_
  rcases htable with ⟨hclosed, rfl⟩ | htable
  · simp only [if_neg (columnOk_open hcol), hclosed]
    rw [noteCol_of_columnOk hcol, anyPoison_eq_false (columnOk_clean hcol), emptyTable]
  · simp only [if_neg (columnOk_open hcol), htable]
    rw [noteCol_of_columnOk hcol, anyPoison_eq_false (columnOk_clean hcol)]

end Transfers

theorem bankTransfers : Claim.BankTransfers := by
  intro sl tb cl x o s r i h hslots hacc hs
  refine ⟨fun hcol => ⟨brdc_reads h hacc hcol o, bwrc_writes h hs hslots hacc hcol o, fun cs => bldt_loads h hcol⟩, fun hclosed => ⟨?_, ?_, ?_⟩⟩
  · exact bankEnds_endInst h (if_pos (not_usable_of_closed hclosed))
  · exact bankEnds_endInst h (if_pos (not_usable_of_closed hclosed))
  · exact bankEnds_endInst h (if_pos hclosed)

/-! ## Bank-ops of a group (R42, R269) -/

theorem withInst_group {s : State} {c : Cur} {G : Group} (h : InUnit s c G) (hidle : s.bank.cur = none) (act : Run → Inst → State) :
    withInst s act = .next (s.trapUnit G c 0x01#8 0) := by
  simp only [withInst, hidle, withUnit, h.cur, h.group]

/-- Every bank-op acts on the instance that executes. -/
theorem exec_bankWord {w : Word} {op : Instr} (h : bankWord w = some op) (s : State) : ∃ act, exec op s = withInst s act := by
  rw [bankWord] at h
  cases hw : decodeWord w with
  | none => rw [hw] at h; cases h
  | some i =>
    rw [hw] at h
    cases i
    case bact | bpre | browsh | brcpy | brdc | bwrc | bldt | blut | beadd | befma | bescl | bacc | bloop | byld | bend =>
      cases h
      exact ⟨_, rfl⟩
    all_goals cases h

theorem bankOpInGroupTraps : Claim.BankOpInGroupTraps := by
  intro w op s c G h hidle hop
  obtain ⟨act, hact⟩ := exec_bankWord hop s
  rw [hact, withInst_group h hidle]

/-- Settles O31: each bank-op's replacement of its instance, and what its column then reads. -/
theorem bankAccessResults : Obligations.BankAccessResults := ⟨bankRowOps, bankTransfers, bankOpInGroupTraps⟩

end Sys2Proof.Machine
end

section
/-! PROOFS. Bank arithmetic, output and control (spec/12 R268, R274 to R277, R287) (O32). -/
namespace Sys2Proof.Machine

/-! ## Elementwise operations (R275) -/

theorem noteCols_of_columnOk {s : State} {i : Inst} {c : Nat} (r : Run) : ∀ {ns : List Nat}, (∀ n ∈ ns, columnOk s i n c) →
    ns.foldl (fun t n => t.noteCol r i n c) s = s
  | [], _ => rfl
  | n :: ns, h => by
    rw [List.foldl_cons, noteCol_of_columnOk (h n List.mem_cons_self)]
    exact noteCols_of_columnOk r fun m hm => h m (List.mem_cons_of_mem n hm)

/-- The result of an elementwise operation for word m of its source columns. -/
def elementWord (s : State) (i : Inst) (c : Nat) (srcs : List (BitVec 2)) (f : List Word → FpRes) (m : Nat) : FpRes :=
  f (srcs.map fun n => ((readCol s i n.toNat c).getD m pzero).val)

/-- The words that an elementwise operation writes. -/
def elementWords (s : State) (i : Inst) (c : Nat) (srcs : List (BitVec 2)) (f : List Word → FpRes) (bad : Bool) : List PWord :=
  (List.range 8).map fun m => ⟨(elementWord s i c srcs f m).1, bad⟩

/-- The flags of the eight words of an elementwise operation. -/
def elementFlags (s : State) (i : Inst) (c : Nat) (srcs : List (BitVec 2)) (f : List Word → FpRes) : BitVec 5 :=
  (List.range 8).foldl (fun fl m => fl ||| (elementWord s i c srcs f m).2) 0#5

/-- An elementwise operation over columns without poison. -/
theorem elementOp_eq {s : State} {i : Inst} {c : Nat} {d : BitVec 2} {srcs : List (BitVec 2)} (h : ∀ n ∈ d :: srcs, columnOk s i n.toNat c)
    (params : List PWord) (cost : Nat) (f : List Word → FpRes) (r : Run) :
    elementOp d.toNat c (srcs.map BitVec.toNat) params cost f s r i
      = (s.writeCol i d.toNat c (elementWords s i c srcs f (anyPoison params))).opDone r i.k cost (anyPoison params) (elementFlags s i c srcs f) := by
  have hsrc : ∀ n ∈ srcs, columnOk s i n.toNat c := fun n hn => h n (List.mem_cons_of_mem d hn)
  have husable : ((d.toNat :: srcs.map BitVec.toNat).any fun n => !(i.slot n).usable) = false := by
    rw [← List.map_cons, List.any_map, List.any_eq_false]
    intro n hn
    simp [columnOk_usable (h n hn)]
  have hnote : (srcs.map BitVec.toNat).foldl (fun t n => t.noteCol r i n c) s = s := by
    refine noteCols_of_columnOk r fun n hn => ?_
    obtain ⟨m, hm, rfl⟩ := List.mem_map.1 hn
    exact hsrc m hm
  have hclean : ∀ m, anyPoison (srcs.map fun n => (readCol s i n.toNat c).getD m pzero) = false := fun m =>
    anyPoison_eq_false fun w hw => by
      obtain ⟨n, hn, rfl⟩ := List.mem_map.1 hw
      exact columnOk_getD (hsrc n hn) m
  have hcols : (srcs.map fun n => readCol s i n.toNat c).any anyPoison = false := by
    rw [List.any_map, List.any_eq_false]
    intro n hn
    simp [anyPoison_eq_false (columnOk_clean (hsrc n hn))]
  rw [elementOp, husable, if_neg Bool.false_ne_true, hnote]
  simp only [List.map_map, Function.comp_def, hclean, hcols, Bool.false_or, List.foldl_map]
  rfl

/-- Every row of the table is the elementwise operation of its entries. -/
theorem exec_bankTable {r : Run} {d a b : BitVec 2} {cl : BitVec 7} {p : BitVec 4} (s : State) (i : Inst) : ∀ e ∈ bankTable r d a b cl p,
    ∃ act, exec e.1 s = withInst s act
      ∧ act r i = elementOp d.toNat (i.col cl) (e.2.1.map BitVec.toNat) (e.2.2.2.1.map r.param) e.2.2.1 e.2.2.2.2 s r i := by
  simp only [bankTable, List.forall_mem_cons]
  refine ⟨⟨_, rfl, rfl⟩, ⟨_, rfl, rfl⟩, ⟨_, rfl, rfl⟩, ⟨_, rfl, rfl⟩, ⟨_, rfl, rfl⟩, ⟨_, rfl, rfl⟩, ⟨_, rfl, rfl⟩, ⟨_, rfl, rfl⟩, ⟨_, rfl, rfl⟩,
    ⟨_, rfl, rfl⟩, fun e he => nomatch he⟩

section Arithmetic
variable {s : State} {r : Run} {i : Inst} (h : InBank s r i)
include h

theorem element_done {act : Run → Inst → State} {c cost : Nat} {d : BitVec 2} {srcs : List (BitVec 2)} {params : List PWord}
    {f : List Word → FpRes} (hs : s.memOk = true) (hslots : i.slots.length = 4) (hc : c < 64) (hcols : ∀ n ∈ d :: srcs, columnOk s i n.toNat c)
    (hact : act r i = elementOp d.toNat c (srcs.map BitVec.toNat) params cost f s r i) :
    ∃ (u : State) (j : Inst), withInst s act = .next u ∧ { j with slots := i.slots, pre := i.pre } = i ∧ outsideColumn s u i d.toNat c
      ∧ BankDone s u r i (j.done r cost (anyPoison params) (elementFlags s i c srcs f))
      ∧ readCol u j d.toNat c = elementWords s i c srcs f (anyPoison params) := by
  have hbad : ∀ w ∈ elementWords s i c srcs f (anyPoison params), w.poison = anyPoison params := fun w hw => by
    obtain ⟨m, -, rfl⟩ := List.mem_map.1 hw
    rfl
  obtain ⟨t, j, hwrite, ht, hj, houtside, hread⟩ := writeCol_reads hs (by rw [hslots]; exact d.isLt) hc (hcols d List.mem_cons_self)
    (by simp [elementWords]) hbad
  refine ⟨(t.setInst (j.done r cost (anyPoison params) (elementFlags s i c srcs f))).wordOver, j, ?_, hj, houtside,
    bankDone_setInst h ht ((samePlace_of_slots hj).done ..), hread⟩
  rw [withInst_next h, hact, elementOp_eq hcols, hwrite, opDone_setInst h ht (samePlace_of_slots hj)]

/-- `blut` over columns without poison (R274). -/
theorem blut_adds {a b : BitVec 2} {cl y : BitVec 7} {cs : List (List PWord)} (htable : i.slot b.toNat = .table cs)
    (ha : columnOk s i a.toNat (i.col cl)) (hb : columnOk s i b.toNat (i.col y)) {acc : List (PWord × BitVec 5)}
    (hacc : acc = i.acc.mapIdx fun m v => lutStep (readCol s i a.toNat (i.col cl)) (readCol s i b.toNat (i.col y)) m v) :
    ∃ u, exec (.blut a cl b y) s = .next u ∧ u.dram = s.dram
      ∧ BankDone s u r i (Inst.done { i with acc := acc.map (·.1) } r 1 false (acc.foldl (fun f q => f ||| q.2) 0#5)) := by
  have hread : readCol s i b.toNat (i.col y) = cs.getD (i.col y) (List.replicate 8 pzero) := by rw [readCol, htable]
  have hclean := anyPoison_eq_false (columnOk_clean hb)
  rw [hread] at hacc hclean
  subst hacc
  refine bankOp_setInst h ⟨rfl, rfl, rfl, rfl⟩ ?_
  simp only [htable, if_neg (columnOk_open ha)]
  rw [noteCol_of_columnOk ha, anyPoison_eq_false (columnOk_clean ha), hclean, Bool.or_false]

end Arithmetic

/-- One lookup where neither the weight nor the table's word is poisoned. -/
theorem lutStep_clean {w T : List PWord} (hw : ∀ m, (w.getD m pzero).poison = false) (hT : ∀ m, (T.getD m pzero).poison = false) (m : Nat)
    (v : PWord) : lutStep w T m v =
      (let n := (w.getD (m / 8) pzero).val.toNat / 16 ^ (m % 8) % 16
       let x := (T.getD (n / 2) pzero).val.toNat / 65536 ^ (n % 2) % 65536
       let q := fp32.add false 0 (fp32.decode v.val.toNat) (fp32.decode (x * 65536))
       (⟨BitVec.ofNat 32 q.1, v.poison⟩, q.2)) := by
  simp only [lutStep, hw, hT, Bool.or_false, Nat.pow_mul]

theorem bankArithmetic : Claim.BankArithmetic := by
  intro d a b cl y p s r i h hslots hs
  refine ⟨fun e he hcols => ?element, fun cs htable ha hb => ?lookup⟩
  case element =>
    obtain ⟨act, hexec, hact⟩ := exec_bankTable s i e he
    obtain ⟨u, j, hnext, hj, houtside, hdone, hread⟩ := element_done h hs hslots (col_lt i cl) hcols hact
    rw [anyPoison, List.any_map] at hdone hread
    exact ⟨u, j, hexec.trans hnext, hj, houtside, hdone, hread⟩
  case lookup =>
    refine blut_adds h htable ha hb ?_
    simp only [lutStep_clean (columnOk_getD ha) (columnOk_getD hb)]

/-! ## Output (R276) -/

theorem setInst_writeWords (s : State) (j : Inst) (run f a : Nat) (ws : List PWord) :
    (s.setInst j).writeWords run f a ws = (s.writeWords run f a ws).setInst j := by
  have hrun : (s.setInst j).run run = s.run run := rfl
  rw [State.writeWords, State.writeWords, hrun]
  cases s.run run <;> rfl

theorem instAt_eq_none_iff (s : State) (f a : Nat) : s.instAt f a = none ↔ ∀ x ∈ s.bank.insts,
    ¬ (x.started && x.f == f && x.stack == (spaRow f (s.slice f) a).1.stack && x.bank == rowBank (s.slice f) (spaRow f (s.slice f) a).1) = true := by
  rw [State.instAt]
  cases hinsts : s.bank.insts with
  | nil => simp
  | cons x xs => rw [if_neg (by simp)]; exact List.find?_eq_none

/-- An instance that has moved to no other bank leaves a bank without one free. -/
theorem instAt_setInst_none {s : State} {i j : Inst} {f a : Nat} (hnone : s.instAt f a = none) (hi : i ∈ s.bank.insts)
    (hj : j.started = i.started ∧ j.f = i.f ∧ j.stack = i.stack ∧ j.bank = i.bank) : (s.setInst j).instAt f a = none := by
  rw [instAt_eq_none_iff] at hnone ⊢
  intro x hx
  obtain ⟨y, hy, rfl⟩ := List.mem_map.1 (show x ∈ s.bank.insts.map fun y => if y.run = j.run ∧ y.k = j.k then j else y from hx)
  split
  · obtain ⟨hstarted, hf, hstack, hbank⟩ := hj
    rw [hstarted, hf, hstack, hbank]
    exact hnone i hi
  · exact hnone y hy

theorem runWrite_dram {s : State} {r : Run} {va f a : Nat} (hplace : r.place va = some (f, a)) (hf : f < 64) (hnone : s.instAt f a = none)
    (hrows : s.rowBad = []) (ws : List PWord) : s.runWrite r va ws = s.writeWords r.id f a ws := by
  have hfree : s.instHolds writeHolder f a false = false := by
    have hbusy : s.instBusy writeHolder f a = false := by simp only [State.instBusy, hnone]
    rw [State.instHolds, hbusy, Bool.false_and]
  have hnone' : (s.writeWords r.id f a ws).instAt f a = none := by
    rw [instAt_eq_none_iff] at hnone ⊢
    simp only [State.slice, writeWords_slices, (writeWords_kept s r.id f a ws).bank]
    exact hnone
  have htag : (s.writeWords r.id f a ws).noteTag r.asid f a = s.writeWords r.id f a ws := by
    rw [State.noteTag, writeWords_rowBad, hrows]
    rfl
  simp only [State.runWrite, hplace]
  rw [if_neg (by omega), if_neg (by omega), if_neg (by rw [hfree]; exact Bool.false_ne_true), htag]
  simp only [State.bankServe, hnone']

/-- The accumulators of an octet cleared. -/
theorem clearOctet_eq (acc : List PWord) (o : Nat) :
    (acc.mapIdx fun m w => if 8 * o ≤ m ∧ m < 8 * o + 8 then pzero else w) = acc.mapIdx fun m w => if m / 8 = o then pzero else w := by
  have hsame : (fun (m : Nat) (w : PWord) => if 8 * o ≤ m ∧ m < 8 * o + 8 then pzero else w) = fun m w => if m / 8 = o then pzero else w := by
    funext m w
    exact if_congr (by omega) rfl rfl
  rw [hsame]

section Output
variable {s : State} {r : Run} {i : Inst} (h : InBank s r i) {n : BitVec 3} {orel irel z : BitVec 1} {imm : BitVec 10}
include h

theorem bacc_writes (hacc : i.acc.length = 64) (hs : s.memOk = true)
    (hin : 32 * (imm.toNat + (if irel = 1#1 then i.i else 0)) + 32 ≤ r.stride)
    (hclean : ∀ w ∈ (i.acc.drop (8 * i.octet (orel ++ n))).take 8, w.poison = false) {f a : Nat}
    (hplace : r.place (r.out + i.k * r.stride + 32 * (imm.toNat + (if irel = 1#1 then i.i else 0))) = some (f, a)) (hf : f < 64)
    (hfits : a % 2 ^ 40 + 32 ≤ 2 ^ 40) (hnone : s.instAt f a = none) (hrows : s.rowBad = []) :
    ∃ u, exec (.bacc n orel imm irel z) s = .next u
      ∧ spaRead u f a 32 = ((i.acc.drop (8 * i.octet (orel ++ n))).take 8).flatMap (fun w => natLe 4 w.val.toNat)
      ∧ (∀ x, x < dramKey f a ∨ dramKey f a + 32 ≤ x → memGet u.dram x = memGet s.dram x)
      ∧ BankDone s u r i (Inst.done { i with
        acc := if z = 1#1 then i.acc.mapIdx (fun m w => if m / 8 = i.octet (orel ++ n) then pzero else w) else i.acc } r 2 false 0#5) := by
  obtain ⟨j, hj⟩ : ∃ j : Inst, j = { i with
    acc := if z = 1#1 then i.acc.mapIdx (fun m w => if m / 8 = i.octet (orel ++ n) then pzero else w) else i.acc } := ⟨_, rfl⟩
  obtain ⟨ws, hws⟩ : ∃ ws, ws = (i.acc.drop (8 * i.octet (orel ++ n))).take 8 := ⟨_, rfl⟩
  have hsame : i.SamePlace j := by subst hj; exact ⟨rfl, rfl, rfl, rfl⟩
  have hlen : ws.length = 8 := by rw [hws, octet_words _ hacc (octet_lt i _)]; simp
  have hroom : a % 2 ^ 40 + 4 * ws.length ≤ 2 ^ 40 := by omega
  have hmem : i ∈ s.bank.insts := List.mem_of_find?_eq_some h.inst
  have hfree : (s.setInst j).instAt f a = none := instAt_setInst_none hnone hmem (by subst hj; exact ⟨rfl, rfl, rfl, rfl⟩)
  have hkept := writeWords_kept s r.id f a ws
  have hbytes : (bytesOf ws).length = 32 := by rw [bytesOf_length, hlen]
  rw [← hws] at hclean ⊢
  rw [← hj]
  refine ⟨((s.writeWords r.id f a ws).setInst (j.done r 2 false 0#5)).wordOver, (withInst_next h _).trans ?step, ?read, fun x hx => ?outside,
    bankDone_setInst h hkept (hsame.done ..)⟩
  case step =>
    simp only [if_neg (Nat.not_lt.2 hin), clearOctet_eq]
    rw [← hj, ← hws, runWrite_dram hplace hf hfree hrows, setInst_writeWords, anyPoison_eq_false hclean, opDone_setInst h hkept hsame]
  case read =>
    have := memRead_memWrite_self (memOk_dram hs) (dramKey f a) (bytesOf ws)
    rw [hbytes, ← writeWords_dram s r.id f hroom] at this
    exact this
  case outside => exact writeWords_outside s r.id f hs hroom (by rwa [hlen])

theorem bacc_outRange (hout : r.stride < 32 * (imm.toNat + (if irel = 1#1 then i.i else 0)) + 32) :
    ∃ u, exec (.bacc n orel imm irel z) s = .next u ∧ BankEnds s u r i 0 0x0A :=
  bankEnds_endInst h (if_pos hout)

end Output

/-! ## Loops, yield points and `bend` (R277, R287) -/

/-- How often `bloop` runs its body. -/
def Run.loopCount (r : Run) (pe : BitVec 1) (p : BitVec 4) (cnt : BitVec 10) : Nat := if pe = 1#1 then (r.param p.toNat).val.toNat else cnt.toNat

/-- The instance in the first word of a loop's body. -/
def Inst.enter (i : Inst) (r : Run) (last count : Nat) (bad : Bool) : Inst :=
  { i with
    counter := i.counter + 1
    poison := i.poison || bad
    exceeded := i.exceeded || decide (r.bound < i.counter + 1)
    loops := ⟨i.pc + 1, last, 0, count⟩ :: i.loops
    pc := i.pc + 1 }

/-- `bloop` for its count: too large, none, or into the body. -/
theorem exec_bloop (s : State) (r : Run) (i : Inst) (pe : BitVec 1) (p : BitVec 4) (cnt : BitVec 10) (last : BitVec 6) :
    ∃ act, exec (.bloop pe p cnt last) s = withInst s act ∧ act r i = (
      if 65535 < r.loopCount pe p cnt then s.endInst r i codeBadParam 0
      else if r.loopCount pe p cnt = 0 then s.boundary r (Inst.done { i with pc := last.toNat } r 1 (badParam r pe p) 0#5)
      else s.boundary r (i.enter r last.toNat (r.loopCount pe p cnt) (badParam r pe p))) := by
  refine ⟨_, rfl, ?_⟩
  have hcount : (if pe = 1#1 then r.param p.toNat else clean (cnt.setWidth 32)).val.toNat = r.loopCount pe p cnt := by
    rw [Run.loopCount]
    by_cases hpe : pe = 1#1
    · rw [if_pos hpe, if_pos hpe]
    · rw [if_neg hpe, if_neg hpe]
      exact BitVec.toNat_setWidth_of_le (by decide)
  have hbad : (if pe = 1#1 then r.param p.toNat else clean (cnt.setWidth 32)).poison = badParam r pe p := by
    by_cases hpe : pe = 1#1
    · rw [if_pos hpe, badParam, hpe]; rfl
    · rw [if_neg hpe, badParam, beq_eq_false_iff_ne.2 hpe]; rfl
  simp only [hcount, hbad, Inst.done, BitVec.or_zero]
  rfl

section Control
variable {s : State} {r : Run} {i : Inst} (h : InBank s r i)
include h

theorem bloop_enters {pe : BitVec 1} {p : BitVec 4} {cnt : BitVec 10} {last : BitVec 6} (hpos : 0 < r.loopCount pe p cnt)
    (hmax : r.loopCount pe p cnt ≤ 65535) : ∃ u, exec (.bloop pe p cnt last) s = .next u ∧ u.dram = s.dram
      ∧ BankDone s u r i (i.enter r last.toNat (r.loopCount pe p cnt) (badParam r pe p)) := by
  obtain ⟨act, hexec, hact⟩ := exec_bloop s r i pe p cnt last
  have hplace : i.SamePlace (i.enter r last.toNat (r.loopCount pe p cnt) (badParam r pe p)) := ⟨rfl, rfl, rfl, rfl⟩
  rw [if_neg (by omega), if_neg (by omega)] at hact
  rw [hexec, withInst_next h, hact]
  exact ⟨_, rfl, boundary_dram h hplace, bankDone_boundary h hplace⟩

theorem bloop_passes {pe : BitVec 1} {p : BitVec 4} {cnt : BitVec 10} {last : BitVec 6} (hzero : r.loopCount pe p cnt = 0) :
    ∃ u, exec (.bloop pe p cnt last) s = .next u
      ∧ BankDone s u r i (Inst.done { i with pc := last.toNat } r 1 (badParam r pe p) 0#5) := by
  obtain ⟨act, hexec, hact⟩ := exec_bloop s r i pe p cnt last
  rw [if_neg (by omega), if_pos hzero] at hact
  rw [hexec, withInst_next h, hact]
  exact ⟨_, rfl, bankDone_boundary h ⟨rfl, rfl, rfl, rfl⟩⟩

theorem bloop_badParam {pe : BitVec 1} {p : BitVec 4} {cnt : BitVec 10} {last : BitVec 6} (hmax : 65535 < r.loopCount pe p cnt) :
    ∃ u, exec (.bloop pe p cnt last) s = .next u ∧ BankEnds s u r i 0 0x0B := by
  obtain ⟨act, hexec, hact⟩ := exec_bloop s r i pe p cnt last
  rw [hexec]
  exact bankEnds_endInst h (hact.trans (if_pos hmax))

omit h in
/-- Cycles spent twice are their sum spent once: past the bound the first time, the sum is past it too. -/
theorem yieldPoint_done (i : Inst) (r : Run) : (i.done r 1 false 0#5).yieldPoint r
    = { i.done r (1 + heldCost (i.held.map fun x => (x.row, x.write))) false 0#5 with atYield := !i.held.isEmpty } := by
  have hexceeded : ∀ n, (i.exceeded || decide (r.bound < i.counter + 1) || decide (r.bound < i.counter + (1 + n)))
      = (i.exceeded || decide (r.bound < i.counter + (1 + n))) := fun n => by
    rw [Bool.or_assoc, ← Bool.decide_or]
    exact congrArg (i.exceeded || ·) (decide_eq_decide.2 (by omega))
  simp only [Inst.yieldPoint, Inst.spend, Inst.done, Nat.add_assoc, hexceeded]

theorem byld_yields : ∃ u, exec .byld s = .next u ∧ BankDone s u r i { i.done r (1 + heldCost (i.held.map fun x => (x.row, x.write))) false 0#5 with
    atYield := !i.held.isEmpty } := by
  have hplace : i.SamePlace (i.done r 1 false 0#5) := ⟨rfl, rfl, rfl, rfl⟩
  have hop : s.opDone r i.k 1 false 0#5 = s.setInst (i.done r 1 false 0#5) := opDone_eq h.inst h.calm 1 false 0#5
  have hyield : (s.setInst (i.done r 1 false 0#5)).setInst ((i.done r 1 false 0#5).yieldPoint r) = s.setInst ((i.done r 1 false 0#5).yieldPoint r) :=
    setInst_setInst s rfl rfl
  have hcalm : s.drainedOn (i.done r 1 false 0#5).die = false := calm_of_kept h (.refl s) hplace
  refine ⟨_, withInst_next h _, ?_⟩
  simp only [hop, setInst_inst_self h (.refl s) hplace, hcalm]
  rw [if_neg Bool.false_ne_true, hyield, ← yieldPoint_done]
  exact bankDone_setInst h (.refl s) ⟨rfl, rfl, rfl, rfl⟩

/-! ## The end of an instance (R277, R279) -/

theorem endStep_closes {code k : Nat} (hk : k < 4) (hending : i.ending = some (code, k)) :
    BankDone s (s.endStep i).wordOver r i { closedAt i k with
      counter := i.counter + closingCost (i.slot k)
      exceeded := i.exceeded || decide (r.bound < i.counter + closingCost (i.slot k))
      ending := some (code, k + 1) } := by
  have hrun : s.run i.run = some r := by rw [run_of_inBank h, h.run]
  have hstep : s.endStep i = s.boundary r { (closedAt i k).spend r (closingCost (i.slot k)) with ending := some (code, k + 1) } := by
    simp only [State.endStep, hrun, hending, if_pos hk, close_eq, closeCost_eq]
  rw [hstep]
  exact bankDone_boundary h ⟨rfl, rfl, rfl, rfl⟩

end Control

/-- What the end of an instance makes of one in a bank's list. -/
def Inst.dropped (i x : Inst) : Option Inst :=
  if x.run = i.run ∧ x.k = i.k then
    (if x.held.isEmpty then none
     else some { x with slots := List.replicate 4 .closed, acc := [], loops := [], pre := [], marks := [], ending := none, atYield := false, ended := true })
  else some x

theorem dropInst_insts (s : State) (i : Inst) : (s.dropInst i).bank.insts = s.bank.insts.filterMap i.dropped := rfl

theorem dropped_other {i x : Inst} (h : ¬ (x.run = i.run ∧ x.k = i.k)) : i.dropped x = some x := if_neg h

/-- What stays of the instance itself has ended. -/
theorem dropped_self {i x y : Inst} (h : x.run = i.run ∧ x.k = i.k) (hy : i.dropped x = some y) : y.ended = true := by
  rw [Inst.dropped, if_pos h] at hy
  split at hy
  · cases hy
  · cases hy
    rfl

theorem dropInst_inst_self (s : State) (i : Inst) : (s.dropInst i).inst i.run i.k = none := by
  rw [State.inst, dropInst_insts, List.find?_eq_none]
  intro y hy hlive
  obtain ⟨x, -, hx⟩ := List.mem_filterMap.1 hy
  simp only [Bool.and_eq_true, beq_iff_eq, Bool.not_eq_true'] at hlive
  obtain ⟨⟨hrun, hk⟩, hended⟩ := hlive
  by_cases hself : x.run = i.run ∧ x.k = i.k
  · rw [dropped_self hself hx] at hended
    cases hended
  · rw [dropped_other hself] at hx
    cases hx
    exact hself ⟨hrun, hk⟩

theorem dropInst_inst_ne (s : State) (i : Inst) {run k : Nat} (h : ¬ (run = i.run ∧ k = i.k)) : (s.dropInst i).inst run k = s.inst run k := by
  have htest : (fun x => (i.dropped x).any fun y => y.run == run && y.k == k && !y.ended) = fun x => x.run == run && x.k == k && !x.ended := by
    funext x
    by_cases hself : x.run = i.run ∧ x.k = i.k
    · rw [Bool.eq_false_iff.2 fun hx => other_of_found h hx hself]
      cases hdrop : i.dropped x with
      | none => rfl
      | some y => simp [dropped_self hself hdrop]
    · rw [dropped_other hself, Option.any_some]
  rw [State.inst, dropInst_insts, List.find?_filterMap, htest]
  cases hfind : s.bank.insts.find? fun x => x.run == run && x.k == k && !x.ended with
  | none => rw [State.inst, hfind]; rfl
  | some x =>
    have hx : (x.run == run && x.k == k && !x.ended) = true := by simpa only using List.find?_some hfind
    rw [State.inst, hfind]
    exact dropped_other (other_of_found h hx)

theorem run_setRun_self {s : State} {r q : Run} (h : s.run r.id = some q) : (s.setRun r).run r.id = some r := by
  have := find_put Run.id s.bank.runs r r.id
  rw [if_pos rfl] at this
  simp only [State.run, beq_eq_decide] at h ⊢
  rw [State.setRun, this, h]
  rfl

/-- How an instance without a save record ended. -/
def Inst.endedWith (i : Inst) (code : Nat) : InstEnd := ⟨i.k, BitVec.ofNat 8 code, i.flags, i.counter, i.exceeded, i.poison, none, 0#16⟩

theorem endStep_over {s : State} {r : Run} {i : Inst} (h : InBank s r i) {code : Nat} (hending : i.ending = some (code, 4)) :
    s.endStep i = (s.setRun { r with ends := r.ends ++ [i.endedWith code] }).dropInst i := by
  have hrun : s.run i.run = some r := by rw [run_of_inBank h, h.run]
  simp only [State.endStep, hrun, hending]
  rfl

theorem bankControl : Claim.BankControl := by
  intro n orel irel z pe imm cnt p last s r i h hacc hs
  refine ⟨fun hin hclean f a hplace hf hfits hnone hrows => bacc_writes h hacc hs hin hclean hplace hf hfits hnone hrows, bacc_outRange h,
    bloop_enters h, bloop_passes h, bloop_badParam h, byld_yields h, bankEnds_endInst h rfl,
    fun code _ => ⟨fun k hk => endStep_closes h hk, fun hending => ?_⟩⟩
  rw [endStep_over h hending, ← run_of_inBank h]
  have hold : s.run ({ r with ends := r.ends ++ [i.endedWith code] } : Run).id = some r := h.run
  refine ⟨dropInst_inst_self _ i, fun run k hne => dropInst_inst_ne _ i hne, rfl, rfl, i.endedWith code, ?_, rfl, rfl, rfl, rfl, rfl⟩
  rw [run_of_inBank h]
  exact congrArg (Option.map Run.ends) (run_setRun_self hold)

/-- Settles O32: an elementwise operation writes its column as any column is written, and each word of control replaces its instance. -/
theorem bankComputeResults : Obligations.BankComputeResults := ⟨bankArithmetic, bankControl⟩

end Sys2Proof.Machine
end

section
/-! PROOFS. Migration to the spar cores and back (spec/12 R289 to R295): a group is shipped, waits for a spar core, and comes home with its last quad
(O37). -/
namespace Sys2Proof.Machine

/-! ## Addresses of pairs (R195) -/

theorem pairVal_toNat (G : Group) (l : Nat) (a : BitVec 7) : (pairVal (G.readWords l a.toNat 2)).toNat = G.pair l a := by
  have := ((G.readWords l a.toNat 2).getD 0 pzero).val.isLt
  rw [pairVal, BitVec.toNat_append, ← Nat.shiftLeft_add_eq_or_of_lt this, Nat.shiftLeft_eq, Nat.add_comm, Nat.mul_comm]
  rfl

theorem ea_of_addrIs {G : Group} {sp l ea : Nat} {a : BitVec 7} {disp : Int} (hsp : sp < 2) (h : addrIs G sp a l disp ea) :
    G.ea sp a.toNat l disp = .ea ea := by
  rw [addrIs, if_pos hsp, ← pairVal_toNat] at h
  obtain ⟨hclean, hea⟩ := h
  have hsum : (pairVal (G.readWords l a.toNat 2) + BitVec.ofInt 64 disp).toNat = ea := by
    rw [BitVec.toNat_add, BitVec.toNat_ofInt]
    omega
  simp only [Group.ea, if_pos hsp, hclean, hsum]
  rfl

/-! ## Shipping a group (R290, R291) -/

section SettleOn
variable {s : State} {G H : Group} (m : Mig) (k : Nat)

theorem settleOn_group (hG : s.group G.gctx = some H) :
    (s.settleOn G m k).group G.gctx = some { G with mig := some { m with core := some k } } :=
  group_setGroup_self (G := { G with mig := some { m with core := some k } }) hG

theorem settleOn_group_ne {h : Nat} (hne : h ≠ G.gctx) : (s.settleOn G m k).group h = s.group h :=
  group_setGroup_ne (G := { G with mig := some { m with core := some k } }) hne

end SettleOn

theorem ship_group {s : State} {g : Nat} {G : Group} {st k : Nat} (hG : s.group g = some G)
    (hqueue : (s.bank.arrivals.filter (· != G.uid)).any (s.waitsFor st) = false) (hchoice : s.sparChoice G st = some k) :
    ∃ m, (s.ship G st).group g = some { G with threads := G.threads.map fun t => if t.live then t.redirect else t, mig := some m }
      ∧ (s.ship G st).now = s.now ∧ m.stack = st ∧ m.core = some k ∧ m.flags = 0#5 := by
  obtain rfl := group_gctx hG
  simp only [State.ship, hqueue, Bool.false_eq_true, if_false, hchoice]
  exact ⟨⟨st, some k, s.fpmode G, 0#5, s.readFlags G⟩, settleOn_group (G := { G with threads := _, mig := _ }) _ k hG, rfl, rfl, rfl, rfl⟩

theorem exec_mig {s s1 : State} {c : Cur} {G : Group} {T : Team} {a : BitVec 7} {l va spa : Nat} (h : CmdReady s c G T [(a, 2)] l)
    (hwhole : G.ganged c = true) (hea : addrIs G 1 a l 0 va)
    (hloc : (s.spoil G).locate G .load 1 1 1 (.ea va) = (.at va (.dram (s1.fOf G) spa), s1)) :
    exec (.mig a) s = .next (if (s1.sparShares (s1.fOf G) (spaRow (s1.fOf G) (s1.slice (s1.fOf G)) spa).1.stack).isEmpty then s1.advance c
      else (s1.ship G (spaRow (s1.fOf G) (s1.slice (s1.fOf G)) spa).1.stack).advance c) := by
  refine (teamCollective_ready h.toTeamReady hwhole _).trans ?_
  simp only [h.low, ea_of_addrIs (by decide) hea, hloc, ne_eq, not_true_eq_false, if_false]

theorem mig_ships {s s1 : State} {c : Cur} {G : Group} {a : BitVec 7} {st k : Nat} (hG : s1.group c.gctx = some G)
    (hqueue : (s1.bank.arrivals.filter (· != G.uid)).any (s1.waitsFor st) = false) (hchoice : s1.sparChoice G st = some k)
    (hexec : exec (.mig a) s = .next ((s1.ship G st).advance c)) :
    ∃ t H m, exec (.mig a) s = .next t ∧ t.cur = none ∧ t.group c.gctx = some H ∧ H.mig = some m ∧ m.stack = st ∧ m.core = some k ∧ m.flags = 0#5
      ∧ (∀ i, H.thread i = (G.thread i).map fun th => if th.live then th.redirect else th)
      ∧ ∀ i q, G.seq i = some q → i ∈ c.seqs → q.st = .run → H.seq i = some { q with pc := c.pc + 4#56, ready := s1.now + 1 } := by
  obtain ⟨m, hship, hnow, hstack, hcore, hflags⟩ := ship_group hG hqueue hchoice
  refine ⟨_, _, m, hexec, advance_cur .., advance_group hship, rfl, hstack, hcore, hflags, fun i => List.getElem?_map .., fun i q hq hi hst => ?_⟩
  have hid := seq_id hq
  rw [seq_afterUnit (c := c) (now := (s1.ship G st).now) (by rfl) hq, Seq.afterUnit, hnow,
    if_pos ⟨List.contains_iff_mem.2 (hid ▸ hi), .inl hst⟩, Seq.goto, ← hst]

/-! ## Coming home (R294, R295) -/

section Mret
variable {s : State} {c : Cur} {G : Group} (h : Ready s c G (ctlUnit false []))
include h

theorem mret_home (hmig : G.mig = none) : exec .mret s = .next (s.advance c) := by
  simp only [exec, execMret, withUnit, h.cur, h.group, h.check, hmig]
  rfl

theorem mret_away {m : Mig} (hmig : G.mig = some m) (hk0 : G.k0 c ≠ 0#64) : exec .mret s = .next (
    if c.away then s.holdAt c (c.pc + 4#56) .home else (s.holdAt c (c.pc + 4#56) .home).returnHome c.gctx) := by
  simp only [exec, execMret, withUnit, h.cur, h.group, h.check, hmig]
  rw [if_pos ⟨rfl, hk0⟩]

end Mret

/-- A live quad that is not of the unit and does not wait at an `mret` keeps the group away. -/
theorem hold_not_allHome {G : Group} {c : Cur} {pc : BitVec 56} {now : Nat} {q : Seq} (hq : q ∈ G.seqs) (hlive : q.st ≠ .done) (hid : q.id ∉ c.seqs)
    (hwait : q.wait ≠ .home) : (G.hold c pc .home now).allHome = false := by
  have hkept : q.held c pc .home now = q := if_neg fun hin => hid (List.contains_iff_mem.1 hin.1)
  have hmem : q ∈ (G.hold c pc .home now).liveSeqs :=
    List.mem_filter.2 ⟨List.mem_map.2 ⟨q, hq, hkept⟩, decide_eq_true hlive⟩
  have hall : ((G.hold c pc .home now).liveSeqs.all fun x => decide (x.wait = .home)) = false :=
    List.all_eq_false.2 ⟨q, hmem, by simpa using hwait⟩
  rw [Group.allHome, hall, Bool.and_false]

/-- Where every live quad is of the unit, all of them wait at the `mret` then. -/
theorem hold_allHome {G : Group} {c : Cur} {pc : BitVec 56} {now : Nat} (hmig : G.mig.isSome = true) (hlive : G.liveSeqs ≠ [])
    (hall : ∀ q ∈ G.seqs, q.st ≠ .done → q.id ∈ c.seqs ∧ q.st = .run) : (G.hold c pc .home now).allHome = true := by
  have hheld : ∀ q ∈ G.seqs, q.st ≠ .done → q.held c pc .home now = { q with st := .run, pc := pc, wait := .home, ready := now + 1 } :=
    fun q hq hst => Seq.held_pos pc .home now (hall q hq hst).1 (.inl (hall q hq hst).2)
  have hsome : (G.hold c pc .home now).liveSeqs ≠ [] := by
    obtain ⟨q, hq⟩ := List.exists_mem_of_ne_nil _ hlive
    obtain ⟨hmem, hst⟩ := List.mem_filter.1 hq
    have hst : q.st ≠ .done := by simpa using hst
    refine List.ne_nil_of_mem (List.mem_filter.2 ⟨List.mem_map_of_mem hmem, ?_⟩)
    rw [hheld q hmem hst]
    rfl
  have hwait : ((G.hold c pc .home now).liveSeqs.all fun x => decide (x.wait = .home)) = true := by
    rw [List.all_eq_true]
    intro x hx
    obtain ⟨hmem, hst⟩ := List.mem_filter.1 hx
    obtain ⟨q, hq, rfl⟩ := List.mem_map.1 hmem
    have hst : (q.held c pc .home now).st ≠ .done := by simpa using hst
    have hqst : q.st ≠ .done := fun hdone => hst (by
      rw [Seq.held, if_neg (by simp [hdone])]
      exact hdone)
    rw [hheld q hq hqst]
    rfl
  rw [Group.allHome, hwait, Bool.and_true, Bool.and_eq_true, Bool.not_eq_true', List.isEmpty_eq_false_iff]
  exact ⟨hmig, hsome⟩

theorem setFp_cur (s : State) (G : Group) (x : FpCtx) : (s.setFp G x).cur = s.cur := by
  unfold State.setFp
  split <;> split <;> rfl

theorem setFp_group {s : State} {G : Group} (hG : s.group G.gctx = some G) (x : FpCtx) :
    ∃ y, (s.setFp G x).group G.gctx = some { G with own := y } := by
  unfold State.setFp
  split
  · rw [hG]
    exact ⟨x, group_setGroup_self (G := { G with own := x }) hG⟩
  · split <;> exact ⟨G.own, hG⟩

/-- The flags of a group at home go to its team, or with a handler group to its own context. -/
theorem raiseFlags_home {s : State} {g : Nat} {G : Group} (hG : s.group g = some G) (hmig : G.mig = none) (fl : BitVec 5) :
    (s.raiseFlags g fl).cur = s.cur ∧ ∃ x, (s.raiseFlags g fl).group g = some { G with own := x } := by
  obtain rfl := group_gctx hG
  by_cases hfl : fl = 0#5
  · rw [State.raiseFlags, if_pos hfl]
    exact ⟨rfl, G.own, hG⟩
  · simp only [State.raiseFlags, if_neg hfl, hG, hmig]
    exact ⟨setFp_cur .., hmig ▸ setFp_group hG _⟩

theorem fromHome_id (now : Nat) (q : Seq) : (q.fromHome now).id = q.id := by
  unfold Seq.fromHome; split <;> rfl

theorem comeHome_group {s : State} {g : Nat} {G : Group} {m : Mig} (hG : s.group g = some G) (hmig : G.mig = some m) :
    (s.comeHome g).cur = s.cur ∧ ∃ x, (s.comeHome g).group g = some { G with
      mig := none
      threads := G.threads.map fun t => if t.live then t.redirect else t
      seqs := G.seqs.map (Seq.fromHome s.now)
      own := x } := by
  obtain rfl := group_gctx hG
  simp only [State.comeHome, hG, hmig]
  exact raiseFlags_home (group_setGroup_self (G := { G with
    mig := none
    threads := G.threads.map fun t => if t.live then t.redirect else t
    seqs := G.seqs.map (Seq.fromHome s.now) }) hG) rfl m.flags

section Return
variable {s : State} {c : Cur} {G : Group} (hG : s.group c.gctx = some G) (pc : BitVec 56)
include hG

theorem holdAt_group (w : Wait) : (s.holdAt c pc w).group c.gctx = some (G.hold c pc w s.now) := by
  rw [holdAt_eq hG, group_endUnit]
  exact group_hold hG pc w s.now

theorem returnHome_stays (hnot : (G.hold c pc .home s.now).allHome = false) :
    (s.holdAt c pc .home).returnHome c.gctx = s.holdAt c pc .home := by
  simp only [State.returnHome, holdAt_group hG pc .home]
  split
  · rfl
  · rw [hnot, if_neg Bool.false_ne_true]

theorem returnHome_comes {m : Mig} (hmig : G.mig = some m) (hhome : (G.hold c pc .home s.now).allHome = true) :
    ((s.holdAt c pc .home).returnHome c.gctx).cur = none ∧ ∃ H, ((s.holdAt c pc .home).returnHome c.gctx).group c.gctx = some H ∧ H.mig = none
      ∧ H.seqs = (G.hold c pc .home s.now).seqs.map (Seq.fromHome s.now) := by
  have hheld := holdAt_group hG pc .home
  have hmig : (G.hold c pc .home s.now).mig = some m := hmig
  have hnow : (s.holdAt c pc .home).now = s.now := by rw [holdAt_eq hG]; rfl
  have hcur : (s.holdAt c pc .home).cur = none := by rw [holdAt_eq hG]; rfl
  simp only [State.returnHome, hheld, hmig, hhome, if_true]
  obtain ⟨hkeep, x, hgroup⟩ := comeHome_group (s := (s.holdAt c pc .home).recGroup (G.hold c pc .home s.now) 0x07 0x06
    (G.gctx % 2048 + m.core.getD 0 * 2 ^ 11 + m.stack * 2 ^ 14)) hheld hmig
  exact ⟨hkeep.trans hcur, _, hgroup, rfl, congrArg (fun n => (G.hold c pc .home s.now).seqs.map (Seq.fromHome n)) hnow⟩

end Return

theorem migrateAndReturn : Claim.MigrateAndReturn := by
  intro a s s1 c G
  refine ⟨fun T l va spa h hwhole hea hloc => ?ship, fun h => ⟨mret_home h, fun m q hmig hk0 hq hlive hid hwait => ?stays,
    fun m hmig hk0 haway hlive hall => ?home⟩⟩
  case ship =>
    have hexec := exec_mig h hwhole hea hloc
    refine ⟨fun hnone => ?_, fun k hsome hchoice hqueue hG => ?_⟩
    · rwa [hnone] at hexec
    · rw [if_neg (by simpa using hsome)] at hexec
      exact mig_ships hG hqueue hchoice hexec
  case stays =>
    refine ⟨_, mret_away h hmig hk0, ?_⟩
    rw [returnHome_stays h.group _ (hold_not_allHome hq hlive hid hwait), ite_self]
    exact heldAt_holdAt h.group rfl _ _
  case home =>
    have hhome := hold_allHome (pc := c.pc + 4#56) (now := s.now) (by rw [hmig]; rfl) hlive hall
    obtain ⟨hcur, H, hgroup, hnone, hseqs⟩ := returnHome_comes h.group (c.pc + 4#56) hmig hhome
    refine ⟨_, H, (mret_away h hmig hk0).trans (by rw [haway]; rfl), hcur, hgroup, hnone, fun i q hq hst => ?_⟩
    have hin : q.id ∈ c.seqs := (hall q (List.mem_of_find?_eq_some hq) (by simp [hst])).1
    rw [seq_map (fromHome_id s.now) hseqs, seq_map (G := G) (Seq.held_id c (c.pc + 4#56) .home s.now) rfl, hq, Option.map_some, Option.map_some,
      Seq.held_pos _ _ _ hin (.inl hst), Seq.fromHome, if_pos rfl, ← hst]

/-! ## Arrivals (R290) -/

theorem arrivalResults : Claim.ArrivalResults := by
  intro s g G m hG hmig hcore
  refine ⟨fun k hfirst hchoice => ?taken, fun hwaits => ?waits⟩
  case taken =>
    obtain rfl := group_gctx hG
    refine ⟨_, ?_, settleOn_group (s := { s with bank := { s.bank with arrivals := s.bank.arrivals.filter fun u => u != G.uid } }) m k hG,
      List.filter_congr fun u _ => ?_, fun h hne => settleOn_group_ne m k hne⟩
    · simp only [exec, execMigrationArrival, hG, hmig, hcore, hfirst, hchoice]
      rfl
    · rw [Bool.eq_iff_iff, bne_iff_ne, decide_eq_true_iff]
  case waits =>
    simp only [exec, execMigrationArrival, hG, hmig, hcore]
    rcases hwaits with hnone | hother
    · simp only [hnone, ite_self]
    · rw [if_neg fun hfirst => hother hfirst.2]

/-- Settles O37: the group is shipped or stays, waits away for its last quad and comes home with it; the first of a stack's FIFO is taken. -/
theorem migrationResults : Obligations.MigrationResults := ⟨migrateAndReturn, arrivalResults⟩

end Sys2Proof.Machine
end

section
/-! PROOFS. The pre-check of a bank run reads the run's block like any other access, so a bank that has the block's row open in a slot spends cycles on
it (spec/12 R281, R285, R287). The statement wants the other banks' instances as they were, which refutes it (O50). -/
namespace Sys2Proof.Machine

/-! ## A state in which a run's block lies in the open row of another run's instance -/

/-- One set of tables that serves as both stages: the first 2 MiB map to themselves, readable and writable at every level. -/
def flatTables : Memory := [(0x10000, 0x03#8), (0x10001, 0x10#8), (0x10002, 0x01#8), (0x11000, 0x03#8), (0x11001, 0x20#8), (0x11002, 0x01#8),
  (0x12000, 0x03#8), (0x12001, 0x30#8), (0x12002, 0x01#8), (0x13000, 0x1D#8), (0x20000, 0x01#8), (0x20002, 0x01#8)]

/-- A run that is not checked, with its block at 0x6000. -/
def uncheckedRun : Run := { probeRun 0#32 with va := 0x6000, checked := false }

/-- An instance of another run, started at bank 8 of stack 0, where 0x6000 lies, with the row of that address open. -/
def rowHolder : Inst := { probeInst with run := 1, bank := 8, slots := [.opened 0 false (some 0), .closed, .closed, .closed] }

def openBlockState : State :=
  let x : Slice := { State.reset.slice 0 with valid := true, gran := some 0 :: List.replicate 63 none, s2root := 0x10001#64, asbase := 0x20000#64 }
  { State.reset.setSlice 0 x with
    dram := flatTables
    bank := { State.reset.bank with runs := [uncheckedRun, { probeRun 0#32 with id := 1 }], insts := [rowHolder] } }

/-- The bank cycles that the instances of the next state have spent. -/
def nextCounters : Out → List Nat
  | .next t => t.bank.insts.map (·.counter)
  | _ => []

theorem openBlock_free : openBlockState.precheckHeld uncheckedRun = [] := by decide +kernel

/-- The block's 128 bytes are eight accesses of 16 bytes, each a bank cycle of the instance (R285). -/
theorem precheck_spends : nextCounters (exec (.runPrecheck uncheckedRun.id) openBlockState) = [8] := by decide +kernel

theorem openBlock_counters : (openBlockState.unhold uncheckedRun.holder).bank.insts.map (·.counter) = [0] := by decide +kernel

/-- Refutes O50: the pre-check of a run whose block lies in an open row of another run's instance adds 8 cycles to that instance, where the
statement has the instances of before the pre-check unchanged. -/
theorem not_bankRunSteps : ¬ Obligations.BankRunSteps := by
  intro h
  obtain ⟨hrun, -⟩ := h openBlockState uncheckedRun
  obtain ⟨-, -, hpasses, -⟩ := hrun rfl
  obtain ⟨t, q, is, hexec, -, -, hinsts, -⟩ := hpasses rfl openBlock_free
  have hspent : t.bank.insts.map (·.counter) = [8] := by
    have := precheck_spends
    rwa [hexec] at this
  rw [hinsts, List.map_append, openBlock_counters] at hspent
  exact absurd (List.cons.inj hspent).1 (by decide)

end Sys2Proof.Machine
end

section
/-! PROOFS. Copy and migration engines (spec/14 R322 to R324, R326; spec/15 R345; spec/20 R422): what an engine in FETCH makes of the entry that it reads,
a chunk of a FILL, and the restart of a halted engine (O51). -/
namespace Sys2Proof.Machine

/-! ## Fetching an entry (R323, R345) -/

/-- An engine with a valid entry that it has read: it runs, or waits in DRAIN past its die's drain point. -/
def ChainEng.taking (e : ChainEng) (s : State) (va : Nat) (b : List Byte) : ChainEng :=
  { e with cur := BitVec.ofNat 64 va, head := BitVec.ofNat 64 va, entry := b, off := 0, status := 0#8, st := if s.drainedOn e.base then 6 else 2 }

theorem exec_chainStep {i k : Nat} {x : Instr} (h : chainStep i x k) (s : State) : exec x s = chainFetch k i s := by
  rcases h with ⟨rfl, rfl⟩ | ⟨rfl, rfl⟩ | ⟨rfl, rfl⟩ | ⟨rfl, rfl⟩ | ⟨rfl, rfl⟩ | ⟨rfl, rfl⟩ | ⟨rfl, rfl⟩ | ⟨rfl, rfl⟩ <;> rfl

section Fetch
variable {s : State} {i : Nat} {e : ChainEng} (he : s.eng i = some e) (k : Nat)
include he

theorem chainFetch_stays (h : e.st ≠ 1 ∨ (s.slice e.f).halted = true) : chainFetch k i s = .next s := by
  simp only [chainFetch, he, if_pos h]

section Running
variable (hst : e.st = 1) (hrun : (s.slice e.f).halted = false)
include hst hrun

omit he in
theorem fetches : ¬ (e.st ≠ 1 ∨ (s.slice e.f).halted = true) := by simp [hst, hrun]

theorem chainFetch_waits (hheld : s.rangesHeld e.holder e.view .load (s.fetchRanges e) ≠ []) :
    chainFetch k i s = .next (s.holdReqs e.holder (s.rangesHeld e.holder e.view .load (s.fetchRanges e))) := by
  simp only [chainFetch, he, if_neg (fetches hst hrun), if_pos hheld]

section Reads
variable (hfree : s.rangesHeld e.holder e.view .load (s.fetchRanges e) = []) {a : Option Nat} {s1 : State}
include hfree

theorem chainFetch_unread {n : Nat} (hread : (s.unhold e.holder).fetchEntry e = (a, .error n, s1)) :
    chainFetch k i s = .next (s1.haltEng i (e.unread a) n) := by
  simp only [chainFetch, he, if_neg (fetches hst hrun), hfree, ne_eq, not_true_eq_false, if_false, hread]

variable {b : List Byte} (hread : (s.unhold e.holder).fetchEntry e = (a, .ok b, s1))
include hread

theorem chainFetch_invalid (hbad : entryValid s1 e b = false) : chainFetch k i s = .next (s1.haltEng i (e.taking s1 (a.getD 0) b) 0x60) := by
  simp only [chainFetch, he, if_neg (fetches hst hrun), hfree, ne_eq, not_true_eq_false, if_false, hread, hbad]
  rfl

theorem chainFetch_otherKind (hok : entryValid s1 e b = true) (hkind : fld b 8 1 ≠ k) : chainFetch k i s = .next s := by
  simp only [chainFetch, he, if_neg (fetches hst hrun), hfree, ne_eq, not_true_eq_false, if_false, hread, hok]
  exact if_pos hkind

theorem chainFetch_valid (hok : entryValid s1 e b = true) (hkind : fld b 8 1 = k) : chainFetch k i s
    = if k = 0 then .next ((s1.startChain (e.taking s1 (a.getD 0) b)).postEntry i (e.taking s1 (a.getD 0) b) 0)
      else if ((k = 1 ∨ k = 2) ∧ (geometry b).overlap = true) ∨ (k = 11 ∧ blocksOverlap b = true) then .next (s1.haltEng i (e.taking s1 (a.getD 0) b) 0x61)
      else .next ((s1.startChain (e.taking s1 (a.getD 0) b)).setEng i (e.taking s1 (a.getD 0) b)) := by
  simp only [chainFetch, he, if_neg (fetches hst hrun), hfree, ne_eq, not_true_eq_false, if_false, hread, hok]
  exact if_neg (not_not_intro hkind)

end Reads
end Running
end Fetch

theorem chainFetches : Claim.ChainFetches := by
  intro i s e he x k hx
  simp only [exec_chainStep hx]
  refine ⟨chainFetch_stays he k, chainFetch_waits he k, fun hst hrun hfree a n s1 => chainFetch_unread he k hst hrun hfree,
    fun hst hrun hfree a b s1 hread => ⟨chainFetch_invalid he k hst hrun hfree hread, chainFetch_otherKind he k hst hrun hfree hread,
      fun hok hkind => ?valid⟩⟩
  case valid =>
    rw [chainFetch_valid he k hst hrun hfree hread hok hkind]
    refine ⟨fun hnop => if_pos hnop, fun hover => ?overlap, fun hruns => ?runs⟩
    case overlap => rw [if_neg (by omega), if_pos hover]; rfl
    case runs =>
      have hclear : ¬ (((k = 1 ∨ k = 2) ∧ (geometry b).overlap = true) ∨ (k = 11 ∧ blocksOverlap b = true)) := by
        rintro (⟨hcopy, hover⟩ | ⟨hcopy, hover⟩)
        · simp [hover] at hruns
          omega
        · simp [hover] at hruns
          omega
      rw [if_neg (by omega), if_neg hclear]
      rfl

/-! ## A chunk (R322, R324, R422) -/

/-- A slot starts before a chunk of the engine would end (R324, R422). -/
def State.slotSoon (s : State) (e : ChainEng) : Prop := ∃ x, (s.comingOn e.base).head? = some x ∧ s.startsIn e.base x < e.bound + 235

theorem slotSoon_iff (s : State) (e : ChainEng) :
    ((s.comingOn e.base).head?.any fun x => decide (s.startsIn e.base x < e.bound + 235)) = true ↔ s.slotSoon e := by
  rw [State.slotSoon]
  cases (s.comingOn e.base).head? <;> simp

section Chunk
variable {s : State} {i : Nat} {e : ChainEng} (he : s.eng i = some e)
include he

theorem engineChunk_stays (h : e.st ≠ 2 ∧ e.st ≠ 3 ∨ (s.slice e.f).halted = true ∨ e.st = 2 ∧ (s.drainedOn e.base = true ∨ s.slotSoon e)) :
    exec (.engineChunk i) s = .next s := by
  change execEngineChunk i s = _
  have hpost : ¬ (e.st = 3 ∧ (s.slice e.f).halted = false) := by
    rintro ⟨hst, hrun⟩
    simp [hst, hrun] at h
  simp only [execEngineChunk, he, if_neg hpost]
  refine if_pos ?_
  rw [slotSoon_iff]
  tauto

theorem engineChunk_posts (hst : e.st = 3) (hrun : (s.slice e.f).halted = false) :
    exec (.engineChunk i) s = .next (s.postEntry i e e.status.toNat) := by
  change execEngineChunk i s = _
  simp only [execEngineChunk, he, if_pos (And.intro hst hrun)]

theorem engineChunk_copies (hst : e.st = 2) (hrun : (s.slice e.f).halted = false) (hcalm : s.drainedOn e.base = false) (hsoon : ¬ s.slotSoon e)
    (hid : e.id < 0x200) : exec (.engineChunk i) s = .next (s.copyChunk i e) := by
  change execEngineChunk i s = _
  have hturn : s.inTurn e = true := by simp [State.inTurn, hid]
  simp only [execEngineChunk, he]
  rw [if_neg (by simp [hst]), if_neg (by rw [slotSoon_iff]; simp [hst, hrun, hcalm, hsoon, hturn]), if_pos hid]

theorem retryEng_halted (hst : e.st = 7) :
    s.retryEng i = s.setEng i { e with st := 1, err := 0#8, off := if e.entry = [] then e.off else 0 } := by
  simp only [State.retryEng, he, if_pos hst, List.isEmpty_iff]

theorem skipEng_halted (hst : e.st = 7) : s.skipEng i = s.postEntry i { e with err := 0#8 } 0x62 := by
  simp only [State.skipEng, he, if_pos hst]

theorem retryEng_running (hst : e.st ≠ 7) : s.retryEng i = s := by simp only [State.retryEng, he, if_neg hst]

theorem skipEng_running (hst : e.st ≠ 7) : s.skipEng i = s := by simp only [State.skipEng, he, if_neg hst]

end Chunk

/-! ## A chunk of a FILL (R322) -/

/-- The number of bytes of a row of an entry. -/
def ChainEng.rowLen (e : ChainEng) : Nat := fld e.entry 0x0C 4 + 1

/-- Where the engine goes on reading, or writing, by the entry's field of the first row's address and that of the rows' distance. -/
def ChainEng.place (e : ChainEng) (first distance : Nat) : Nat :=
  (fld e.entry first 8 + e.off / e.rowLen * fld e.entry distance 8) % 2 ^ 64 + e.off % e.rowLen

/-- The number of bytes of a FILL's next chunk: up to the end of its row or of the page. -/
def ChainEng.fillLen (e : ChainEng) : Nat := min (e.rowLen - e.off % e.rowLen) (4096 - e.place 0x18 0x30 % 4096)

/-- The bytes of a FILL's next chunk. -/
def ChainEng.fillBytes (e : ChainEng) : List Byte := (List.range e.fillLen).map fun j =>
  BitVec.ofNat 8 (fld e.entry 0x10 8 / 2 ^ (8 * ((e.off % e.rowLen + j) % 4)))

section Fill
variable {s s1 : State} (i : Nat) {e : ChainEng} (hkind : fld e.entry 8 1 = 3) {ps : Pages}
include hkind

theorem copyChunk_fill_halts {f : Flt} (hpage : s.findPages e.view .store [e.place 0x18 0x30 / 4096] = (ps, some f, s1)) :
    s.copyChunk i e = s1.haltEng i e f.status := by
  rw [ChainEng.place, ChainEng.rowLen] at hpage
  simp only [State.copyChunk, hkind, geometry, Geometry.dstOf, beq_self_eq_true, if_true, hpage]

theorem copyChunk_fill_found (hpage : s.findPages e.view .store [e.place 0x18 0x30 / 4096] = (ps, none, s1)) : s.copyChunk i e
    = if ps.any fun p => s1.revokedLoc p.2 then s1.postEntry i e 0x80
      else if s.portHolds e.f ps then s
      else if s.walksHeld e.holder e.view [e.place 0x10 0x28 / 4096, e.place 0x18 0x30 / 4096] ≠ [] then
        s.holdReqs e.holder (s.walksHeld e.holder e.view [e.place 0x10 0x28 / 4096, e.place 0x18 0x30 / 4096])
      else if s1.reqsHeld e.holder (ps.reqs true (e.place 0x18 0x30) e.fillLen) then s.holdReqs e.holder (ps.reqs true (e.place 0x18 0x30) e.fillLen)
      else
        let u := (s1.writeCuts e.agent e.view.asid ps (e.place 0x18 0x30) e.fillBytes).unhold e.holder
        let d := { e with off := e.off + e.fillLen }
        if d.off = e.rowLen then u.postEntry i d d.status.toNat else u.setEng i d := by
  rw [ChainEng.place, ChainEng.rowLen] at hpage
  simp only [State.copyChunk, hkind, geometry, Geometry.dstOf, Geometry.srcOf, beq_self_eq_true, if_true, hpage, List.nil_append, List.foldl_nil,
    List.isEmpty_nil, List.flatMap_cons, List.flatMap_nil, List.append_nil, show ¬ (3 = 2) by decide, if_false, Nat.one_mul]
  rfl

theorem copyChunk_fill_revoked (hpage : s.findPages e.view .store [e.place 0x18 0x30 / 4096] = (ps, none, s1))
    (hrevoked : ∃ p ∈ ps, s1.revokedLoc p.2 = true) : s.copyChunk i e = s1.postEntry i e 0x80 := by
  rw [copyChunk_fill_found i hkind hpage, if_pos (List.any_eq_true.2 hrevoked)]

theorem copyChunk_fill_writes (hpage : s.findPages e.view .store [e.place 0x18 0x30 / 4096] = (ps, none, s1))
    (hkept : ∀ p ∈ ps, s1.revokedLoc p.2 = false) (hport : s.portHolds e.f ps = false)
    (hwalks : s.walksHeld e.holder e.view [e.place 0x10 0x28 / 4096, e.place 0x18 0x30 / 4096] = [])
    (hreqs : s1.reqsHeld e.holder (ps.reqs true (e.place 0x18 0x30) e.fillLen) = false) : s.copyChunk i e
    = let u := (s1.writeCuts e.agent e.view.asid ps (e.place 0x18 0x30) e.fillBytes).unhold e.holder
      let d := { e with off := e.off + e.fillLen }
      if d.off = e.rowLen then u.postEntry i d d.status.toNat else u.setEng i d := by
  have hnone : ¬ (ps.any fun p => s1.revokedLoc p.2) = true := by simpa using hkept
  rw [copyChunk_fill_found i hkind hpage, if_neg hnone, hport, if_neg Bool.false_ne_true, if_neg (not_not_intro hwalks),
    if_neg (ne_true_of_eq_false hreqs)]

end Fill

theorem chainChunks : Claim.ChainChunks := by
  intro i s e he
  refine ⟨engineChunk_stays he, engineChunk_posts he, fun hst hrun hcalm hsoon hid hkind => ?fill,
    fun hst => ⟨congrArg _ (retryEng_halted he hst), congrArg _ (skipEng_halted he hst)⟩,
    fun hst => ⟨congrArg _ (retryEng_running he hst), congrArg _ (skipEng_running he hst)⟩⟩
  case fill =>
    rw [engineChunk_copies he hst hrun hcalm hsoon hid]
    refine ⟨fun ps f s1 hpage => congrArg _ (copyChunk_fill_halts i hkind hpage), fun ps s1 hpage =>
      ⟨fun hrevoked => congrArg _ (copyChunk_fill_revoked i hkind hpage hrevoked), fun hkept hport hwalks hreqs => ?written⟩⟩
    case written =>
      have hchunk := copyChunk_fill_writes i hkind hpage hkept hport hwalks hreqs
      exact ⟨fun hlast => congrArg _ (hchunk.trans (if_pos hlast)), fun hmore => congrArg _ (hchunk.trans (if_neg hmore))⟩

/-- Settles O51: by the engine's state, the entry that a fetch reads, and the page that a FILL's chunk writes. -/
theorem copyEngineSteps : Obligations.CopyEngineSteps := ⟨chainFetches, chainChunks⟩

end Sys2Proof.Machine
end

section
/-! PROOFS. Completions of engine operations (spec/14 R320, R321): what a completion leaves of the state, and the sequence that it counts up. -/
namespace Sys2Proof.Machine

/-- A part of a state that every step of a fold keeps. -/
theorem foldl_keeps {α β γ : Type} (part : α → γ) {f : α → β → α} (h : ∀ a b, part (f a b) = part a) (bs : List β) (a : α) :
    part (bs.foldl f a) = part a := by
  induction bs generalizing a with
  | nil => rfl
  | cons b bs ih => exact (ih (f a b)).trans (h a b)

/-! ## What has been served (R287) -/

section Unhold
variable (s : State) (who : Holder)

@[simp] theorem unhold_mx : (s.unhold who).mx = s.mx := by unfold State.unhold; split <;> rfl
@[simp] theorem unhold_tcs : (s.unhold who).tcs = s.tcs := by unfold State.unhold; split <;> rfl
@[simp] theorem unhold_areaBytes (p : Nat × Nat) : (s.unhold who).areaBytes p = s.areaBytes p := by unfold State.unhold; split <;> rfl

end Unhold

/-! ## Completions (R320) -/

/-- The group's sequence of a class with one completion counted, where an incomplete copy of poison is to be reported (R318). -/
def Group.counted (G : Group) (cls : Cls) (seq : BitVec 32) (st : Nat) : Group :=
  let H := G.setCls ((G.cls cls).complete seq st) cls
  if decide (cls = .tc) && st == 0x40 then { H with unret := H.unret ++ [seq] } else H

theorem counted_gctx (G : Group) (cls : Cls) (seq : BitVec 32) (st : Nat) : (G.counted cls seq st).gctx = G.gctx := by
  unfold Group.counted
  cases cls <;> dsimp only <;> split <;> rfl

theorem counted_cls (G : Group) (cls : Cls) (seq : BitVec 32) (st : Nat) : (G.counted cls seq st).cls cls = (G.cls cls).complete seq st := by
  unfold Group.counted
  cases cls <;> dsimp only <;> split <;> rfl

section Post
variable (s : State) (eng core f : Nat) (item : EvRecord)

@[simp] theorem postRecord_live : (s.postRecord eng core f item).live = s.live := by unfold State.postRecord; split <;> rfl
@[simp] theorem postRecord_mx : (s.postRecord eng core f item).mx = s.mx := by unfold State.postRecord; split <;> rfl
@[simp] theorem postRecord_tcs : (s.postRecord eng core f item).tcs = s.tcs := by unfold State.postRecord; split <;> rfl

end Post

section Release
variable (s : State) (u : Nat)

@[simp] theorem releaseEnded_mx : (s.releaseEnded u).mx = s.mx := by
  unfold State.releaseEnded
  split
  · rfl
  · split <;> rfl

@[simp] theorem releaseEnded_tcs : (s.releaseEnded u).tcs = s.tcs := by
  unfold State.releaseEnded
  split
  · rfl
  · split <;> rfl

@[simp] theorem releaseEnded_group (g : Nat) : (s.releaseEnded u).group g = s.group g := by
  unfold State.releaseEnded
  split
  · rfl
  · split <;> rfl

end Release

/-- A group's context after the group of a number has been changed in it. -/
theorem withUid_group {s : State} {g uid : Nat} {act : Group → Group} (hact : ∀ G, (act G).gctx = G.gctx) {G : Group} (hG : s.group g = some G)
    (huid : G.uid = uid) : (s.withUid g uid act).group g = some (act G) := by
  have hkept : ((fun G : Group => G.gctx == g) ∘ fun G => if G.gctx = g ∧ G.uid = uid then act G else G) = fun G => G.gctx == g := by
    funext H
    by_cases h : H.gctx = g ∧ H.uid = uid <;> simp [h, hact]
  change (s.live.groups.map _).find? _ = _
  rw [List.find?_map, hkept]
  change (s.group g).map _ = _
  rw [hG, Option.map_some, if_pos ⟨group_gctx hG, huid⟩]

section Complete
variable (s : State) (cls : Cls) (g uid f : Nat) (asid : BitVec 12) (seq : BitVec 32) (st scope tag run : Nat) (post : Bool)

/-- A completion counts the group's number, and posts its record where the command wants one. -/
theorem completeCmd_eq : ∃ ev item, let t := (s.withUid g uid (Group.counted · cls seq st)).recEvent s.coreNo 0x05 0x02 asid.toNat f ev
    s.completeCmd cls g uid f asid seq st scope tag run post = if post then t.postRecord (cls.engine run) s.coreNo f item else t := ⟨_, _, rfl⟩

@[simp] theorem completeCmd_mx : (s.completeCmd cls g uid f asid seq st scope tag run post).mx = s.mx := by
  obtain ⟨ev, item, h⟩ := completeCmd_eq s cls g uid f asid seq st scope tag run post
  rw [h]
  split
  · exact postRecord_mx ..
  · rfl

@[simp] theorem completeCmd_tcs : (s.completeCmd cls g uid f asid seq st scope tag run post).tcs = s.tcs := by
  obtain ⟨ev, item, h⟩ := completeCmd_eq s cls g uid f asid seq st scope tag run post
  rw [h]
  split
  · exact postRecord_tcs ..
  · rfl

theorem completeCmd_group {G : Group} (hG : s.group g = some G) (huid : G.uid = uid) :
    (s.completeCmd cls g uid f asid seq st scope tag run post).group g = some (G.counted cls seq st) := by
  obtain ⟨ev, item, h⟩ := completeCmd_eq s cls g uid f asid seq st scope tag run post
  have hcounted := withUid_group (fun H => counted_gctx H cls seq st) hG huid
  rw [h]
  split
  · rw [State.group, postRecord_live]
    exact hcounted
  · exact hcounted

/-- A completion counts a group's number (R320), also where the operation's place and the use of its team have been given up before. -/
theorem counted_completeCmd {t : State} (hgroup : t.group g = s.group g) (u : Nat) :
    Counted s ((t.completeCmd cls g uid f asid seq st scope tag run post).releaseEnded u) cls g uid seq st := by
  intro G hG huid
  rw [releaseEnded_group, completeCmd_group t cls g uid f asid seq st scope tag run post (hgroup.trans hG) huid, Option.map_some, counted_cls]

end Complete

end Sys2Proof.Machine
end

section
/-! PROOFS. The matrix engine's operations (spec/14 R306, R313, R315, R319 to R321; spec/15 R333, R335 to R340; spec/17 R349): the operation at the head
starts, does its rows and completes (O49). -/
namespace Sys2Proof.Machine

@[simp] theorem settle_ops (m : Matrix) : m.settle.ops = m.ops := by
  unfold Matrix.settle
  split
  · split <;> rfl
  · rfl

/-! ## What an operation comes to as it starts (R333, R335 to R340) -/

/-- The operation at the engine's head after it has started with what its checks give. -/
def State.opBegun (s : State) (o : MxOp) (os : List MxOp) (ecc : Option Nat) : State :=
  opStarted (s.mxBegin o ecc).2.2 o os (s.mxBegin o ecc).1 (s.mxBegin o ecc).2.1 ecc

section Begin
variable {s : State} {o : MxOp} (ecc : Option Nat)

theorem mxBegin_mswap (hcmd : o.cmd = .mswap) :
    s.mxBegin o ecc = (0, [], { s with mx := { s.mx with active := s.mx.shadow, shadow := s.mx.active } }) := by simp only [State.mxBegin, hcmd]

theorem mxBegin_macz (hcmd : o.cmd = .macz) : s.mxBegin o ecc = (0, List.range 256, s) := by simp only [State.mxBegin, hcmd]

/-- An operation that reads scratch, of a team that is no more, ends with 0x60 (R349). -/
theorem mxBegin_noTeam {off f : Nat} {b : List Byte} (hT : s.teamUid o.tuid = none) (hcmd : o.cmd = .mlds off ∨ o.cmd = .mscl off ∨ o.cmd = .mexec f b) :
    s.mxBegin o ecc = (0x60, [], s) := by
  rcases hcmd with hcmd | hcmd | hcmd <;> simp only [State.mxBegin, hcmd, State.startMlds, State.startMscl, State.startMexec, hT]

section Team
variable {T : Team} (hT : s.teamUid o.tuid = some T)
include hT

section Mlds
variable {off : Nat} (hcmd : o.cmd = .mlds off)
include hcmd

theorem mxBegin_mlds_fails (hst : mldsStatus o.recBad o.recBytes off T.scrSize ≠ 0) :
    s.mxBegin o ecc = (mldsStatus o.recBad o.recBytes off T.scrSize, [], s) := by
  simp only [State.mxBegin, hcmd, State.startMlds, hT, if_pos hst]

theorem mxBegin_mlds_loads (hst : mldsStatus o.recBad o.recBytes off T.scrSize = 0) : let r := tileRec o.recBytes
    s.mxBegin o ecc = (0, List.range r.tile1, { s with mx := { s.mx with shadow := ⟨planeFmt r.fmt r.scm, r.fmt, r.tile0, r.tile1, [], []⟩ } }) := by
  simp only [State.mxBegin, hcmd, State.startMlds, hT, if_neg (not_not_intro hst)]

end Mlds

/-- The status of an `mscl` (R336). -/
def State.msclStatus (s : State) (T : Team) (off : Nat) : Nat :=
  if planeScaled s.mx.shadow.code = false then 0x52 else if T.scrSize < off + s.mx.shadow.cols * (s.mx.shadow.depth / 32) then 0x22 else 0

theorem mxBegin_mscl {off : Nat} (hcmd : o.cmd = .mscl off) :
    s.mxBegin o ecc = (s.msclStatus T off, if s.msclStatus T off = 0 then List.range s.mx.shadow.cols else [], s) := by
  simp only [State.mxBegin, hcmd, State.startMscl, hT, State.msclStatus, Bool.not_eq_true']
  split
  · rfl
  · split <;> rfl

section Mexec
variable {f : Nat} {b : List Byte} (hcmd : o.cmd = .mexec f b)
include hcmd

theorem mxBegin_mexec_lost (hlost : s.mx.plost = true) : s.mxBegin o ecc = (0x50, [], { s with mx := { s.mx with plost := false } }) := by
  simp only [State.mxBegin, hcmd, State.startMexec, hT, if_pos hlost]

theorem mxBegin_mexec_fails (hkept : s.mx.plost = false) (hst : s.mexecStatus o T f b ≠ 0) : s.mxBegin o ecc = (s.mexecStatus o T f b, [], s) := by
  simp only [State.mxBegin, hcmd, State.startMexec, hT, if_neg (ne_true_of_eq_false hkept), if_pos hst]

theorem mxBegin_mexec_computes (hkept : s.mx.plost = false) (hst : s.mexecStatus o T f b = 0) :
    s.mxBegin o ecc = (if ecc.isSome then 0x51 else 0, List.range (fld b 0x10 2), s) := by
  simp only [State.mxBegin, hcmd, State.startMexec, hT, if_neg (ne_true_of_eq_false hkept), if_neg (not_not_intro hst)]

end Mexec
end Team
end Begin

/-! ## The start of the operation at the head (R306, R313, R319, R321) -/

theorem exec_matrixOpStart (u : EngineUpset) (s : State) : exec (.matrixOpStart u) s = execMatrixOpStart u s := rfl

section Start
variable {s : State} {o : MxOp} {os : List MxOp} (hops : s.mx.ops = o :: os)
include hops

theorem matrixOpComplete_early (h : o.started = false ∨ o.left ≠ []) : exec .matrixOpComplete s = .next s := by
  change execMatrixOpComplete s = _
  simp only [execMatrixOpComplete, hops]
  refine if_pos ?_
  simpa [List.isEmpty_iff] using h

theorem matrixOpStart_running (hrun : o.started = true) (u : EngineUpset) :
    exec (.matrixOpStart u) s = .next (if o.left.isEmpty then s else s.mxRow o os) := by
  rw [exec_matrixOpStart]
  unfold execMatrixOpStart
  simp only [hops, if_pos hrun]

section Fresh
variable (hnew : o.started = false)
include hnew

theorem matrixOpStart_held (hheld : ∃ h ∈ s.held, h.eng = Cls.mx.engine 0) (u : EngineUpset) : exec (.matrixOpStart u) s = .next s := by
  have hany : (s.held.any fun h => h.eng == Cls.mx.engine 0) = true := by simpa using hheld
  rw [exec_matrixOpStart]
  unfold execMatrixOpStart
  simp only [hops, hnew, hany, if_true, Bool.false_eq_true, if_false]

variable (hfree : ∀ h ∈ s.held, h.eng ≠ Cls.mx.engine 0)
include hfree

/-- The operation starts with no error, or with one of a plane's columns. -/
theorem matrixOpStart_plane {u : EngineUpset} {e : Option Nat} (hu : planeError u e) :
    exec (.matrixOpStart u) s = .next (if (s.slice o.f).halted then opStarted s o os 0x60 [] e else s.opBegun o os e) := by
  have hany : (s.held.any fun h => h.eng == Cls.mx.engine 0) = false := by simpa using hfree
  rw [exec_matrixOpStart]
  unfold execMatrixOpStart
  rcases hu with ⟨rfl, rfl⟩ | ⟨n, rfl, rfl⟩ <;>
    simp only [hops, hnew, hany, Bool.false_eq_true, if_false] <;> split <;> rfl

/-- A residue mismatch is that of an `mexec` that computes: elsewhere it does nothing. -/
theorem matrixOpStart_residue_nothing (h : (s.slice o.f).halted = true ∨ ∀ f b, o.cmd ≠ .mexec f b) (n : Nat) :
    exec (.matrixOpStart (.residue n)) s = exec (.matrixOpStart .clean) s := by
  have hany : (s.held.any fun h => h.eng == Cls.mx.engine 0) = false := by simpa using hfree
  rw [exec_matrixOpStart, exec_matrixOpStart]
  unfold execMatrixOpStart
  rcases h with hhalt | hother
  · simp only [hops, hnew, hany, hhalt, Bool.false_eq_true, if_false, if_true]
    cases o.cmd <;> rfl
  · simp only [hops, hnew, hany, Bool.false_eq_true, if_false]
    cases hcmd : o.cmd
    case mexec f b => exact absurd hcmd (hother f b)
    all_goals rfl

theorem matrixOpStart_residue {f : Nat} {b : List Byte} {rows : List Nat} {t : State} (hrun : (s.slice o.f).halted = false) (hcmd : o.cmd = .mexec f b)
    (hbegin : s.mxBegin o none = (0, rows, t)) (n : Nat) :
    exec (.matrixOpStart (.residue n)) s = .next (opStarted (t.residue n) o os 0 rows none) := by
  have hany : (s.held.any fun h => h.eng == Cls.mx.engine 0) = false := by simpa using hfree
  rw [exec_matrixOpStart]
  unfold execMatrixOpStart
  simp only [opStarted, hops, hnew, hany, hrun, hcmd, hbegin, Bool.false_eq_true, if_false, if_true]

omit hnew hfree in
/-- An error of a slot does nothing where the operation names none. -/
theorem matrixOpStart_accEcc_none (hslot : o.slot = none) (m n : Nat) : exec (.matrixOpStart (.accEcc m n)) s = exec (.matrixOpStart .clean) s := by
  rw [exec_matrixOpStart, exec_matrixOpStart]
  unfold execMatrixOpStart
  simp only [hops, hslot]

/-- An error of the slot that the operation names poisons the word before it starts. -/
theorem matrixOpStart_accEcc_some {k : Nat} (hslot : o.slot = some k) (m n : Nat) : exec (.matrixOpStart (.accEcc m n)) s
    = exec (.matrixOpStart .clean) (s.onTeam o.tuid fun U => U.setAcc k ((U.acc k).spoil (m % 256) (n % 128))) := by
  have hany : (s.held.any fun h => h.eng == Cls.mx.engine 0) = false := by simpa using hfree
  have hops' : (s.onTeam o.tuid fun U => U.setAcc k ((U.acc k).spoil (m % 256) (n % 128))).mx.ops = o :: os := hops
  have hany' : ((s.onTeam o.tuid fun U => U.setAcc k ((U.acc k).spoil (m % 256) (n % 128))).held.any fun h => h.eng == Cls.mx.engine 0) = false := hany
  rw [exec_matrixOpStart, exec_matrixOpStart]
  unfold execMatrixOpStart
  simp only [hops, hops', hnew, hany, hany', hslot, Bool.false_eq_true, if_false]

end Fresh
/-! ## Rows and the completion (R306, R315, R320, R349) -/

theorem matrixOpStart_row (hrun : o.started = true) {m : Nat} {ms : List Nat} (hleft : o.left = m :: ms) (u : EngineUpset) :
    exec (.matrixOpStart u) s = .next (s.mxRow o os) := by
  rw [matrixOpStart_running hops hrun, hleft]
  rfl

theorem matrixOpStart_done (hrun : o.started = true) (hleft : o.left = []) (u : EngineUpset) : exec (.matrixOpStart u) s = .next s := by
  rw [matrixOpStart_running hops hrun, hleft]
  rfl

theorem matrixOpComplete_counts (hrun : o.started = true) (hleft : o.left = []) : ∃ t, exec .matrixOpComplete s = .next t ∧ t.mx.ops = os
    ∧ Counted s t .mx o.gctx o.uid o.seq (if (s.slice o.f).halted then 0x60 else o.status.toNat) := by
  change ∃ t, execMatrixOpComplete s = .next t ∧ _
  simp only [execMatrixOpComplete, hops, hrun, hleft, List.isEmpty_nil, Bool.not_true, Bool.or_false, Bool.false_eq_true, if_false]
  refine ⟨_, rfl, ?_, ?_⟩
  · rw [releaseEnded_mx, completeCmd_mx]
    exact settle_ops _
  · apply counted_completeCmd
    rfl

end Start

section Row
variable {s : State} {o : MxOp} (os : List MxOp) {m : Nat} {ms : List Nat} (hleft : o.left = m :: ms)
include hleft

theorem mxRow_stops (h : (s.slice o.f).halted = true ∨ s.teamUid o.tuid = none) : s.mxRow o os = opOnward s o os [] 0#5 := by
  unfold State.mxRow
  simp only [hleft]
  cases hT : s.teamUid o.tuid with
  | none => rfl
  | some T => exact if_pos (h.resolve_right (by simp [hT]))

variable (hrun : (s.slice o.f).halted = false) {T : Team} (hT : s.teamUid o.tuid = some T)
include hrun hT

theorem mxRow_mlds {off : Nat} (hcmd : o.cmd = .mlds off) : s.mxRow o os = opOnward (s.rowMlds o T off m) o os ms 0#5 := by
  simp only [State.mxRow, opOnward, hleft, hT, hrun, hcmd, Bool.false_eq_true, if_false]

theorem mxRow_mscl {off : Nat} (hcmd : o.cmd = .mscl off) : s.mxRow o os = opOnward (s.rowMscl o T off m) o os ms 0#5 := by
  simp only [State.mxRow, opOnward, hleft, hT, hrun, hcmd, Bool.false_eq_true, if_false]

theorem mxRow_mexec {f : Nat} {b : List Byte} (hcmd : o.cmd = .mexec f b) :
    s.mxRow o os = opOnward (s.rowMexec o T f b m).2 o os ms (s.rowMexec o T f b m).1 := by
  simp only [State.mxRow, opOnward, hleft, hT, hrun, hcmd, Bool.false_eq_true, if_false]

theorem mxRow_macz {n : Nat} (hcmd : o.cmd = .macz) (hslot : o.slot = some n) : s.mxRow o os = opOnward (s.onTeam o.tuid fun U =>
    U.setAcc n { U.acc n with rows := (U.acc n).rows.filter fun p => p.1 != m }) o os ms 0#5 := by
  simp only [State.mxRow, opOnward, hleft, hT, hrun, hcmd, hslot, Bool.false_eq_true, if_false]

end Row

/-! ## The statement -/

section Fresh
variable {s : State} {o : MxOp} {os : List MxOp} (hops : s.mx.ops = o :: os) (hnew : o.started = false)
  (hfree : ∀ h ∈ s.held, h.eng ≠ Cls.mx.engine 0) (hrun : (s.slice o.f).halted = false)
include hops hnew hfree hrun

/-- The operation starts with what its checks come to. -/
theorem matrixOpStart_begins {u : EngineUpset} {e : Option Nat} (hu : planeError u e) {st : Nat} {rows : List Nat} {t : State}
    (hbegin : s.mxBegin o e = (st, rows, t)) : exec (.matrixOpStart u) s = .next (opStarted t o os st rows e) := by
  rw [matrixOpStart_plane hops hnew hfree hu, hrun, if_neg Bool.false_ne_true, State.opBegun, hbegin]

end Fresh

theorem matrixEngineSteps : Claim.MatrixEngineSteps := by
  intro s o os hops
  refine ⟨fun hnew => ⟨matrixOpComplete_early hops (.inl hnew), matrixOpStart_held hops hnew, fun hfree => ?starts⟩,
    fun hrun => ⟨fun m ms hleft => ⟨matrixOpComplete_early hops (.inr (by simp [hleft])), fun u => ?row⟩,
      fun hleft => ⟨matrixOpStart_done hops hrun hleft, matrixOpComplete_counts hops hrun hleft⟩⟩⟩
  case starts =>
    refine ⟨matrixOpStart_residue_nothing hops hnew hfree,
      fun m n => ⟨fun hslot => matrixOpStart_accEcc_none hops hslot m n, fun k hslot => matrixOpStart_accEcc_some hops hnew hfree hslot m n⟩,
      fun u e hu => ⟨fun hhalt => ?halted, fun hrun => ?runs⟩⟩
    case halted => rw [matrixOpStart_plane hops hnew hfree hu, if_pos hhalt]
    case runs =>
      have begins {st : Nat} {rows : List Nat} {t : State} := matrixOpStart_begins hops hnew hfree hrun hu (st := st) (rows := rows) (t := t)
      refine ⟨fun hcmd => begins (mxBegin_mswap e hcmd), fun hcmd => begins (mxBegin_macz e hcmd),
        fun off f b hT hcmd => begins (mxBegin_noTeam e hT hcmd), fun T hT =>
        ⟨fun off hcmd => ⟨fun hst => begins (mxBegin_mlds_fails e hT hcmd hst), fun hst => begins (mxBegin_mlds_loads e hT hcmd hst)⟩,
          fun off hcmd => begins (mxBegin_mscl e hT hcmd), fun f b hcmd => ⟨fun hlost => begins (mxBegin_mexec_lost e hT hcmd hlost),
            fun hkept hst => begins (mxBegin_mexec_fails e hT hcmd hkept hst), fun hkept hst =>
              ⟨begins (mxBegin_mexec_computes e hT hcmd hkept hst),
                matrixOpStart_residue hops hnew hfree hrun hcmd (mxBegin_mexec_computes none hT hcmd hkept hst)⟩⟩⟩⟩
  case row =>
    rw [matrixOpStart_row hops hrun hleft]
    exact ⟨fun hstop => congrArg _ (mxRow_stops os hleft hstop), fun hrun T hT => ⟨fun off hcmd => congrArg _ (mxRow_mlds os hleft hrun hT hcmd),
      fun off hcmd => congrArg _ (mxRow_mscl os hleft hrun hT hcmd), fun f b hcmd => congrArg _ (mxRow_mexec os hleft hrun hT hcmd),
      fun n hcmd hslot => congrArg _ (mxRow_macz os hleft hrun hT hcmd hslot)⟩⟩

end Sys2Proof.Machine
end

section
/-! PROOFS. The matrix engine's owner changes (spec/14 R309 to R311; spec/12 R287): the lease hands over, and a swap stores the planes of the group that
leaves and loads those of the group that comes (O49). -/
namespace Sys2Proof.Machine

/-! ## The lease (R309, R310) -/

theorem bne_eq_decide_ne {α : Type} [BEq α] [LawfulBEq α] [DecidableEq α] (a b : α) : (a != b) = decide (a ≠ b) := by
  rw [Bool.eq_iff_iff, bne_iff_ne, decide_eq_true_iff]

section Lease
variable {s : State}

theorem leaseHandoff_over {x : Nat} (hst : s.mx.st = .owned x) (hops : s.mx.ops = []) (hstay : s.mx.leaving = false)
    (hover : s.leaseOver x = true ∨ s.liveUid x = false) : ∃ t, exec .leaseHandoff s = .next t ∧ t.live = s.live
      ∧ t.mx = { s.mx with st := .swap (some x) (s.liveHead (some x)), fifo := s.mx.fifo.filter fun u => some u != s.liveHead (some x) } := by
  change ∃ t, execLeaseHandoff s = .next t ∧ _
  have hgoes : s.mx.ops.isEmpty = true ∧ ¬ s.mx.leaving = true ∧ (s.leaseOver x = true ∨ ¬ s.liveUid x = true) := by simpa [hops, hstay] using hover
  simp only [execLeaseHandoff, hst, if_pos hgoes]
  split
  · exact ⟨_, rfl, rfl, rfl⟩
  · exact ⟨_, rfl, rfl, rfl⟩

theorem leaseHandoff_stays {x : Nat} (hst : s.mx.st = .owned x)
    (h : s.mx.ops ≠ [] ∨ s.mx.leaving = true ∨ s.leaseOver x = false ∧ s.liveUid x = true) : exec .leaseHandoff s = .next s := by
  change execLeaseHandoff s = _
  simp only [execLeaseHandoff, hst]
  refine if_neg ?_
  rintro ⟨hops, hstay, hover⟩
  rw [List.isEmpty_iff] at hops
  simp_all

theorem leaseHandoff_grants {y : Nat} (hst : s.mx.st = .free) (hhead : s.liveHead none = some y) :
    exec .leaseHandoff s = .next { s with mx := { s.mx with st := .swap none (some y), leaving := false, fifo := s.mx.fifo.filter (· ≠ y) } } := by
  change execLeaseHandoff s = _
  have hfilter : (s.mx.fifo.filter fun u => u != y) = s.mx.fifo.filter (· ≠ y) := List.filter_congr fun u _ => bne_eq_decide_ne ..
  simp only [execLeaseHandoff, hst, hhead, hfilter]

theorem leaseHandoff_idle (h : s.mx.st = .clear ∨ (∃ x y, s.mx.st = .swap x y) ∨ s.mx.st = .free ∧ s.liveHead none = none) :
    exec .leaseHandoff s = .next s := by
  change execLeaseHandoff s = _
  rcases h with hst | ⟨x, y, hst⟩ | ⟨hst, hnone⟩
  · simp only [execLeaseHandoff, hst]
  · simp only [execLeaseHandoff, hst]
  · simp only [execLeaseHandoff, hst, hnone]

end Lease

/-! ## CLEAR (R310) -/

theorem clearComplete_clears {s : State} (hst : s.mx.st = .clear) : ∃ t, exec .clearComplete s = .next t ∧ t.mx.active = Plane.empty
    ∧ t.mx.shadow = Plane.empty ∧ t.mx.plost = false ∧ (∀ y, s.liveHead none = some y → t.mx.st = .swap none (some y))
    ∧ (s.liveHead none = none → t.mx.st = .free) := by
  change ∃ t, execClearComplete s = .next t ∧ _
  simp only [execClearComplete, hst]
  cases s.liveHead none with
  | none => exact ⟨_, rfl, rfl, rfl, rfl, nofun, fun _ => rfl⟩
  | some x => exact ⟨_, rfl, rfl, rfl, rfl, fun y hy => by rw [Option.some.inj hy], nofun⟩

theorem clearComplete_stays {s : State} (hst : s.mx.st ≠ .clear) : exec .clearComplete s = .next s := by
  change execClearComplete s = _
  unfold execClearComplete
  split
  · contradiction
  · rfl

/-! ## The scan out and in (R310, R311) -/

section Scan
variable {s : State}

/-- No bank holds an access of the scan (R287). -/
def State.scanFree (s : State) (x y : Option Nat) : Prop := s.busyBanks = false ∨ s.reqsHeld matrixHolder (s.scanReqs x y) = false

theorem scanFree_iff (s : State) (x y : Option Nat) :
    s.scanFree x y ↔ ¬ (s.busyBanks && s.reqsHeld matrixHolder (s.scanReqs x y)) = true := by
  rw [State.scanFree, Bool.and_eq_true, not_and_or, Bool.not_eq_true, Bool.not_eq_true]

theorem scanComplete_waits {x y : Option Nat} (hst : s.mx.st = .swap x y) (hheld : ¬ s.scanFree x y) :
    exec .scanComplete s = .next (s.holdReqs matrixHolder (s.scanReqs x y)) := by
  change execScanComplete s = _
  rw [scanFree_iff, not_not] at hheld
  simp only [execScanComplete, hst, if_pos hheld]

theorem scanComplete_idle (h : ∀ x y, s.mx.st ≠ .swap x y) : exec .scanComplete s = .next s := by
  change execScanComplete s = _
  unfold execScanComplete
  split
  next x y hst => exact absurd hst (h x y)
  next => rfl

/-- The state after the planes of the outgoing group have been stored. -/
def State.scannedOut (s : State) (x : Option Nat) : State := match x with
  | some u => (s.unhold matrixHolder).scanOut u
  | none => s.unhold matrixHolder

theorem scanComplete_in {x : Option Nat} {y : Nat} (hst : s.mx.st = .swap x (some y)) (hfree : s.scanFree x (some y)) :
    exec .scanComplete s = .next ((s.scannedOut x).scanIn y) := by
  change execScanComplete s = _
  simp only [execScanComplete, hst, if_neg ((scanFree_iff ..).1 hfree)]
  cases x <;> rfl

theorem scanComplete_free {x : Option Nat} (hst : s.mx.st = .swap x none) (hfree : s.scanFree x none) : exec .scanComplete s
    = .next { s.scannedOut x with mx := { (s.scannedOut x).mx with
        st := .free, count := 0, leaving := false, plost := false, active := Plane.empty, shadow := Plane.empty } } := by
  change execScanComplete s = _
  simp only [execScanComplete, hst, if_neg ((scanFree_iff ..).1 hfree)]
  cases x <;> rfl

end Scan

@[simp] theorem noteBad_mx (s : State) (asid : BitVec 12) (f spa : Nat) : (s.noteBad asid f spa).mx = s.mx := by
  unfold State.noteBad
  dsimp only
  split
  · split
    · rfl
    · rfl
  · split <;> rfl

@[simp] theorem noteTag_mx (s : State) (asid : BitVec 12) (f spa : Nat) : (s.noteTag asid f spa).mx = s.mx := by
  unfold State.noteTag
  split
  · exact noteBad_mx ..
  · rfl

@[simp] theorem areaWrite_mx (s : State) (asid : BitVec 12) (p : Nat × Nat) (bs : List Byte) : (s.areaWrite asid p bs).mx = s.mx := by
  have hnoted (is : List Nat) : (is.foldl (fun u i => u.noteTag asid p.1 (p.2 + 256 * i)) s).mx = s.mx :=
    foldl_keeps State.mx (fun t i => noteTag_mx t asid p.1 (p.2 + 256 * i)) is s
  unfold State.areaWrite
  split
  · simp only [spaWrite_mx, hnoted]
  · split <;> rfl

theorem scanOut_mx {s : State} {x : Nat} {a : SaveArea} (ha : s.mx.areas.find? (fun a => a.uid == x) = some a) : ∃ bs, (s.scanOut x).mx
    = { s.mx with areas := s.mx.areas.map fun z => if z.uid = x then
        { a with image := some (s.mx.active, s.mx.shadow), bytes := bs, lost := s.mx.plost } else z } := by
  refine ⟨(s.chooseBytes (4096 * a.locs.length)).1, ?_⟩
  have hpages (f : State → Nat → State) (hf : ∀ t i, (f t i).mx = t.mx) (is : List Nat) :
      (is.foldl f (s.chooseBytes (4096 * a.locs.length)).2).mx = s.mx := foldl_keeps State.mx hf is _
  simp only [State.scanOut, ha]
  rw [hpages _ fun t i => areaWrite_mx ..]

/-- The save area found for a group after it has been replaced. -/
theorem find_area_put {as : List SaveArea} {x : Nat} {a b : SaveArea} (ha : as.find? (fun a => a.uid == x) = some a) (hb : b.uid = x) :
    (as.map fun z => if z.uid = x then b else z).find? (fun a => a.uid == x) = some b := by
  subst hb
  have := find_put SaveArea.uid as b b.uid
  simp only [beq_eq_decide] at ha ⊢
  rw [this, if_pos rfl, ha, Option.map_some]

/-- A group that does not leave the engine keeps it. -/
theorem settle_staying {m : Matrix} (h : m.leaving = false) : m.settle = m := by
  unfold Matrix.settle
  rw [h]
  split <;> rfl

/-- The engine of a group that comes to own it, with zero planes (R310). -/
def State.scanBlank (s : State) (y : Nat) : Matrix :=
  { s.mx with st := .owned y, count := 0, lease := s.leaseOf y, plost := false, active := Plane.empty, shadow := Plane.empty }

/-- No byte of a save area that is in this device's reach has changed since its group's planes were stored in it (R311). -/
def State.areaKept (s : State) (a : SaveArea) : Prop :=
  ∀ i, i < a.locs.length → s.areaBytes (a.locs.getD i (65, 0)) = some ((a.bytes.drop (4096 * i)).take 4096)

section ScanIn
variable {s : State} {y : Nat} {a : SaveArea} (ha : s.mx.areas.find? (fun a => a.uid == y) = some a) (hstay : s.mx.leaving = false)
include ha hstay

theorem scanIn_new (hnew : a.image = none) : (s.scanIn y).mx = s.scanBlank y := by
  simp only [State.scanIn, ha, hnew]
  exact settle_staying hstay

theorem scanIn_image {p : Plane × Plane} (himage : a.image = some p) (hreach : ∀ i, i < a.locs.length → (a.locs.getD i (65, 0)).1 ≠ 65) :
    ∃ as, (s.areaKept a → (s.scanIn y).mx = { s.scanBlank y with active := p.1, shadow := p.2, areas := as, plost := a.lost })
      ∧ (¬ s.areaKept a → (s.scanIn y).mx = { s.scanBlank y with plost := true, areas := as }) := by
  have hgood : ((List.range a.locs.length).all fun i => if (a.locs.getD i (65, 0)).1 = 65 then s.choose.1 % 2 == 1
      else decide (s.areaBytes (a.locs.getD i (65, 0)) = some ((a.bytes.drop (4096 * i)).take 4096))) = true ↔ s.areaKept a := by
    rw [List.all_eq_true]
    refine forall_congr' fun i => ?_
    rw [List.mem_range]
    refine imp_congr_right fun hi => ?_
    rw [if_neg (hreach i hi), decide_eq_true_iff]
  refine ⟨s.mx.areas.map fun z => if z.uid = y then { z with image := none, bytes := [], lost := false } else z, fun hkept => ?_, fun hchanged => ?_⟩
  · simp only [State.scanIn, ha, himage]
    rw [if_pos (hgood.2 hkept)]
    exact settle_staying hstay
  · simp only [State.scanIn, ha, himage]
    rw [if_neg fun h => hchanged (hgood.1 h)]
    exact settle_staying hstay

end ScanIn

theorem matrixHandoff : Claim.MatrixHandoff := by
  intro s s0 freely
  refine ⟨fun x y hst hheld => scanComplete_waits hst hheld, fun x hst hops hstay => ⟨fun hover => ?leaseOver, fun hlease hlive =>
      leaseHandoff_stays hst (.inr (.inr ⟨hlease, hlive⟩))⟩, fun x hst h => leaseHandoff_stays hst (h.imp_right .inl), leaseHandoff_idle,
    fun y => leaseHandoff_grants, fun hst hfree => ?freed, fun x a hst hfree ha => ?stored, fun x y hst hfree => scanComplete_in hst hfree,
    fun y a hst hfree hstay ha hnew => ?new, fun y a p hst hfree hstay ha himage hreach => ?image, clearComplete_clears, clearComplete_stays,
    scanComplete_idle⟩
  case leaseOver =>
    obtain ⟨t, hexec, hlive, hmx⟩ := leaseHandoff_over hst hops hstay hover
    refine ⟨t, hexec, by rw [hmx], ?_, by rw [hmx], by rw [hmx], hlive⟩
    rw [hmx]
    exact List.filter_congr fun u _ => bne_eq_decide_ne ..
  case freed =>
    rw [scanComplete_free hst hfree]
    simp only [State.scannedOut, unhold_mx]
    rfl
  case stored =>
    have ha' : (s.unhold matrixHolder).mx.areas.find? (fun a => a.uid == x) = some a := by rw [unhold_mx]; exact ha
    obtain ⟨bs, hmx⟩ := scanOut_mx ha'
    refine ⟨_, bs, scanComplete_free hst hfree, rfl, rfl, rfl, ?_⟩
    simp only [State.scannedOut, hmx, unhold_mx]
    exact find_area_put ha (by simpa using List.find?_some ha)
  case new =>
    rw [← unhold_mx s matrixHolder] at hstay ha
    refine ⟨_, scanComplete_in hst hfree, ?_⟩
    rw [State.scannedOut, scanIn_new ha hstay hnew]
    exact ⟨rfl, rfl, rfl, rfl, rfl⟩
  case image =>
    rw [← unhold_mx s matrixHolder] at hstay ha
    obtain ⟨as, hkept, hchanged⟩ := scanIn_image ha hstay himage hreach
    have hmx : (s.scannedOut none).scanIn y = (s.unhold matrixHolder).scanIn y := rfl
    refine ⟨_, scanComplete_in hst hfree, ?_⟩
    rw [hmx]
    by_cases h : (s.unhold matrixHolder).areaKept a
    · rw [hkept h]
      exact ⟨rfl, rfl, fun _ => ⟨rfl, rfl, rfl⟩, fun ⟨i, hi, hne⟩ => absurd (h i hi) (by rwa [unhold_areaBytes])⟩
    · rw [hchanged h]
      exact ⟨rfl, rfl, fun hall => absurd (fun i hi => by rw [unhold_areaBytes]; exact hall i hi) h, fun _ => ⟨rfl, rfl, rfl⟩⟩

end Sys2Proof.Machine
end

section
/-! PROOFS. Tile copies and held completion records (spec/14 R317, R318, R320, R321; spec/12 R287; spec/17 R349), and the statement about the engines'
steps (O49). -/
namespace Sys2Proof.Machine

/-! ## A copy starts (R317, R318) -/

theorem tileCopyStart_gone {s : State} {op : Nat} (h : s.tcs.find? (fun x => x.id == op) = none) : exec (.tileCopyStart op) s = .next s := by
  change execTileCopyStart op s = _
  simp only [execTileCopyStart, h]

section Copy
variable {s : State} {o : TcOp} (ho : s.tcs.find? (fun x => x.id == o.id) = some o)
include ho

section Fresh
variable (hnew : o.started = false)
include hnew

theorem tileCopyStart_notNext (h : (∃ x, s.tcs.find? (fun x => !x.started) = some x ∧ x.id ≠ o.id) ∨ 8 ≤ (s.tcs.filter (·.started)).length
    ∨ ∃ h ∈ s.held, h.eng = Cls.tc.engine 0) : exec (.tileCopyStart o.id) s = .next s := by
  change execTileCopyStart o.id s = _
  simp only [execTileCopyStart, ho, hnew, Bool.false_eq_true, if_false]
  refine if_pos (h.imp ?_ (Or.imp_right ?_))
  · rintro ⟨x, hx, hne⟩
    simp [hx, hne]
  · rintro ⟨r, hr, heng⟩
    exact List.any_eq_true.2 ⟨r, hr, by simp [heng]⟩

variable (hfirst : s.tcs.find? (fun x => !x.started) = some o) (hroom : (s.tcs.filter (·.started)).length < 8)
  (hfree : ∀ h ∈ s.held, h.eng ≠ Cls.tc.engine 0)
include hfirst hroom hfree

omit ho hnew in
/-- The oldest waiting copy is taken up while fewer than eight run and no completion record is held at the unit. -/
theorem tileCopy_next : ¬ (((s.tcs.find? fun x => !x.started).any fun x => decide (x.id ≠ o.id)) = true ∨ 8 ≤ (s.tcs.filter (·.started)).length
    ∨ (s.held.any fun h => h.eng == Cls.tc.engine 0) = true) := by
  rintro (hother | hfull | hheld)
  · simp [hfirst] at hother
  · omega
  · obtain ⟨h, hmem, heng⟩ := List.any_eq_true.1 hheld
    exact hfree h hmem (by simpa using heng)

theorem tileCopyStart_stops (h : s.teamUid o.tuid = none ∨ (s.slice o.f).halted = true) :
    exec (.tileCopyStart o.id) s = .next (copyEnded s o 0x60) := by
  change execTileCopyStart o.id s = _
  simp only [execTileCopyStart, ho, hnew, Bool.false_eq_true, if_false, if_neg (tileCopy_next hfirst hroom hfree)]
  cases hT : s.teamUid o.tuid with
  | none => rfl
  | some T =>
    simp only [h.resolve_left (by simp [hT]), if_true]
    rfl

/-- The pages that a tile copy reaches. -/
def TcOp.pageList (o : TcOp) : List Nat := (o.ranges_.flatMap fun p => pageNums p.1 p.2).dedup

section Checked
variable {T : Team} (hT : s.teamUid o.tuid = some T) (hrun : (s.slice o.f).halted = false)
include hT hrun

theorem tileCopyStart_fails (hcheck : o.check T.scrSize ≠ 0) : exec (.tileCopyStart o.id) s = .next (copyEnded s o (o.check T.scrSize)) := by
  change execTileCopyStart o.id s = _
  simp only [execTileCopyStart, ho, hnew, Bool.false_eq_true, if_false, if_neg (tileCopy_next hfirst hroom hfree), hT, hrun]
  exact if_pos hcheck

variable (hcheck : o.check T.scrSize = 0)
include hcheck

theorem tileCopyStart_waits (hwalks : s.walksHeld o.holder o.view o.pageList ≠ []) :
    exec (.tileCopyStart o.id) s = .next (s.holdReqs o.holder (s.walksHeld o.holder o.view o.pageList)) := by
  change execTileCopyStart o.id s = _
  simp only [execTileCopyStart, ho, hnew, Bool.false_eq_true, if_false, if_neg (tileCopy_next hfirst hroom hfree), hT, hrun,
    if_neg (not_not_intro hcheck)]
  exact if_pos hwalks

variable (hwalks : s.walksHeld o.holder o.view o.pageList = []) {ps : Pages} {s0 : State}
include hwalks

theorem tileCopyStart_faults {x : Flt} (hpages : s.findPages o.view (if o.back then .store else .load) o.pageList = (ps, some x, s0)) :
    exec (.tileCopyStart o.id) s = .next (copyEnded (s0.unhold o.holder) o x.status) := by
  rw [TcOp.pageList] at hwalks hpages
  change execTileCopyStart o.id s = _
  simp only [execTileCopyStart, ho, hnew, Bool.false_eq_true, if_false, if_neg (tileCopy_next hfirst hroom hfree), hT, hrun,
    if_neg (not_not_intro hcheck), if_neg (not_not_intro hwalks), hpages]
  rfl

theorem tileCopyStart_lists (hpages : s.findPages o.view (if o.back then .store else .load) o.pageList = (ps, none, s0)) :
    exec (.tileCopyStart o.id) s = .next ((s0.unhold o.holder).setTc { o with
      started := true, pages := ps
      left := List.range ((tileRec o.recBytes).tile1 + if o.back then 0 else (tileRec o.recBytes).scaleRows) }) := by
  rw [TcOp.pageList] at hwalks hpages
  change execTileCopyStart o.id s = _
  simp only [execTileCopyStart, ho, hnew, Bool.false_eq_true, if_false, if_neg (tileCopy_next hfirst hroom hfree), hT, hrun,
    if_neg (not_not_intro hcheck), if_neg (not_not_intro hwalks), hpages]

end Checked
end Fresh

/-! ## A running copy (R317, R349) -/

section Running
variable (hstart : o.started = true)
include hstart

theorem tileCopyStart_empty (hleft : o.left = []) : exec (.tileCopyStart o.id) s = .next s := by
  change execTileCopyStart o.id s = _
  simp only [execTileCopyStart, ho, hstart, hleft, if_true, List.isEmpty_nil]

theorem tileCopyStart_steps (hleft : o.left ≠ []) : exec (.tileCopyStart o.id) s = .next (s.tileRowStep o) := by
  change execTileCopyStart o.id s = _
  simp only [execTileCopyStart, ho, hstart, if_true, List.isEmpty_iff, if_neg hleft]

end Running
end Copy

section Row
variable (s : State) {o : TcOp} (hleft : o.left ≠ [])

/-- The number of the row that a free choice picks. -/
def State.rowPick (s : State) (o : TcOp) : Nat := s.choose.1 % max 1 o.left.length

include hleft

theorem rowPick_some : ∃ m ∈ o.left, o.left[s.rowPick o]? = some m := by
  have hpos := List.length_pos_of_ne_nil hleft
  have hlt : s.rowPick o < o.left.length := by
    have := Nat.mod_lt s.choose.1 (show 0 < max 1 o.left.length by omega)
    rw [State.rowPick]
    omega
  exact ⟨_, List.getElem_mem hlt, List.getElem?_eq_getElem hlt⟩

theorem tileRowStep_stops (h : s.teamUid o.tuid = none ∨ (s.slice o.f).halted = true) : s.tileRowStep o = s.setTc { o with left := [] } := by
  obtain ⟨m, -, hm⟩ := rowPick_some s hleft
  rw [State.rowPick] at hm
  unfold State.tileRowStep
  cases hT : s.teamUid o.tuid with
  | none => simp only [hm]
  | some T => simp only [hm, h.resolve_left (by simp [hT]), if_true]

end Row

section Move
variable {s : State} {o : TcOp} {m : Nat} {T : Team} (hm : o.left[s.rowPick o]? = some m) (hT : s.teamUid o.tuid = some T)
  (hrun : (s.slice o.f).halted = false) (hport : s.portHolds o.f o.pages = false)
include hm hT hrun hport

/-- The requests of a row of a tile copy. -/
def TcOp.rowReqs (o : TcOp) (m : Nat) : List (Nat × Nat × Bool) :=
  Pages.reqs o.pages o.back (o.rowRange (tileRec o.recBytes) m).1 (o.rowRange (tileRec o.recBytes) m).2

theorem tileRowStep_waits (hheld : s.reqsHeld o.holder (o.rowReqs m) = true) : s.tileRowStep o = s.holdReqs o.holder (o.rowReqs m) := by
  rw [State.rowPick] at hm
  rw [TcOp.rowReqs] at hheld
  unfold State.tileRowStep
  simp only [hm, hT, hrun, hport, hheld, Bool.false_eq_true, if_false, if_true]
  rfl

variable (hfree : s.reqsHeld o.holder (o.rowReqs m) = false)
include hfree

theorem tileRowStep_pushes (hback : o.back = true) : s.tileRowStep o
    = ((s.choose.2.unhold o.holder).pushRow o (tileRec o.recBytes) (T.scrBase + o.so) m).setTc { o with left := o.left.filter (· ≠ m) } := by
  rw [State.rowPick] at hm
  rw [TcOp.rowReqs] at hfree
  unfold State.tileRowStep
  simp only [hm, hT, hrun, hport, hfree, Bool.false_eq_true, if_false]
  exact if_pos hback

/-- A row of a copy moved into scratch as far as `on` says. -/
def State.pullInto (s : State) (o : TcOp) (T : Team) (m : Nat) (on : Nat → Bool) : Bool × State :=
  let r := tileRec o.recBytes
  let b := T.scrBase + o.so
  if m < r.tile1 then s.pullRow o r b m on else s.pullScale o r (b + r.tile1 * r.pitch) (m - r.tile1) on

/-- The copy after some of a row's units, or all that were left of them, have been moved. -/
def TcOp.pulled (o : TcOp) (left : List Nat) (half : List (Nat × Nat)) (bad : Bool) : TcOp :=
  { o with left := left, half := half, status := if bad then 0x40#8 else o.status }

/-- The rest of a row whose other units have been moved, or some units of a row, or all of it (R317). -/
theorem tileRowStep_pulls (hback : o.back = false) : ∃ on left half,
    (left = o.left.filter (· ≠ m) ∧ half = o.half ∧ (∀ y, on y = !((o.half.find? fun p => p.1 == m).elim false fun p => bitAt p.2 (y % 512)))
      ∨ left = o.left ∧ (∀ p ∈ o.half, p.1 ≠ m) ∧ ∃ k, half = (m, k) :: o.half ∧ ∀ y, on y = bitAt k (y % 512))
    ∧ s.tileRowStep o = ((s.choose.2.unhold o.holder).pullInto o T m on).2.setTc (o.pulled left half ((s.choose.2.unhold o.holder).pullInto o T m on).1) := by
  rw [State.rowPick] at hm
  rw [TcOp.rowReqs] at hfree
  unfold State.tileRowStep
  simp only [hm, hT, hrun, hport, hfree, Bool.false_eq_true, if_false, if_neg (ne_true_of_eq_false hback)]
  cases hhalf : o.half.find? fun p => p.1 == m with
  | some p =>
    refine ⟨fun y => !bitAt p.2 (y % 512), _, _, .inl ⟨rfl, rfl, fun y => rfl⟩, ?_⟩
    simp only [Option.isNone_some, Bool.and_false, Bool.false_eq_true, if_false]
    rfl
  | none =>
    by_cases hpart : s.choose.1 / max 1 o.left.length % 2 = 1
    · refine ⟨fun y => bitAt (s.choose.1 / max 1 o.left.length / 2) (y % 512), _, _, .inr ⟨rfl, by simpa using hhalf, _, rfl, fun y => rfl⟩, ?_⟩
      simp only [hpart, Option.isNone_none, decide_true, Bool.and_true, if_true, Bool.not_true, Bool.false_or]
      rfl
    · refine ⟨fun _ => true, _, _, .inl ⟨rfl, rfl, fun y => rfl⟩, ?_⟩
      simp only [hpart, Option.isNone_none, decide_false, Bool.and_true, Bool.false_eq_true, if_false, Bool.not_false, Bool.true_or]
      rfl

end Move

/-! ## Completions (R320, R321) -/

theorem tileCopyComplete_counts {s : State} {o : TcOp} (ho : s.tcs.find? (fun x => x.id == o.id && x.started && x.left.isEmpty) = some o) :
    ∃ t, exec (.tileCopyComplete o.id) s = .next t ∧ t.tcs = s.tcs.filter (fun x => x.id ≠ o.id)
      ∧ Counted s t .tc o.gctx o.uid o.seq (if (s.slice o.f).halted then 0x60 else o.status.toNat) := by
  change ∃ t, execTileCopyComplete o.id s = .next t ∧ _
  simp only [execTileCopyComplete, ho]
  refine ⟨_, rfl, ?_, ?_⟩
  · rw [releaseEnded_tcs, completeCmd_tcs]
    exact List.filter_congr fun x _ => bne_eq_decide_ne ..
  · apply counted_completeCmd
    rfl

theorem tileCopyComplete_none {s : State} {op : Nat} (h : s.tcs.find? (fun x => x.id == op && x.started && x.left.isEmpty) = none) :
    exec (.tileCopyComplete op) s = .next s := by
  change execTileCopyComplete op s = _
  simp only [execTileCopyComplete, h]

section Post
variable {s : State} {n : Nat} {h : HeldRec} (hn : s.held[n]? = some h)
include hn

/-- The state after a held record has entered its partition. -/
def State.recordPosted (s : State) (n : Nat) (h : HeldRec) : State :=
  ({ s with held := s.held.eraseIdx n } : State).setPart h.core h.f (s.part h.core h.f ++ [h.item])

/-- The engine holds its completion for a record. -/
def ChainEng.holdsFor (e : ChainEng) (h : HeldRec) : Bool := e.id == h.eng && e.f == h.f && e.st == 4

theorem completionRecordPost_full (hfull : s.partCap h.core ≤ (s.part h.core h.f).length) : exec (.completionRecordPost n) s = .next s := by
  change execCompletionRecordPost n s = _
  simp only [execCompletionRecordPost, hn]
  exact if_pos (.inr hfull)

variable (hfirst : ∀ i g, i < n → s.held[i]? = some g → g.eng ≠ h.eng) (hroom : (s.part h.core h.f).length < s.partCap h.core)
include hfirst hroom

omit hn in
/-- No older record of the engine waits, and the record's partition has room. -/
theorem record_goes : ¬ ((s.held.take n).any (fun g => g.eng == h.eng && (g.f == h.f || decide (0x400 ≤ h.eng))) = true
    ∨ s.partCap h.core ≤ (s.part h.core h.f).length) := by
  rintro (hafter | hfull)
  · obtain ⟨g, hg, heng⟩ := List.any_eq_true.1 hafter
    obtain ⟨i, hi, hgi⟩ := List.mem_take_iff_getElem.1 hg
    refine hfirst i g (by omega) (by rw [List.getElem?_eq_getElem (by omega), hgi]) ?_
    simp only [Bool.and_eq_true, beq_iff_eq] at heng
    exact heng.1
  · omega

theorem completionRecordPost_none (hnone : s.engs.findIdx? (·.holdsFor h) = none) :
    exec (.completionRecordPost n) s = .next (s.recordPosted n h) := by
  change execCompletionRecordPost n s = _
  simp only [ChainEng.holdsFor] at hnone
  simp only [execCompletionRecordPost, hn, if_neg (record_goes hfirst hroom), State.setPart, hnone]
  rfl

theorem completionRecordPost_some {i : Nat} {e : ChainEng} (hsome : s.engs.findIdx? (·.holdsFor h) = some i) (he : s.eng i = some e) :
    exec (.completionRecordPost n) s = .next ((s.recordPosted n h).setEng i e.onward) := by
  change execCompletionRecordPost n s = _
  rw [State.eng] at he
  simp only [ChainEng.holdsFor] at hsome
  simp only [execCompletionRecordPost, hn, if_neg (record_goes hfirst hroom), State.setPart, hsome, State.eng, he]
  rfl

end Post

/-! ## The statement -/

theorem tileCopySteps : Claim.TileCopySteps := by
  intro s o
  refine ⟨fun op => tileCopyStart_gone, fun ho hnew => ⟨tileCopyStart_notNext ho hnew, fun hfirst hroom hfree =>
      ⟨tileCopyStart_stops ho hnew hfirst hroom hfree, fun T hT hrun => ?starts⟩⟩,
    fun ho hstart => ⟨tileCopyStart_empty ho hstart, fun hleft => ⟨fun hstop => ?stops, fun T hT hrun hport => ?moves⟩⟩,
    tileCopyComplete_counts, tileCopyComplete_none, fun n h hn hfirst => ⟨fun hroom => ⟨completionRecordPost_none hn hfirst hroom,
      fun i e => completionRecordPost_some hn hfirst hroom⟩, completionRecordPost_full hn⟩⟩
  case starts =>
    refine ⟨tileCopyStart_fails ho hnew hfirst hroom hfree hT hrun, tileCopyStart_waits ho hnew hfirst hroom hfree hT hrun,
      fun ps e s0 hcheck hwalks hpages => ⟨?_, ?_⟩⟩
    · rintro x rfl
      exact tileCopyStart_faults ho hnew hfirst hroom hfree hT hrun hcheck hwalks hpages
    · rintro rfl
      exact tileCopyStart_lists ho hnew hfirst hroom hfree hT hrun hcheck hwalks hpages
  case stops =>
    rw [tileCopyStart_steps ho hstart hleft, tileRowStep_stops s hleft hstop]
  case moves =>
    obtain ⟨m, hmem, hm⟩ := rowPick_some s hleft
    rw [tileCopyStart_steps ho hstart hleft]
    refine ⟨m, hmem, fun hheld => congrArg _ (tileRowStep_waits hm hT hrun hport hheld),
      fun hfree hback => congrArg _ (tileRowStep_pushes hm hT hrun hport hfree hback), fun hfree hback => ?_⟩
    obtain ⟨on, left, half, hon, hstep⟩ := tileRowStep_pulls hm hT hrun hport hfree hback
    exact ⟨on, left, half, hon, congrArg _ hstep⟩

/-- Settles O49: by the operation at the matrix engine's head, by the engine's state, and by the copy that is named. -/
theorem engineSteps : Obligations.EngineSteps := ⟨matrixEngineSteps, matrixHandoff, tileCopySteps⟩

end Sys2Proof.Machine
end

section
/-! PROOFS. Commands of a group to the engines (spec/14 R308, R316, R320, R329; spec/15 R328): a command that passes its checks goes on with the lowest lane of
k0, and what its acceptance leaves of the group, the team and the clock. -/
namespace Sys2Proof.Machine

/-! ## The checks of a command (R328) -/

theorem cmdUnit_ready {s : State} {c : Cur} {G : Group} {T : Team} {names : List (BitVec 7 × Nat)} {l : Nat} (h : CmdReady s c G T names l)
    (restricted handler : Bool) (k : Cur → Group → Nat → State) : cmdUnit restricted handler names s k = .next (k c G l) := by
  simp only [cmdUnit, withUnit, h.cur, h.group, h.slot, Option.isNone_some, Bool.and_false, Bool.false_eq_true, if_false,
    teamChecks_ready h.toTeamReady, h.low]

theorem teamChecks_unrestricted {s : State} {c : Cur} {G : Group} {u : Unit} (h : Ready s c G u) : teamChecks u false c G = none := by
  have hprefix : u.prefixOk c = true := (check_eq_none_iff.1 h.check).1
  simp [teamChecks, hprefix, h.check]

/-- A command that also a handler group or a migrated group may give. -/
theorem cmdUnit_open {s : State} {c : Cur} {G : Group} {names : List (BitVec 7 × Nat)} {l : Nat} (h : Ready s c G (ctlUnit false names))
    (hlow : lowest (G.k0 c) = some l) {handler : Bool} (hteam : handler = true ∨ ∃ k, G.team = some k) (k : Cur → Group → Nat → State) :
    cmdUnit false handler names s k = .next (k c G l) := by
  have hmay : (!handler && G.team.isNone) = false := by
    rcases hteam with rfl | ⟨k, hk⟩
    · rfl
    · simp [hk]
  simp only [cmdUnit, withUnit, h.cur, h.group, hmay, Bool.false_eq_true, if_false, teamChecks_unrestricted h, hlow]

/-! ## The end of the team's eligibility (R316) -/

section Spoil
variable (s : State) (G : Group)

theorem spoil_eq : ∃ ts ss, s.spoil G = { s with live := { s.live with teams := ts, snaps := ss } } := by
  unfold State.spoil
  split
  · exact endEligible_eq ..
  · exact ⟨s.live.teams, s.live.snaps, rfl⟩

@[simp] theorem spoil_group (g : Nat) : (s.spoil G).group g = s.group g := by obtain ⟨ts, ss, h⟩ := spoil_eq s G; rw [h]; rfl
@[simp] theorem spoil_now : (s.spoil G).now = s.now := by obtain ⟨ts, ss, h⟩ := spoil_eq s G; rw [h]; rfl
@[simp] theorem spoil_cur : (s.spoil G).cur = s.cur := by obtain ⟨ts, ss, h⟩ := spoil_eq s G; rw [h]
@[simp] theorem spoil_mx : (s.spoil G).mx = s.mx := by obtain ⟨ts, ss, h⟩ := spoil_eq s G; rw [h]
@[simp] theorem spoil_tcs : (s.spoil G).tcs = s.tcs := by obtain ⟨ts, ss, h⟩ := spoil_eq s G; rw [h]
@[simp] theorem spoil_bank : (s.spoil G).bank = s.bank := by obtain ⟨ts, ss, h⟩ := spoil_eq s G; rw [h]
@[simp] theorem spoil_dram : (s.spoil G).dram = s.dram := by obtain ⟨ts, ss, h⟩ := spoil_eq s G; rw [h]
@[simp] theorem spoil_scr : (s.spoil G).scr = s.scr := by obtain ⟨ts, ss, h⟩ := spoil_eq s G; rw [h]

theorem spoil_team {G : Group} {k : Nat} {T : Team} (hG : G.team = some k) (hT : s.team k = some T) :
    (s.spoil G).team k = some { T with eligible := false, journal := [] } := by
  rw [State.spoil, hG]
  exact endEligible_team hT

end Spoil

/-! ## The end of a unit, and waits -/

section End
variable (s : State) (c : Cur)

@[simp] theorem advance_mx : (s.advance c).mx = s.mx := by unfold State.advance; split <;> rfl
@[simp] theorem advance_tcs : (s.advance c).tcs = s.tcs := by unfold State.advance; split <;> rfl
@[simp] theorem advance_bank : (s.advance c).bank = s.bank := by unfold State.advance; split <;> rfl

@[simp] theorem retryUnit_cur (w : Wait) : (s.retryUnit c w).cur = none := by unfold State.retryUnit State.holdAt; split <;> rfl
@[simp] theorem retryUnit_mx (w : Wait) : (s.retryUnit c w).mx = s.mx := by unfold State.retryUnit State.holdAt; split <;> rfl
@[simp] theorem retryUnit_tcs (w : Wait) : (s.retryUnit c w).tcs = s.tcs := by unfold State.retryUnit State.holdAt; split <;> rfl

end End

/-! ## A number of a class (R320, R329) -/

section Issue
variable {s : State} {G : Group} (cls : Cls) (scope : Nat)

@[simp] theorem issueCmd_seq : (s.issueCmd G cls scope).1 = (G.cls cls).issued + 1#32 := by unfold State.issueCmd; split <;> rfl
@[simp] theorem issueCmd_mx : (s.issueCmd G cls scope).2.mx = s.mx := by unfold State.issueCmd; split <;> rfl
@[simp] theorem issueCmd_tcs : (s.issueCmd G cls scope).2.tcs = s.tcs := by unfold State.issueCmd; split <;> rfl
@[simp] theorem issueCmd_bank : (s.issueCmd G cls scope).2.bank = s.bank := by unfold State.issueCmd; split <;> rfl
@[simp] theorem issueCmd_dram : (s.issueCmd G cls scope).2.dram = s.dram := by unfold State.issueCmd; split <;> rfl
@[simp] theorem issueCmd_scr : (s.issueCmd G cls scope).2.scr = s.scr := by unfold State.issueCmd; split <;> rfl
@[simp] theorem issueCmd_now : (s.issueCmd G cls scope).2.now = s.now := by unfold State.issueCmd; split <;> rfl
@[simp] theorem issueCmd_team (k : Nat) : (s.issueCmd G cls scope).2.team k = s.team k := by unfold State.issueCmd; split <;> rfl
@[simp] theorem issueCmd_share (i : Nat) : (s.issueCmd G cls scope).2.share i = s.share i := by unfold State.issueCmd; split <;> rfl
@[simp] theorem issueCmd_shadow : (s.issueCmd G cls scope).2.shadow = s.shadow := by unfold State.issueCmd; split <;> rfl

/-- A group that has issued a command of a class. -/
def Group.issuedOne (G : Group) (cls : Cls) : Group := G.setCls (G.cls cls).issue cls

theorem issuedOne_gctx : (G.issuedOne cls).gctx = G.gctx := by cases cls <;> rfl
theorem issuedOne_uid : (G.issuedOne cls).uid = G.uid := by cases cls <;> rfl
theorem issuedOne_share : (G.issuedOne cls).share = G.share := by cases cls <;> rfl
theorem issuedOne_seq (i : Nat) : (G.issuedOne cls).seq i = G.seq i := by cases cls <;> rfl
theorem issuedOne_cls : (G.issuedOne cls).cls cls = (G.cls cls).issue := by cases cls <;> rfl

theorem issueCmd_live (hG : s.group G.gctx = some G) : (s.issueCmd G cls scope).2.live = (s.setGroup (G.issuedOne cls)).live := by
  unfold State.issueCmd
  rw [hG]
  rfl

theorem issueCmd_group (hG : s.group G.gctx = some G) : (s.issueCmd G cls scope).2.group G.gctx = some (G.issuedOne cls) := by
  rw [State.group, issueCmd_live cls scope hG]
  have hself := group_setGroup_self (s := s) (G := G.issuedOne cls) (H := G) (by rw [issuedOne_gctx]; exact hG)
  rwa [issuedOne_gctx] at hself

end Issue

/-- What a command that has been accepted leaves of the group, the team and the clock (R316, R320). -/
theorem issued_of {s u : State} {c : Cur} {G : Group} {T U : Team} {cls : Cls} (hslot : G.team = some T.slot)
    (hgroup : u.group c.gctx = some (G.issuedOne cls)) (hteam : u.team T.slot = some U) (hnow : u.now = s.now) :
    Issued s ((u.spoil G).advance c) c G T cls := by
  have hafter : ((u.spoil G).advance c).group c.gctx
      = some { G.issuedOne cls with seqs := (G.issuedOne cls).seqs.map (Seq.afterUnit c s.now) } := by
    rw [advance_group ((spoil_group u G _).trans hgroup), spoil_now, hnow]
  have hcls : ({ G.issuedOne cls with seqs := (G.issuedOne cls).seqs.map (Seq.afterUnit c s.now) } : Group).cls cls = (G.cls cls).issue := by
    cases cls <;> rfl
  refine ⟨advance_cur .., ?_, ?_, fun i q hq hi hst => ?_, ?_⟩
  · rw [hafter, Option.map_some, hcls]; rfl
  · rw [hafter, Option.map_some, hcls]; rfl
  · rw [hafter, Option.bind_some, seq_afterUnit (c := c) (now := s.now) rfl ((issuedOne_seq cls i).trans hq), Seq.afterUnit,
      if_pos ⟨List.contains_iff_mem.2 (seq_id hq ▸ hi), .inl hst⟩, Seq.goto, ← hst]
  · rw [advance_team, spoil_team u hslot hteam]; rfl

end Sys2Proof.Machine
end

section
/-! PROOFS. Matrix operations are accepted into the engine's queue (spec/14 R306 to R310, R312, R316; spec/15 R329, R333, R335 to R340) (O34). -/
namespace Sys2Proof.Machine

/-! ## A matrix operation of the owner, of a group that waits, and of another group (R308 to R310) -/

section MxUnit
variable {s : State} {c : Cur} {G : Group} {T : Team} {names : List (BitVec 7 × Nat)} {l : Nat} (h : CmdReady s c G T names l)
  (k : Cur → Group → Team → Nat → State)

theorem area_any (s : State) (G : Group) : (s.mx.areas.any fun x => x.uid == G.uid) = true ↔ ∃ x ∈ s.mx.areas, x.uid = G.uid := by
  simp only [List.any_eq_true, beq_iff_eq]

theorem take_go (hown : ownsMatrix s G) : s.take G = .go := by
  obtain ⟨harea, hst, hstay, hlease⟩ := hown
  rw [State.take, (area_any s G).2 harea, if_neg (by decide), if_pos ⟨hst, by simp [hstay], by simp [hlease]⟩]

theorem take_trap (hnone : ∀ x ∈ s.mx.areas, x.uid ≠ G.uid) : s.take G = .trap := by
  have harea : (s.mx.areas.any fun x => x.uid == G.uid) = false := Bool.eq_false_iff.2 fun h =>
    let ⟨x, hx, huid⟩ := (area_any s G).1 h
    hnone x hx huid
  rw [State.take, harea]
  rfl

theorem take_ask (harea : ∃ x ∈ s.mx.areas, x.uid = G.uid) (hother : s.mx.st ≠ .owned G.uid ∨ s.mx.leaving = true ∨ s.leaseOver G.uid = true) :
    s.take G = .ask := by
  rw [State.take, (area_any s G).2 harea, if_neg (by decide), if_neg]
  rintro ⟨hst, hstay, hlease⟩
  rcases hother with hne | hleaving | hover
  · exact hne hst
  · exact hstay hleaving
  · exact hlease hover

include h

theorem mxUnit_go (hown : ownsMatrix s G) : mxUnit names s k = .next (k c G T l) := by
  rw [mxUnit, cmdUnit_ready h]
  simp only [teamOf_ready h.toTeamReady, take_go hown]

theorem mxUnit_trap (hnone : ∀ x ∈ s.mx.areas, x.uid ≠ G.uid) : mxUnit names s k = .next (s.trapEach G c 0x17#8 0 c.unitPc) := by
  rw [mxUnit, cmdUnit_ready h]
  simp only [teamOf_ready h.toTeamReady, take_trap hnone]

theorem mxUnit_ask (harea : ∃ x ∈ s.mx.areas, x.uid = G.uid) (hother : s.mx.st ≠ .owned G.uid ∨ s.mx.leaving = true ∨ s.leaseOver G.uid = true) :
    mxUnit names s k = .next ((s.mxAsk c G).retryUnit c .engine) := by
  rw [mxUnit, cmdUnit_ready h]
  simp only [teamOf_ready h.toTeamReady, take_ask harea hother]

end MxUnit

/-! ## Operands of a command -/

theorem recordThen_free {s : State} {G : Group} {va : Nat} (h : s.recordHolds G va = []) (c : Cur) (go : State) : s.recordThen c G va go = go := by
  rw [State.recordThen, h]

theorem cleanIn_one {G : Group} {l : Nat} {a : BitVec 7} (h : cleanIn G l a 1) : (G.readWord l a.toNat).poison = false := by
  rw [cleanIn, readWords_one] at h
  simpa [anyPoison] using h

/-- The address of a scratch operand. -/
theorem ea_scratch {G : Group} {l ea : Nat} {a : BitVec 7} (h : addrIs G 2 a l 0 ea) : G.ea 2 a.toNat l 0 = .ea ea := by
  obtain ⟨hclean, hea, hlt⟩ := h
  rw [Group.val] at hea
  have hrange : 0 ≤ (ea : Int) ∧ (ea : Int) < 2 ^ 32 := by omega
  simp only [Group.ea, show ¬ (2 < 2) by decide, if_false, hclean, Bool.false_eq_true, ← hea, if_pos hrange, Int.toNat_natCast]

/-! ## Slots (R307, R337, R340) -/

section Slot
variable {s : State} {G : Group} {T : Team} {n : Nat} (c : Cur) (k : State)

theorem slotThen_open (h : slotOpen s G T n) : s.slotThen c G T n k = k := by
  obtain ⟨hstay, hmine⟩ := h
  have hother : (T.acc n).other G.uid = false := by
    rcases hmine with hmine | ⟨hnone, -⟩
    · simp [AccSlot.other, hmine]
    · simp [AccSlot.other, hnone]
  have hroom : ((T.acc n).holder.isNone && decide (8 ≤ s.accsHeld)) = false := by
    rcases hmine with hmine | ⟨-, hfew⟩
    · simp [hmine]
    · simp [hfew]
  simp only [State.slotThen, hother, hstay, hroom, Bool.false_eq_true, if_false]

theorem slotThen_conflict (h : (T.acc n).other G.uid = true) : s.slotThen c G T n k = s.trapEach G c 0x16#8 0 c.unitPc := by
  simp only [State.slotThen, h, if_true]

end Slot

/-! ## The operations -/

/-- The shape of the shadow plane as it will stand after the operations that have been accepted (R336). -/
def State.shadowAfter (s : State) (T : Team) : Option Nat × Nat × Nat :=
  (shapesAfter T.scrSize s.mx.ops ((s.mx.active.fmt, s.mx.active.depth, s.mx.active.cols), (s.mx.shadow.fmt, s.mx.shadow.depth, s.mx.shadow.cols))).2

/-- The ranges of scratch that an `mexec` reads by its block and its record (R338). -/
def mexecRanges (T : Team) (f : Nat) (b : List Byte) (bad : BitVec 8) (r : TileRec) : List (Nat × Nat × Bool) :=
  if bad ≠ 0#8 then []
  else (T.scrBase + fld b 0x08 4, T.scrBase + fld b 0x08 4 + fld b 0x10 2 * r.pitch, false) :: (if planeScaled f then
    [(T.scrBase + fld b 0x0C 4, T.scrBase + fld b 0x0C 4 + fld b 0x10 2 * (r.tile0 / 32), false)] else [])

section Operations
variable {a : BitVec 7} {s : State} {c : Cur} {G : Group} {T : Team} {l : Nat} (hown : ownsMatrix s G)
include hown

theorem mlds_issues {o : BitVec 14} {s1 : State} {bad : BitVec 8} {bs : List Byte} (h : CmdReady s c G T [(a, 2)] l) (hclean : cleanIn G l a 2)
    (hheld : s.recordHolds G (G.pair l a) = []) (hrec : s.recordAt G (s.laneAgent G l).id (G.pair l a) = (bad, bs, s1)) :
    exec (.mlds a o) s = .next (s1.mxIssue c G T (.mlds (64 * o.toNat)) none bad bs (if bad = 0#8 then
      [(T.scrBase + 64 * o.toNat, T.scrBase + 64 * o.toNat + (tileRec bs).tile1 * (tileRec bs).pitch, false)] else [])) := by
  rw [cleanIn] at hclean
  refine (mxUnit_go h _ hown).trans ?_
  simp only [hclean, Bool.false_eq_true, if_false, pairVal_toNat, hrec, recordThen_free hheld, Nat.mul_comm o.toNat 64]

theorem mscl_issues (h : CmdReady s c G T [(a, 1)] l) (hclean : cleanIn G l a 1) :
    exec (.mscl a) s = .next (s.mxIssue c G T (.mscl (G.val l a).toNat) none 0#8 [] [(T.scrBase + (G.val l a).toNat,
      T.scrBase + (G.val l a).toNat + (s.shadowAfter T).2.2 * ((s.shadowAfter T).2.1 / 32), false)]) :=
  (mxUnit_go h _ hown).trans (congrArg _ (if_neg (ne_true_of_eq_false (cleanIn_one hclean))))

theorem mexec_issues {f : BitVec 3} {ea : Nat} {p : Loc} {b : List Byte} {bp : Bool} {s1 s2 s3 : State} {bad : BitVec 8} {bs : List Byte}
    (h : CmdReady s c G T [(a, 1)] l) (hea : addrIs G 2 a l 0 ea) (hloc : s.locate G .load 2 64 64 (.ea ea) = (.at ea p, s1))
    (hwait : s1.accessWaits c G .load 64 [(l, .at ea p)] = none) (hread : s1.readLoc [(s1.laneAgent G l).id] p ea 64 = (b, bp, s2))
    (hheld : s2.recordHolds G (fld b 0 8) = []) (hrec : s2.recordAt G (s.laneAgent G l).id (fld b 0 8) = (bad, bs, s3))
    (hopen : slotOpen s2 G T (fld b 0x13 1 % 8)) : exec (.mexec f a) s
      = .next (s3.mxIssue c G T (.mexec f.toNat b) (some (fld b 0x13 1 % 8)) bad bs (mexecRanges T f.toNat b bad (tileRec bs))) := by
  refine (mxUnit_go h _ hown).trans ?_
  simp only [ea_scratch hea, hloc, hwait, hread, hrec, slotThen_open c _ hopen, recordThen_free hheld]
  rfl

theorem macz_issues {n : BitVec 3} (h : CmdReady s c G T [] l) (hopen : slotOpen s G T n.toNat) :
    exec (.macz n) s = .next (s.mxIssue c G T .macz (some n.toNat) 0#8 [] []) :=
  (mxUnit_go h _ hown).trans (congrArg _ (slotThen_open c _ hopen))

theorem macz_conflicts {n : BitVec 3} (h : CmdReady s c G T [] l) (hother : (T.acc n.toNat).other G.uid = true) :
    exec (.macz n) s = .next (s.trapEach G c 0x16#8 0 c.unitPc) :=
  (mxUnit_go h _ hown).trans (congrArg _ (slotThen_conflict c _ hother))

end Operations

theorem matrixOperations : Claim.MatrixOperations := by
  intro a o f n s s1 s2 c G T l ea p b bp s3 bad bs hown
  refine ⟨fun h => mxUnit_go h _ hown, mlds_issues hown, fun h hclean => ⟨_, mscl_issues hown h hclean, fun hempty => ?shape⟩,
    fun h => ⟨macz_issues hown h, macz_conflicts hown h⟩,
    fun h hea hloc hwait hread hheld hrec hopen => ⟨_, mexec_issues hown h hea hloc hwait hread hheld hrec hopen, fun hgood => ?range⟩⟩
  case shape => rw [State.shadowAfter, hempty]; rfl
  case range => rw [mexecRanges, if_neg (not_not_intro hgood)]; exact List.mem_cons_self

/-! ## What the acceptance leaves (R306, R309, R312, R316) -/

/-- The use of a slot by one operation more of a group. -/
def Team.useSlot (T : Team) (uid n : Nat) : Team := T.setAcc n { T.acc n with holder := some uid, users := (T.acc n).users + 1 }

theorem useSlot_acc {T : Team} {uid n : Nat} (hn : n < T.accs.length) :
    (T.useSlot uid n).acc n = { T.acc n with holder := some uid, users := (T.acc n).users + 1 } := by
  simp [Team.useSlot, Team.setAcc, Team.acc, hn]

/-- A team's slot after teams of a number have been changed. -/
theorem onTeam_team {s : State} {k : Nat} {T : Team} (hT : s.team k = some T) {act : Team → Team} (hact : ∀ U, (act U).slot = U.slot) :
    (s.onTeam T.uid act).team k = some (act T) := by
  have hkept : ((fun U : Team => U.slot == k) ∘ fun U => if U.uid = T.uid then act U else U) = fun U => U.slot == k := by
    funext U
    by_cases h : U.uid = T.uid <;> simp [h, hact]
  change (s.live.teams.map _).find? _ = _
  rw [List.find?_map, hkept]
  change (s.team k).map _ = _
  rw [hT, Option.map_some, if_pos rfl]

/-- The group that a number finds is of the same share after the group of a context has been replaced by one of its number and share. -/
theorem find_uid_share {gs : List Group} {G H : Group} (hG : gs.find? (fun K => K.gctx == G.gctx) = some G) (hgctx : H.gctx = G.gctx)
    (huid : H.uid = G.uid) (hshare : H.share = G.share) :
    ((putGroup gs H).find? fun K => K.uid == G.uid).map (·.share) = (gs.find? fun K => K.uid == G.uid).map (·.share) := by
  induction gs with
  | nil => rfl
  | cons K gs ih =>
    rw [putGroup, List.map_cons, hgctx]
    by_cases hK : K.gctx = G.gctx
    · obtain rfl : K = G := by simpa [hK] using hG
      simp [huid, hshare]
    · have htail : gs.find? (fun K => K.gctx == G.gctx) = some G := by simpa [hK] using hG
      have ih := ih htail
      rw [putGroup, hgctx] at ih
      rw [if_neg hK, List.find?_cons, List.find?_cons]
      split
      · rfl
      · exact ih

/-- The share of the group that a number finds in a state. -/
theorem byUid_share_issueCmd {s : State} {G : Group} (cls : Cls) (scope : Nat) (hG : s.group G.gctx = some G) :
    ((s.issueCmd G cls scope).2.byUid G.uid).map (·.share) = (s.byUid G.uid).map (·.share) := by
  have hlive := find_uid_share hG (issuedOne_gctx cls) (issuedOne_uid cls) (issuedOne_share cls)
  rw [State.byUid, State.byUid, issueCmd_live cls scope hG, issueCmd_shadow, State.setGroup_live]
  dsimp only
  revert hlive
  cases s.live.groups.find? fun K => K.uid == G.uid with
  | none => intro hlive; rw [Option.map_none, Option.map_eq_none_iff] at hlive; rw [hlive]
  | some K =>
    intro hlive
    obtain ⟨J, hJ, hshare⟩ := Option.map_eq_some_iff.1 hlive
    rw [hJ]
    exact congrArg some hshare

theorem leaseOf_eq (s : State) (u : Nat) : s.leaseOf u = (((s.byUid u).map (·.share)).bind s.share).elim 64 (·.lease) := by
  unfold State.leaseOf
  cases s.byUid u with
  | none => rfl
  | some G => cases hshare : s.share G.share <;> simp [hshare]

theorem leaseOf_issueCmd {s : State} {G : Group} (cls : Cls) (scope : Nat) (hG : s.group G.gctx = some G) :
    (s.issueCmd G cls scope).2.leaseOf G.uid = s.leaseOf G.uid := by
  have hshares : (s.issueCmd G cls scope).2.share = s.share := funext fun i => issueCmd_share cls scope i
  rw [leaseOf_eq, leaseOf_eq, byUid_share_issueCmd cls scope hG, hshares]

section MxIssue
variable (s : State) (c : Cur) (G : Group) (T : Team) (cmd : MxCmd) (slot : Option Nat) (bad : BitVec 8) (bs : List Byte) (rg : List (Nat × Nat × Bool))

/-- The operation that a group issues to the matrix engine. -/
def State.mxOp : MxOp :=
  ⟨G.gctx, G.uid, T.slot, T.uid, s.fOf G, s.asidOf G, G.mx.issued + 1#32, cmd, slot, bad, bs, rg, false, 0#8, 0#5, [], none⟩

/-- The state with an operation in the engine's queue, before its slot is in use. -/
def State.mxQueued : State :=
  let s1 := (s.issueCmd G .mx cmd.scope).2
  { s1 with mx := { s1.mx with
    count := s1.mx.count + 1
    lease := s1.leaseOf G.uid
    ops := s1.mx.ops ++ [s.mxOp G T cmd slot bad bs rg]
    fifo := s1.mx.fifo.filter fun u => u != G.uid } }

/-- The state with the operation's slot in use by the group. -/
def State.slotUsed (t : State) : State := match slot with
  | some n => t.onTeam T.uid (·.useSlot G.uid n)
  | none => t

theorem mxIssue_eq : s.mxIssue c G T cmd slot bad bs rg = (((s.mxQueued G T cmd slot bad bs rg).slotUsed G T slot).spoil G).advance c := by
  have hseq := issueCmd_seq (s := s) (G := G) .mx cmd.scope
  unfold State.mxIssue State.mxQueued State.mxOp
  rw [show G.mx = G.cls .mx from rfl, ← hseq]
  cases slot <;> rfl

variable {s c G T cmd slot bad bs rg}

@[simp] theorem slotUsed_mx (t : State) : (t.slotUsed G T slot).mx = t.mx := by cases slot <;> rfl
@[simp] theorem slotUsed_dram (t : State) : (t.slotUsed G T slot).dram = t.dram := by cases slot <;> rfl
@[simp] theorem slotUsed_scr (t : State) : (t.slotUsed G T slot).scr = t.scr := by cases slot <;> rfl
@[simp] theorem slotUsed_now (t : State) : (t.slotUsed G T slot).now = t.now := by cases slot <;> rfl
@[simp] theorem slotUsed_group (t : State) (g : Nat) : (t.slotUsed G T slot).group g = t.group g := by cases slot <;> rfl

/-- The team after the operation's slot is in use. -/
def Team.usedBy (T : Team) (uid : Nat) (slot : Option Nat) : Team := slot.elim T (T.useSlot uid)

theorem slotUsed_team {t : State} (hT : t.team T.slot = some T) : (t.slotUsed G T slot).team T.slot = some (T.usedBy G.uid slot) := by
  cases slot with
  | none => exact hT
  | some n => exact onTeam_team hT fun U => rfl

end MxIssue

theorem matrixIssue : Claim.MatrixIssue := by
  intro s c G T cmd slot bad bs rg hG hslot hT haccs hn t
  have hG' : s.group G.gctx = some G := by rw [group_gctx hG]; exact hG
  have hgroup : ((s.mxQueued G T cmd slot bad bs rg).slotUsed G T slot).group c.gctx = some (G.issuedOne .mx) := by
    rw [slotUsed_group, ← group_gctx hG]
    exact issueCmd_group .mx cmd.scope hG'
  have hteam : ((s.mxQueued G T cmd slot bad bs rg).slotUsed G T slot).team T.slot = some (T.usedBy G.uid slot) :=
    slotUsed_team ((issueCmd_team ..).trans hT)
  have hnow : ((s.mxQueued G T cmd slot bad bs rg).slotUsed G T slot).now = s.now := (slotUsed_now _).trans (issueCmd_now ..)
  have ht : t = (((s.mxQueued G T cmd slot bad bs rg).slotUsed G T slot).spoil G).advance c := mxIssue_eq ..
  have hmx : t.mx = { s.mx with
      count := s.mx.count + 1, lease := s.leaseOf G.uid
      ops := s.mx.ops ++ [s.mxOp G T cmd slot bad bs rg], fifo := s.mx.fifo.filter fun u => u != G.uid } := by
    rw [ht, advance_mx, spoil_mx, slotUsed_mx, State.mxQueued, leaseOf_issueCmd .mx cmd.scope hG', issueCmd_mx]
  refine ⟨by rw [ht]; exact issued_of hslot hgroup hteam hnow, ⟨s.mxOp G T cmd slot bad bs rg, ?_⟩, ?_⟩
  · rw [hmx]
    exact ⟨rfl, rfl, rfl, rfl, rfl, rfl, rfl, rfl, rfl, rfl⟩
  · rw [hmx]
    refine ⟨rfl, rfl, rfl, rfl, rfl, fun n hsome => ?_, ?_, ?_⟩
    · subst hsome
      rw [ht, advance_team, spoil_team _ hslot hteam, Option.map_some]
      exact congrArg some (useSlot_acc (haccs ▸ hn n rfl))
    · rw [ht, advance_dram, spoil_dram, slotUsed_dram]
      exact issueCmd_dram ..
    · rw [ht, advance_scr, spoil_scr, slotUsed_scr]
      exact issueCmd_scr ..

/-- Settles O34: by the operation that the owner issues, and by what its acceptance adds to the engine's queue. -/
theorem matrixIssueResults : Obligations.MatrixIssueResults := ⟨matrixOperations, matrixIssue⟩

end Sys2Proof.Machine
end

section
/-! PROOFS. Tile copies, bank runs and chains are accepted (spec/14 R317, R323, R325; spec/15 R342 to R344; spec/10 R226, R232) (O35). -/
namespace Sys2Proof.Machine

/-! ## Tile copies (R317, R342) -/

/-- The words of a tile copy's operand that name the corner of its tile do not fit their fields (R342). -/
def oddCopy (p q : Nat) : Bool := decide (2 ^ 28 ≤ p) || decide (2 ^ 24 ≤ q) || decide (6 ≤ bits p 26 24)

/-- Four words hold the pair that their first two hold. -/
theorem pairVal_four (G : Group) (l : Nat) (a : BitVec 7) : (pairVal (G.readWords l a.toNat 4)).toNat = G.pair l a := pairVal_toNat G l a

/-- What a tile copy's record gives: nothing is read where the operands are out of range. -/
def State.copyRecord (s : State) (G : Group) (l va p q : Nat) : BitVec 8 × List Byte × State :=
  if oddCopy p q then (0x60#8, [], s) else s.recordAt G (s.laneAgent G l).id va

/-- The ranges of scratch that a tile copy writes, or reads (R318). -/
def copyRanges (T : Team) (back : Bool) (so : Nat) (bad : BitVec 8) (bs : List Byte) : List (Nat × Nat × Bool) :=
  let r := tileRec bs
  let e := T.scrBase + so + r.tile1 * r.pitch
  if bad ≠ 0#8 ∨ recordCheck bs ≠ 0 then [] else (T.scrBase + so, e, !back) :: (if r.scm = 0 then [] else [(e, e + r.scaleBytes, !back)])

/-- The tile copy that a group issues, by its operands and what its record gave in the state u. -/
def tileCopyOp (s u : State) (G : Group) (T : Team) (back : Bool) (so va p q : Nat) (bad : BitVec 8) (bs : List Byte) : TcOp :=
  ⟨u.tcs.foldl (fun m x => max m (x.id + 1)) 0, G.gctx, G.uid, T.slot, T.uid, s.fOf G, s.asidOf G, decide (G.level = .U), G.tc.issued + 1#32, back,
    BitVec.ofNat 64 va, p % 2 ^ 24, q % 2 ^ 24, bits p 26 24, bitAt p 27, bad, bs, so, copyRanges T back so bad bs, false, 0#8, [], [], []⟩

/-- The state with a tile copy at the end of the unit's operations. -/
def State.copyQueued (u : State) (G : Group) (scope : Nat) (op : TcOp) : State :=
  let t := (u.issueCmd G .tc scope).2
  { t with tcs := t.tcs ++ [op] }

section TileCopy
variable {s : State} {c : Cur} {G : Group} {T : Team} {a : BitVec 7} {l : Nat} (back : Bool) (o : BitVec 14) (h : CmdReady s c G T [(a, 4)] l)
include h

theorem tileCopy_full (hfull : 32 ≤ s.tcs.length) : tileCopy back a o s = .next (s.retryUnit c .engine) := by
  rw [tileCopy, cmdUnit_ready h]
  simp only [teamOf_ready h.toTeamReady, if_pos hfull]

/-- The number that a lane reads from a register. -/
def Group.quadNat (G : Group) (l : Nat) (a : BitVec 7) (i : Nat) : Nat := ((G.readWords l a.toNat 4).getD i pzero).val.toNat

theorem tileCopy_accepts (hclean : cleanIn G l a 4) (hroom : s.tcs.length < 32) {bad : BitVec 8} {bs : List Byte} {s1 : State}
    (hrec : s.copyRecord G l (G.pair l a) (G.quadNat l a 2) (G.quadNat l a 3) = (bad, bs, s1))
    (hheld : oddCopy (G.quadNat l a 2) (G.quadNat l a 3) = false → s.recordHolds G (G.pair l a) = []) : tileCopy back a o s
    = .next (((s1.copyQueued G (bits (G.quadNat l a 2) 26 24)
        (tileCopyOp s s1 G T back (o.toNat * 64) (G.pair l a) (G.quadNat l a 2) (G.quadNat l a 3) bad bs)).spoil G).advance c) := by
  rw [cleanIn] at hclean
  rw [tileCopy, cmdUnit_ready h]
  simp only [teamOf_ready h.toTeamReady, if_neg (Nat.not_le.2 hroom), hclean, Bool.false_eq_true, if_false, pairVal_four]
  cases hodd : oddCopy (G.quadNat l a 2) (G.quadNat l a 3) with
  | true =>
    rw [State.copyRecord, hodd, if_pos rfl] at hrec
    obtain ⟨rfl, rfl, rfl⟩ : _ ∧ _ ∧ _ := by simpa using hrec
    rw [oddCopy, Group.quadNat, Group.quadNat] at hodd
    simp only [hodd, if_true, issueCmd_seq, issueCmd_tcs, State.copyQueued]
    rfl
  | false =>
    rw [State.copyRecord, hodd, if_neg Bool.false_ne_true] at hrec
    have hfree := hheld hodd
    rw [oddCopy, Group.quadNat, Group.quadNat] at hodd
    simp only [hodd, hrec, Bool.false_eq_true, if_false, recordThen_free hfree, issueCmd_seq, issueCmd_tcs, State.copyQueued]
    rfl

end TileCopy

theorem oddCopy_iff (p q : Nat) : oddCopy p q = true ↔ 2 ^ 28 ≤ p ∨ 2 ^ 24 ≤ q ∨ 6 ≤ p / 2 ^ 24 % 8 := by
  have hbits : bits p 26 24 = p / 2 ^ 24 % 8 := rfl
  simp only [oddCopy, hbits, Bool.or_eq_true, decide_eq_true_iff, or_assoc]

theorem exec_tileCopy (back : Bool) (a : BitVec 7) (o : BitVec 14) (s : State) :
    exec (if back then .tcopyr a o else .tcopy a o) s = tileCopy back a o s := by
  cases back <;> rfl

/-- The state t is that after a command whose operation, or run, has been put in its unit's queue. -/
theorem issued_copyQueued {s : State} {c : Cur} {G : Group} {T : Team} {scope : Nat} {op : TcOp} (hG : s.group c.gctx = some G)
    (hslot : G.team = some T.slot) (hT : s.team T.slot = some T) :
    Issued s (((s.copyQueued G scope op).spoil G).advance c) c G T .tc := by
  have hgctx := group_gctx hG
  refine issued_of (U := T) hslot ?_ ((issueCmd_team ..).trans hT) (issueCmd_now ..)
  rw [← hgctx] at hG ⊢
  exact issueCmd_group .tc scope hG

/-! ## Bank runs (R343) -/

/-- The runs of the core, or of the spar core, from which a group issues. -/
def State.runsBeside (s : State) (G : Group) : List Run := s.bank.runs.filter fun r => decide (r.spar = G.sparAt)

/-- The grid's launch entry that a run of a team names (R343). -/
def State.entryOf (s : State) (T : Team) : Nat := match s.grid T.grid with
  | some g => g.entryVa.toNat
  | none => 0

/-- The run that a group issues. -/
def bankRun (s : State) (G : Group) (T : Team) (p : BitVec 1) (scope va : Nat) : Run :=
  ⟨s.bank.nextRun, G.gctx, G.uid, T.uid, G.share, s.fOf G, s.asidOf G, decide (G.level = .U), G.bk.issued + 1#32, scope, p == 1#1, va,
    G.sparAt, s.entryOf T, T.linear, false, 0#8, [], [], 0, [], [], false, 0#16⟩

/-- The state with a run at the end of the runs. -/
def State.runQueued (s : State) (G : Group) (scope : Nat) (r : Run) : State :=
  let t := (s.issueCmd G .bk scope).2
  { t with bank := { t.bank with runs := t.bank.runs ++ [r], nextRun := t.bank.nextRun + 1 } }

theorem issued_runQueued {s : State} {c : Cur} {G : Group} {T : Team} {scope : Nat} {r : Run} (hG : s.group c.gctx = some G)
    (hslot : G.team = some T.slot) (hT : s.team T.slot = some T) :
    Issued s (((s.runQueued G scope r).spoil G).advance c) c G T .bk := by
  have hgctx := group_gctx hG
  refine issued_of (U := T) hslot ?_ ((issueCmd_team ..).trans hT) (issueCmd_now ..)
  rw [← hgctx] at hG ⊢
  exact issueCmd_group .bk scope hG

section BankRun
variable {s : State} {c : Cur} {G : Group} {T : Team} {a : BitVec 7} {l va : Nat} (p : BitVec 1) (sc : BitVec 3)
  (h : Ready s c G (ctlUnit false [(a, 2)])) (hlow : lowest (G.k0 c) = some l) (hslot : G.team = some T.slot) (hT : s.team T.slot = some T)
include h hlow hslot hT

theorem bkrun_full (hfull : 64 ≤ (s.runsBeside G).length) : exec (.bkrun a p sc) s = .next (s.retryUnit c .engine) := by
  refine (cmdUnit_open h hlow (.inr ⟨_, hslot⟩) _).trans ?_
  simp only [teamOf_eq hslot hT]
  exact congrArg _ (if_pos hfull)

variable (hea : addrIs G 1 a l 0 va) (hva : va < 2 ^ 56) (hroom : (s.runsBeside G).length < 64)
include hea hva hroom

theorem bkrun_misaligned (halign : va % 64 ≠ 0) : exec (.bkrun a p sc) s = .next (s.faultAll G c (fltAlign va) false) := by
  rw [State.runsBeside] at hroom
  refine (cmdUnit_open h hlow (.inr ⟨_, hslot⟩) _).trans ?_
  simp only [teamOf_eq hslot hT, if_neg (Nat.not_le.2 hroom), ea_of_addrIs (by decide) hea, if_neg (Nat.not_le.2 hva), if_pos halign]

theorem bkrun_issues (halign : va % 64 = 0) :
    exec (.bkrun a p sc) s = .next (((s.runQueued G sc.toNat (bankRun s G T p sc.toNat va)).spoil G).advance c) := by
  rw [State.runsBeside] at hroom
  refine (cmdUnit_open h hlow (.inr ⟨_, hslot⟩) _).trans ?_
  simp only [teamOf_eq hslot hT, if_neg (Nat.not_le.2 hroom), ea_of_addrIs (by decide) hea, if_neg (Nat.not_le.2 hva),
    if_neg (not_not_intro halign), issueCmd_seq, issueCmd_bank, State.runQueued]
  rfl

end BankRun

theorem copyAndRunIssue : Claim.CopyAndRunIssue := by
  intro a o p sc s s1 c G T l va bad bs w odd
  have hodd : oddCopy (G.quadNat l a 2) (G.quadNat l a 3) = true ↔ odd := oddCopy_iff ..
  refine ⟨fun h hclean => ⟨fun hroom hbad hrec hG hT back => ?copies, fun hfull => ?full⟩,
    fun h hlow hslot hT hea hva => ⟨fun halign hroom => ?runs, fun halign hroom => bkrun_misaligned p sc h hlow hslot hT hea hva hroom halign,
      fun hfull => ⟨_, bkrun_full p sc h hlow hslot hT hfull, heldAt_holdAt h.group rfl _ _⟩⟩⟩
  case copies =>
    have hcopy : s.copyRecord G l (G.pair l a) (G.quadNat l a 2) (G.quadNat l a 3) = (bad, bs, s1) := by
      rw [State.copyRecord]
      split
      next hout =>
        obtain ⟨rfl, rfl, rfl⟩ := hbad (hodd.1 hout)
        rfl
      next hin => exact (hrec (mt hodd.2 hin)).2
    have hfree : oddCopy (G.quadNat l a 2) (G.quadNat l a 3) = false → s.recordHolds G (G.pair l a) = [] :=
      fun hin => (hrec (mt hodd.2 (ne_true_of_eq_false hin))).1
    have hrecord : (BitVec.ofNat 64 (G.pair l a)).toNat = G.pair l a := by
      rw [← pairVal_toNat, BitVec.ofNat_toNat, BitVec.setWidth_eq]
    refine ⟨_, tileCopyOp s s1 G T back (o.toNat * 64) (G.pair l a) (G.quadNat l a 2) (G.quadNat l a 3) bad bs,
      (exec_tileCopy ..).trans (tileCopy_accepts back o h hclean hroom hcopy hfree), issued_copyQueued hG h.slot hT, ?_, rfl, hrecord, rfl, rfl,
      Nat.mul_comm .., rfl, rfl, rfl, rfl, rfl, ?_, ?_⟩
    · rw [advance_tcs, spoil_tcs, State.copyQueued, issueCmd_tcs]
    · rw [advance_scr, spoil_scr]; exact issueCmd_scr ..
    · rw [advance_dram, spoil_dram]; exact issueCmd_dram ..
  case full =>
    exact ⟨_, tileCopy_full false o h hfull, heldAt_holdAt h.group rfl _ _, retryUnit_tcs .., tileCopy_full true o h hfull⟩
  case runs =>
    refine ⟨_, bankRun s G T p sc.toNat va, bkrun_issues p sc h hlow hslot hT hea hva hroom halign, issued_runQueued h.group hslot hT, ?_,
      rfl, rfl, rfl, rfl, rfl, rfl, rfl, ?_⟩
    · rw [advance_bank, spoil_bank, State.runQueued, issueCmd_bank]
    · rw [advance_dram, spoil_dram]; exact issueCmd_dram ..

/-! ## Chains (R325, R344) -/

section Chain
variable {s : State} {c : Cur} {G : Group} {l : Nat} {names : List (BitVec 7 × Nat)} (h : Ready s c G (ctlUnit false names))
  (hlow : lowest (G.k0 c) = some l) (k : Cur → Group → Nat → Nat → ChainEng → State)
include h hlow

theorem chainUnit_owned {i : Nat} {e : ChainEng} (hi : s.engOf G = some i) (he : s.eng i = some e) :
    chainUnit names s k = .next (k c G l i e) := by
  rw [chainUnit, cmdUnit_open h hlow (.inl rfl)]
  simp only [hi, he]

theorem chainUnit_unowned (hnone : s.engOf G = none) : chainUnit names s k = .next (s.trapUnit G c 0x01#8 0) := by
  rw [chainUnit, cmdUnit_open h hlow (.inl rfl)]
  simp only [hnone]

end Chain

/-- The head of an engine once a tail is published. -/
def ChainEng.headAfter (e : ChainEng) (va : BitVec 64) : BitVec 64 := if e.head = 0#64 ∧ e.st ≠ 7 then va else e.head

/-- The engine starts in IDLE, if it has a head, and goes on in WAIT. -/
theorem publish_eq (e : ChainEng) (va : BitVec 64) : e.publish va = { e with
    tail := va
    head := e.headAfter va
    st := if (e.st = 0 ∧ e.headAfter va ≠ 0#64) ∨ e.st = 5 then 1 else e.st
    off := if e.st = 0 ∧ e.headAfter va ≠ 0#64 then 0 else if e.st = 5 then 1 else e.off } := by
  change (if e.st = 0 ∧ e.headAfter va ≠ 0#64 then { e with tail := va, head := e.headAfter va, st := 1, off := 0 }
    else if e.st = 5 then { e with tail := va, head := e.headAfter va, st := 1, off := 1 } else { e with tail := va, head := e.headAfter va }) = _
  by_cases hidle : e.st = 0 ∧ e.headAfter va ≠ 0#64
  · simp only [if_pos hidle, if_pos (Or.inl hidle)]
  · by_cases hwait : e.st = 5
    · simp only [if_neg hidle, if_pos hwait, if_pos (Or.inr hwait)]
    · simp only [if_neg hidle, if_neg hwait, if_neg (not_or.2 ⟨hidle, hwait⟩)]

theorem chainResults : Claim.ChainResults := by
  intro a s c G l va i e hlow
  refine ⟨fun h hea hva halign hi he => ⟨e.publish (BitVec.ofNat 64 va), ?_, ?_⟩,
    fun h hi he => chainUnit_owned h hlow _ hi he,
    fun hnone => ⟨fun h => chainUnit_unowned h hlow _ hnone, fun h => chainUnit_unowned h hlow _ hnone⟩⟩
  · refine (chainUnit_owned h hlow _ hi he).trans ?_
    simp only [ea_of_addrIs (by decide) hea, if_neg (Nat.not_le.2 hva), if_neg (not_not_intro halign)]
    rfl
  · rw [publish_eq]
    exact ⟨rfl, rfl, rfl, rfl⟩

/-- Settles O35: by the copy or the run that stands at the end of its unit's queue, and by the tail that the engine takes. -/
theorem commandIssueResults : Obligations.CommandIssueResults := ⟨copyAndRunIssue, chainResults⟩

end Sys2Proof.Machine
end

section
/-! PROOFS. Ownership of the matrix engine (spec/14 R308 to R310; spec/15 R331, R332) (O33). -/
namespace Sys2Proof.Machine

/-! ## A group asks for the engine (R308) -/

section Ask
variable {s : State} {c : Cur} {G : Group}

theorem mxAsk_room (h : s.mxFull G.uid = false) : s.mxAsk c G = { s with mx := askedFor s.mx G.uid } := by
  rw [State.mxAsk, h, if_neg Bool.false_ne_true]
  rfl

/-- A group that waits for a place in the queue changes only who waits. -/
theorem mxWait_eq (s : State) (c : Cur) (G : Group) : ∃ ws, s.mxWait c G = { s with mx := { s.mx with waiting := ws } } := by
  unfold State.mxWait
  split
  · exact ⟨s.mx.waiting, rfl⟩
  · exact ⟨_, rfl⟩

/-- A free engine with nobody queued is granted by a swap (R309). -/
theorem askedFor_free {m : Matrix} (u : Nat) (hst : m.st = .free) (hfifo : m.fifo = []) : (askedFor m u).st = .swap none (some u) := by
  simp [askedFor, Matrix.ask, hst, hfifo]

end Ask

/-! ## `macq` (R331) -/

section Macq
variable {s s1 : State} {c : Cur} {G : Group} {T : Team} {a : BitVec 7} {l va : Nat} {ps : List (Nat × Nat)} (h : CmdReady s c G T [(a, 2)] l)
  (hea : addrIs G 1 a l 0 va) (hpages : s.areaPages G va (List.range 35) = (none, ps, s1)) (halign : va % 4096 = 0)

include h hea halign

theorem macq_waits (hwalks : areaWalks s G va ≠ []) :
    exec (.macq a) s = .next ((s.holdReqs (s.holder G) (areaWalks s G va)).retryUnit c .engine) := by
  refine (cmdUnit_ready h ..).trans ?_
  rw [areaWalks, areaPageNums] at *
  simp only [ea_of_addrIs (by decide) hea, halign, if_true, if_pos hwalks]

include hpages

/-- The save area of a group, registered anew where it has none that stays. -/
def State.areasWith (s : State) (G : Group) (va : Nat) (ps : List (Nat × Nat)) : List SaveArea :=
  if s.mx.areas.any (fun x => x.uid == G.uid && (x.image.isSome || s.mx.wants G.uid)) then s.mx.areas
  else s.mx.areas.filter (fun x => x.uid != G.uid) ++ [⟨G.uid, va, s.fOf G, s.asidOf G, ps, none, [], false⟩]

/-- With no walk in a bank and no fault, `macq` goes on with the state after the checks of its pages. -/
theorem macq_checked (hwalks : areaWalks s G va = []) : exec (.macq a) s = .next (
    if s1.mx.st = .owned G.uid ∧ ¬ s1.mx.leaving = true then (s1.spoil G).advance c
    else if s1.mxFull G.uid then (s1.mxWait c G).retryUnit c .engine
    else (({ s1.mxAsk c G with mx := { (s1.mxAsk c G).mx with areas := s1.areasWith G va ps } } : State).spoil G).advance c) := by
  refine (cmdUnit_ready h ..).trans ?_
  rw [areaWalks, areaPageNums] at hwalks
  simp only [ea_of_addrIs (by decide) hea, halign, if_true, hwalks, ne_eq, not_true_eq_false, if_false, hpages]
  rfl

end Macq

/-! ## `mrel` (R332) -/

/-- The slots of a mask that a group gives up. -/
theorem givenUp_eq (G : Group) (m : BitVec 8) : (fun n (x : AccSlot) => if m.getLsbD n then x.drop G.uid else x) = givenUp G m := by
  funext n x
  by_cases hm : m.getLsbD n = true <;> simp [givenUp, AccSlot.drop, hm]

theorem mrel_releases {s : State} {c : Cur} {G : Group} {T : Team} {l : Nat} (h : CmdReady s c G T [] l) (e : BitVec 1) (m : BitVec 8) :
    exec (.mrel e m) s = .next ((({ s.setTeam { T with accs := T.accs.mapIdx (givenUp G m) } with
      mx := if e = 1#1 then s.mx.leave G.uid else s.mx } : State).spoil G).advance c) := by
  refine (cmdUnit_ready h ..).trans ?_
  simp only [teamOf_ready h.toTeamReady, givenUp_eq]
  by_cases he : e = 1#1
  · simp only [if_pos he]; rfl
  · simp only [if_neg he]; rfl

section Leave
variable (m : Matrix) (g : Nat)

theorem settle_eq : ∃ st lv pl, m.settle = { m with st := st, leaving := lv, plost := pl } := by
  unfold Matrix.settle
  split
  · split
    · exact ⟨_, _, _, rfl⟩
    · exact ⟨m.st, m.leaving, m.plost, rfl⟩
  · exact ⟨m.st, m.leaving, m.plost, rfl⟩

/-- A group that leaves the engine is in no queue and has no area, whatever becomes of the engine. -/
theorem leave_eq : ∃ st lv pl, m.leave g = { m with
    fifo := m.fifo.filter (· != g), areas := m.areas.filter (fun x => x.uid != g), waiting := m.waiting.filter (fun p => p.2 != g)
    st := st, leaving := lv, plost := pl } := by
  unfold Matrix.leave
  dsimp only
  split
  · split
    · obtain ⟨st, lv, pl, hm⟩ := settle_eq { m with
        fifo := m.fifo.filter (· != g), areas := m.areas.filter (fun x => x.uid != g), waiting := m.waiting.filter (fun p => p.2 != g), leaving := true }
      exact ⟨st, lv, pl, hm⟩
    · exact ⟨m.st, m.leaving, m.plost, rfl⟩
  · split
    · exact ⟨m.st, true, m.plost, rfl⟩
    · exact ⟨m.st, m.leaving, m.plost, rfl⟩
  · exact ⟨m.st, m.leaving, m.plost, rfl⟩

theorem leave_queue : (m.leave g).fifo = m.fifo.filter (· != g) ∧ (m.leave g).areas = m.areas.filter (fun x => x.uid != g) := by
  obtain ⟨st, lv, pl, hm⟩ := leave_eq m g
  rw [hm]
  exact ⟨rfl, rfl⟩

variable {m g}

theorem leave_owner (hst : m.st = .owned g) :
    (m.ops = [] → (m.leave g).st = .clear) ∧ (m.ops ≠ [] → (m.leave g).st = .owned g ∧ (m.leave g).leaving = true) := by
  refine ⟨fun hdone => ?_, fun hbusy => ?_⟩
  · simp [Matrix.leave, Matrix.settle, hst, hdone]
  · simp [Matrix.leave, Matrix.settle, hst, hbusy]

theorem leave_other {x : Nat} (hst : m.st = .owned x) (hx : x ≠ g) : (m.leave g).st = m.st ∧ (m.leave g).leaving = m.leaving := by
  simp [Matrix.leave, hst, hx]

end Leave

theorem matrixOwnership : Claim.MatrixOwnership := by
  intro a o f n e m s s1 c G T l va ps
  refine ⟨fun h hea hpages halign => ⟨macq_waits h hea halign, fun hwalks => ?macq⟩, fun hnone => ⟨fun h => ⟨mxUnit_trap h _ hnone, mxUnit_trap h _ hnone⟩,
    fun h => mxUnit_trap h _ hnone, fun h => ⟨mxUnit_trap h _ hnone, mxUnit_trap h _ hnone⟩⟩, fun harea hother hroom h => ?ask,
    fun h => mrel_releases h e m, (leave_queue ..).1, (leave_queue ..).2, leave_owner, fun x => leave_other⟩
  case macq =>
    have hgo := macq_checked h hea hpages halign hwalks
    have hother : s1.mx.st ≠ .owned G.uid ∨ s1.mx.leaving = true → ¬ (s1.mx.st = .owned G.uid ∧ ¬ s1.mx.leaving = true) :=
      fun hnot hown => hnot.elim (· hown.1) hown.2
    refine ⟨fun hown => ?_, fun hnot => ⟨fun hroom => ?_, askedFor_free _, fun hfull => ?_⟩⟩
    · rw [hgo, if_pos ⟨hown.1, by simp [hown.2]⟩]
    · rw [hgo, if_neg (hother hnot), hroom, if_neg Bool.false_ne_true, mxAsk_room hroom]
      rfl
    · obtain ⟨ws, hws⟩ := mxWait_eq s1 c G
      rw [hgo, if_neg (hother hnot), if_pos hfull, hws]
      exact ⟨_, rfl, retryUnit_cur .., by rw [retryUnit_mx], by rw [retryUnit_mx]⟩
  case ask =>
    refine ⟨_, mxUnit_ask h _ harea hother, ?_, ?_⟩
    · rw [mxAsk_room hroom]
      exact heldAt_holdAt (u := { s with mx := askedFor s.mx G.uid }) h.group rfl _ _
    · rw [mxAsk_room hroom, retryUnit_mx]

end Sys2Proof.Machine
end

section
/-! PROOFS. The accumulator ports and the status word of the matrix engine (spec/14 R307; spec/15 R334, R341) (O33). -/
namespace Sys2Proof.Machine

/-! ## Rows of a slot (R307) -/

/-- A row that has been put into a list of rows is the one that is found, and any other is found as before. -/
theorem find_putRow (rows : List (Nat × List PWord)) (m k : Nat) (r : List PWord) :
    (putRow rows m r).find? (fun p => p.1 == k) = if k = m then some (m, r) else rows.find? fun p => p.1 == k := by
  induction rows with
  | nil =>
    by_cases hk : k = m
    · simp [putRow, hk]
    · simp [putRow, hk, Ne.symm hk]
  | cons p rows ih =>
    rw [putRow]
    by_cases hk : k = m
    · subst hk
      grind
    · grind

theorem row_setRow (x : AccSlot) (m k : Nat) (r : List PWord) : (x.setRow m r).row k = if k = m then r else x.row k := by
  rw [AccSlot.row, AccSlot.setRow, find_putRow]
  split <;> rfl

/-- Every row of the slot has 128 words. -/
def AccSlot.Full (x : AccSlot) : Prop := ∀ m, (x.row m).length = 128

theorem full_of_rows {x : AccSlot} (h : ∀ p ∈ x.rows, p.2.length = 128) : x.Full := by
  intro m
  rw [AccSlot.row]
  cases hfind : x.rows.find? fun p => p.1 == m with
  | none => rfl
  | some p => exact h p (List.mem_of_find?_eq_some hfind)

/-! ## The words that a lane writes (R341) -/

/-- The slot after a lane has written its four words, from the row g on. -/
def AccSlot.putLane (ws : Nat → List PWord) (g : Nat) (x : AccSlot) (l : Nat) : AccSlot :=
  x.setRow (g + l / 32) ((x.row (g + l / 32)).mapIdx fun i w =>
    if 4 * (l % 32) ≤ i ∧ i < 4 * (l % 32) + 4 then (ws l).getD (i - 4 * (l % 32)) pzero else w)

section PutLane
variable {ws : Nat → List PWord} {g : Nat} {x : AccSlot}

theorem putLane_full (h : x.Full) (l : Nat) : (x.putLane ws g l).Full := by
  intro m
  rw [AccSlot.putLane, row_setRow]
  split
  · rw [List.length_mapIdx]; exact h _
  · exact h m

/-- Word i of row m belongs to lane number 32 (m - g) + i / 4. -/
theorem row_putLane (h : x.Full) (l m : Nat) {i : Nat} (hi : i < 128) : ((x.putLane ws g l).row m).getD i pzero
    = if g ≤ m ∧ 32 * (m - g) + i / 4 = l then (ws l).getD (i % 4) pzero else (x.row m).getD i pzero := by
  rw [AccSlot.putLane, row_setRow]
  by_cases hrow : m = g + l / 32
  · have hlen := h m
    subst hrow
    rw [if_pos rfl]
    by_cases hmine : 4 * (l % 32) ≤ i ∧ i < 4 * (l % 32) + 4
    · have hword : i - 4 * (l % 32) = i % 4 := by omega
      rw [if_pos (by omega)]
      simp [List.getD_eq_getElem?_getD, hlen, hi, hmine, hword]
    · rw [if_neg (by omega)]
      simp [List.getD_eq_getElem?_getD, hlen, hi, hmine]
  · rw [if_neg hrow, if_neg (by omega)]

/-- The words of a slot after some lanes have written theirs. -/
theorem row_putLanes (ls : List Nat) (h : x.Full) (m : Nat) {i : Nat} (hi : i < 128) : ((ls.foldl (AccSlot.putLane ws g) x).row m).getD i pzero
    = if g ≤ m ∧ 32 * (m - g) + i / 4 ∈ ls then (ws (32 * (m - g) + i / 4)).getD (i % 4) pzero else (x.row m).getD i pzero := by
  induction ls generalizing x with
  | nil => simp
  | cons l ls ih =>
    rw [List.foldl_cons, ih (putLane_full h l), row_putLane h l m hi]
    by_cases hlast : g ≤ m ∧ 32 * (m - g) + i / 4 ∈ ls
    · rw [if_pos hlast, if_pos ⟨hlast.1, List.mem_cons_of_mem _ hlast.2⟩]
    · rw [if_neg hlast]
      by_cases hmine : g ≤ m ∧ 32 * (m - g) + i / 4 = l
      · rw [if_pos hmine, if_pos ⟨hmine.1, hmine.2 ▸ List.mem_cons_self⟩, hmine.2]
      · rw [if_neg hmine, if_neg]
        rintro ⟨hrow, hmem⟩
        rcases List.mem_cons.1 hmem with hlane | hlane
        · exact hmine ⟨hrow, hlane⟩
        · exact hlast ⟨hrow, hlane⟩

theorem putLanes_holder (ls : List Nat) : (ls.foldl (AccSlot.putLane ws g) x).holder = x.holder := by
  induction ls generalizing x with
  | nil => rfl
  | cons l ls ih => exact ih

end PutLane

/-! ## A unit of the ports (R341) -/

/-- The lanes of a unit, each with its row and the place of its words in it. -/
def portPlaces (G : Group) (c : Cur) (g : Nat) : List (Nat × Nat × Nat) := (lanesOf G (G.k0 c)).map fun l => (l, g + l / 32, 4 * (l % 32))

theorem run_plainUnit {G : Group} {c : Cur} {names : List (BitVec 7 × Nat)} (hprefix : (plainUnit names).prefixOk c = true) :
    (plainUnit names).run G c = G.k0 c := by
  have hnone : c.pfx = none := by
    cases hp : c.pfx with
    | none => rfl
    | some w => simp [Unit.prefixOk, plainUnit, hp] at hprefix
  have hkm : pfxKm c = 0 := by rw [pfxKm, hnone]; rfl
  rw [Unit.run, Group.run, if_pos hkm]
  exact ite_self _

theorem prefixOk_plainUnit {s : State} {c : Cur} {G : Group} {T : Team} {names : List (BitVec 7 × Nat)} {l : Nat} (h : CmdReady s c G T names l) :
    (plainUnit names).prefixOk c = true :=
  (check_eq_none_iff.1 h.check).1

section AccUnit
variable {s : State} {c : Cur} {G : Group} {T : Team} {names : List (BitVec 7 × Nat)} {l n : Nat} {k : BitVec 4} {write : Bool}
  (h : CmdReady s c G T names l) (hclean : (G.unif.getD k.toNat pzero).poison = false) (d : Dst)
  (act : Team → Group → List (Nat × Nat × Nat) → State → List (Nat × LaneOut) × State)
include h hclean

theorem accUnit_conflicts (hother : (T.acc n).other G.uid = true) :
    accUnit (plainUnit names) d k n write act s = .next (s.trapEach G c 0x16#8 0 c.unitPc) := by
  refine (cmdUnit_ready h ..).trans ?_
  simp only [teamOf_ready h.toTeamReady, hclean, hother, Bool.false_eq_true, if_false, if_true]

theorem accUnit_acts (hmine : (T.acc n).other G.uid = false) (hidle : (T.acc n).users = 0)
    (hroom : (write && (T.acc n).holder.isNone && decide (8 ≤ s.accsHeld)) = false)
    (hrows : ∀ l ∈ lanesOf G (G.k0 c), (G.unif.getD k.toNat pzero).val.toNat + l / 32 < 256)
    {r : List (Nat × LaneOut) × State}
    (hact : act T G (portPlaces G c (G.unif.getD k.toNat pzero).val.toNat) { s with free := s.free + 1 } = r) :
    accUnit (plainUnit names) d k n write act s
      = .next ((if write then r.2.spoil G else r.2).retire G c (plainUnit names) d write r.1) := by
  have hbad : ((lanesOf G (G.k0 c)).map fun l => (l, (G.unif.getD k.toNat pzero).val.toNat + l / 32, 4 * (l % 32))).filter
      (fun p => decide (256 ≤ p.2.1)) = [] := by
    simpa [List.filter_eq_nil_iff] using hrows
  have hall : ((lanesOf G (G.k0 c)).map fun l => (l, (G.unif.getD k.toNat pzero).val.toNat + l / 32, 4 * (l % 32))).filter
      (fun p => decide (p.2.1 < 256) && !(0#64).getLsbD p.1) = portPlaces G c (G.unif.getD k.toNat pzero).val.toNat := by
    refine List.filter_eq_self.2 fun p hp => ?_
    obtain ⟨l, hl, rfl⟩ := List.mem_map.1 hp
    simpa using hrows l hl
  refine (cmdUnit_ready h ..).trans ?_
  simp only [teamOf_ready h.toTeamReady, hclean, hmine, hidle, hroom, Bool.false_eq_true, if_false, Nat.lt_irrefl, State.choose, hbad,
    List.isEmpty_nil, if_true, hall, hact, List.map_nil, List.nil_append]

end AccUnit

/-! ## `macrd` and `macwr` -/

/-- Each lane's four words of a slot. -/
def portRead (n : Nat) (T : Team) (_ : Group) (ps : List (Nat × Nat × Nat)) (t : State) : List (Nat × LaneOut) × State :=
  (ps.map fun p => (p.1, LaneOut.ok ((((T.acc n).row p.2.1).drop p.2.2).take 4) 0#5), t)

theorem exec_macrd (a : BitVec 7) (k : BitVec 4) (n : BitVec 3) (s : State) :
    exec (.macrd a k n) s = accUnit (plainUnit [(a, 4)]) (.regs a 4) k n.toNat false (portRead n.toNat) s := rfl

/-- The group's slot with the words that each lane writes. -/
def portWrite (a : BitVec 7) (n : Nat) (T : Team) (G : Group) (ps : List (Nat × Nat × Nat)) (t : State) : List (Nat × LaneOut) × State :=
  let put (x : AccSlot) (p : Nat × Nat × Nat) : AccSlot :=
    x.setRow p.2.1 ((x.row p.2.1).mapIdx fun i w => if p.2.2 ≤ i ∧ i < p.2.2 + 4 then (G.readWords p.1 a.toNat 4).getD (i - p.2.2) pzero else w)
  (ps.map fun p => (p.1, LaneOut.ok [] 0#5),
    if ps.isEmpty then t else t.setTeam (T.setAcc n (ps.foldl put { T.acc n with holder := some G.uid })))

theorem exec_macwr (a : BitVec 7) (k : BitVec 4) (n : BitVec 3) (s : State) :
    exec (.macwr a k n) s = accUnit (plainUnit [(a, 4)]) .none k n.toNat true (portWrite a n.toNat) s := rfl

theorem acc_setAcc (T : Team) {n : Nat} (x : AccSlot) (hn : n < T.accs.length) (j : Nat) : (T.setAcc n x).acc j = if j = n then x else T.acc j := by
  by_cases hj : j = n
  · subst hj
    simp [Team.setAcc, Team.acc, hn]
  · simp [Team.setAcc, Team.acc, hj, Ne.symm hj]

section Ports
variable {s : State} {c : Cur} {G : Group} {T : Team} {a : BitVec 7} {l : Nat} {k : BitVec 4} {n : BitVec 3} (h : CmdReady s c G T [(a, 4)] l)
  (hclean : (G.unif.getD k.toNat pzero).poison = false) (hidle : (T.acc n.toNat).users = 0)
  (hrows : ∀ l ∈ lanesOf G (G.k0 c), (G.unif.getD k.toNat pzero).val.toNat + l / 32 < 256)
include h hclean

theorem ports_conflict (hother : (T.acc n.toNat).other G.uid = true) :
    exec (.macrd a k n) s = .next (s.trapEach G c 0x16#8 0 c.unitPc) ∧ exec (.macwr a k n) s = .next (s.trapEach G c 0x16#8 0 c.unitPc) :=
  ⟨by rw [exec_macrd, accUnit_conflicts h hclean _ _ hother], by rw [exec_macwr, accUnit_conflicts h hclean _ _ hother]⟩

include hidle hrows

theorem macrd_reads (hmine : (T.acc n.toNat).other G.uid = false) : exec (.macrd a k n) s
    = .next (({ s with free := s.free + 1 } : State).laneDone G c (plainUnit [(a, 4)]) (.regs a 4)
      (fun l => (((T.acc n.toNat).row ((G.unif.getD k.toNat pzero).val.toNat + l / 32)).drop (4 * (l % 32))).take 4) 0#5) := by
  rw [exec_macrd, accUnit_acts h hclean _ _ hmine hidle rfl hrows rfl, portRead, portPlaces, List.map_map, ← run_plainUnit (prefixOk_plainUnit h)]
  exact congrArg _ ((retire_ok _ G c _ _ false _ fun _ => 0#5).trans (by rw [orFlags_zero]; rfl))

/-- The team's slot once the lanes of a unit have written it. -/
def Team.portSlot (T : Team) (G : Group) (c : Cur) (a : BitVec 7) (k : BitVec 4) (n : Nat) : AccSlot :=
  (lanesOf G (G.k0 c)).foldl (AccSlot.putLane (fun l => G.readWords l a.toNat 4) (G.unif.getD k.toNat pzero).val.toNat)
    { T.acc n with holder := some G.uid }

/-- The state in which the slot is written and the team no longer eligible, before the unit is over. -/
def State.portWritten (s : State) (G : Group) (T : Team) (x : AccSlot) (n : Nat) : State :=
  (({ s with free := s.free + 1 } : State).setTeam (T.setAcc n x)).spoil G

theorem macwr_writes (hopen : slotOpen s G T n.toNat) : exec (.macwr a k n) s
    = .next ((s.portWritten G T (T.portSlot G c a k n.toNat) n.toNat).laneDone G c (plainUnit [(a, 4)]) .none (fun _ => []) 0#5) := by
  have hmine : (T.acc n.toNat).other G.uid = false := by
    rcases hopen.2 with hheld | ⟨hnone, -⟩
    · simp [AccSlot.other, hheld]
    · simp [AccSlot.other, hnone]
  have hroom : (true && (T.acc n.toNat).holder.isNone && decide (8 ≤ s.accsHeld)) = false := by
    rcases hopen.2 with hheld | ⟨hnone, hfew⟩
    · simp [hheld]
    · simp [hfew]
  have hsome : (portPlaces G c (G.unif.getD k.toNat pzero).val.toNat).isEmpty = false := by
    have hl := (lowest_getLsbD h.low).2
    rw [portPlaces, List.isEmpty_map, List.isEmpty_eq_false_iff]
    exact List.ne_nil_of_mem (mem_lanesOf.2 ⟨k0_lt hl, hl⟩)
  have hwrite : portWrite a n.toNat T G (portPlaces G c (G.unif.getD k.toNat pzero).val.toNat) { s with free := s.free + 1 }
      = ((lanesOf G (G.k0 c)).map fun l => (l, LaneOut.ok [] 0#5),
        ({ s with free := s.free + 1 } : State).setTeam (T.setAcc n.toNat (T.portSlot G c a k n.toNat))) := by
    simp only [portWrite, hsome, Bool.false_eq_true, if_false]
    rw [portPlaces, List.map_map, List.foldl_map]
    rfl
  rw [exec_macwr, accUnit_acts h hclean _ _ hmine hidle hroom hrows hwrite, ← run_plainUnit (prefixOk_plainUnit h)]
  exact congrArg _ ((retire_ok _ G c _ _ true _ fun _ => 0#5).trans (by rw [orFlags_zero, run_plainUnit (prefixOk_plainUnit h)]; rfl))

omit hclean hidle hrows in
theorem portWritten_inUnit (x : AccSlot) (m : Nat) : InUnit (s.portWritten G T x m) c G := by
  refine ⟨?_, ?_⟩
  · rw [State.portWritten, spoil_cur]
    exact h.cur
  · rw [State.portWritten, spoil_group, group_setTeam]
    exact h.group

omit hclean hidle hrows in
/-- The team after the unit: the slot alone is another. -/
theorem portWritten_slots (x : AccSlot) {m : Nat} (hm : m < T.accs.length) (u : Unit) (d : Dst) (vals : Nat → List PWord) (fl : BitVec 5) :
    ∃ U, ((s.portWritten G T x m).laneDone G c u d vals fl).team T.slot = some U ∧ ∀ j, U.acc j = if j = m then x else T.acc j := by
  have hteam : (s.portWritten G T x m).team T.slot = some { T.setAcc m x with eligible := false, journal := [] } :=
    spoil_team _ h.slot (team_setTeam_self (s := { s with free := s.free + 1 }) (U := T.setAcc m x) h.team rfl)
  exact ⟨_, (laneDone_team (portWritten_inUnit h x m) u d vals fl h.home h.slot hteam T.slot).trans (if_pos rfl), acc_setAcc T x hm⟩

end Ports

theorem portSlot_holder (T : Team) (G : Group) (c : Cur) (a : BitVec 7) (k : BitVec 4) (n : Nat) : (T.portSlot G c a k n).holder = some G.uid :=
  putLanes_holder ..

theorem portSlot_row {T : Team} {n : Nat} (hlen : ∀ p ∈ (T.acc n).rows, p.2.length = 128) (G : Group) (c : Cur) (a : BitVec 7) (k : BitVec 4) (m : Nat)
    {i : Nat} (hi : i < 128) : ((T.portSlot G c a k n).row m).getD i pzero
    = if (G.unif.getD k.toNat pzero).val.toNat ≤ m ∧ 32 * (m - (G.unif.getD k.toNat pzero).val.toNat) + i / 4 < 64
        ∧ (G.k0 c).getLsbD (32 * (m - (G.unif.getD k.toNat pzero).val.toNat) + i / 4) = true
      then (G.readWords (32 * (m - (G.unif.getD k.toNat pzero).val.toNat) + i / 4) a.toNat 4).getD (i % 4) pzero else ((T.acc n).row m).getD i pzero := by
  have hlane (l : Nat) : l ∈ lanesOf G (G.k0 c) ↔ l < 64 ∧ (G.k0 c).getLsbD l = true :=
    mem_lanesOf.trans ⟨fun h => ⟨BitVec.lt_of_getLsbD h.2, h.2⟩, fun h => ⟨k0_lt h.2, h.2⟩⟩
  have hrow := row_putLanes (ws := fun l => G.readWords l a.toNat 4) (g := (G.unif.getD k.toNat pzero).val.toNat)
    (x := { T.acc n with holder := some G.uid }) (lanesOf G (G.k0 c)) (full_of_rows hlen) m hi
  simp only [hlane] at hrow
  exact hrow

/-! ## `mstat` (R334) -/

theorem mstat_reads {s : State} {c : Cur} {G : Group} {T : Team} {d : BitVec 7} {l : Nat} (h : CmdReady s c G T [(d, 1)] l) (sel : BitVec 3) :
    exec (.mstat d sel) s = .next ((withWord s G c d fun _ => clean (s.mstatWord G sel.toNat)).advance c) :=
  cmdUnit_ready h ..

theorem mstatWord_statuses (s : State) (G : Group) :
    s.mstatWord G 4 = (G.tc.bad.setWidth 8 ++ G.mx.bad.setWidth 8 : BitVec 16).setWidth 32 := by
  apply BitVec.eq_of_toNat_eq
  rw [BitVec.toNat_setWidth, BitVec.toNat_append, ← Nat.shiftLeft_add_eq_or_of_lt (BitVec.isLt _), Nat.shiftLeft_eq]
  simp only [State.mstatWord, BitVec.toNat_ofNat, BitVec.toNat_setWidth]
  omega

/-- The state of the engine as a group sees it. -/
def State.mxCode (s : State) (G : Group) : Nat := match s.mx.st with
  | .free => 0
  | .owned x => if x = G.uid then 1 else 2
  | .swap _ _ => 3
  | .clear => 4

theorem mxCode_lt (s : State) (G : Group) : s.mxCode G < 8 := by
  unfold State.mxCode
  split
  · decide
  · split <;> decide
  · decide
  · decide

theorem mstatWord_code (s : State) (G : Group) : (s.mstatWord G 0).toNat % 8 = s.mxCode G := by
  have hlt := mxCode_lt s G
  rw [State.mstatWord, BitVec.toNat_ofNat]
  · change (s.mxCode G + _ + _ + _ + _ * 2 ^ 20 + _ * 2 ^ 24) % 2 ^ 32 % 8 = s.mxCode G
    split_ifs <;> omega
  all_goals decide

theorem accumulatorPorts : Claim.AccumulatorPorts := by
  intro a k n s c G T l g u
  refine ⟨fun hclean hidle hrows h => ⟨macrd_reads h hclean hidle hrows, ports_conflict h hclean, fun hopen haccs hlen _ => ?write⟩, fun d sel h => ?status⟩
  case write =>
    have hn : n.toNat < T.accs.length := haccs ▸ n.isLt
    obtain ⟨U, hU, hslots⟩ := portWritten_slots h (T.portSlot G c a k n.toNat) hn (plainUnit [(a, 4)]) .none (fun _ => []) 0#5
    refine ⟨_, U, macwr_writes h hclean hidle hrows hopen, advance_cur .., hU, ?_, fun m i hi => ?_, fun j hj => ?_⟩
    · rw [hslots, if_pos rfl, portSlot_holder]
    · rw [hslots, if_pos rfl]
      exact portSlot_row hlen G c a k m hi
    · rw [hslots, if_neg hj]
  case status =>
    refine ⟨_, mstat_reads h sel, ?_, ?_, ?_, ?_, ?_⟩
    · rintro rfl; rfl
    · rintro rfl; rfl
    · rintro rfl; rfl
    · rintro rfl; exact mstatWord_statuses s G
    · rintro rfl; exact mstatWord_code s G

/-- Settles O33: by what `macq` and `mrel` make of the engine's queue and areas, and by the words that the lanes put into a slot. -/
theorem matrixOwnershipAndPorts : Obligations.MatrixOwnershipAndPorts := ⟨matrixOwnership, accumulatorPorts⟩

end Sys2Proof.Machine
end
